-- ==== Sys2Proof/Word.lean ====
section
/-!
DEFINITION. The word types of the LX-320 (R5, R13): a 32-bit register word, a byte, a register number.
-/
namespace Sys2Proof

/-- A 32-bit register word (R13). -/
abbrev Word := BitVec 32
/-- A 64-bit value: a pair of registers, an address, a counter (R13, R146). -/
abbrev DWord := BitVec 64
/-- One byte of memory (R5). -/
abbrev Byte := BitVec 8
/-- The number of a `v` register, 0 to 63 (R13, R54). -/
abbrev Reg := BitVec 6

end Sys2Proof
end

