-- ==== Sys2Proof/Config.lean ====
section
/-!
DEFINITION. What the manual leaves to the device: free values, as constants without a body. The step applies each to
the plain counter `State.fresh`, so nothing can be known of a value (R8). Also the architecture's fixed addresses.
-/
namespace Sys2Proof.Config

/-- A bit of an unpredictable value or choice (R8, R38): the counter, the thread and the register's number. -/
opaque freeBit : Nat → Nat → Nat → Bool
/-- Whether the device has kept a cached translation (R326): the counter, the page and the ASID. -/
opaque keepBit : Nat → Nat → Nat → Bool
/-- An unpredictable 32-bit word (R8): the counter and an index. -/
opaque freeWord : Nat → Nat → Word
/-- An unpredictable byte (R8). -/
opaque freeByte : Nat → Nat → Byte
/-- What a byte of device memory holds before anything has written it, by its address (R394). -/
opaque emptyByte : Nat → Byte
/-- The same for a byte of a company's scratchpad: the company, the draw of its start, the offset. -/
opaque scratchByte : Nat → Nat → Nat → Byte
/-- The same for a byte of a partition's sync-variable overflow area: the partition and the offset. -/
opaque syncByte : Nat → Nat → Byte
/-- A line of device memory under a key whose material no KEY command has loaded (R393): the key, the direction, the line, its bytes,
and the byte of the result. -/
opaque cipherByte : Nat → Bool → Nat → List Byte → Nat → Byte
/-- What another rank of a Sokerex group holds or has contributed (R257, R259): the counter, the rank, the element. -/
opaque rankWord : Nat → Nat → Nat → Word
/-- Which element another rank contributed to (R259). -/
opaque rankHas : Nat → Nat → Nat → Bool
/-- Bytes 32 to 95 and 132 to 195 of an attestation report, by offset, fixed since the boot (R392): hashes of the firmware and of the
configuration record, and the public key. -/
opaque attestByte : Nat → Byte
/-- The signature of a report under the identity key, byte by byte (R392). -/
opaque signByte : List Byte → Nat → Byte
/-- The result of an access comes from beyond L1 (R19): the operation's number. -/
opaque beyondL1 : Nat → Bool
/-- A fabric command needs a Sokerex port (R389): its number and the port. -/
opaque usesPort : Nat → Nat → Bool
/-- The deck site in whose DRAM a 4 KiB frame lies, by the frame's address; 24 or more: in none (R376, R383). The manual
gives no map from device-physical addresses to decks. [DESIGN CHOICE, log 76] -/
opaque frameDeck : Nat → Nat
/-- The frame numbers of a list of 4 KiB frames (MIGPOOL, SPILL) at a device-physical address, from the bytes of memory:
the manual gives no layout (R375). -/
opaque frameList : (Nat → Byte) → Nat → List Nat
/-- The pages, as ASID and virtual address, of a MOVE argument block (R374); the manual gives no layout. -/
opaque pageList : (Nat → Byte) → Nat → List (Nat × Nat)
/-- The groups of a FABRIC argument block: ranks and this package's rank (R389); the manual gives no layout. -/
opaque groupTable : (Nat → Byte) → Nat → List (Nat × Nat)
/-- The RED regions of a FABRIC argument block: base, length, group, landing address (R389). -/
opaque redTable : (Nat → Byte) → Nat → List (Nat × Nat × Nat × Nat)
/-- The frame numbers firmware uses for the tables of a split page (R383): the counter and an index. -/
opaque tableFrame : Nat → Nat → Nat
/-- Bytes of the self-test log (R390). -/
opaque diagByte : Nat → Nat → Byte

/-- The sync-variable window (R153). -/
def syncBase : Nat := 0x100000000
@[inherit_doc syncBase] def syncEnd : Nat := 0x200000000
/-- The scratchpad window (R152). -/
def scratchEnd : Nat := 0x60000
/-- The on-chip windows (R154). -/
def chipBase : Nat := 0xF00000000000
@[inherit_doc chipBase] def chipSize : Nat := 0x200000
/-- Host lines as device-physical addresses (R388). -/
def hostBase : Nat := 0x800000000000
@[inherit_doc hostBase] def hostSize : Nat := 0x700000000000
/-- Where HOST_ACCESS finds BAR0 (R373); the manual gives it no device-physical address. [DESIGN CHOICE, log 107] -/
def bar0Base : Nat := 0x1000000000000

end Sys2Proof.Config
end

