-- ==== Sys2Proof/Syntax.lean ====
section
/-!
DEFINITION. The instructions and events of the LX-320: one constructor for each row of spec/opcode_table.json.
Encoded rows come first, in the table's order; the rows without an encoding, which are steps the machine takes on its
own or that reach it from outside, come after them with what identifies the step, those from outside first (R22, R42 to
R70, R218 and the chapters that the table names).
-/
namespace Sys2Proof

/-- The two bits every 32-bit instruction carries beside its fields: the switch marker S and the uniform bit U (R54). -/
structure Hd where
  /-- Switch marker, bit 1 (R37). -/
  mark : Bool
  /-- Uniform bit, bit 2 (R33). -/
  uni : Bool
  deriving DecidableEq, Repr

/-- A predicate operand with its negate bit (R187, R194). -/
structure PredOp where
  /-- The negate bit. -/
  neg : Bool
  /-- The predicate register `p0` to `p7`. -/
  p : BitVec 3
  deriving DecidableEq, Repr

/-- An instruction of the opcode table, or a step without an encoding. A field `m` alone is the switch marker of an
instruction whose uniform bit is reserved (R34, R185). -/
inductive Instr where
  -- IALU (R106 to R108)
  | iadd (h : Hd) (d a b : Reg)
  | isub (h : Hd) (d a b : Reg)
  | iaddc (h : Hd) (d a b : Reg)
  | isubb (h : Hd) (d a b : Reg)
  | ineg (h : Hd) (d a : Reg)
  | iabs (h : Hd) (d a : Reg)
  | imin (h : Hd) (d a b : Reg)
  | imax (h : Hd) (d a b : Reg)
  | umin (h : Hd) (d a b : Reg)
  | umax (h : Hd) (d a b : Reg)
  | and (h : Hd) (d a b : Reg)
  | or (h : Hd) (d a b : Reg)
  | xor (h : Hd) (d a b : Reg)
  | andn (h : Hd) (d a b : Reg)
  | orn (h : Hd) (d a b : Reg)
  | not (h : Hd) (d a : Reg)
  | shl (h : Hd) (d a b : Reg)
  | shr (h : Hd) (d a b : Reg)
  | sar (h : Hd) (d a b : Reg)
  | rol (h : Hd) (d a b : Reg)
  | ror (h : Hd) (d a b : Reg)
  /-- `sh` is the shift less one, 0 to 3 (minors 21 to 24). -/
  | lea (h : Hd) (sh : BitVec 2) (d a b : Reg)
  | mov (h : Hd) (d a : Reg)
  -- IALUI (R109)
  | iaddImm (h : Hd) (d a : Reg) (imm : BitVec 8)
  | andImm (h : Hd) (d a : Reg) (imm : BitVec 8)
  | orImm (h : Hd) (d a : Reg) (imm : BitVec 8)
  | xorImm (h : Hd) (d a : Reg) (imm : BitVec 8)
  | shlImm (h : Hd) (d a : Reg) (imm : BitVec 8)
  | shrImm (h : Hd) (d a : Reg) (imm : BitVec 8)
  | sarImm (h : Hd) (d a : Reg) (imm : BitVec 8)
  | rolImm (h : Hd) (d a : Reg) (imm : BitVec 8)
  -- IMUL (R110)
  | imul (h : Hd) (d a b : Reg)
  | imulh (h : Hd) (d a b : Reg)
  | umulh (h : Hd) (d a b : Reg)
  | imad (h : Hd) (d a b : Reg)
  -- BITS (R111 to R113)
  | popc (h : Hd) (d a : Reg)
  | clz (h : Hd) (d a : Reg)
  | ctz (h : Hd) (d a : Reg)
  | brev (h : Hd) (d a : Reg)
  | bfe (h : Hd) (d a b : Reg)
  | ubfe (h : Hd) (d a b : Reg)
  | bfi (h : Hd) (d a b : Reg)
  | bmix (h : Hd) (d a b : Reg)
  -- ICMP (R115, R116)
  | icmp (h : Hd) (cond : BitVec 5) (p : BitVec 3) (a b : Reg)
  | isel (h : Hd) (p : BitVec 3) (d a b : Reg)
  -- MOVL (R60)
  | movi (m : Bool) (d : BitVec 5) (imm : BitVec 17)
  | lui (m : Bool) (d : BitVec 5) (imm : BitVec 17)
  -- FALU, FFMA, FSFU (R57, R117 to R125)
  | fadd (h : Hd) (rnd : BitVec 3) (d a b : Reg)
  | fsub (h : Hd) (rnd : BitVec 3) (d a b : Reg)
  | fmul (h : Hd) (rnd : BitVec 3) (d a b : Reg)
  | fdiv (h : Hd) (rnd : BitVec 3) (d a b : Reg)
  | fmin (h : Hd) (d a b : Reg)
  | fmax (h : Hd) (d a b : Reg)
  | fabs (h : Hd) (d a : Reg)
  | fneg (h : Hd) (d a : Reg)
  | fcmp (h : Hd) (cond : BitVec 2) (p : BitVec 3) (a b : Reg)
  | fclass (h : Hd) (d a : Reg)
  | ffma (h : Hd) (rnd : BitVec 3) (d a b : Reg)
  | fsqrt (h : Hd) (rnd : BitVec 3) (d a : Reg)
  | dfma (h : Hd) (rnd : BitVec 3) (d a b : Reg)
  | dsqrt (h : Hd) (rnd : BitVec 3) (d a : Reg)
  | fscale (h : Hd) (d a b : Reg)
  | frcp (h : Hd) (d a : Reg)
  | frsq (h : Hd) (d a : Reg)
  | fex2 (h : Hd) (d a : Reg)
  | flg2 (h : Hd) (d a : Reg)
  | fsin (h : Hd) (d a : Reg)
  | fcos (h : Hd) (d a : Reg)
  | ftanh (h : Hd) (d a : Reg)
  -- DALU (R117 to R123)
  | dadd (h : Hd) (rnd : BitVec 3) (d a b : Reg)
  | dsub (h : Hd) (rnd : BitVec 3) (d a b : Reg)
  | dmul (h : Hd) (rnd : BitVec 3) (d a b : Reg)
  | ddiv (h : Hd) (rnd : BitVec 3) (d a b : Reg)
  | dmin (h : Hd) (d a b : Reg)
  | dmax (h : Hd) (d a b : Reg)
  | dabs (h : Hd) (d a : Reg)
  | dneg (h : Hd) (d a : Reg)
  | dcmp (h : Hd) (cond : BitVec 2) (p : BitVec 3) (a b : Reg)
  -- HALU (R126, R127); `bf` is t: FP16 or BF16
  | hadd2 (h : Hd) (bf : Bool) (d a b : Reg)
  | hsub2 (h : Hd) (bf : Bool) (d a b : Reg)
  | hmul2 (h : Hd) (bf : Bool) (d a b : Reg)
  | hfma2 (h : Hd) (bf : Bool) (d a b : Reg)
  | hmin2 (h : Hd) (bf : Bool) (d a b : Reg)
  | hmax2 (h : Hd) (bf : Bool) (d a b : Reg)
  | hcmp2Eq (h : Hd) (bf : Bool) (d a b : Reg)
  | hcmp2Lt (h : Hd) (bf : Bool) (d a b : Reg)
  | hcmp2Le (h : Hd) (bf : Bool) (d a b : Reg)
  | hcmp2Un (h : Hd) (bf : Bool) (d a b : Reg)
  -- CVT (R58, R128 to R130)
  | cvt (h : Hd) (rnd : BitVec 3) (dst src : BitVec 4) (d a : Reg)
  -- QNT (R131 to R135)
  | scx (h : Hd) (d a b : Reg)
  | q8 (h : Hd) (fmt : BitVec 2) (d a b : Reg)
  | q4 (h : Hd) (fmt : BitVec 2) (d a b : Reg)
  | dq8 (h : Hd) (fmt : BitVec 2) (d a b : Reg)
  | dq4 (h : Hd) (fmt : BitVec 2) (d a b : Reg)
  | q8Cs (h : Hd) (fmt : BitVec 2) (d a b : Reg)
  | q4Cs (h : Hd) (fmt : BitVec 2) (d a b : Reg)
  -- DOT (R136 to R138)
  | dp4 (h : Hd) (d a b : Reg)
  | dp8 (h : Hd) (d a b : Reg)
  | fdp4E4m3 (h : Hd) (sel : BitVec 2) (d a b : Reg)
  | fdp4E5m2 (h : Hd) (sel : BitVec 2) (d a b : Reg)
  | fdp8 (h : Hd) (sel : BitVec 2) (d a b : Reg)
  | hdp2F16 (h : Hd) (d a b : Reg)
  | hdp2Bf16 (h : Hd) (d a b : Reg)
  -- RAND (R139 to R142)
  | gen (h : Hd) (d a b : Reg)
  | gumbel (h : Hd) (d a : Reg)
  | rndf (h : Hd) (d a : Reg)
  -- XLANE (R187 to R193)
  | bfx (m : Bool) (stage : BitVec 3) (d a : Reg)
  | lget (m : Bool) (mode : BitVec 2) (d a b : Reg)
  | pollCnt (m : Bool) (d : Reg) (p : PredOp)
  | pollRank (m : Bool) (d : Reg) (p : PredOp)
  | pollMask (m : Bool) (d : Reg) (p : PredOp)
  | pollSame (m : Bool) (p : BitVec 3) (a : Reg)
  | redx (m : Bool) (op : BitVec 2) (d a : Reg)
  | scanx (m : Bool) (op : BitVec 2) (d a : Reg)
  -- PRED (R194, R195)
  | plop (h : Hd) (op : BitVec 2) (d : BitVec 3) (a b : PredOp)
  | pmovToReg (h : Hd) (d : Reg)
  | pmovToPred (h : Hd) (a : Reg)
  /-- `n1` is n − 1. -/
  | grd (h : Hd) (p : PredOp) (n1 : BitVec 3)
  -- SPEC (R143 to R145)
  | gets (h : Hd) (r : BitVec 9) (d : Reg)
  | sets (h : Hd) (r : BitVec 9) (a : Reg)
  | nop (m : Bool)
  -- LD, ST, PLANE, ORD, FENCE (R174 to R184)
  | ld (h : Hd) (field : BitVec 6) (size : BitVec 3) (mode : BitVec 2) (base t : Reg)
  | ldt (h : Hd) (off : BitVec 14) (t : Reg)
  | st (h : Hd) (field : BitVec 6) (size : BitVec 3) (mode : BitVec 2) (base t : Reg)
  | ldp (h : Hd) (field : BitVec 6) (k : BitVec 2) (mode : BitVec 2) (base t : Reg)
  | stp (h : Hd) (field : BitVec 6) (k : BitVec 2) (mode : BitVec 2) (base t : Reg)
  | ldacq (h : Hd) (scope : BitVec 3) (size : BitVec 2) (base t : Reg)
  | strel (h : Hd) (scope : BitVec 3) (size : BitVec 2) (base t : Reg)
  | cctlWb (h : Hd) (base : Reg)
  | cctlWbinv (h : Hd) (base : Reg)
  | cctlPf1 (h : Hd) (base : Reg)
  | cctlPf2 (h : Hd) (base : Reg)
  | cctlZero (h : Hd) (base : Reg)
  | cctlIinv (h : Hd) (scope : BitVec 3) (base : Reg)
  | fence (m : Bool) (scope : BitVec 3) (acq rel uo : Bool)
  | aliasf (m : Bool) (scope : BitVec 3)
  | evs (m : Bool) (a : Reg)
  -- ATOM (R222 to R228)
  | atom (h : Hd) (op : BitVec 6) (size : BitVec 3) (base t : Reg)
  | red (h : Hd) (op : BitVec 6) (size : BitVec 3) (base t : Reg)
  -- SYNC (R229 to R241)
  | sadd (h : Hd) (d a b : Reg)
  | sbadd (h : Hd) (d a b : Reg)
  | sincw (h : Hd) (d a b : Reg)
  | scas (h : Hd) (d a b : Reg)
  | sexch (h : Hd) (d a b : Reg)
  | smin (h : Hd) (d a b : Reg)
  | smax (h : Hd) (d a b : Reg)
  | waita (h : Hd) (d a b : Reg)
  | mon (h : Hd) (a : Reg)
  | mwait (h : Hd) (d b : Reg)
  | mbput (h : Hd) (a b : Reg)
  | mbget (h : Hd) (d a : Reg)
  -- PLUPD (R242 to R244); `k` is the number of planes less one
  | pladd (h : Hd) (k : BitVec 2) (d a b : Reg)
  -- MMA, MCTL, DEMU (R262 to R290)
  | mma (m : Bool) (ow : Bool) (ty : BitVec 4) (b a : Reg) (n : BitVec 4)
  | mmae (m : Bool) (ow : Bool) (ty : BitVec 4) (b a : Reg) (n : BitVec 4)
  | mloop (m : Bool) (off : BitVec 12) (n : BitVec 4)
  | mzero (m : Bool) (n : BitVec 4)
  | mload (m : Bool) (b a : Reg) (n : BitVec 4)
  | mdrain (m : Bool) (b a : Reg) (n : BitVec 4)
  | mstat (m : Bool) (n : BitVec 4) (d : Reg)
  | dexp (m : Bool) (d a : Reg)
  | dsplit (m : Bool) (d a b : Reg)
  | dmerge (m : Bool) (b : Reg) (x n : BitVec 4)
  -- TEND, FAB (R245 to R260)
  | tcopy (h : Hd) (d a b : Reg)
  | tcopy2 (h : Hd) (d a b : Reg)
  | tgath (h : Hd) (d a b : Reg)
  | tscat (h : Hd) (d a b : Reg)
  | tfill (h : Hd) (d a b : Reg)
  | tnote (h : Hd) (d a b : Reg)
  | twait (h : Hd) (d a : Reg)
  | tcoll (h : Hd) (d a b : Reg)
  | rflush (h : Hd) (d a b : Reg)
  -- BRA, CALL, JCTL (R197 to R201)
  | bra (m : Bool) (off : BitVec 19) (g : PredOp)
  | call (m : Bool) (off : BitVec 19) (g : PredOp)
  | btab (m : Bool) (a : Reg)
  | ret (m : Bool) (a : Reg)
  | exit (m : Bool)
  -- MASK (R202 to R207)
  | join (m : Bool) (k a : Reg)
  | leave (m : Bool) (k : Reg)
  | waitk (m : Bool) (k : Reg)
  | ksave (m : Bool) (e : BitVec 6) (k a : Reg)
  | kload (m : Bool) (e : BitVec 6) (k a : Reg)
  -- BAR (R208 to R213)
  | barArrive (m : Bool) (c : Bool) (l : BitVec 3) (a : Reg) (n : BitVec 4)
  | barWait (m : Bool) (c : Bool) (l : BitVec 3) (a : Reg) (n : BitVec 4)
  | barSync (m : Bool) (c : Bool) (l : BitVec 3) (a : Reg) (n : BitVec 4)
  -- SYS (R214 to R221)
  | sysr (h : Hd) (r : BitVec 8) (d : Reg)
  | sysw (h : Hd) (r : BitVec 8) (a : Reg)
  | trap (m : Bool) (code : BitVec 8)
  | brk (m : Bool) (code : BitVec 8)
  | rte (m : Bool)
  | yield (m : Bool)
  | prog (h : Hd) (a : Reg)
  | launch (h : Hd) (d a : Reg)
  | tlbinv (m : Bool) (d a : Reg)
  -- RX (R328 to R345)
  | rxbegin (m : Bool) (off : BitVec 12) (d : Reg)
  | rxprev (m : Bool) (d : Reg)
  | rxput (m : Bool) (a b : Reg)
  | rxend (m : Bool)
  | rxstat (m : Bool) (d : Reg)
  -- LAD (R346 to R359)
  | lpost (h : Hd) (off : BitVec 12) (d : Reg)
  | esc (m : Bool) (a : Reg)
  | lres (m : Bool) (a : Reg)
  | lstat (h : Hd) (d a : Reg)
  -- GEN (R360 to R372)
  | gmload (h : Hd) (d a : Reg)
  | gmstep (h : Hd) (d a : Reg)
  | gmmask (h : Hd) (d a b : Reg)
  | gmforce (h : Hd) (d a : Reg)
  | snap (h : Hd) (d a : Reg)
  | snapsel (h : Hd) (d a : Reg)
  | snapfree (h : Hd) (d a : Reg)
  | acall (h : Hd) (d a b : Reg)
  -- POOL (R62)
  | poolGuard (len : BitVec 17)
  -- 16-bit forms (R53)
  | iadd16 (m : Bool) (d b : BitVec 5)
  | isub16 (m : Bool) (d b : BitVec 5)
  | and16 (m : Bool) (d b : BitVec 5)
  | or16 (m : Bool) (d b : BitVec 5)
  | xor16 (m : Bool) (d b : BitVec 5)
  | shl16 (m : Bool) (d b : BitVec 5)
  | shr16 (m : Bool) (d b : BitVec 5)
  | mov16 (m : Bool) (d b : BitVec 5)
  | movi16 (m : Bool) (d imm : BitVec 5)
  | imul16 (m : Bool) (d b : BitVec 5)
  | fadd16 (m : Bool) (d b : BitVec 5)
  | fmul16 (m : Bool) (d b : BitVec 5)
  | ffma16 (m : Bool) (d b : BitVec 5)
  | fmin16 (m : Bool) (d b : BitVec 5)
  | fmax16 (m : Bool) (d b : BitVec 5)
  | isel16 (m : Bool) (d b : BitVec 5)
  -- Steps without an encoding. `cid` names a company, `tid` a thread of it, `trp` a troupe, `id` an operation or
  -- command in flight, `now` the cycle of the counter the rule names, `err` an uncorrectable error of storage.
  | issueOpportunity (core pipe cycles : Nat)
  | hostAccess (addr : Nat) (store : List Byte)
  | doorbell (part q : Nat)
  | powerOn (fenced gddr : Nat) (ports : Nat) (cause : Nat)
  | partition (part : Nat) (arg : DWord)
  | role (part : Nat) (arg : DWord)
  | sched (part : Nat) (arg : DWord)
  | fabric (part : Nat) (arg : DWord)
  | key (part : Nat) (arg : DWord)
  | resume (part : Nat) (arg : DWord)
  | attest (part : Nat) (arg : DWord)
  | move (part : Nat) (arg : DWord)
  | unknownCommand (op : Word) (part : Nat) (arg : DWord)
  | diagnosticMailboxRequest (word : Word)
  | portFailure (port : Nat)
  | thermalSample (deck : Nat) (reading : Nat)
  | regulatorSample (reg : Nat) (current limit : Nat)
  | pageMigrate (part asid : Nat) (va : DWord)
  | yieldExpiry (core : Nat)
  | loadDataArrive (id : Nat) (err : Bool)
  | kloadDataArrive (id : Nat) (err : Bool)
  | storePerform (id : Nat)
  | atomResultReturn (id : Nat) (err : Bool)
  | redDataerrDeferred (id : Nat)
  | syncReply (id : Nat) (err : Bool)
  | acallReply (id : Nat)
  | contributionEnter (id : Nat)
  | waitaWake (cid tid : Nat)
  | waitaTimeout (cid tid now : Nat)
  | mwaitWake (cid tid : Nat)
  | mwaitTimeout (cid tid now : Nat)
  | mbputServe (id : Nat)
  | mbgetServe (id : Nat)
  | tenderUnit (id : Nat) (err : Bool)
  | tenderComplete (id : Nat)
  | tcollComplete (id : Nat) (agree : Bool)
  | rflushEpochComplete (id : Nat) (agree : Bool)
  | matrixStep (cid trp : Nat) (err : Bool)
  | mloadDataArrive (cid trp : Nat) (err : Bool)
  | drainStoresPerform (cid trp : Nat)
  | mloopStep (cid trp : Nat) (err : Bool)
  | mloopComplete (cid trp : Nat)
  | rxRegionStart (cid : Nat)
  | rxPassEnd (cid : Nat)
  | ladderStarveExpire (lid rung now : Nat)
  | escCopyComplete (id : Nat) (err : Bool)
  | retireAdvance (lid : Nat)
  | snapCopyComplete (id : Nat) (err : Bool)
  | asyncTrapTake (cid tid : Nat)
  | barrierTimeout (cid tid now : Nat)
  | companyRelease (cid : Nat)
  | queueServe (part q : Nat)
  | placeUnit (part : Nat)
  | launchComplete (lid : Nat)
  | timeSliceExpire (cid now : Nat)
  | drainTimeout (cid now : Nat)
  | saveComplete (cid cycles : Nat)
  | companyResume (cid cycles : Nat)
  | tsliceWrite (cid tid : Nat) (x : Word)
  | tovrWrite (cid tid : Nat) (x : Word)
  | dbgctlWrite (cid tid : Nat) (x : Word)
  | grantcapWrite (cid tid : Nat) (x : Word)
  | bartoWrite (cid tid : Nat) (x : Word)
  | asidWrite (cid tid : Nat) (x : Word)
  | probeEnable (cid tid n : Nat) (x : DWord)
  | probeDump (cid tid n : Nat) (x : DWord)
  | probeClear (cid tid n : Nat) (x : DWord)
  | probeDisable (cid tid n : Nat) (x : DWord)
  | roleChangeTimeout (now : Nat)
  | pladdResultReturn (id : Nat) (err : Bool)
  | illegalInstructionWord (sub : BitVec 8) (word : Word)
  deriving DecidableEq, Repr

end Sys2Proof
end

