-- ==== Sys2Proof/Machine/State.lean ====
section
/-!
DEFINITION. The state of the LX-320 as plain data: every register, memory, queue and status bit the manual names, held
in flat lists keyed by identifiers, and the state right after module reset. INVENTORY.md lists each piece with the rule
that names it and its reset value.
-/
namespace Sys2Proof.Machine

/-- Page kinds of R148. -/
inductive PKind where
  | so | rc | uo | red
  deriving DecidableEq, Repr

/-- A key that enciphers device memory (R148, R393): partition, identifier, and the material that KEY loaded. -/
structure ByteKey where
  part : Nat
  id : Nat
  material : List Byte
  deriving DecidableEq, Repr

/-- One byte of storage: device-physical memory (R146), a byte of a company's scratchpad allocation (R152), or a byte
of a partition's sync-variable window (R153). -/
inductive Loc where
  | phys (a : Nat)
  /-- a byte of device memory as an access under `key` obtains it where that is not simply what the byte holds: deciphered from another
  key (R393), or, from moment `cut` on, as any write has left it (R170, R180) -/
  | view (a : Nat) (key : ByteKey) (cut : Option Nat)
  /-- a byte of device memory that another partition has stored, as a device-physical address finds it (R394) -/
  | foreign (a : Nat)
  | scratch (cid b : Nat)
  | sync (part o : Nat)
  deriving DecidableEq, Repr

/-- A register of a thread or a mask of its troupe, by name (R38 covers every register operand). -/
inductive RegId where
  | v (r : Reg)
  | p (n : Nat)
  | q (n : Nat)
  | k (n : Nat)
  | f
  deriving DecidableEq, Repr

/-- An open guard window (R195): the captured guard passes or not, and the instructions left, 1 to 8. -/
structure GuardWin where
  pass : Bool
  left : Nat
  deriving DecidableEq, Repr

/-- A private copy of a mask register in handler mode (R206): the handler's value and whether the handler wrote it. -/
structure MaskCopy where
  e : Word
  written : Bool
  deriving DecidableEq, Repr

/-- What trap entry saves internally (R312): counter, mode, guard window and the handler's copy of the masks; and the
stopped engine command that the handler's return lets go on (R253). -/
structure TrapFrame where
  pc : DWord
  sys : Bool
  guard : Option GuardWin
  masks : List MaskCopy
  cmd : Option Nat
  /-- the record's bytes while the company is saved (R309) -/
  record : List Byte
  deriving DecidableEq, Repr

/-- A trap: class index and subcause (R302), fault address and extra word (R308). -/
structure Trap where
  cls : Nat
  sub : Nat
  addr : DWord := 0
  extra : Word := 0
  deriving DecidableEq, Repr

/-- A pending asynchronous trap (R304) with the ticket that orders ENGINE traps and the command it releases (R253). -/
structure Async where
  trap : Trap
  ticket : Nat
  cmd : Option Nat
  deriving DecidableEq, Repr

/-- A barrier's name (R208, R209): level 1 by troupe, level 2 by number, level 3 and above by instance of the launch. -/
structure BarKey where
  owner : Nat
  level : Nat
  inst : Nat
  num : Nat
  deriving DecidableEq, Repr

/-- What a thread at a barrier waits for (R210). -/
inductive BarNext where
  /-- `bar.wait`: return; state NONE -/
  | wait
  /-- `bar.sync` that has arrived: return; state NONE -/
  | synced
  /-- a delayed `bar.arrive`: arrive in the next phase; state PENDING -/
  | arrive
  /-- a `bar.sync` found PENDING: arrive in the next phase, then wait -/
  | sync
  deriving DecidableEq, Repr

/-- Why a thread is not ready (R19, R151, R218, R245, R272). -/
inductive Wait where
  | none
  /-- parked by a switch marker until results in flight are written (R37) -/
  | marker
  /-- a release waits until the thread's earlier accesses have performed (R211, R240, R358) -/
  | quiet
  /-- an access to a page marked migrating (R151) -/
  | mig (asid : BitVec 12) (va : DWord)
  /-- the tender is full (R245) -/
  | tender
  /-- a tile or staging register is busy (R39, R264) -/
  | tile
  /-- held at a matrix instruction while a sibling is in a handler or halted (R272) -/
  | hold
  /-- at a barrier: what for, the form of a delayed arrival, when the wait began and its limit in cycles (R212) -/
  | bar (key : BarKey) (next : BarNext) (count : Option Nat) (start limit : Nat)
  | waitk (k : Nat)
  | waita
  /-- at `mwait`: the thread whose monitor it is, and the number of the issue -/
  | mwait (d : Reg) (src grp start tmo : Nat)
  | mbox (id : Nat)
  /-- at `twait`: the troupe whose ticket it is (R33, R252) -/
  | twait (trp : Nat) (ticket : Word) (d : Reg)
  | rxbegin | rxend | rxfull
  | snap (id : Nat)
  | yield (due : Nat)
  deriving DecidableEq, Repr

/-- An armed word of `waita` (R234): entry number, the bytes of the word, the value at arming, and whether a write has
reached it since. -/
structure Armed where
  i : Nat
  locs : List Loc
  value : Word
  hit : Bool
  deriving DecidableEq, Repr

/-- The arming of a thread's `waita` (R234): the words, the destination, the threads woken with it, and its time-out
in cycles. -/
structure Waita where
  words : List Armed
  expect : List Word
  mates : List Nat
  d : Reg
  start : Nat
  tmo : Nat
  deriving DecidableEq, Repr

/-- A thread's monitor (R235): the line and its ASID, the first operation issued after `mon`, the bytes of the line, those written since and not
obtained by such a load of the thread, and whether the monitor has lost the line. -/
structure Monitor where
  va : DWord
  asid : BitVec 12
  since : Nat
  locs : List Loc
  hit : List Loc
  lost : Bool
  deriving DecidableEq, Repr

/-- Why a debug-halted thread halted (R319): its own trap, or frozen with another. -/
inductive Halt where
  | trapped | frozen
  deriving DecidableEq, Repr

/-- A write that another agent made to a `v` register through the on-chip window (R155): the register, the value that the thread may
see instead, whether the thread has written the register itself since, whether it has made an acquire since, and the number that draws
which of two racing writes stays. -/
structure FarWrite where
  r : Reg
  other : Word
  key : Nat
  own : Bool
  acquired : Bool
  deriving DecidableEq, Repr
/-- The same for a word of a tile, as one thread of its troupe sees it: tile and element, the value that may be seen instead, when it
was written, and the thread's acquire. -/
structure FarTile where
  n : Nat
  e : Nat
  other : Word
  key : Nat
  acquired : Bool
  deriving DecidableEq, Repr

/-- A thread of a placed company (R13). -/
structure Thread where
  cid : Nat
  tid : Nat
  pc : DWord
  v : Vector Word 64
  /-- `p0` to `p6` in bits 6:0; `p7` is read and written through `Thread.getP` and `Thread.setP` -/
  p : BitVec 8
  q : Vector Word 4
  fpcsr : Word
  guard : Option GuardWin
  asid : BitVec 12
  sys : Bool
  /-- one frame for each nesting level, innermost first (R291, R312) -/
  frames : List TrapFrame
  /-- single step armed by `rte` (R314) -/
  step : Bool
  exited : Bool
  /-- debug-halted, since which cycle of the core (R319) -/
  halt : Option (Halt × Nat)
  wait : Wait
  waita : Option Waita
  mon : Option Monitor
  /-- the monitor at which it waits, as it goes on: its own or that of the lowest thread (R33, R236) -/
  watched : Option Monitor
  /-- barriers at which the thread is PENDING (false) or DONE (true) (R210) -/
  bars : List (BarKey × Bool)
  asyncs : List Async
  /-- the held ladder item (R352): ladder and item index -/
  item : Option (Nat × Nat)
  /-- cohort (R21), opportunity of the last issue (R21) and since when the thread is ready (R20) -/
  coh : Nat
  last : Nat
  ready : Nat
  /-- instructions issued, so that the latest access is known (precise DATAERR, R303) -/
  seq : Nat
  /-- registers whose last write may not be seen yet, with the value before it (R38) -/
  old : List (RegId × DWord)
  /-- writes of other agents to its registers that it need not see yet (R155) -/
  far : List FarWrite
  /-- the same for words of its troupe's tiles -/
  farTiles : List FarTile
  /-- its last `aliasf` of each scope: when, in `fresh`, and the scope (R170); and its last acquiring fence (R180) -/
  chain : List (Nat × Nat)
  fence : Nat
  deriving DecidableEq, Repr

/-- A tile (R263). -/
structure Tile where
  data : Vector Word 1024
  /-- NV, DZ, OF, UF, NX, SNAN from bit 0 -/
  flags : BitVec 6
  err : Bool
  deriving DecidableEq, Repr

/-- A running matrix loop (R281 to R285). -/
structure MLoop where
  tile : Nat
  steps : Nat
  next : Nat
  ty : Nat
  ow : Bool
  edge : Bool
  abase : Nat
  bbase : Nat
  rows : Nat
  cols : Nat
  aaddr : List Word
  astep : Word
  aw : Option Word
  baddr : List Word
  bstep : Word
  bw : Option Word
  saaddr : Word
  salane : Word
  sbaddr : Word
  sblane : Word
  cw : Option (Nat × Word)
  acq : Bool
  /-- the first operation issued after the loop -/
  born : Nat
  deriving DecidableEq, Repr

/-- Matrix work queued by a troupe, in issue order (R264). Fragments hold the eight registers of each lane. -/
inductive MWork where
  | step (tile ty : Nat) (ow : Bool) (rows cols : Nat) (a b : List (List Word)) (sa sb : List Word)
  | zero (tile : Nat)
  | merge (tile src : Nat) (e f : List Word) (m : Nat) (init : Bool)
  /-- an `mload` of the issue group `grp`, and the elements read so far: lane, element, bits -/
  | load (tile fmt grp : Nat) (got : List (Nat × Nat × Nat)) (err : Bool)
  /-- a drain of the issue group `grp` whose stores and merge have not all performed; `two` for a pair -/
  | drain (tile grp : Nat) (two : Bool)
  | loop (l : MLoop)
  deriving DecidableEq, Repr

/-- A troupe of a placed company (R14). -/
structure Troupe where
  cid : Nat
  idx : Nat
  slot : Nat
  /-- expected sets `k0` to `k11` and their arrival sets (R14, R202) -/
  k : Vector Word 12
  arr : Vector Word 12
  active : Bool
  /-- opportunity at which the troupe entered its set (R20) -/
  since : Nat
  tiles : List Tile
  work : List MWork
  /-- last ticket given out, and the sticky status of `twait` (R245, R252) -/
  ticket : Word
  status : BitVec 3
  deriving DecidableEq, Repr

/-- A dyadic number `m × 2^e`, for exact residuals (R336). -/
structure Dyadic where
  m : Int
  e : Int
  deriving DecidableEq, Repr

/-- A buffered store of a relaxation body (R339). -/
structure RxStore where
  step : Nat
  /-- the ASID and the virtual addresses of the translation that the store has captured -/
  asid : Nat
  vas : List Nat
  locs : List Loc
  data : List Byte
  deriving DecidableEq, Repr

/-- A relaxation region (R328 to R344), from the rendezvous on. -/
structure Region where
  pc : DWord
  d : Reg
  /-- the rendezvous has completed and the sequencer serves the region -/
  running : Bool
  steps : Nat
  w : Nat
  passes : Nat
  stall : Bool
  tolabs : Word
  tolrel : Word
  endoff : Word
  failoff : Word
  guess : DWord
  init : List Word
  /-- guesses, none before the sequencer takes the region; a missing one has not been read yet (R331) -/
  g : List (Option (List Word))
  y : List (Option (List Word))
  j : List (List Word)
  snap : List Word
  pass : Nat
  /-- Rmax of each pass that has ended (R336); none where a residual is no number -/
  rmax : List (Option Dyadic)
  settled : Nat
  reads : List Nat
  buf : List RxStore
  loads : List (Nat × Loc)
  stores : List (Nat × Loc)
  overflow : List Nat
  traps : List (Nat × Trap × DWord)
  deriving DecidableEq, Repr

/-- The status registers of `rxstat` (R345). -/
structure RxStatus where
  code : Nat
  settled : Nat
  pass : Nat
  dclass : Nat
  dsub : Nat
  dpc : Word
  deriving DecidableEq, Repr

/-- The header of an installed automaton (R361, R364). -/
structure Automaton where
  image : DWord
  act : DWord
  cls : DWord
  masks : DWord
  nstates : Nat
  vocab : Nat
  start : Nat
  depthMax : Nat
  emptyRow : Bool
  nclass : Nat
  /-- when it was installed, in `fresh` -/
  born : Nat
  deriving DecidableEq, Repr

/-- Where a company stands (R323, R324). -/
inductive Residency where
  | resident | saving | draining (start : Nat) | saved
  /-- a flush waits for fabric commands and hand-over copies (R323, R359) -/
  | flushing
  /-- discarded, to be placed again from its entry -/
  | flushed
  | ended
  deriving DecidableEq, Repr

/-- A packed troupe's binding (R351, R352). -/
structure Packed where
  lad : Nat
  rung : Nat
  items : List (Nat × Word)
  deriving DecidableEq, Repr

/-- A company (R16). -/
structure Company where
  cid : Nat
  part : Nat
  launch : Nat
  /-- index within the launch, and within the instance of each level 2 to 7 (R17) -/
  index : Nat
  lvl : List Nat
  /-- index of the company's instance of each level 3 to 7 within the launch -/
  insts : List Nat
  /-- SIZE of level 2 -/
  ntr : Nat
  core : Nat
  state : Residency
  scrP : Nat
  scrS : Nat
  tileF : Nat
  tileT : Nat
  /-- scratchpad bytes in canonical form, and the draw of those that nothing has written yet (R394) -/
  scratch : List Host.Cell
  seed : Nat
  progress : Word
  trapUsr : DWord
  deleg : Word
  barto : Word
  exportNum : Option Nat
  exportHdr : Nat
  placed : Nat
  start : Nat
  /-- its priority (R292, R351), and whether it may be flushed and restarted (R323, R359) -/
  prio : Nat
  idem : Bool
  region : Option Region
  rx : RxStatus
  automaton : Option Automaton
  packed : Option Packed
  deriving DecidableEq, Repr

/-- A barrier (R209, R210): the form its first arrival fixed, the arrivals of its phase (company, thread, cycle of its
core), and whether it was dumped. -/
structure Barrier where
  key : BarKey
  form : Option (Option Nat)
  arrived : List (Nat × Nat × Nat)
  dumped : Bool
  deriving DecidableEq, Repr

/-- Memory operations in flight (R23, R38): what the operation does when it performs. -/
inductive OpKind where
  /-- `ld`, `ldt`, `ldacq`: number of registers written, sign extension -/
  | load (sx : Bool)
  /-- one thread's read of its word of a mask; `lead`: it is the one that loads E (R205) -/
  | kload (trp k : Nat) (lead : Bool)
  /-- `ldp` of `k` planes, rounding by the next one or not: its units are read one by one (R96, R177) -/
  | ldp (k : Nat) (rn : Bool)
  | store (data : List Byte)
  /-- `atom` (`ret`) and `red`: operation, width 4 or 8 bytes, operand, second operand of `cas` -/
  | atom (ret : Bool) (op n : Nat) (x y : DWord)
  /-- SYNC minors 0 to 6 -/
  | sync (minor : Nat) (x y : Word)
  | pladd (k : Nat) (i : Nat) (x : Word)
  /-- a unit that a `pladd` has changed, with its block's scale byte and its new contents (R96, R244) -/
  | unit (block : Loc) (data : List Byte)
  /-- one half of a packed atomic: its operand, and what the other half has obtained if it has performed (R224) -/
  | half (ret : Bool) (op : Nat) (hi : Bool) (x : BitVec 16) (got : Option Nat)
  /-- a contribution to a RED region (R168) -/
  | contrib (addr : Nat) (data : List Byte)
  | fence (acq rel uo : Bool)
  /-- one lane's row of an `mload`: the element width and the elements not read yet (R276) -/
  | mload (trp lane w : Nat) (left : List Nat)
  /-- elements of a drained row that share a page kind: not stored yet, by address and bytes (R279) -/
  | drain (trp : Nat) (left : List (Nat × List Loc × List Byte))
  /-- the result slot that `lres` writes: ladder and item (R354) -/
  | slot (lad item : Nat) (data : List Byte)
  /-- magnitude keys that no merge into the max word has covered yet (R280) -/
  | drainMax (trp : Nat) (keys : List Word)
  deriving DecidableEq, Repr

/-- A thread that receives the result of an operation in flight: its count of issued instructions, its nesting level and its guard
window at the instruction, what the registers written at issue held before (R303), and destinations that a later instruction
has already written (R38). -/
structure OpLane where
  tid : Nat
  seq : Nat
  depth : Nat
  guard : Option GuardWin
  undo : List (RegId × DWord)
  dead : List RegId
  deriving DecidableEq, Repr

/-- A memory operation in flight. Operations of all threads stand in one list in the order of issue. -/
structure MemOp where
  id : Nat
  /-- the issue group, for R226 and R232 -/
  grp : Nat
  cid : Nat
  tid : Nat
  /-- threads that receive a result -/
  lanes : List OpLane
  kind : OpKind
  asid : BitVec 12
  /-- the access's address, and the virtual address of each byte of `locs` (R160) -/
  va : DWord
  vas : List Nat
  locs : List Loc
  kinds : List PKind
  /-- bytes of a straddling load that have been read, by address (R169) -/
  got : List (Nat × Byte)
  acq : Bool
  rel : Bool
  /-- scope of an acquire (R10) -/
  scope : Nat
  pc : DWord
  d : Reg
  n : Nat
  born : Nat
  deriving DecidableEq, Repr

/-- A mailbox operation waiting at its ring (R239, R372). -/
inductive MbKind where
  | put | get | call
  deriving DecidableEq, Repr

@[inherit_doc MbKind] structure MbOp where
  id : Nat
  kind : MbKind
  cid : Nat
  tid : Nat
  lanes : List Nat
  ring : Nat
  hdr : Nat
  remote : Bool
  /-- the program has written the header while the operation was pending (R237) -/
  spoiled : Bool
  msg : DWord
  d : Reg
  /-- destinations that a later instruction of a thread has already written (R38) -/
  dead : List (Nat × RegId)
  deriving DecidableEq, Repr

/-- Tender and fabric commands (R245, R256) and the hand-over copy of `esc` (R353). -/
inductive CmdKind where
  | copy | copy2 | gath | scat | fill | note | coll | rflush | esc (lad item rung : Nat)
  deriving DecidableEq, Repr

/-- How far a command is (R253): it runs, it has stopped at a fault (seen before or not), or its data part has ended. -/
inductive CmdState where
  | run | stopped (page : Bool) | retry | ended
  deriving DecidableEq, Repr

@[inherit_doc CmdKind] structure Cmd where
  id : Nat
  core : Nat
  cid : Nat
  trp : Nat
  tid : Nat
  launch : Nat
  ticket : Word
  kind : CmdKind
  state : CmdState
  asid : BitVec 12
  sys : Bool
  physAddr : Bool
  cw : Bool
  rel : Bool
  acq : Bool
  blk : Nat
  src : DWord
  dst : DWord
  cwaddr : Nat
  cwval : Word
  /-- the words at bytes 55:24 of the block (R248) -/
  w : List Word
  cursor : Nat
  status : BitVec 3
  /-- the address of the fault at which it has stopped (R253) -/
  fva : DWord
  deriving DecidableEq, Repr

/-- A dependence condition (R296). -/
structure Dep where
  o : Nat
  value : Word
  op : Nat
  sat : Bool
  deriving DecidableEq, Repr

/-- A level of the level table (R294). -/
structure Level where
  size : Nat
  domain : Nat
  scope : Nat
  deriving DecidableEq, Repr

/-- A launch from its acceptance to its completion (R294 to R300). -/
structure Launch where
  id : Nat
  part : Nat
  queue : Nat
  asid : BitVec 12
  sys : Bool
  prio : Nat
  record : DWord
  entry : DWord
  params : DWord
  hbase : DWord
  scratch : Nat
  tiles : Nat
  levels : List Level
  deps : List Dep
  idem : Bool
  pin : Bool
  cvar : Nat
  exv : Bool
  exhdr : Nat
  exnum : Nat
  deleg : Word
  phint : Nat
  instances : Nat
  /-- units placed so far, companies that have ended, REASON recorded (R299) -/
  units : Nat
  ended : Nat
  reason : Nat
  /-- CODE and OFFSET of a refusal (R299) -/
  refused : Option (Nat × Nat)
  deriving DecidableEq, Repr

/-- A rung of a ladder object (R347). -/
structure Rung where
  entry : DWord
  scratch : Nat
  tiles : Nat
  fsize : Nat
  idem : Bool
  starve : Nat
  deriving DecidableEq, Repr

/-- A bound ladder (R346). Waiting items carry their argument and the deck cycle of their arrival. -/
structure Ladder where
  id : Nat
  part : Nat
  deck : Nat
  launch : Nat
  asid : BitVec 12
  obj : DWord
  res : DWord
  frames : DWord
  params : DWord
  cap : Nat
  retvar : Nat
  prio : Nat
  rungs : List Rung
  posted : Word
  retired : Word
  waiting : List (List (Nat × Word × Nat))
  args : List (Nat × Word)
  done : List Nat
  slotloss : Nat
  packs : List Packed
  deriving DecidableEq, Repr

/-- A bound snapshot pool (R369). -/
structure Pool where
  id : Nat
  part : Nat
  deck : Nat
  launch : Nat
  asid : BitVec 12
  obj : DWord
  base : DWord
  live : DWord
  slotb : Nat
  nslot : Nat
  slots : List (Nat × Nat)
  /-- where the object lies -/
  place : Option Loc
  deriving DecidableEq, Repr

/-- An operation of the snapshot unit (R370). -/
inductive SnapKind where
  | snap | sel | free
  deriving DecidableEq, Repr

/-- An operation that waits for its turn or its copy at the snapshot unit (R370, R371). -/
structure SnapOp where
  id : Nat
  kind : SnapKind
  part : Nat
  asid : BitVec 12
  obj : DWord
  node : Nat
  /-- SIZE of `snap`, KEEP of `snapfree` -/
  x : Nat
  cid : Nat
  tid : Nat
  lanes : List Nat
  d : Reg
  /-- where its object lies -/
  place : Option Loc
  /-- its copy has begun, so that its pool is bound -/
  begun : Bool
  deriving DecidableEq, Repr

/-- A probe unit (R386, R387). -/
structure Probe where
  block : DWord
  en : Bool
  config : Word
  base : Word
  min : Nat
  max : Nat
  count : Nat
  sum : Nat
  bins : List Nat
  deriving DecidableEq, Repr

/-- A watch descriptor in force (R320). -/
structure Watch where
  addr : DWord
  len : Nat
  rd : Bool
  wr : Bool
  deriving DecidableEq, Repr

/-- A pipe's running path (R23): the threads of its last group. -/
structure Path where
  cid : Nat
  tids : List Nat
  /-- its counter; none where the threads stand apart -/
  pc : Option DWord
  /-- the counter has not been taken since the issue -/
  fresh : Bool
  deriving DecidableEq, Repr

/-- A core site (R2, R3 and the registers of R67 that belong to the core). -/
structure Core where
  clk : Nat
  opps : Nat
  path0 : Option Path
  path1 : Option Path
  /-- register reads that the groups issued so far still need (R379) -/
  need : Nat
  /-- threads pipe 0 issued in this cycle, until pipe 1 has had its turn (R22) -/
  first : List (Nat × Nat)
  trapSys : DWord
  tslice : Word
  qfloor : Nat
  tsave : Nat
  trest : Nat
  eff : Nat
  auto : Bool
  cap : Nat
  allow : Nat
  dbgctl : Word
  watches : List Watch
  /-- mailbox control words in use (R238): entry, exported number, physical header byte -/
  exports : List (Nat × Nat × Nat)
  dumpSeq : Option Nat
  /-- the on-chip window where no company holds the storage (R155): the ranges whose unlisted bytes are 0, since they were washed (R394),
  and the bytes written since, by offset in canonical form -/
  known : List (Nat × Nat)
  spare : List Host.Cell
  probes : Vector Probe 8
  /-- outstanding counters by launch (R261) -/
  outst : List (Nat × Nat)
  deriving DecidableEq, Repr

/-- A deck site (R380 to R385, R390). -/
structure Deck where
  clk : Nat
  temp : Nat
  ovr : Option Nat
  double : Bool
  fenced : Bool
  deriving DecidableEq, Repr

/-- A RED region (R256, R389) with the contributions of its open epoch, in the order they entered (R258). -/
structure RedRegion where
  base : Nat
  len : Nat
  group : Nat
  landing : Nat
  entered : List (Nat × List Byte)
  deriving DecidableEq, Repr

/-- A Sokerex group (R389): its ranks and this package's rank. -/
structure Group where
  ranks : Nat
  rank : Nat
  deriving DecidableEq, Repr

/-- An eviction range (R158). -/
structure EvRange where
  start : DWord
  pages : Nat
  first : Nat
  last : Nat
  cls : Nat
  asid : Nat
  deriving DecidableEq, Repr

/-- A tenant partition (R375): its block, what the host installed for it, and its sync variables. -/
structure Part where
  defined : Bool
  decks : Nat
  roles : Nat
  regs : Nat
  keys : DWord
  asidtab : DWord
  qtab : DWord
  sbarea : Word
  syncovf : Nat
  pcshare : Nat
  fdeleg : Word
  migok : Bool
  migpool : DWord
  spill : DWord
  block : List Byte
  sched : Option (Nat × List EvRange)
  phase : Nat
  loaded : List (Nat × List Byte)
  groups : List Group
  reds : List RedRegion
  /-- bytes of the sync-variable window by offset, in canonical form, and the ranges of offsets whose unlisted bytes are 0, since their
  SRAM was washed when they came into the window (R153, R394) -/
  sync : List Host.Cell
  zeroed : List (Nat × Nat)
  /-- queues that have had a producer, host (`true`) or program (R293) -/
  makers : List (Nat × Bool)
  /-- doorbells rung (R293) and the queue whose unit was placed last, by priority (R297) -/
  bells : List Nat
  turns : List Nat
  /-- frames under migration with their new frames; `true` where the page is spilled (R376, R383) -/
  moving : List (Nat × Nat × Bool)
  /-- frames that firmware has taken from MIGPOOL and SPILL -/
  taken : List Nat
  deriving DecidableEq, Repr

/-- A package regulator (R378, R379). -/
structure Regulator where
  current : Nat
  limit : Nat
  deriving DecidableEq, Repr

/-- A cached translation (R326): the leaf entry of a page of an ASID. -/
structure TlbEntry where
  part : Nat
  asid : BitVec 12
  page : Nat
  size : Nat
  leaf : DWord
  deriving DecidableEq, Repr

/-- The command window (R374) and the command's start for the time-out of R376. -/
structure Window where
  op : Word
  part : Word
  arg : DWord
  status : Nat
  since : Nat
  /-- the argument block as read when the command began -/
  block : List Byte
  /-- its preconditions have been met, and it has begun to move pages (R376) -/
  begun : Bool
  deriving DecidableEq, Repr

/-- The issue group that executes next (R22): its threads, their counter, and the instruction word once fetched. -/
structure Issue where
  core : Nat
  cid : Nat
  pc : DWord
  tids : List Nat
  word : Word
  len : Nat
  deriving DecidableEq, Repr

/-- A trap that a thread of the executing instruction takes unless the instruction raises in it one that R304 puts earlier. -/
structure Rival where
  cid : Nat
  tid : Nat
  trap : Trap
  deriving DecidableEq, Repr

/-- A name under which a byte has been written (R160, R170): ASID and address, the writing thread (none: an engine), and its first
`aliasf` of each scope since: when, and the scope. -/
structure ByteName where
  asid : Nat
  va : Nat
  cid : Nat
  tid : Option Nat
  fenced : List (Nat × Nat)
  deriving DecidableEq, Repr
/-- A write that a byte of device memory has taken: when, in `fresh`; its name, none where the byte was only enciphered anew or written
by its device-physical address; and what the byte held before. -/
structure Write where
  time : Nat
  name : Option ByteName
  old : Byte
  deriving DecidableEq, Repr
/-- The writes of a byte of device memory, the latest first (R170, R180). -/
structure ByteMark where
  addr : Nat
  writes : List Write
  deriving DecidableEq, Repr
/-- A 64-byte line of device memory in which programs have stored: the key it is enciphered under (none: it goes with any), the keys
before, each with when, in `fresh`, it was replaced (R393); and the `iinv`s of it: when, scope and core (R180). -/
structure LineMark where
  line : Nat
  key : Option ByteKey
  past : List (Nat × Option ByteKey)
  iinvs : List (Nat × Nat × Nat)
  deriving DecidableEq, Repr

/-- The whole machine. [DESIGN CHOICE, log 7] -/
structure State where
  threads : List Thread
  troupes : List Troupe
  companies : List Company
  barriers : List Barrier
  ops : List MemOp
  mbox : List MbOp
  cmds : List Cmd
  launches : List Launch
  ladders : List Ladder
  pools : List Pool
  snaps : List SnapOp
  cores : Vector Core 384
  decks : Vector Deck 24
  /-- TOVR as last written, by pier (R385) -/
  tovr : Vector Word 4
  regulators : Vector Regulator 4
  parts : Vector Part 4
  tlb : List TlbEntry
  window : Window
  /-- module status words (R390) -/
  status : Vector Word 4
  diag : Nat
  /-- device-physical memory in canonical form, addresses rising: the bytes that something has written, as plaintext -/
  mem : List Host.Cell
  /-- the writes of the bytes that programs have stored, by rising address, and their lines -/
  marks : List ByteMark
  lines : List LineMark
  /-- the group whose instruction executes next -/
  issue : Option Issue
  /-- traps that threads of the executing instruction take unless it raises earlier ones in them (R304); none between steps -/
  rivals : List Rival
  /-- an uncorrectable error that the next instruction meets: 1 in its own word, 2 in a register of a thread, 3 in data it
  reads at issue (R303) -/
  bad : Nat
  /-- the order in which the other agents move and what reaches the device from outside -/
  agenda : List Instr
  /-- counter that each use of a free value advances (R8) -/
  fresh : Nat
  /-- next identifier for companies, operations, commands and cohorts -/
  nextId : Nat
  deriving DecidableEq, Repr

/-- Reasons a step could fault. No rule of the manual stops the machine, so no meaning raises one; the type is closed. -/
inductive Fault where
  /-- The machine has stopped for good. Nobody raises it: every bad case of the manual is a trap or has no effect.
  Safe. -/
  | stopped
  deriving DecidableEq, Repr

/-- Reasons the model refuses a step. -/
inductive Refusal where
  /-- Raised by an arm of `exec` that has no meaning yet, with the mnemonic of the opcode table. Safe. -/
  | notModelled (mnemonic : String)
  deriving DecidableEq, Repr

/-- A probe after reset (R386): registers 0; accumulators cleared (a log entry names this choice). [DESIGN CHOICE, log 4] -/
def Probe.reset : Probe :=
  { block := 0, en := false, config := 0, base := 0, min := 0xFFFFFFFF, max := 0, count := 0, sum := 0,
    bins := List.replicate 16 0 }

/-- A core after reset: the Reset columns of R311, R318, R321, R379, R381 and R386. -/
def Core.reset : Core :=
  { clk := 0, opps := 0, path0 := none, path1 := none, need := 0, first := [], trapSys := 0, tslice := 0, qfloor := 64, tsave := 0,
    trest := 0, eff := 32, auto := true, cap := 32, allow := 256, dbgctl := 0, watches := [], exports := [],
    dumpSeq := none, known := [], spare := [], probes := Vector.replicate 8 Probe.reset, outst := [] }

/-- A deck after reset (R380, R382, R385). -/
def Deck.reset : Deck := { clk := 0, temp := 0, ovr := none, double := false, fenced := false }

/-- A partition before the host defines it (R375). -/
def Part.reset : Part :=
  { defined := false, decks := 0, roles := 0, regs := 0, keys := 0, asidtab := 0, qtab := 0, sbarea := 0, syncovf := 0,
    pcshare := 0, fdeleg := 0, migok := false, migpool := 0, spill := 0, block := [], sched := none, phase := 0,
    loaded := [], groups := [], reds := [], sync := [], zeroed := [], makers := [], bells := [], turns := [63, 63, 63, 63], moving := [], taken := [] }

/-- The machine right after module reset: self-test state, no partition, no launch, memory with nothing listed. [DESIGN CHOICE, log 5] -/
def State.reset : State :=
  { threads := [], troupes := [], companies := [], barriers := [], ops := [], mbox := [], cmds := [], launches := [],
    ladders := [], pools := [], snaps := [], cores := Vector.replicate 384 Core.reset,
    decks := Vector.replicate 24 Deck.reset, tovr := Vector.replicate 4 0,
    regulators := Vector.replicate 4 { current := 0, limit := 0 }, parts := Vector.replicate 4 Part.reset, tlb := [],
    window := { op := 0, part := 0, arg := 0, status := 1, since := 0, block := [], begun := false }, status := Vector.replicate 4 0, diag := 0,
    mem := [], marks := [], lines := [], issue := none, rivals := [], bad := 0, agenda := [], fresh := 0, nextId := 0 }

end Sys2Proof.Machine
end

