-- ==== Sys2Proof/Machine/Cipher.lean ====
section
/-!
DEFINITION. The cipher of device memory (R393): AES-256 and its XTS mode on one line of 64 bytes.
-/
namespace Sys2Proof.Machine

/-! ### AES-256, on bytes as numbers (R393 names it; FIPS 197 defines it). [PRESUMED, log 110] -/

/-- A byte times x in the field of AES. -/
def aesDouble (a : Nat) : Nat := if 128 ≤ a then (2 * a) ^^^ 0x11B else 2 * a
/-- The product in the field of AES, by the low bits of `b`. -/
def aesMul : Nat → Nat → Nat → Nat
  | 0, _, _ => 0
  | n + 1, a, b => (if b % 2 = 1 then a else 0) ^^^ aesMul n (aesDouble a) (b / 2)
/-- The inverse in the field of AES, 0 of 0: the power 254. -/
def aesInv (a : Nat) : Nat :=
  ((List.range 7).foldl (fun (x : Nat × Nat) _ => let q := aesMul 8 x.1 x.1; (q, aesMul 8 x.2 q)) (a, 1)).2
/-- A byte rotated left. -/
def rotByte (a n : Nat) : Nat := (a <<< n ||| a >>> (8 - n)) % 256
/-- The substitution of a byte; its inverse. -/
def aesSub (a : Nat) : Nat :=
  let b := aesInv a
  b ^^^ rotByte b 1 ^^^ rotByte b 2 ^^^ rotByte b 3 ^^^ rotByte b 4 ^^^ 0x63
@[inherit_doc aesSub] def aesUnsub (a : Nat) : Nat := aesInv (rotByte a 1 ^^^ rotByte a 3 ^^^ rotByte a 6 ^^^ 0x05)

/-- Bitwise sum of two lists of bytes. -/
def xorBytes (a b : List Nat) : List Nat := List.zipWith (· ^^^ ·) a b
/-- The next word of the key schedule: word `i` from the words before it, the latest first. -/
def aesNextWord (i : Nat) (ws : List (List Nat)) : List Nat :=
  let t := ws.headD []
  let t :=
    if i % 8 = 0 then xorBytes ((t.drop 1 ++ t.take 1).map aesSub) [1 <<< (i / 8 - 1), 0, 0, 0]
    else if i % 8 = 4 then t.map aesSub else t
  xorBytes (ws.getD 7 []) t
/-- The 60 words of the key schedule of 32 key bytes, the latest first. -/
def aesSchedule (key : List Nat) : List (List Nat) :=
  (List.range 52).foldl (fun ws i => aesNextWord (8 + i) ws :: ws) ((List.range 8).map fun i => (key.drop (4 * i)).take 4).reverse
/-- The key of round `r`, 16 bytes. -/
def aesRoundKey (ws : List (List Nat)) (r : Nat) : List Nat := ((List.range 4).map fun i => ws.getD (59 - (4 * r + i)) []).flatten
/-- The rows of a block shift by their number, left or right. -/
def aesRows (left : Bool) (b : List Nat) : List Nat :=
  (List.range 16).map fun i => b.getD ((i + (if left then 4 else 12) * (i % 4)) % 16) 0
/-- Each column of a block times a row of coefficients. -/
def aesColumns (k : List Nat) (b : List Nat) : List Nat :=
  (List.range 16).map fun i =>
    (List.range 4).foldl (fun x j => x ^^^ aesMul 8 (b.getD (i / 4 * 4 + j) 0) (k.getD ((j + 4 - i % 4) % 4) 0)) 0
/-- A block under a key schedule. -/
def aesEncrypt (ws : List (List Nat)) (b : List Nat) : List Nat :=
  (List.range 14).foldl (fun b r =>
    let c := aesRows true (b.map aesSub)
    xorBytes (if r = 13 then c else aesColumns [2, 3, 1, 1] c) (aesRoundKey ws (r + 1))) (xorBytes b (aesRoundKey ws 0))
@[inherit_doc aesEncrypt] def aesDecrypt (ws : List (List Nat)) (b : List Nat) : List Nat :=
  (List.range 14).foldl (fun b i =>
    let c := xorBytes ((aesRows false b).map aesUnsub) (aesRoundKey ws (13 - i))
    if i = 13 then c else aesColumns [14, 11, 13, 9] c) (xorBytes b (aesRoundKey ws 14))

/-! ### XTS on a line (IEEE 1619). [PRESUMED, log 110] -/

/-- Little-endian bytes of a number; the number of little-endian bytes. -/
def numBytes (n x : Nat) : List Nat := (List.range n).map fun i => x >>> (8 * i) % 256
@[inherit_doc numBytes] def bytesNum : List Nat → Nat
  | [] => 0
  | b :: r => b + 256 * bytesNum r
/-- The blocks of a data unit, each between two sums with the tweak, which doubles from block to block. -/
def xtsBlocks (f : List Nat → List Nat) : Nat → Nat → List Nat → List Nat
  | 0, _, _ => []
  | n + 1, t, bs =>
    let w := numBytes 16 t
    xorBytes (f (xorBytes (bs.take 16) w)) w ++
      xtsBlocks f n (if 2 ^ 127 ≤ t then (2 * t - 2 ^ 128) ^^^ 0x87 else 2 * t) (bs.drop 16)
/-- A line of 64 bytes under 64 bytes of key material: the first half enciphers the blocks, the second the line's device-physical
address, its tweak. -/
def xtsLine (enc : Bool) (material : List Byte) (line : Nat) (bs : List Byte) : List Byte :=
  let k := material.map (·.toNat)
  let ws := aesSchedule (k.take 32)
  let t := bytesNum (aesEncrypt (aesSchedule (k.drop 32)) (numBytes 16 (64 * line)))
  (xtsBlocks (if enc then aesEncrypt ws else aesDecrypt ws) 4 t (bs.map (·.toNat))).map (BitVec.ofNat 8)
/-- A line under a key: material that no KEY command has loaded is not known. -/
def ByteKey.cipher (k : ByteKey) (enc : Bool) (line : Nat) (bs : List Byte) : List Byte :=
  if k.material.length = 64 then xtsLine enc k.material line bs
  else (List.range 64).map fun i => Config.cipherByte (k.part * 64 + k.id) enc line bs i
/-- What a line enciphered under one key is under another. -/
def ByteKey.rekeyed (from_ to_ : ByteKey) (line : Nat) (bs : List Byte) : List Byte :=
  if from_ = to_ then bs else to_.cipher false line (from_.cipher true line bs)

end Sys2Proof.Machine
end

