-- ==== Sys2Proof/Machine/Memory.lean ====
section
/-!
DEFINITION. Storage: canonical byte lists, the bytes behind a location (device memory, scratchpads, the on-chip window
of R154, sync variables), and the translation and access checks of R146 to R154, R168, R169 and R326.
-/
namespace Sys2Proof.Machine
open Sys2Proof.Config

/-! ### Canonical byte lists -/

/-- The byte at an address, where something has written it. -/
def cellFind : List Host.Cell → Nat → Option Byte
  | [], _ => none
  | (a, b) :: r, x => if x = a then some b else if x < a then none else cellFind r x

/-- Stores a byte and keeps the list canonical: addresses rise, and where an unlisted address reads as 0 (`zero`) no entry is 0. -/
def cellSet (zero : Nat → Bool) : List Host.Cell → Nat → Byte → List Host.Cell
  | [], x, b => if zero x && b == 0 then [] else [(x, b)]
  | (a, c) :: r, x, b =>
    if x < a then (if zero x && b == 0 then (a, c) :: r else (x, b) :: (a, c) :: r)
    else if x = a then (if zero x && b == 0 then r else (a, b) :: r)
    else (a, c) :: cellSet zero r x b
/-- Nothing is known of unlisted bytes. -/
def noZero (_ : Nat) : Bool := false
/-- Stores a byte where nothing is known of unlisted bytes. -/
def cellPut (m : List Host.Cell) (x : Nat) (b : Byte) : List Host.Cell := cellSet noZero m x b

/-- Every address of the list lies above `lo`, rising; no entry is 0 where an unlisted address reads as 0. -/
def Memory.wfFrom (zero : Nat → Bool) (lo : Nat) : List Host.Cell → Bool
  | [] => true
  | (a, b) :: r => lo ≤ a && !(zero a && b == 0) && Memory.wfFrom zero (a + 1) r
/-- The canonical form of a byte list; by default nothing is known of unlisted bytes. -/
def Memory.wf (m : List Host.Cell) (zero : Nat → Bool := noZero) : Bool := Memory.wfFrom zero 0 m
/-- An address lies in one of some ranges, each a start and a length. -/
def inRanges (ranges : List (Nat × Nat)) (a : Nat) : Bool := ranges.any fun r => r.1 ≤ a && a < r.1 + r.2

/-- Little-endian bytes of a value (R5). -/
def bytesOf (n : Nat) (x : Nat) : List Byte :=
  match n with
  | 0 => []
  | n + 1 => BitVec.ofNat 8 x :: bytesOf n (x / 256)

/-- The value of little-endian bytes (R5). -/
def natOf : List Byte → Nat
  | [] => 0
  | b :: r => b.toNat + 256 * natOf r

/-! ### Lookups in the flat lists -/

/-- The thread `tid` of a company. -/
def State.thread? (s : State) (cid tid : Nat) : Option Thread :=
  s.threads.find? fun t => t.cid == cid && t.tid == tid
/-- Changes one thread. -/
def State.updThread (s : State) (cid tid : Nat) (f : Thread → Thread) : State :=
  { s with threads := s.threads.map fun t => if t.cid == cid && t.tid == tid then f t else t }
/-- Changes every thread that satisfies a test. -/
def State.updThreads (s : State) (p : Thread → Bool) (f : Thread → Thread) : State :=
  { s with threads := s.threads.map fun t => if p t then f t else t }
/-- The troupe `idx` of a company. -/
def State.troupe? (s : State) (cid idx : Nat) : Option Troupe :=
  s.troupes.find? fun t => t.cid == cid && t.idx == idx
/-- Changes one troupe. -/
def State.updTroupe (s : State) (cid idx : Nat) (f : Troupe → Troupe) : State :=
  { s with troupes := s.troupes.map fun t => if t.cid == cid && t.idx == idx then f t else t }
/-- A company. -/
def State.company? (s : State) (cid : Nat) : Option Company := s.companies.find? fun c => c.cid == cid
/-- Changes one company. -/
def State.updCompany (s : State) (cid : Nat) (f : Company → Company) : State :=
  { s with companies := s.companies.map fun c => if c.cid == cid then f c else c }
/-- A core site; sites beyond the last read as after reset. -/
def State.core (s : State) (c : Nat) : Core := s.cores.getD c Core.reset
/-- Changes one core site. -/
def State.updCore (s : State) (c : Nat) (f : Core → Core) : State :=
  { s with cores := s.cores.setIfInBounds c (f (s.core c)) }
/-- A deck site. -/
def State.deck (s : State) (d : Nat) : Deck := s.decks.getD d Deck.reset
/-- Changes one deck site. -/
def State.updDeck (s : State) (d : Nat) (f : Deck → Deck) : State :=
  { s with decks := s.decks.setIfInBounds d (f (s.deck d)) }
/-- A partition. -/
def State.part (s : State) (p : Nat) : Part := s.parts.getD p Part.reset
/-- Changes one partition. -/
def State.updPart (s : State) (p : Nat) (f : Part → Part) : State :=
  { s with parts := s.parts.setIfInBounds p (f (s.part p)) }
/-- A launch. -/
def State.launch? (s : State) (l : Nat) : Option Launch := s.launches.find? fun x => x.id == l
/-- Changes one launch. -/
def State.updLaunch (s : State) (l : Nat) (f : Launch → Launch) : State :=
  { s with launches := s.launches.map fun x => if x.id == l then f x else x }

/-- The deck site of a core: 6 × pier + deck (R2). -/
def deckOf (core : Nat) : Nat := core / 16
/-- The pier of a core (R2). -/
def pierOf (core : Nat) : Nat := core / 96
/-- The core holds the company's resources (R324): it has not left the core. -/
def Company.onCore (c : Company) : Bool :=
  match c.state with
  | .saved => false
  | .flushed => false
  | .ended => false
  | _ => true

/-- Deck sites of a partition in enumeration order (R375). -/
def Part.deckList (p : Part) : List Nat := (List.range 24).filter fun d => p.decks.testBit d
/-- Number of decks of a partition, over both roles (R153). -/
def Part.ndecks (p : Part) : Nat := p.deckList.length
/-- A deck of the partition in the compute role (R1, R375). -/
def Part.computes (p : Part) (d : Nat) : Bool := p.decks.testBit d && p.roles.testBit d
/-- The core is powered: its deck computes in some partition and is not fenced (R1, R390). -/
def State.powered (s : State) (core : Nat) : Bool :=
  core < 384 && !(s.deck (deckOf core)).fenced && s.parts.toList.any fun p => p.defined && p.computes (deckOf core)

/-! ### The bytes behind a location -/

/-- What an on-chip address reaches (R154). -/
inductive ChipItem where
  | reg (cid tid : Nat) (r : Reg) (byte : Nat)
  | scratch (cid b : Nat)
  | tile (cid trp n elem byte : Nat)
  | mail (core entry byte : Nat)
  /-- storage of a slot, range or entry that holds no resident company (R155) -/
  | empty (core off : Nat)
  deriving DecidableEq, Repr

/-- The item at an offset of a core's on-chip window (R154, R262). [DEDUCED, log 19] -/
def State.chipItem (s : State) (core off : Nat) : ChipItem :=
  let here := s.companies.filter fun c => c.core == core && c.onCore
  if off < 0x40000 then
    match s.troupes.find? fun t => t.slot == off / 8192 && here.any fun c => c.cid == t.cid with
    | some t => .reg t.cid (t.idx * 32 + off % 8192 / 256) (BitVec.ofNat 6 (off % 256 / 4)) (off % 4)
    | none => .empty core off
  else if off < 0xA0000 then
    match here.find? fun c => c.scrP ≤ off - 0x40000 && off - 0x40000 < c.scrP + c.scrS with
    | some c => .scratch c.cid (off - 0x40000 - c.scrP)
    | none => .empty core off
  else if off < 0x120000 then
    let m := (off - 0xA0000) / 4096
    match here.find? fun c => c.tileF ≤ m && m < c.tileF + c.ntr * c.tileT with
    | some c => .tile c.cid ((m - c.tileF) / c.tileT) ((m - c.tileF) % c.tileT) ((off - 0xA0000) % 4096 / 4) (off % 4)
    | none => .empty core off
  else .mail core ((off - 0x120000) / 16) (off % 16)

/-- Byte `i` of a word. -/
def byteOf (w : Word) (i : Nat) : Byte := w.extractLsb' (8 * i) 8
/-- A word with byte `i` replaced. -/
def setByteOf (w : Word) (i : Nat) (b : Byte) : Word :=
  (w &&& ~~~(0xFF#32 <<< (8 * i))) ||| (b.setWidth 32 <<< (8 * i))

/-- An entry of the mailbox control words (R238). -/
def mailWord (exports : List (Nat × Nat × Nat)) (entry : Nat) : Nat :=
  match exports.find? fun e => e.1 == entry with
  | some (_, num, hdr) => 2 ^ 63 + num * 2 ^ 32 + hdr
  | none => 0

/-- The byte of storage that no company holds: unpredictable where nothing has written it (R8, R155). -/
def Core.spareGet (k : Core) (fresh core off : Nat) : Byte :=
  (cellFind k.spare off).getD (if inRanges k.known off then 0 else Config.freeByte fresh (core * Config.chipSize + off))
/-- Such a byte takes a value. -/
def Core.spareSet (k : Core) (off : Nat) (b : Byte) : Core := { k with spare := cellSet (inRanges k.known) k.spare off b }
/-- Ranges without the `n` bytes from `x` on. -/
def cutRange (x n : Nat) (rs : List (Nat × Nat)) : List (Nat × Nat) :=
  rs.flatMap fun r =>
    if r.1 + r.2 ≤ x || x + n ≤ r.1 then [r]
    else (if r.1 < x then [(r.1, x - r.1)] else []) ++ (if x + n < r.1 + r.2 then [(x + n, r.1 + r.2 - (x + n))] else [])
/-- A company takes `n` bytes of the window from `x` on: what stood there is no longer known (R155). -/
def Core.taken (k : Core) (x n : Nat) : Core :=
  { k with known := cutRange x n k.known, spare := k.spare.filter fun c => c.1 < x || x + n ≤ c.1 }

/-- A byte of a company's scratchpad (R152); one that nothing has written since the company's start is unpredictable (R8, R394). -/
def Company.scratchGet (c : Company) (b : Nat) : Byte := (cellFind c.scratch b).getD (Config.scratchByte c.cid c.seed b)
/-- Such a byte takes a value. -/
def Company.scratchSet (c : Company) (x : Nat) (b : Byte) : Company := { c with scratch := cellPut c.scratch x b }

/-- Reads an on-chip byte (R154). -/
def State.chipGet (s : State) (core off : Nat) : Byte :=
  match s.chipItem core off with
  | .reg cid tid r i => match s.thread? cid tid with
    | some t => byteOf (t.v[r.toNat]) i
    | none => 0
  | .scratch cid b => match s.company? cid with
    | some c => c.scratchGet b
    | none => 0
  | .tile cid trp n e i => match s.troupe? cid trp with
    | some t => match t.tiles[n]? with
      | some tl => byteOf (tl.data.getD e 0) i
      | none => 0
    | none => 0
  | .mail c e i => (bytesOf 16 (mailWord (s.core c).exports e)).getD i 0
  | .empty c off => (s.core c).spareGet s.fresh c off

/-- Tiles on which matrix work is outstanding (R263, R264). -/
def MWork.tiles : MWork → List Nat
  | .step n .. => [n]
  | .zero n => [n]
  | .merge n x .. => [n, n + 1, x]
  | .load n fmt .. => if fmt == 1 then [n, n + 1] else [n]
  | .drain n _ two => if two then [n, n + 1] else [n]
  | .loop l => [l.tile]
@[inherit_doc MWork.tiles] def Troupe.busy (u : Troupe) (n : Nat) : Bool := u.work.any fun w => w.tiles.contains n

/-- Contents of a tile that are unpredictable (R8). -/
def Tile.scramble (fresh : Nat) (tl : Tile) : Tile := { tl with data := ⟨⟨(List.range 1024).map (Config.freeWord fresh)⟩, by simp⟩ }

/-- Byte `i` of element `e` of a tile takes a value. -/
def Tile.setByte (tl : Tile) (e i : Nat) (b : Byte) : Tile :=
  { tl with data := tl.data.setIfInBounds e (setByteOf (tl.data.getD e 0) i b) }

/-- A register byte is written through the window. Its word is written whole, from byte 0 on, and until the thread has made an acquire and
then issued a switch marker, it may see the word before the write (R155). -/
def Thread.farByte (t : Thread) (key : Nat) (r : Reg) (i : Nat) (b : Byte) : Thread :=
  { t with v := t.v.set r.toNat (setByteOf (t.v[r.toNat]) i b),
           far := if i == 0 then ⟨r, t.v[r.toNat], key, false, false⟩ :: t.far else t.far }
/-- A word of a tile of the thread's troupe is written through the window: the same for each thread (R155). -/
def Thread.farTile (t : Thread) (key n e : Nat) (old : Word) : Thread :=
  { t with farTiles := ⟨n, e, old, key, false⟩ :: t.farTiles }
/-- Writes an on-chip byte (R154, R155, R238): control words take nothing; a write to a busy tile leaves it unpredictable. [DEDUCED, log 17] -/
def State.chipSet (s : State) (core off : Nat) (b : Byte) : State :=
  match s.chipItem core off with
  | .reg cid tid r i => s.updThread cid tid fun t => t.farByte s.fresh r i b
  | .scratch cid x => s.updCompany cid fun c => c.scratchSet x b
  | .tile cid trp n e i =>
    let put (u : Troupe) (tl : Tile) : Tile := if u.busy n then tl.scramble s.fresh else tl.setByte e i b
    match s.troupe? cid trp with
    | none => s
    | some u =>
      let old := match u.tiles[n]? with | some tl => tl.data.getD e 0 | none => 0
      ((if i == 0 then s.updThreads (fun t => t.cid == cid && t.tid / 32 == trp) fun t => t.farTile s.fresh n e old else s).updTroupe cid trp
        fun u => { u with tiles := u.tiles.modify n (put u) })
  | .mail _ _ _ => s
  | .empty c off => s.updCore c fun k => k.spareSet off b

/-- The core whose on-chip window holds a device-physical address (R154). -/
def chipCore (a : Nat) : Option Nat :=
  if chipBase ≤ a && a < chipBase + 384 * chipSize then some ((a - chipBase) / chipSize) else none

/-- A byte of device memory, as its owner holds it; one that nothing has written is unpredictable (R8, R394). [DESIGN CHOICE, log 1] -/
def State.memByte (s : State) (a : Nat) : Byte := (cellFind s.mem a).getD (Config.emptyByte a)
/-- The writes of a byte. -/
def State.writesOf (s : State) (a : Nat) : List Write :=
  match s.marks.find? fun m => m.addr == a with
  | some m => m.writes
  | none => []
/-- What stood somewhere at a moment, from what stands there now and what each change, the latest first, has replaced. -/
def pastOf {α : Type} (moment : Nat) : List (Nat × α) → α → α
  | [], x => x
  | c :: r, x => if moment ≤ c.1 then pastOf moment r c.2 else x
/-- The byte at a moment: all writes before it have happened, and no other. -/
def State.pastByte (s : State) (moment a : Nat) : Byte := pastOf moment ((s.writesOf a).map fun w => (w.time, w.old)) (s.memByte a)
/-- The record of a line. -/
def State.lineOf (s : State) (line : Nat) : Option LineMark := s.lines.find? fun l => l.line == line
/-- Moments from `cut` on at which a halfword can have stood as it did: `cut`, and after each later write. -/
def State.moments (s : State) (cut a : Nat) : List Nat :=
  cut :: ((s.writesOf (a / 2 * 2) ++ s.writesOf (a / 2 * 2 + 1)).filter fun w => cut ≤ w.time).map fun w => w.time + 1
/-- The moment at which an access from `cut` on has found a halfword: any, by a free choice; without one, now. -/
def State.momentOf (s : State) (a : Nat) : Option Nat → Nat
  | none => s.fresh + 1
  | some c => (s.moments c a).getD ((Config.freeWord s.fresh (a / 2)).toNat % (s.moments c a).length) c
/-- What an access under a key obtains of a byte at a moment: what it held, or, of a line under another key then, what deciphering
gives (R393). -/
def State.viewAt (s : State) (a : Nat) (key : ByteKey) (moment : Nat) : Byte :=
  match s.lineOf (a / 64) with
  | none => s.pastByte moment a
  | some l => match pastOf moment l.past l.key with
    | none => s.pastByte moment a
    | some k => if k == key then s.pastByte moment a
      else (k.rekeyed key (a / 64) ((List.range 64).map fun i => s.pastByte moment (a / 64 * 64 + i))).getD (a % 64) 0

/-- Position of a sync variable within its deck (R153); it lies in SRAM below 4 MiB. -/
def syncPos (p : Part) (o : Nat) : Nat := o / 2 ^ 22 / p.ndecks * 2 ^ 22 + o % 2 ^ 22
/-- A byte of a sync variable: SRAM has been zeroed (R394), and one of the overflow areas that nothing has written is unpredictable. -/
def Part.syncGet (p : Part) (part o : Nat) : Byte :=
  (cellFind p.sync o).getD (if inRanges p.zeroed o then 0 else Config.syncByte part o)
/-- Such a byte takes a value. -/
def Part.syncSet (p : Part) (o : Nat) (b : Byte) : Part := { p with sync := cellSet (inRanges p.zeroed) p.sync o b }

/-- The byte at a location. -/
def State.getLoc (s : State) : Loc → Byte
  | .foreign a => Config.freeByte s.fresh a
  | .view a key cut => s.viewAt a key (s.momentOf a cut)
  | .phys a => match chipCore a with
    | some c => s.chipGet c ((a - chipBase) % chipSize)
    | none => s.memByte a
  | .scratch cid b => match s.company? cid with
    | some c => c.scratchGet b
    | none => 0
  | .sync p o => (s.part p).syncGet p o

/-- Stores a byte at a location. -/
def State.setLoc (s : State) (l : Loc) (b : Byte) : State :=
  match l with
  | .phys a => match chipCore a with
    | some c => s.chipSet c ((a - chipBase) % chipSize) b
    | none => { s with mem := cellPut s.mem a b }
  | .foreign a | .view a _ _ => { s with mem := cellPut s.mem a b }
  | .scratch cid x => s.updCompany cid fun c => c.scratchSet x b
  | .sync p o => s.updPart p fun q => q.syncSet o b

/-- The byte that an access reaches, however it sees it. -/
def Loc.plain : Loc → Loc
  | .foreign a | .view a _ _ => .phys a
  | l => l
/-- A byte of scratchpad reached through an on-chip window is the byte of that scratchpad. -/
def State.canon (s : State) (l : Loc) : Loc :=
  match l.plain with
  | .phys a => match chipCore a with
    | some c => match s.chipItem c ((a - chipBase) % chipSize) with
      | .scratch cid b => .scratch cid b
      | _ => l.plain
    | none => l.plain
  | _ => l.plain

/-- The bytes at locations. -/
def State.getLocs (s : State) (ls : List Loc) : List Byte := ls.map s.getLoc
/-- Stores bytes at locations. -/
def State.setLocs (s : State) : List Loc → List Byte → State
  | l :: ls, b :: bs => (s.setLoc l b).setLocs ls bs
  | _, _ => s

/-- Device-physical bytes, as the walkers and engines read them. -/
def State.physBytes (s : State) (a n : Nat) : List Byte := (List.range n).map fun i => s.getLoc (.phys (a + i))
/-- A little-endian device-physical value. -/
def State.physNat (s : State) (a n : Nat) : Nat := natOf (s.physBytes a n)
/-- Stores device-physical bytes. -/
def State.setPhys (s : State) (a : Nat) (bs : List Byte) : State :=
  s.setLocs ((List.range bs.length).map fun i => .phys (a + i)) bs

/-! ### Page tables (R147, R148, R326, R375) -/

/-- Fields of a table entry (R148). -/
def pteV (e : Nat) : Bool := e.testBit 0
@[inherit_doc pteV] def pteR (e : Nat) : Bool := e.testBit 1
@[inherit_doc pteV] def pteW (e : Nat) : Bool := e.testBit 2
@[inherit_doc pteV] def pteX (e : Nat) : Bool := e.testBit 3
@[inherit_doc pteV] def pteU (e : Nat) : Bool := e.testBit 4
@[inherit_doc pteV] def pteMig (e : Nat) : Bool := e.testBit 5
@[inherit_doc pteV] def pteLeaf (e : Nat) : Bool := e.testBit 6
@[inherit_doc pteV] def pteSz64 (e : Nat) : Bool := e.testBit 7
@[inherit_doc pteV] def ptePa (e : Nat) : Nat := e / 4096 % 2 ^ 36 * 4096
@[inherit_doc pteV] def pteKind (e : Nat) : PKind :=
  match e / 2 ^ 50 % 4 with
  | 0 => .so
  | 1 => .rc
  | 2 => .uo
  | _ => .red
@[inherit_doc pteV] def pteKey (e : Nat) : Nat := e / 2 ^ 52 % 64

/-- Subcauses of PAGE (R149). -/
def pageNotValid : Nat := 1
@[inherit_doc pageNotValid] def pageFormat : Nat := 2

/-- A translation: the leaf entry in force, its page size and the address of the entry (R147). -/
structure Leaf where
  entry : Nat
  size : Nat
  at_ : Nat
  deriving DecidableEq, Repr

/-- The walk of R147 for an address of an ASID of a partition; the error is a PAGE subcause. [DEDUCED, log 21] -/
def State.walk (s : State) (p : Part) (asid va : Nat) : Except Nat Leaf :=
  let root := s.physNat (p.asidtab.toNat + 8 * asid) 8
  if !pteV root then .error pageNotValid else
  let e3 := s.physNat (ptePa root + va / 2 ^ 39 % 1024 * 8) 8
  if !pteV e3 then .error pageNotValid else if pteLeaf e3 then .error pageFormat else
  let a2 := ptePa e3 + va / 2 ^ 30 % 512 * 8
  let e2 := s.physNat a2 8
  if !pteV e2 then .error pageNotValid else if pteLeaf e2 then .ok ⟨e2, 2 ^ 30, a2⟩ else
  let a1 := ptePa e2 + va / 2 ^ 21 % 512 * 8
  let e1 := s.physNat a1 8
  if !pteV e1 then .error pageNotValid else if pteLeaf e1 then .ok ⟨e1, 2 ^ 21, a1⟩ else
  let i0 := va / 2 ^ 12 % 512
  let e0 := s.physNat (ptePa e1 + i0 * 8) 8
  if !pteV e0 then .error pageNotValid else
  if pteSz64 e0 then
    let b := ptePa e1 + i0 / 16 * 16 * 8
    let eb := s.physNat b 8
    if pteV eb then .ok ⟨eb, 2 ^ 16, b⟩ else .error pageNotValid
  else .ok ⟨e0, 2 ^ 12, ptePa e1 + i0 * 8⟩

/-- The translation of an address: a walk, or a cached one where there is one and the device has kept it, which is a
free choice (R326). A leaf whose KEY is not among the partition's keys faults as not valid (R375). [DEDUCED, log 15] [DESIGN CHOICE, log 18] -/
def State.translate (s : State) (part asid va : Nat) : Except Nat Leaf :=
  let p := s.part part
  let r : Except Nat Leaf := match s.tlb.find? fun e => e.part == part && e.asid.toNat == asid && e.page == va / e.size with
    | some e => if keepBit s.fresh e.page e.asid.toNat then .ok ⟨e.leaf.toNat, e.size, 0⟩ else s.walk p asid va
    | none => s.walk p asid va
  match r with
  | .ok l => if p.keys.toNat.testBit (pteKey l.entry) then .ok l else .error pageNotValid
  | .error e => .error e

/-- The device-physical address of a byte under a leaf (R148: PA bits below the page size are ignored). -/
def Leaf.phys (l : Leaf) (va : Nat) : Nat := ptePa l.entry / l.size * l.size + va % l.size

/-! ### Access checks (R146, R149, R152 to R154, R168, R169) -/

/-- What an access is, for the checks. -/
inductive Acc where
  /-- `ld`, `ldt`, engine reads; `st`, engine writes -/
  | load | store
  /-- `ldacq`, `strel` -/
  | acquire | release
  | atom | red
  /-- `ldp`; `stp`; `pladd` -/
  | planeR | planeW | planeRW
  /-- `cctl.zero`; what the snapshot unit writes (R370) -/
  | zero
  | fetch
  /-- writes of the tender and the fabric engine (R249) -/
  | engineW
  /-- `mon`; `kload`; `ksave`; `mload` rows and other loads refused on RED pages -/
  | monitor
  deriving DecidableEq, Repr

/-- Who accesses: the company, its ASID and privilege (R149, R150). -/
structure Who where
  cid : Nat
  part : Nat
  asid : Nat
  sys : Bool
  scr : Nat
  /-- the thread, where the access is one's (R170, R180) -/
  tid : Option Nat := none
  deriving DecidableEq, Repr

/-- Trap classes (R302). -/
abbrev cIllegal : Nat := 0
@[inherit_doc cIllegal] abbrev cPriv : Nat := 1
@[inherit_doc cIllegal] abbrev cAlign : Nat := 2
@[inherit_doc cIllegal] abbrev cPage : Nat := 3
@[inherit_doc cIllegal] abbrev cAccess : Nat := 4
@[inherit_doc cIllegal] abbrev cDataerr : Nat := 5
@[inherit_doc cIllegal] abbrev cFpexc : Nat := 6
@[inherit_doc cIllegal] abbrev cMask : Nat := 7
@[inherit_doc cIllegal] abbrev cBarrier : Nat := 8
@[inherit_doc cIllegal] abbrev cCflow : Nat := 9
@[inherit_doc cIllegal] abbrev cEngine : Nat := 10
@[inherit_doc cIllegal] abbrev cUnit : Nat := 11
@[inherit_doc cIllegal] abbrev cSoftware : Nat := 12
@[inherit_doc cIllegal] abbrev cDebug : Nat := 13

/-- Subcauses of ACCESS (R149). -/
abbrev aPerm : Nat := 1
@[inherit_doc aPerm] abbrev aWindow : Nat := 2
@[inherit_doc aPerm] abbrev aTile : Nat := 3
@[inherit_doc aPerm] abbrev aKind : Nat := 4
@[inherit_doc aPerm] abbrev aBounds : Nat := 5
@[inherit_doc aPerm] abbrev aMbox : Nat := 6

/-- An access that has passed its checks: the bytes, the kind of their page or the kinds of each, and whether a page is migrating. -/
structure Checked where
  locs : List Loc
  kinds : List PKind
  mig : Bool
  deriving DecidableEq, Repr

/-- A fault of an access at an address. -/
def faultAt (cls sub va : Nat) : Trap := { cls := cls, sub := sub, addr := BitVec.ofNat 64 va }

/-- Needs permission R, W (R149). -/
def Acc.reads : Acc → Bool
  | .load | .acquire | .atom | .planeR | .planeRW | .monitor => true
  | .store | .release | .red | .planeW | .zero | .fetch | .engineW => false
@[inherit_doc Acc.reads] def Acc.writes : Acc → Bool
  | .store | .release | .atom | .red | .planeW | .planeRW | .zero | .engineW => true
  | .load | .acquire | .planeR | .monitor | .fetch => false

/-- The access depends on what stands in memory. -/
def Acc.obtains : Acc → Bool
  | .load | .acquire | .atom | .red | .planeR | .planeRW | .monitor | .fetch => true
  | .store | .release | .planeW | .zero | .engineW => false

/-! ### How stored bytes are seen (R148, R170, R180, R393) -/

/-- The key of an identifier of a partition (R148, R393). -/
def Part.keyOf (p : Part) (part id : Nat) : ByteKey :=
  { part := part, id := id, material := match p.loaded.find? fun x => x.1 == id with | some x => x.2 | none => [] }
/-- Two agents lie in one instance of a scope: company, thread and core of each (R163). -/
def sameInst (scope : Nat) (a b : Nat × Nat × Nat) : Bool :=
  match scope with
  | 0 => a == b
  | 1 => a.1 == b.1 && a.2.1 / 32 == b.2.1 / 32
  | 2 => a.2.2 == b.2.2
  | 3 => deckOf a.2.2 == deckOf b.2.2
  | 4 => pierOf a.2.2 == pierOf b.2.2
  | _ => true
/-- The partition of a company. -/
def State.partOf (s : State) (cid : Nat) : Nat :=
  match s.company? cid with
  | some c => c.part
  | none => 0
/-- The core that runs a company. -/
def State.coreOf (s : State) (cid : Nat) : Nat := match s.company? cid with | some c => c.core | none => 0
/-- A write under a name that the reading thread does not use is seen for certain through an alias chain (R170): the writer's `aliasf`
came before the reader's, at one scope that holds both. [DEDUCED, log 16] -/
def State.chained (s : State) (t : Thread) (n : ByteName) : Bool :=
  match n.tid with
  | none => false
  | some i => n.fenced.any fun w => t.chain.any fun r =>
    w.2 == r.2 && w.1 < r.1 && sameInst r.2 (n.cid, i, s.coreOf n.cid) (t.cid, t.tid, s.coreOf t.cid)
/-- A write that a load of a thread through a name obtains for certain, unless it obtains a later one: it was made under that name
(R161), or an alias chain orders it before the load (R170). -/
def State.certain (s : State) (w : Who) (va : Nat) (x : Write) : Bool :=
  match x.name with
  | none => false
  | some n => (n.asid == w.asid && n.va == va) || match w.tid with
    | none => false
    | some i => match s.thread? w.cid i with
      | none => false
      | some t => s.chained t n
/-- From when on a load may find a byte as a write has left it (R170): from the latest write that is certain, where one after it is
not; else it finds what the byte holds. [DEDUCED, log 16] -/
def State.loadCut (s : State) (w : Who) (va a : Nat) : Option Nat :=
  match s.writesOf a with
  | [] => none
  | x :: r => if s.certain w va x then none
    else some (match r.find? (s.certain w va) with
      | some y => y.time + 1
      | none => 0)
/-- From when on a fetch may find a halfword as a write has left it (R180): from the latest `iinv` for the core before the thread's last
acquiring fence, where a write has come after it. [DEDUCED, log 14] -/
def State.fetchCut (s : State) (w : Who) (l : LineMark) (a : Nat) : Option Nat :=
  let fence := match w.tid with
    | some i => match s.thread? w.cid i with
      | some t => t.fence
      | none => 0
    | none => 0
  let c := (l.iinvs.filter fun x => x.1 < fence && sameInst x.2.1 (0, 0, x.2.2) (0, 0, s.coreOf w.cid)).foldl (fun c x => max c (x.1 + 1)) 0
  if (s.moments c a).length == 1 then none else some c
/-- How an access finds a byte of device memory under a leaf's key. [DESIGN CHOICE, log 18] -/
def State.seenAt (s : State) (w : Who) (k : Acc) (key : ByteKey) (va a : Nat) : Loc :=
  match s.lineOf (a / 64) with
  | none => .phys a
  | some l =>
    if !k.obtains then .phys a else
    let cut := if k == .fetch then s.fetchCut w l a else s.loadCut w va a
    if cut.isNone && (l.key.isNone || l.key == some key) then .phys a else .view a key cut
/-- A device-physical address finds plain bytes, but never another partition's (R394). [DESIGN CHOICE, log 18] -/
def State.physAt (s : State) (part a : Nat) : Loc :=
  match s.lineOf (a / 64) with
  | some l => match l.key with
    | some k => if k.part == part then .phys a else .foreign a
    | none => .phys a
  | none => .phys a

/-- Marks by rising address. -/
def markSet : List ByteMark → ByteMark → List ByteMark
  | [], m => [m]
  | x :: r, m => if m.addr < x.addr then m :: x :: r else if x.addr = m.addr then m :: r else x :: markSet r m
/-- Lines by rising number. -/
def lineSet : List LineMark → LineMark → List LineMark
  | [], m => [m]
  | x :: r, m => if m.line < x.line then m :: x :: r else if x.line = m.line then m :: r else x :: lineSet r m
/-- A byte is about to take a write under a name. -/
def State.markWrite (s : State) (a : Nat) (name : Option ByteName) : State :=
  { s with marks := markSet s.marks { addr := a, writes := ⟨s.fresh, name, s.memByte a⟩ :: s.writesOf a } }
/-- Loads in flight find bytes of a line under the key that it had. -/
def Loc.underKey (line : Nat) (key : ByteKey) : Loc → Loc
  | .phys a => if a / 64 == line then .view a key none else .phys a
  | l => l
/-- A store under a key takes a line: one that another key enciphers is enciphered anew, each other byte as deciphering under the new
key gives it (R393). -/
def State.claimLine (s : State) (key : ByteKey) (line : Nat) : State :=
  match s.lineOf line with
  | none => { s with lines := lineSet s.lines { line := line, key := some key, past := [], iinvs := [] } }
  | some l => match l.key with
    | none => { s with lines := lineSet s.lines { l with key := some key, past := (s.fresh, none) :: l.past } }
    | some k =>
      if k == key then s else
      let as := (List.range 64).map fun i => line * 64 + i
      let s := as.foldl (fun s a => s.markWrite a none) s
      let bs := k.rekeyed key line (as.map s.memByte)
      { s with mem := (as.zip bs).foldl (fun m x => cellPut m x.1 x.2) s.mem,
               lines := lineSet s.lines { l with key := some key, past := (s.fresh, some k) :: l.past },
               ops := s.ops.map fun o => { o with locs := o.locs.map (Loc.underKey line k) } }
/-- A store of `n` bytes at a device-physical address: what another partition has left in the lines is gone, and the bytes go with
any key that the lines do not have. [DESIGN CHOICE, log 18] -/
def State.claimPhys (s : State) (part a n : Nat) : State :=
  if (chipCore a).isSome || n == 0 then s else
  let lines := (List.range ((a + n - 1) / 64 - a / 64 + 1)).map fun i => a / 64 + i
  let gone := lines.filter fun l => match s.lineOf l with
    | some x => match x.key with
      | some k => k.part != part
      | none => false
    | none => false
  let s : State := { s with
    mem := s.mem.filter fun c => !gone.contains (c.1 / 64), marks := s.marks.filter fun m => !gone.contains (m.addr / 64),
    lines := s.lines.filter fun l => !gone.contains l.line }
  let s := lines.foldl (fun s l => if (s.lineOf l).isSome then s else
    { s with lines := lineSet s.lines { line := l, key := none, past := [], iinvs := [] } }) s
  (List.range n).foldl (fun s i => s.markWrite (a + i) none) s
/-- A store of `n` bytes within one page, about to perform, takes their lines and is entered among their writes (R170, R180, R393). -/
def State.claimPart (s : State) (w : Who) (va n : Nat) (fenced : List (Nat × Nat)) : State :=
  if va < scratchEnd || (syncBase ≤ va && va < syncEnd) || n == 0 then s else
  match s.translate w.part w.asid va with
  | .error _ => s
  | .ok l =>
    let a := l.phys va
    if pteKind l.entry == .red || (chipCore a).isSome then s else
    let key := (s.part w.part).keyOf w.part (pteKey l.entry)
    let s := (List.range ((a + n - 1) / 64 - a / 64 + 1)).foldl (fun s i => s.claimLine key (a / 64 + i)) s
    (List.range n).foldl (fun s i =>
      s.markWrite (a + i) (some { asid := w.asid, va := va + i, cid := w.cid, tid := w.tid, fenced := fenced })) s

/-! ### The checks -/

/-- The offset names a variable within SRAM or the overflow area (R153). -/
def syncIn (p : Part) (o : Nat) : Bool := p.ndecks != 0 && syncPos p o < 2 ^ 22 + p.syncovf * 2 ^ 20

/-- The subcause of ACCESS for `n` bytes at an offset of a core's on-chip window (R154). -/
def State.chipFault (s : State) (c off n : Nat) : Option Nat :=
  if !s.powered c || 0x121000 ≤ off then some aWindow
  else if (off < 0x40000 || (0xA0000 ≤ off && off < 0x120000)) && (n == 0 || n % 4 != 0 || off % 4 != 0) then some aKind
  else none
/-- The checks of one part of an access that lies within one page or window, in the order translation, permission,
window, kind (R149); a misaligned store to a RED page is ALIGN before the permissions (R168). An access that starts in the scratchpad
window and runs past its end reports its first byte. [DEDUCED, log 91] [DESIGN CHOICE, log 96] -/
def State.checkPart (s : State) (w : Who) (k : Acc) (va n : Nat) (aligned : Bool) : Except Trap Checked :=
  if va < scratchEnd then
    if k == .fetch then .error (faultAt cAccess aPerm va)
    else if va + n ≤ w.scr && va + n ≤ scratchEnd then
      .ok ⟨(List.range n).map fun i => .scratch w.cid (va + i), [.rc], false⟩
    else .error (faultAt cAccess aWindow va)
  else if 2 ^ 49 ≤ va then .error (faultAt cAccess aWindow va)
  else if syncBase ≤ va && va < syncEnd then
    let p := s.part w.part
    if k == .fetch then .error (faultAt cAccess aPerm va)
    else if !syncIn p (va - syncBase) then .error (faultAt cAccess aWindow va)
    else if (k == .load || k == .store || k == .acquire || k == .release || k == .engineW) && (n == 4 || n == 8) && aligned then
      .ok ⟨(List.range n).map fun i => .sync w.part (va - syncBase + i), [.so], false⟩
    else .error (faultAt cAccess aKind va)
  else
    match s.translate w.part w.asid va with
    | .error e => .error (faultAt cPage e va)
    | .ok l =>
      let kind := pteKind l.entry
      let a := l.phys va
      let key := (s.part w.part).keyOf w.part (pteKey l.entry)
      if kind == .red && k == .store && n != 1 && !aligned then .error (faultAt cAlign 1 va)
      else if (k.reads && !pteR l.entry) || (k.writes && !pteW l.entry) || (k == .fetch && !pteX l.entry) ||
          (!w.sys && !pteU l.entry) then .error (faultAt cAccess aPerm va)
      else if kind == .red then
        if k == .engineW && n % 4 == 0 && a % 4 == 0 then
          .ok ⟨(List.range n).map fun i => .phys (a + i), [.red], pteMig l.entry⟩
        else if k == .store && (n == 2 || n == 4 || n == 8 || n == 16) then
          .ok ⟨(List.range n).map fun i => .phys (a + i), [.red], pteMig l.entry⟩
        else .error (faultAt cAccess aKind va)
      else
        match chipCore a with
        | none => .ok ⟨(List.range n).map fun i => s.seenAt w k key (va + i) (a + i), [kind], pteMig l.entry⟩
        | some c =>
          if !w.sys then .error (faultAt cAccess aPerm va)
          else match s.chipFault c ((a - chipBase) % chipSize) n with
          | some sub => .error (faultAt cAccess sub va)
          | none =>
          if k == .atom || k == .red then .error (faultAt cAccess aKind va)
          else .ok ⟨(List.range n).map fun i => .phys (a + i), [kind], pteMig l.entry⟩

/-- Bytes of an access up to the next 4 KiB boundary. -/
def firstPart (va n : Nat) : Nat := min n (4096 - va % 4096)

/-- The page of an address is a RED one. -/
def State.redPage (s : State) (w : Who) (va : Nat) : Bool :=
  !(va < scratchEnd || (syncBase ≤ va && va < syncEnd) || 2 ^ 49 ≤ va) && match s.translate w.part w.asid va with
    | .ok l => pteKind l.entry == .red
    | .error _ => false
/-- All checks of an access of `n` bytes (R149, R169): natural alignment where the instruction needs it, and of a straddle that touches
a RED page; then each part of a straddling access, the lower one first. -/
def State.check (s : State) (w : Who) (k : Acc) (va : DWord) (n : Nat) (natural : Bool) : Except Trap Checked :=
  let a := va.toNat
  let al := n != 0 && a % n == 0
  if natural && !al then .error (faultAt cAlign 1 a)
  else
    let n1 := firstPart a n
    if n1 == n || a < scratchEnd then s.checkPart w k a n al
    else if s.redPage w a || s.redPage w (a + n1) then .error (faultAt cAlign 1 a)
    else
      match s.checkPart w k a n1 al, s.checkPart w k (a + n1) (n - n1) al with
      | .ok x, .ok y =>
        .ok ⟨x.locs ++ y.locs, List.replicate n1 (x.kinds.headD .rc) ++ List.replicate (n - n1) (y.kinds.headD .rc), x.mig || y.mig⟩
      | .error e, _ => .error e
      | .ok _, .error e => .error e

/-- Checks of a range of any length, as engines make them: page by page, without alignment (R249, R370). In the sync-variable window a
piece of 4 or 8 bytes is admitted whatever its alignment, and no other size. [DESIGN CHOICE, log 97] -/
def State.checkRange (s : State) (w : Who) (k : Acc) (va n : Nat) : Nat → Except Trap Checked
  | 0 => .ok ⟨[], [], false⟩
  | fuel + 1 =>
    if n == 0 then .ok ⟨[], [], false⟩ else
    let n1 := firstPart va n
    match s.checkPart w k va n1 true with
    | .error e => .error e
    | .ok x => match s.checkRange w k (va + n1) (n - n1) fuel with
      | .error e => .error e
      | .ok y => .ok ⟨x.locs ++ y.locs, x.kinds ++ y.kinds, x.mig || y.mig⟩

/-- A thread as the accessing agent; `priv` gives it system privilege (R307). -/
def State.whoIs (s : State) (t : Thread) (priv : Bool := false) : Who :=
  match s.company? t.cid with
  | some c => { cid := t.cid, part := c.part, asid := t.asid.toNat, sys := priv || t.sys, scr := c.scrS, tid := some t.tid }
  | none => { cid := t.cid, part := 0, asid := t.asid.toNat, sys := priv || t.sys, scr := 0, tid := some t.tid }

/-- A store of a range of bytes, about to perform, marks them, page by page (R148, R170, R180); `fenced` is the storing thread's `aliasf`
since. -/
def State.claim (s : State) (w : Who) (va n : Nat) (fenced : List (Nat × Nat) := []) : Nat → State
  | 0 => s
  | fuel + 1 =>
    if n == 0 then s else
    let n1 := firstPart va n
    (s.claimPart w va n1 fenced).claim w (va + n1) (n - n1) fenced fuel

/-- Keeps the translation an access used (R326). -/
def State.fillTlb (s : State) (part asid va : Nat) : State :=
  if va < scratchEnd || (syncBase ≤ va && va < syncEnd) then s else
  if s.tlb.any fun e => e.part == part && e.asid.toNat == asid && e.page == va / e.size then s else
  match s.walk (s.part part) asid va with
  | .ok l => { s with tlb := s.tlb ++ [⟨part, BitVec.ofNat 12 asid, va / l.size, l.size, BitVec.ofNat 64 l.entry⟩] }
  | .error _ => s

end Sys2Proof.Machine
end

