-- ==== Sys2Proof/Machine/Order.lean ====
section
/-!
DEFINITION. The order in which the memory operations of a thread in flight may perform (R23, R38, R161, R162, R165, R226, R258).
-/
namespace Sys2Proof.Machine

/-- The aligned unit of `n` bytes that holds a location. -/
def Loc.unit (n : Nat) : Loc → Loc
  | .phys a | .foreign a | .view a _ _ => .phys (a / n)
  | .scratch c b => .scratch c (b / n)
  | .sync p o => .sync p (o / n)

/-- The bytes of the unit of `n` bytes that holds a location. -/
def Loc.unitBytes (n : Nat) (l : Loc) : List Loc :=
  (List.range n).map fun i => match l.unit n with
    | .phys a | .foreign a | .view a _ _ => .phys (a * n + i)
    | .scratch c b => .scratch c (b * n + i)
    | .sync p o => .sync p (o * n + i)
/-- The operation is an access: no fence stands for it. -/
def MemOp.isAccess (o : MemOp) : Bool :=
  match o.kind with
  | .fence .. => false
  | _ => true
/-- The operation writes memory (R227). -/
def MemOp.stores (o : MemOp) : Bool :=
  match o.kind with
  | .store _ | .atom .. | .half .. | .sync .. | .pladd .. | .unit .. | .contrib .. | .drain .. | .drainMax .. | .slot .. => true
  | .load _ | .kload .. | .ldp .. | .fence .. | .mload .. => false
/-- The operation reads memory (R227). -/
def MemOp.loads (o : MemOp) : Bool :=
  match o.kind with
  | .load _ | .kload .. | .ldp .. | .sync .. | .pladd .. | .mload .. => true
  | .atom ret .. | .half ret .. => ret
  | .store _ | .unit .. | .contrib .. | .fence .. | .drain .. | .drainMax .. | .slot .. => false
/-- Atomics, sync operations and plane updates of one group perform in lane order at one location (R226, R232, R244). -/
def MemOp.atomic (o : MemOp) : Bool :=
  match o.kind with
  | .atom .. | .half .. | .sync .. | .pladd .. => true
  | _ => false
/-- The operation is a fence (R181). -/
def MemOp.isFence (o : MemOp) : Bool :=
  match o.kind with
  | .fence .. => true
  | _ => false
/-- A fence or acquire covers SO and RC, and UO where its bit says so (R162). -/
def MemOp.covered (o : MemOp) (uo : Bool) : Bool :=
  o.kinds.isEmpty || o.kinds.any fun k => k == .so || k == .rc || (uo && k == .uo)

/-- A byte of an on-chip window, which is a location by its device-physical address (R160). -/
def Loc.onChip : Loc → Bool
  | .phys a => (chipCore a).isSome
  | _ => false
/-- The operation reads or writes planes by whole units: a scale byte, at its address, and units of 32 bytes (R96). -/
def MemOp.byUnits (o : MemOp) : Bool :=
  match o.kind with
  | .pladd .. | .ldp .. => true
  | _ => false
/-- The virtual addresses and the bytes that an operation touches: of planes, whole units (R96). -/
def MemOp.spanVas (o : MemOp) : List Nat :=
  if o.byUnits then o.vas.flatMap fun a => if a == o.va.toNat then [a] else (List.range 32).map (a / 32 * 32 + ·) else o.vas
@[inherit_doc MemOp.spanVas] def MemOp.spanLocs (o : MemOp) : List Loc :=
  if o.byUnits then (o.vas.zip o.locs).flatMap fun x => if x.1 == o.va.toNat then [x.2] else x.2.unitBytes 32 else o.locs
/-- Operations of one thread touch one location (R160). -/
def MemOp.sameLoc (x y : MemOp) : Bool :=
  (x.asid == y.asid && x.spanVas.any y.spanVas.contains) || x.spanLocs.any fun l => l.onChip && y.spanLocs.contains l

/-- The bytes of an operation whose addresses satisfy a test. -/
def MemOp.cut (o : MemOp) (p : Nat → Bool) : MemOp :=
  let keep {α : Type} (xs : List α) : List α := ((o.vas.zip xs).filter fun x => p x.1).map (·.2)
  { o with vas := o.vas.filter p, locs := keep o.locs, kinds := if o.byUnits then keep o.kinds else (keep o.kinds).eraseDups,
           kind := match o.kind with | .store bs => .store (keep bs) | k => k }
/-- The half of a packed atomic (R224). -/
def MemOp.halfOf (o : MemOp) (ret : Bool) (op : Nat) (x : DWord) (hi : Bool) : MemOp :=
  { o with kind := .half ret op hi (x.extractLsb' (if hi then 16 else 0) 16) none,
           vas := if hi then o.vas.drop 2 else o.vas.take 2, locs := if hi then o.locs.drop 2 else o.locs.take 2 }
/-- The accesses that an operation performs one by one: the parts of a plain access in different pages (R169), the units of a
plane load (R96), and the halves of a packed atomic (R224). -/
def MemOp.pieces (o : MemOp) : List MemOp :=
  match o.kind with
  | .load _ | .store _ =>
    if o.kinds.length ≤ 1 then [o] else ((o.vas.map (· / 4096)).eraseDups).map fun g => o.cut fun a => a / 4096 == g
  | .atom ret op 4 x _ => if op == 2 || op == 3 then [o.halfOf ret op x false, o.halfOf ret op x true] else [o]
  | .ldp .. => o.vas.map fun a => o.cut (· == a)
  | _ => [o]

/-- A fence of the thread between two of its operations orders them (R162); `stores` tells whether the later one writes. -/
def MemOp.fenced (x y f : MemOp) (stores : Bool) : Bool :=
  match f.kind with
  | .fence acq rel uo =>
    x.covered uo && y.covered uo && ((acq && x.loads) || (rel && stores) || (acq && rel))
  | _ => false

/-- Of accesses that perform as one: `x` must perform before the later `y`; `between` are the operations issued between them (R162, R165,
R226, R258). Accesses of one instruction in one thread are not ordered (R96, R169). [DEDUCED, log 12] -/
def MemOp.before1 (x y : MemOp) (between : List MemOp) (stores : Bool) : Bool :=
  if x.isFence || x.cid != y.cid then false
  else if x.tid == y.tid then
    x.grp != y.grp &&
      (x.sameLoc y || (x.acq && x.covered false && y.covered false) ||
        (y.rel && y.covered false && (x.covered false || x.kinds == [.red])) ||
        (x.kinds.any (· == .so) && y.kinds.any (· == .so)) ||
        between.any fun f => f.tid == x.tid && f.cid == x.cid && x.fenced y f stores)
  else x.grp == y.grp && x.atomic && y.atomic && (x.locs.map Loc.plain).any (y.locs.map Loc.plain).contains
/-- Some part of `x` must perform before some part of the later operation `y`. -/
def MemOp.before (x y : MemOp) (between : List MemOp) (stores : Bool) : Bool :=
  x.pieces.any fun p => y.pieces.any fun q => p.before1 q between stores

/-- No earlier operation holds this one back: `earlier` are the operations issued before it, oldest first. -/
def opFreeAs (y : MemOp) (stores : Bool) : List MemOp → Bool
  | [] => true
  | x :: r => !(x.before y r stores) && opFreeAs y stores r
@[inherit_doc opFreeAs] def opFree (y : MemOp) (earlier : List MemOp) : Bool := opFreeAs y y.stores earlier

end Sys2Proof.Machine
end

