-- ==== Sys2Proof/WellFormed.lean ====
section
/-!
DEFINITION. Which instructions have a legal encoding (R54 to R67 and the limits each reference entry states): the
operand limits that R63 calls OPERAND and the field values it calls MINOR. Reserved fields do not appear, since no
constructor holds them. A step without an encoding is never well formed: no word stands for it.
-/
namespace Sys2Proof

/-- The first register of a pair is even (R102). -/
def Reg.even (r : Reg) : Bool := r.toNat % 2 == 0
/-- A quad starts at a multiple of 4 (R102). -/
def Reg.quad (r : Reg) : Bool := r.toNat % 4 == 0
/-- An octet starts at a multiple of 8 (R102). -/
def Reg.octet (r : Reg) : Bool := r.toNat % 8 == 0

/-- CVT type codes of R58: integers 0 to 3, floats 4 to 7, narrow floats 8 to 10. -/
def cvtInt (t : BitVec 4) : Bool := t.toNat ≤ 3
@[inherit_doc cvtInt] def cvtFloat (t : BitVec 4) : Bool := 4 ≤ t.toNat && t.toNat ≤ 7
@[inherit_doc cvtInt] def cvtNarrow (t : BitVec 4) : Bool := 8 ≤ t.toNat && t.toNat ≤ 10
/-- The 64-bit types of R58: `.i64`, `.u64` and `.f64`. -/
def cvtWide (t : BitVec 4) : Bool := 2 ≤ t.toNat && t.toNat ≤ 4

/-- The legal pairs of R129. -/
def cvtLegal (dst src : BitVec 4) : Bool :=
  dst != src &&
    (((cvtFloat dst || cvtNarrow dst) && (cvtFloat src || cvtNarrow src)) ||
     (cvtInt dst && (cvtFloat src || cvtInt src)) || (cvtFloat dst && cvtInt src))

/-- The legal combinations of operation and size of R222. -/
def atomLegal (isRed : Bool) (op : BitVec 6) (size : BitVec 3) : Bool :=
  (size.toNat == 2 || size.toNat == 3) && op.toNat ≤ 15 &&
    (!(op.toNat == 2 || op.toNat == 3) || size.toNat == 2) && (!(op.toNat == 15) || size.toNat == 3) &&
    (!(op.toNat == 13 || op.toNat == 14) || !isRed)

/-- The data group of an atomic (R222): single, pair or quad. -/
def atomGroup (op : BitVec 6) (size : BitVec 3) (t : Reg) : Bool :=
  if size.toNat == 3 then (if op.toNat == 14 then t.quad else t.even) else (if op.toNat == 14 then t.even else true)

/-- The numbers of R66. -/
def getsLegal (r : BitVec 9) : Bool :=
  r.toNat ≤ 6 || (8 ≤ r.toNat && r.toNat ≤ 0xD) || r.toNat == 0x10 || r.toNat == 0x11 ||
    (0x18 ≤ r.toNat && r.toNat ≤ 0x1B)
/-- The registers `sets` may write (R66, R144). -/
def setsLegal (r : BitVec 9) : Bool := r.toNat == 0x11 || (0x18 ≤ r.toNat && r.toNat ≤ 0x1B)

/-- The numbers of R67. -/
def sysLegal (r : BitVec 8) : Bool :=
  r.toNat ≤ 3 || (0x10 ≤ r.toNat && r.toNat ≤ 0x12) || (0x20 ≤ r.toNat && r.toNat ≤ 0x23) ||
    (0x30 ≤ r.toNat && r.toNat ≤ 0x37) || r.toNat == 0x40 || r.toNat == 0x41
/-- The 64-bit registers of R67. -/
def sysWide (r : BitVec 8) : Bool := r.toNat ≤ 1 || (0x30 ≤ r.toNat && r.toNat ≤ 0x37)

/-- The data register of a load or store of a size (R54, R175): pair for 64 bits, quad for 128. -/
def dataGroup (size : BitVec 3) (t : Reg) : Bool :=
  if size.toNat == 3 then t.even else if size.toNat == 4 then t.quad else true

/-- A rnd code that names a rounding mode (R57). -/
def rndLegal (rnd : BitVec 3) : Bool := rnd.toNat ≤ 4

/-- A barrier operand (R208): level 1 to 7, barrier 0 except at level 2, no count register unless counted. -/
def barRange (l : BitVec 3) (n : BitVec 4) : Bool := l != 0 && (n == 0 || l == 2)

/-- The register limits of a matrix step (R268). -/
def mmaRange (edge : Bool) (ty : BitVec 4) (b a : Reg) : Bool :=
  a.toNat ≤ (if edge then 55 else 56) && b.toNat ≤ (if 1 ≤ ty.toNat && ty.toNat ≤ 5 then 54 else 56)

/-- The instruction has a legal encoding. -/
def Instr.wf : Instr → Bool
  | .shlImm _ _ _ i | .shrImm _ _ _ i | .sarImm _ _ _ i | .rolImm _ _ _ i => i.toNat < 32
  | .icmp _ c _ _ _ => c.toNat ≤ 9
  | .fadd _ r _ _ _ | .fsub _ r _ _ _ | .fmul _ r _ _ _ | .fdiv _ r _ _ _ | .ffma _ r _ _ _ | .fsqrt _ r _ _ =>
    rndLegal r
  | .dadd _ r d a b | .dsub _ r d a b | .dmul _ r d a b | .ddiv _ r d a b | .dfma _ r d a b =>
    rndLegal r && (d.even && a.even && b.even)
  | .dsqrt _ r d a => rndLegal r && (d.even && a.even)
  | .dmin _ d a b | .dmax _ d a b => d.even && a.even && b.even
  | .dabs _ d a | .dneg _ d a => d.even && a.even
  | .dcmp _ _ _ a b => a.even && b.even
  | .cvt _ r t v d a =>
    rndLegal r && cvtLegal t v && ((!cvtWide t || d.even) && (!cvtWide v || a.even))
  | .q8 _ f _ a _ => f.toNat ≤ 2 && a.quad
  | .q4 _ f _ a _ => f.toNat ≤ 1 && a.octet
  | .dq8 _ f d _ _ => f.toNat ≤ 2 && d.quad
  | .dq4 _ f d _ _ => f.toNat ≤ 1 && d.octet
  | .q8Cs _ f d _ _ => f.toNat ≤ 2 && d.even
  | .q4Cs _ f d _ b => f.toNat ≤ 1 && (d.even && b.even)
  | .fdp4E4m3 _ _ _ a b | .fdp4E5m2 _ _ _ a b | .fdp8 _ _ _ a b => a.even && b.even
  | .gen _ d a b => d.even && a.even && b.even
  | .bfx _ s _ _ => s.toNat ≤ 4
  | .gets _ r d => getsLegal r && (r.toNat != 0x10 || d.even)
  | .sets _ r _ => setsLegal r
  | .ld _ _ z _ _ t => z.toNat ≤ 6 && dataGroup z t
  | .st _ _ z _ _ t => z.toNat ≤ 4 && dataGroup z t
  | .ldp _ _ _ _ b _ => b.quad
  | .stp _ _ _ m b _ => m.toNat != 2 && b.quad
  | .ldacq _ c z _ t | .strel _ c z _ t => c.toNat != 7 && (z.toNat != 3 || t.even)
  | .cctlIinv _ c _ => 2 ≤ c.toNat && c.toNat ≤ 6
  | .fence _ c q r _ => (q || r) && c.toNat != 7
  | .aliasf _ c => c.toNat != 7
  | .atom _ o z _ t => atomLegal false o z && atomGroup o z t
  | .red _ o z _ t => atomLegal true o z && atomGroup o z t
  | .sbadd _ _ _ b | .scas _ _ _ b => b.even
  | .waita _ d a _ => d.quad && a.quad
  | .mbput _ _ b => b.even
  | .mbget _ d _ => d.even
  | .pladd _ _ _ a _ => a.quad
  | .mma _ _ t b a _ => t.toNat ≤ 7 && mmaRange false t b a
  | .mmae _ _ t b a _ => t.toNat ≤ 7 && mmaRange true t b a
  | .mdrain _ b _ _ => b.quad
  | .dexp _ _ a => a.even
  | .dsplit _ d a _ => d.octet && a.octet
  | .dmerge _ b _ n => n.toNat % 2 == 0 && b.quad
  | .join _ k _ | .leave _ k | .waitk _ k | .ksave _ _ k _ | .kload _ _ k _ => k.toNat ≤ 11
  | .barArrive _ c l a n | .barWait _ c l a n | .barSync _ c l a n => (c || a == 0) && barRange l n
  | .sysr _ r d => sysLegal r && (!sysWide r || d.even)
  | .sysw _ r a => sysLegal r && (!sysWide r || a.even)
  | .launch _ _ a | .tlbinv _ _ a => a.even
  | .rxstat _ d => d.quad
  | .lres _ a => a.even
  | .lstat _ d a => d.quad && a.even
  | .gmload _ _ a => a.even
  | .snap _ _ a | .snapsel _ _ a | .snapfree _ _ a => a.quad
  | .acall _ _ _ b => b.even
  | .iadd .. | .isub .. | .iaddc .. | .isubb .. | .ineg .. | .iabs .. | .imin .. | .imax .. | .umin .. | .umax ..
  | .and .. | .or .. | .xor .. | .andn .. | .orn .. | .not .. | .shl .. | .shr .. | .sar .. | .rol .. | .ror ..
  | .lea .. | .mov .. | .iaddImm .. | .andImm .. | .orImm .. | .xorImm .. | .imul .. | .imulh .. | .umulh ..
  | .imad .. | .popc .. | .clz .. | .ctz .. | .brev .. | .bfe .. | .ubfe .. | .bfi .. | .bmix .. | .isel ..
  | .movi .. | .lui .. | .fmin .. | .fmax .. | .fabs .. | .fneg .. | .fcmp .. | .fclass .. | .fscale .. | .frcp ..
  | .frsq .. | .fex2 .. | .flg2 .. | .fsin .. | .fcos .. | .ftanh .. | .hadd2 .. | .hsub2 .. | .hmul2 ..
  | .hfma2 .. | .hmin2 .. | .hmax2 .. | .hcmp2Eq .. | .hcmp2Lt .. | .hcmp2Le .. | .hcmp2Un .. | .scx .. | .dp4 ..
  | .dp8 .. | .hdp2F16 .. | .hdp2Bf16 .. | .gumbel .. | .rndf .. | .lget .. | .pollCnt .. | .pollRank ..
  | .pollMask .. | .pollSame .. | .redx .. | .scanx .. | .plop .. | .pmovToReg .. | .pmovToPred .. | .grd ..
  | .nop .. | .ldt .. | .cctlWb .. | .cctlWbinv .. | .cctlPf1 .. | .cctlPf2 .. | .cctlZero .. | .evs .. | .sadd ..
  | .sincw .. | .sexch .. | .smin .. | .smax .. | .mon .. | .mwait .. | .mloop .. | .mzero .. | .mload .. | .mstat ..
  | .tcopy .. | .tcopy2 .. | .tgath .. | .tscat .. | .tfill .. | .tnote .. | .twait .. | .tcoll .. | .rflush ..
  | .bra .. | .call .. | .btab .. | .ret .. | .exit .. | .trap .. | .brk .. | .rte .. | .yield .. | .prog ..
  | .rxbegin .. | .rxprev .. | .rxput .. | .rxend .. | .lpost .. | .esc .. | .gmstep .. | .gmmask .. | .gmforce ..
  | .poolGuard .. | .iadd16 .. | .isub16 .. | .and16 .. | .or16 .. | .xor16 .. | .shl16 .. | .shr16 .. | .mov16 ..
  | .movi16 .. | .imul16 .. | .fadd16 .. | .fmul16 .. | .ffma16 .. | .fmin16 .. | .fmax16 .. | .isel16 .. => true
  | .issueOpportunity .. | .yieldExpiry .. | .loadDataArrive .. | .kloadDataArrive .. | .storePerform ..
  | .atomResultReturn .. | .redDataerrDeferred .. | .syncReply .. | .acallReply .. | .contributionEnter ..
  | .waitaWake .. | .waitaTimeout .. | .mwaitWake .. | .mwaitTimeout .. | .mbputServe .. | .mbgetServe ..
  | .tenderUnit .. | .tenderComplete .. | .tcollComplete .. | .rflushEpochComplete .. | .matrixStep ..
  | .mloadDataArrive .. | .drainStoresPerform .. | .mloopStep .. | .mloopComplete .. | .rxRegionStart ..
  | .rxPassEnd .. | .ladderStarveExpire .. | .escCopyComplete .. | .retireAdvance .. | .snapCopyComplete ..
  | .asyncTrapTake .. | .barrierTimeout .. | .companyRelease .. | .doorbell .. | .queueServe .. | .placeUnit ..
  | .launchComplete .. | .timeSliceExpire .. | .drainTimeout .. | .saveComplete .. | .companyResume ..
  | .pageMigrate .. | .thermalSample .. | .regulatorSample .. | .tsliceWrite .. | .tovrWrite .. | .dbgctlWrite ..
  | .grantcapWrite .. | .bartoWrite .. | .asidWrite .. | .probeEnable .. | .probeDump .. | .probeClear ..
  | .probeDisable .. | .partition .. | .role .. | .roleChangeTimeout .. | .sched .. | .fabric .. | .key ..
  | .resume .. | .attest .. | .move .. | .unknownCommand .. | .diagnosticMailboxRequest .. | .hostAccess ..
  | .portFailure .. | .powerOn .. | .pladdResultReturn .. | .illegalInstructionWord .. => false

end Sys2Proof
end

