-- ==== Sys2Proof/Machine/Ops.lean ====
section
/-!
DEFINITION. The named operations every meaning is built from: registers, what a write to memory wakes, cohorts and
waits, rejoin masks, barriers' companies, the end of a thread, and TAKING A TRAP (R312) with the return from one (R314).
-/
namespace Sys2Proof.Machine
open Sys2Proof.Config

/-- Applies a function to every element. -/
def vmap {α β : Type} {n : Nat} (f : α → β) (v : Vector α n) : Vector β n := ⟨⟨v.toArray.toList.map f⟩, by simp⟩
/-- Applies a function to every element and its index. -/
def vmapIdx {α β : Type} {n : Nat} (f : Nat → α → β) (v : Vector α n) : Vector β n :=
  ⟨⟨v.toArray.toList.mapIdx f⟩, by simp⟩

/-! ### Registers (R13, R55, R102) -/

/-- A `v` register. -/
def Thread.getV (t : Thread) (r : Reg) : Word := t.v[r.toNat]
/-- A 64-bit value in a pair: the low word in the even register (R102). -/
def Thread.getPair (t : Thread) (r : Reg) : DWord := t.getV (r + 1) ++ t.getV r
/-- A predicate; `p7` reads as 1 (R13). -/
def Thread.getP (t : Thread) (n : Nat) : Bool := if n = 7 then true else t.p.getLsbD n
/-- A predicate operand with its negate bit (R187, R194). -/
def Thread.pred (t : Thread) (o : PredOp) : Bool := t.getP o.p.toNat ^^ o.neg
/-- A modulo register. -/
def Thread.getQ (t : Thread) (n : Nat) : Word := t.q.getD n 0
/-- The flags of `fpcsr`, bits 7:3 (R71). -/
def fpFlagMask : Word := 0xF8
/-- The writable bits of `fpcsr`, 13:0 (R71). -/
def fpcsrMask : Word := 0x3FFF

/-- Sets one register; a write to `p7` is discarded (R13). -/
def Thread.setReg (t : Thread) (r : RegId) (x : DWord) : Thread :=
  match r with
  | .v n => { t with v := t.v.set n.toNat (x.setWidth 32) }
  | .p n => if n < 7 then { t with p := (t.p &&& ~~~(1#8 <<< n)) ||| ((x.setWidth 8 &&& 1#8) <<< n) } else t
  | .q n => { t with q := t.q.setIfInBounds n (x.setWidth 32) }
  | .k _ => t
  | .f => { t with fpcsr := x.setWidth 32 &&& fpcsrMask }
/-- The value of a register. -/
def Thread.reg (t : Thread) (r : RegId) : DWord :=
  match r with
  | .v n => (t.getV n).setWidth 64
  | .p n => if t.getP n then 1 else 0
  | .q n => (t.getQ n).setWidth 64
  | .k _ => 0
  | .f => t.fpcsr.setWidth 64
/-- The thread writes a register itself: after an acquire nothing older is seen; before one, either write may be the last (R155). -/
def Thread.farOwn (t : Thread) (r : RegId) : Thread :=
  match r with
  | .v n => { t with far := t.far.filterMap fun x =>
      if x.r != n then some x else if x.acquired then none else some (if x.own then x else { x with own := true, other := t.getV n }) }
  | _ => t
/-- A result written to a register. Until the next switch marker a reader may still see the value before it (R38). -/
def Thread.write (t : Thread) (r : RegId) (x : DWord) : Thread :=
  let u := (t.farOwn r).setReg r x
  { u with old := (r, t.reg r) :: u.old }
/-- Writes several results. -/
def Thread.writes (t : Thread) : List (RegId × DWord) → Thread
  | [] => t
  | (r, x) :: rest => (t.write r x).writes rest
/-- Every earlier result is seen from here on (R37, R40). -/
def Thread.land (t : Thread) : Thread := { t with old := [] }

/-- What an unmarked instruction reads: each register whose last write may not be seen yet reads before or after it, by
a free choice (R38). Of `fpcsr` only the flags can be absent (R143). [DEDUCED, log 22] -/
def Thread.viewFrom (n : Nat) (t : Thread) : List (RegId × DWord) → Thread
  | [] => t
  | (r, x) :: rest =>
    let u := Thread.viewFrom n t rest
    if freeBit n t.tid rest.length then
      match r with
      | .f => u.setReg .f ((u.fpcsr.setWidth 64 &&& ~~~0xF8) ||| (x &&& 0xF8))
      | _ => u.setReg r x
    else u
/-- Marked or not, an instruction may miss a write of another agent to a register until the thread has acquired it (R155). -/
def Thread.farFrom (n : Nat) (t : Thread) : List FarWrite → Thread
  | [] => t
  | x :: rest =>
    let u := Thread.farFrom n t rest
    if freeBit n t.tid (1000 + rest.length) then u.setReg (.v x.r) (x.other.setWidth 64) else u
@[inherit_doc Thread.viewFrom] def Thread.view (t : Thread) (n : Nat) : Thread := Thread.farFrom n (Thread.viewFrom n t t.old) t.far
/-- The thread has made an acquire at core scope or wider (R155). -/
def Thread.acquire (t : Thread) : Thread :=
  { t with far := t.far.map fun x => { x with acquired := true }, farTiles := t.farTiles.map fun x => { x with acquired := true } }
/-- After an acquire and a switch marker the thread sees what other agents wrote to its registers before; where it has written one of
them too, one of the two values stays (R155). -/
def Thread.settle (t : Thread) : Thread :=
  let u := t.far.foldl (fun u x => if x.acquired && x.own && freeBit x.key t.tid x.r.toNat then u.setReg (.v x.r) (x.other.setWidth 64) else u) t
  { u with far := t.far.filter fun x => !x.acquired, farTiles := t.farTiles.filter fun x => !x.acquired }
@[inherit_doc Thread.acquire] def State.acquired (s : State) (cid tid : Nat) : State := s.updThread cid tid Thread.acquire

/-- The address a base register names (R55): a pair when even, a zero-extended register when odd. -/
def Thread.base (t : Thread) (b : Reg) : DWord := if Reg.even b then t.getPair b else (t.getV b).setWidth 64
/-- The registers a base update writes (R55). -/
def baseWrites (b : Reg) (x : DWord) : List (RegId × DWord) :=
  if Reg.even b then [(.v b, x), (.v (b + 1), x >>> 32)] else [(.v b, x.setWidth 32 |>.setWidth 64)]
/-- The writes of a 64-bit result to a pair (R102). -/
def pairWrites (d : Reg) (x : DWord) : List (RegId × DWord) := [(.v d, x), (.v (d + 1), x >>> 32)]
/-- The writes of words to consecutive registers. -/
def groupWrites (d : Reg) : List Word → List (RegId × DWord)
  | [] => []
  | w :: ws => (.v d, w.setWidth 64) :: groupWrites (d + 1) ws

/-- The home lane of a thread and its troupe's index (R17). -/
def Thread.lane (t : Thread) : Nat := t.tid % 32
@[inherit_doc Thread.lane] def Thread.trp (t : Thread) : Nat := t.tid / 32

/-! ### What a write to memory wakes (R234, R235, R296) -/

/-- An armed word and a monitor see a write to these bytes. -/
def Armed.note (ls : List Loc) (a : Armed) : Armed := if a.locs.any ls.contains then { a with hit := true } else a
@[inherit_doc Armed.note] def Waita.note (ls : List Loc) (w : Waita) : Waita := { w with words := w.words.map (Armed.note ls) }
@[inherit_doc Armed.note] def Monitor.note (ls : List Loc) (m : Monitor) : Monitor :=
  { m with hit := m.hit ++ m.locs.filter ls.contains }
@[inherit_doc Armed.note] def Thread.note (ls : List Loc) (t : Thread) : Thread :=
  { t with waita := t.waita.map (Waita.note ls), mon := t.mon.map (Monitor.note ls), watched := t.watched.map (Monitor.note ls) }

/-- A condition of R296 on a variable's value. -/
def depHolds (op : Nat) (v x : Word) : Bool :=
  match op with
  | 0 => v == x
  | 1 => v != x
  | 2 => x.toNat ≤ v.toNat
  | _ => v.toNat < x.toNat

/-- The value of a sync variable: its low 32 bits (R229). -/
def State.syncValue (s : State) (part o : Nat) : Word :=
  BitVec.ofNat 32 (natOf ((List.range 4).map fun i => s.getLoc (.sync part (o + i))))

/-- Tests again the unsatisfied conditions of the launches of a partition (R296). -/
def State.testDeps (s : State) (part : Nat) : State :=
  { s with launches := s.launches.map fun l =>
      if l.part == part then { l with deps := l.deps.map fun d =>
        { d with sat := d.sat || depHolds d.op (s.syncValue part d.o) d.value } } else l }

/-- Partitions whose sync variables are among these bytes. -/
def syncParts (ls : List Loc) : List Nat := ls.filterMap fun | .sync p _ => some p | _ => none

/-- What follows a write to these bytes: armed waits, monitors and dependences see it. [DEDUCED, log 46] -/
def State.notify (s : State) (ls : List Loc) : State :=
  let ls := ls.map s.canon
  let s := { s with threads := s.threads.map (Thread.note ls) }
  match syncParts ls with
  | [] => s
  | p :: _ => s.testDeps p
/-- The bytes of a mailbox header (R237). -/
def MbOp.header (m : MbOp) : List Loc := (List.range 16).map fun i => .scratch m.ring (m.hdr + i)
/-- A write to a header while an operation on the ring is pending breaks a rule of R237. -/
def MbOp.note (ls : List Loc) (m : MbOp) : MbOp := if m.header.any ls.contains then { m with spoiled := true } else m

/-- A write performs: the bytes change, and whoever waits for them is told. [DESIGN CHOICE, log 13] -/
def State.perform (s : State) (ls : List Loc) (bs : List Byte) : State :=
  let s := (s.setLocs ls bs).notify ls
  { s with mbox := s.mbox.map (MbOp.note (ls.map s.canon)) }
/-- The device updates a mailbox ring itself (R239). -/
def State.ringWrite (s : State) (ls : List Loc) (bs : List Byte) : State := (s.setLocs ls bs).notify ls

/-- The region that holds a RED address takes a contribution into its open epoch (R258). -/
def Part.contribute (p : Part) (addr : Nat) (bs : List Byte) : Part :=
  { p with reds := p.reds.map fun r =>
      if r.base ≤ addr && addr < r.base + r.len then { r with entered := r.entered ++ [(addr, bs)] } else r }
/-- Bytes stored under the kind of their page: a RED page takes them as contributions (R168). -/
def State.plainStore (s : State) (part : Nat) (ls : List Loc) (kinds : List PKind) (bs : List Byte) : State :=
  match kinds, ls.map Loc.plain with
  | [.red], .phys a :: _ => s.updPart part fun p => p.contribute a bs
  | _, _ => s.perform ls bs

/-! ### Cohorts and waits (R19, R21) -/

/-- Issue opportunities the core of a company has had. -/
def State.oppsOf (s : State) (cid : Nat) : Nat :=
  match s.company? cid with
  | some c => (s.core c.core).opps
  | none => 0
/-- Cycles of the core of a company (R17). -/
def State.clkOf (s : State) (cid : Nat) : Nat :=
  match s.company? cid with
  | some c => (s.core c.core).clk
  | none => 0

/-- The thread receives the operation's result. -/
def MemOp.feeds (o : MemOp) (cid tid : Nat) : Bool := o.cid == cid && o.lanes.any fun l => l.tid == tid
/-- The thread has results in flight to its registers (R37). -/
def State.resultsOut (s : State) (cid tid : Nat) : Bool :=
  (s.ops.any fun o => o.feeds cid tid) ||
    s.mbox.any fun m => m.cid == cid && m.kind == .call && m.lanes.contains tid
/-- The operation's result or acknowledgement concerns the thread. -/
def MemOp.owned (o : MemOp) (cid tid : Nat) : Bool := (o.cid == cid && o.tid == tid) || o.feeds cid tid
/-- The thread has accesses that have not performed. -/
def State.accessesOut (s : State) (cid tid : Nat) : Bool :=
  s.ops.any fun o => o.owned cid tid && o.isAccess
/-- The thread has accesses that a release or a barrier arrival waits for: all but those to UO pages (R162, R211, R258),
and its `acall` operations. -/
def State.releaseOut (s : State) (cid tid : Nat) : Bool :=
  (s.ops.any fun o => o.owned cid tid && o.isAccess && !(o.kinds.all (· == .uo))) ||
    s.mbox.any fun m => m.cid == cid && m.kind == .call && m.tid == tid

/-- Threads that stand at one counter and were issued or released together form one cohort (R21). -/
def Thread.sameCohort (t u : Thread) : Bool := t.cid == u.cid && t.coh == u.coh && t.pc == u.pc

/-- A parked cohort goes on when the results, or the accesses, of all its threads are in (R37); the instruction it stands at, and a
handler's first one, see all of them (R40). -/
def State.rewake (s : State) : State :=
  let free (t : Thread) : Bool :=
    match t.wait with
    | .marker => !(s.threads.any fun u => t.sameCohort u && u.wait == .marker && s.resultsOut u.cid u.tid)
    | .quiet => !(s.threads.any fun u => t.sameCohort u && u.wait == .quiet && s.releaseOut u.cid u.tid)
    | _ => false
  { s with threads := s.threads.map fun t =>
      if free t then { t with wait := .none, ready := s.oppsOf t.cid, old := if t.wait == .marker then [] else t.old } else t }

/-- No two of the threads share a home lane. -/
def lanesDistinct : List Nat → Bool
  | [] => true
  | x :: r => !(r.any fun y => y % 32 == x % 32) && lanesDistinct r

/-- Number of a cohort: of threads issued, placed or released together, or of threads that have entered a handler in one cycle (R21,
R306); `part` tells troupes apart. -/
def cohNumber (entry : Bool) (n part : Nat) : Nat := (n * 64 + part) * 2 + (if entry then 1 else 0)
/-- Releases threads from a wait in one cycle: those at one counter form one cohort, or one for each troupe where their home lanes
clash (R21). -/
def State.release (s : State) (p : Thread → Bool) (f : Thread → Thread) : State :=
  let one (t : Thread) : Bool :=
    lanesDistinct ((s.threads.filter fun u => p u && u.cid == t.cid && (f u).pc == (f t).pc).map (·.tid))
  { s with
    threads := s.threads.map fun t =>
      if p t then { f t with wait := .none, coh := cohNumber false s.nextId (if one t then 0 else t.trp), ready := s.oppsOf t.cid }
      else t
    nextId := s.nextId + 1 }

/-- The window after one more instruction of the thread (R195). -/
def nextGuard : Option GuardWin → Option GuardWin
  | some ⟨p, n + 2⟩ => some ⟨p, n + 1⟩
  | _ => none
/-- The pending DEBUG STEP of a thread that has executed its one instruction (R314). [DEDUCED, log 35] -/
def stepAsync : Async := { trap := { cls := cDebug, sub := 2 }, ticket := 0, cmd := none }
/-- A thread moves past an instruction of `len` bytes; an armed single step is then due (R314). -/
def Thread.past (t : Thread) (len : Nat) : Thread :=
  { t with pc := t.pc + BitVec.ofNat 64 len, guard := nextGuard t.guard, step := false,
           asyncs := if t.step then t.asyncs ++ [stepAsync] else t.asyncs }

/-- The guard window lets the thread participate (R195). -/
def Thread.passes (t : Thread) : Bool :=
  match t.guard with
  | some w => w.pass
  | none => true

/-! ### Rejoin masks (R202 to R206) -/

/-- Exited threads of a troupe, by home lane. -/
def State.exitedMask (s : State) (cid trp : Nat) : Word :=
  (s.threads.filter fun t => t.cid == cid && t.trp == trp && t.exited).foldl
    (fun m t => m ||| (1#32 <<< t.lane)) 0
/-- Bits of home lanes. -/
def laneMask (tids : List Nat) : Word := tids.foldl (fun m t => m ||| (1#32 <<< (t % 32))) 0

/-- Releases the arrived threads of a mask as one cohort (R204). -/
def State.maskRelease (s : State) (cid trp k : Nat) : State :=
  (s.release (fun t => t.cid == cid && t.trp == trp && t.wait == .waitk k) (·.past 4)).updTroupe cid trp
    fun u => { u with arr := u.arr.setIfInBounds k 0 }
/-- Tests a mask: when every thread of E has arrived, the arrived threads go on (R204). -/
def State.maskTest (s : State) (cid trp k : Nat) : State :=
  match s.troupe? cid trp with
  | none => s
  | some u =>
    let a := u.arr.getD k 0
    if u.k.getD k 0 &&& ~~~a == 0 && a != 0 then s.maskRelease cid trp k else s
/-- Tests every mask of a troupe. -/
def State.maskTests (s : State) (cid trp : Nat) : State :=
  (List.range 12).foldl (fun s k => s.maskTest cid trp k) s

/-- The first halfword at an address is that of a matrix instruction: bit 0 set and major opcode MMA, MCTL or DEMU (R31). -/
def State.matrixAt (s : State) (w : Who) (pc : DWord) : Bool :=
  match s.check w .fetch pc 2 false with
  | .ok k =>
    let v := natOf (s.getLocs k.locs)
    v % 2 == 1 && (v / 8 % 64 == 0x20 || v / 8 % 64 == 0x21 || v / 8 % 64 == 0x22)
  | .error _ => false
/-- The thread is held at a matrix instruction: it stands there outside handler mode, whether it has tried to issue or has
just arrived or returned there (R272). [DEDUCED, log 58] -/
def State.isHeld (s : State) (t : Thread) : Bool :=
  t.wait == .hold || (t.wait == .none && !t.exited && t.frames.isEmpty && t.halt.isNone && s.matrixAt (s.whoIs t) t.pc)
/-- Releases the threads held at matrix instructions, as one cohort at each counter, once no thread of the troupe is in a
handler or halted (R272). -/
def State.holdTest (s : State) (cid trp : Nat) : State :=
  if s.threads.any fun t => t.cid == cid && t.trp == trp && !t.exited && (!t.frames.isEmpty || t.halt.isSome) then s
  else if s.threads.any fun t => t.cid == cid && t.trp == trp && s.isHeld t then
    s.release (fun t => t.cid == cid && t.trp == trp && s.isHeld t) id
  else s

/-! ### Barriers (R209, R210) -/

/-- The barrier a thread names, where its launch declares the level. -/
def State.barKey (s : State) (c : Company) (tid level n : Nat) : Option BarKey :=
  let declared := match s.launch? c.launch with
    | some l => if c.packed.isSome then 3 else l.levels.length
    | none => 3
  if level = 1 then some ⟨c.cid, 1, tid / 32, 0⟩
  else if level = 2 then some ⟨c.cid, 2, 0, n⟩
  else if level < declared then some ⟨c.launch, level, c.insts.getD (level - 3) 0, 0⟩
  else none

/-- The company belongs to the barrier's instance. -/
def BarKey.holds (k : BarKey) (c : Company) : Bool :=
  if k.level ≤ 2 then c.cid == k.owner
  else c.launch == k.owner && c.packed.isNone && c.state != .ended && c.insts.getD (k.level - 3) 0 == k.inst
/-- The thread belongs to the barrier's instance. -/
def State.barMember (s : State) (k : BarKey) (t : Thread) : Bool :=
  (s.companies.any fun c => c.cid == t.cid && k.holds c) && (k.level != 1 || t.trp == k.inst)

/-- The barrier's present phase. -/
def State.barrier (s : State) (k : BarKey) : Barrier :=
  (s.barriers.find? fun b => b.key == k).getD { key := k, form := none, arrived := [], dumped := false }
/-- Changes a barrier. -/
def State.setBarrier (s : State) (b : Barrier) : State :=
  { s with barriers := b :: s.barriers.filter fun x => x.key != b.key }

/-- The count a phase waits for (R209). -/
def State.barExpected (s : State) (k : BarKey) (form : Option Nat) : Nat :=
  match form with
  | some n => n
  | none => (s.threads.filter fun t => s.barMember k t && !t.exited).length

/-- A thread arrives; the first arrival of a phase fixes its form (R209). -/
def State.barArrive (s : State) (k : BarKey) (cid tid : Nat) (form : Option Nat) : State :=
  let b := s.barrier k
  s.setBarrier { b with form := some (b.form.getD form), arrived := b.arrived ++ [(cid, tid, s.clkOf cid)] }

/-- The thread's state at a barrier (R210): none, `false` for PENDING, `true` for DONE. -/
def Thread.barState (t : Thread) (k : BarKey) : Option Bool := (t.bars.find? fun b => b.1 == k).map (·.2)
/-- Changes the thread's state at a barrier. -/
def Thread.setBar (t : Thread) (k : BarKey) (st : Option Bool) : Thread :=
  let r := t.bars.filter fun b => b.1 != k
  { t with bars := match st with | some d => (k, d) :: r | none => r }

/-- A thread waits at barrier `k` for `next`. -/
def Wait.atBar (w : Wait) (k : BarKey) : Option BarNext :=
  match w with
  | .bar k' n _ _ _ => if k' = k then some n else Option.none
  | _ => Option.none

/-- Adds a sample to the enabled probes of a core with a source (R387). -/
def Probe.sample (p : Probe) (src v : Nat) : Probe :=
  if p.en && (p.config.toNat % 16 == src) then
    let b := if v > p.base.toNat then v - p.base.toNat else 0
    let bin := if p.config.getLsbD 4 then (if b = 0 then 0 else Nat.min (Nat.log2 b + 1) 15)
      else Nat.min (b >>> (p.config.toNat / 256 % 32)) 15
    { p with min := Nat.min p.min v, max := Nat.max p.max v, count := Nat.min (p.count + 1) (2 ^ 64 - 1),
             sum := Nat.min (p.sum + v) (2 ^ 64 - 1),
             bins := p.bins.modify bin fun n => Nat.min (n + 1) (2 ^ 32 - 1) }
  else p
@[inherit_doc Probe.sample] def State.sample (s : State) (core src v : Nat) : State :=
  s.updCore core fun c => { c with probes := vmap (fun p => p.sample src v) c.probes }

/-- A released wait is sampled: the cycles of the thread's core since its arrival (R387). -/
def State.barSample (s : State) (b : Barrier) (t : Thread) : State :=
  match s.company? t.cid, b.arrived.find? fun a => a.1 == t.cid && a.2.1 == t.tid with
  | some c, some a => s.sample c.core 1 ((s.core c.core).clk - a.2.2)
  | _, _ => s
/-- Takes back a thread's arrival; a phase without arrivals has no form yet (R212). -/
def State.barWithdraw (s : State) (k : BarKey) (cid tid : Nat) : State :=
  let b := s.barrier k
  let r := b.arrived.filter fun a => !(a.1 == cid && a.2.1 == tid)
  s.setBarrier { b with arrived := r, form := if r.isEmpty then none else b.form }

/-- The thread's arrival counts in the phase. -/
def Barrier.has (b : Barrier) (t : Thread) : Bool := b.arrived.any fun a => a.1 == t.cid && a.2.1 == t.tid
/-- A delayed arrival is due: the thread waits for it and is not debug-halted (R210). -/
def Thread.delayedAt (t : Thread) (k : BarKey) : Bool :=
  (t.wait.atBar k == some .arrive || t.wait.atBar k == some .sync) && t.halt.isNone
/-- A delayed `bar.sync` has arrived and now waits. -/
def Thread.synced (t : Thread) (k : BarKey) : Thread :=
  match t.wait with
  | .bar _ _ c st l => { t.setBar k none with wait := .bar k .synced c st l }
  | _ => t
/-- A delayed `bar.arrive` goes on in state PENDING, and a delayed `bar.sync` waits; their arrivals are counted after. -/
def State.barEnter (s : State) (k : BarKey) (d : List Thread) : State :=
  let due (n : BarNext) (t : Thread) : Bool := d.any fun u => u.cid == t.cid && u.tid == t.tid && u.wait.atBar k == some n
  (s.release (due .arrive) fun t => (t.setBar k (some false)).past 4).updThreads (due .sync) fun t => t.synced k
/-- The count a waiting thread gives. -/
def Wait.barCount (w : Wait) : Option Nat :=
  match w with
  | .bar _ _ c _ _ => c
  | _ => Option.none

/-- A thread returns from a wait at a barrier: state NONE, and an acquire at the level's scope (R155, R211); of a level that the record
does not declare, its number is taken as the scope. [DESIGN CHOICE, log 113] -/
def State.barLeave (s : State) (k : BarKey) (t : Thread) : Thread :=
  let scope := match s.company? t.cid with
    | some c => match s.launch? c.launch with
      | some l => match l.levels[k.level]? with | some e => e.scope | none => k.level
      | none => k.level
    | none => 0
  if 2 ≤ scope then (t.setBar k none).acquire else t.setBar k none
/-- Completes the phase when its arrivals equal the expected count: waiters go on, PENDING turns into DONE, and delayed
arrivals enter the next phase one by one (R210), those of `bar.arrive` and `bar.sync` alike in the order of the thread list. Each
completion releases a thread, so `fuel` bounds them. [DESIGN CHOICE, log 112] -/
def State.barTest (s : State) (k : BarKey) : Nat → State
  | 0 => s
  | fuel + 1 =>
    let b := s.barrier k
    match b.form with
    | none => s
    | some form =>
      if b.arrived.length = s.barExpected k form then
        let freed (t : Thread) : Bool := b.has t && (t.wait.atBar k == some .wait || t.wait.atBar k == some .synced)
        let delayed := s.threads.filter fun t => b.has t && t.delayedAt k
        let s := (s.threads.filter freed).foldl (fun s t => s.barSample b t) s
        let s := s.updThreads (fun t => b.has t && t.barState k == some false) (·.setBar k (some true))
        let s := s.release freed fun t => (s.barLeave k t).past 4
        let s := s.setBarrier { key := k, form := none, arrived := [], dumped := false }
        delayed.foldl (fun s t => (s.barArrive k t.cid t.tid t.wait.barCount).barTest k fuel) (s.barEnter k delayed)
      else s

/-- Tests again every uncounted barrier of a company's instances (R201). -/
def State.barTests (s : State) (c : Company) : State :=
  (s.barriers.filter fun b => b.key.holds c).foldl (fun s b => s.barTest b.key (s.threads.length + 1)) s

/-! ### Outstanding counters (R261) -/

/-- Adds to a launch's outstanding counter of a core. -/
def State.outAdd (s : State) (cid : Nat) (n : Nat) : State :=
  match s.company? cid with
  | none => s
  | some c => s.updCore c.core fun k =>
      { k with outst := (c.launch, ((k.outst.find? fun x => x.1 == c.launch).map (·.2)).getD 0 + n) ::
        k.outst.filter fun x => x.1 != c.launch }
/-- Takes one from it. -/
def State.outSub (s : State) (cid : Nat) : State :=
  match s.company? cid with
  | none => s
  | some c => s.updCore c.core fun k => { k with outst := k.outst.filterMap fun x =>
      if x.1 == c.launch then (if x.2 ≤ 1 then none else some (x.1, x.2 - 1)) else some x }
/-- The launch has nothing outstanding on any core, and no posted item that has not retired (R346). -/
def State.outZero (s : State) (launch : Nat) : Bool :=
  (s.cores.toList.all fun k => k.outst.all fun x => x.1 != launch || x.2 == 0) &&
    s.ladders.all fun l => l.launch != launch || l.args.isEmpty

/-! ### Ladder items (R354 to R356) -/

/-- A ladder by identifier, and a change of one. -/
def State.ladder? (s : State) (id : Nat) : Option Ladder := s.ladders.find? fun l => l.id == id
@[inherit_doc State.ladder?] def State.updLadder (s : State) (id : Nat) (f : Ladder → Ladder) : State :=
  { s with ladders := s.ladders.map fun l => if l.id == id then f l else l }

/-- The address of an item's slot (R347). -/
def Ladder.slot (l : Ladder) (item : Nat) : DWord := l.res + BitVec.ofNat 64 (item % l.cap * 16)
/-- The address of an item's frame (R347). -/
def Ladder.frame (l : Ladder) (item : Nat) : DWord := l.frames + BitVec.ofNat 64 (item % l.cap * 256)
/-- The unit reaches the object as the thread that bound it did (R346, R348), and the slots under the owning launch's ASID (R355). -/
def State.ladderWho (s : State) (l : Ladder) : Who :=
  { cid := 0, part := l.part, asid := l.asid.toNat,
    sys := match s.launch? l.launch with | some x => x.sys | none => false, scr := 0 }
@[inherit_doc State.ladderWho] def State.slotWho (s : State) (l : Ladder) : Who :=
  { s.ladderWho l with asid := match s.launch? l.launch with | some x => x.asid.toNat | none => l.asid.toNat }

/-- The 16 bytes of a result slot (R354). -/
def slotBytes (value : DWord) (item rung fate : Nat) : List Byte :=
  bytesOf 8 value.toNat ++ bytesOf 4 item ++ bytesOf 4 (rung + fate * 256)

/-- An item has retired; the cursor may pass it (R356). -/
def Ladder.itemDone (l : Ladder) (item : Nat) : Ladder :=
  { l with done := item :: l.done, args := l.args.filter fun a => a.1 != item }
@[inherit_doc Ladder.itemDone] def State.itemDone (s : State) (lad item : Nat) : State :=
  s.updLadder lad fun l => l.itemDone item
/-- The slot storage meets an uncorrectable error: a free choice (R303, R355). -/
def State.slotErr (s : State) (item : Nat) : Bool := s.bad == 3 && freeBit s.fresh item 71
/-- The unit writes a slot itself, or counts it in SLOTLOSS where the write fails; then the item has retired. While the slot's
page is migrating it does neither (R151, R355). -/
def State.unitSlot (s : State) (lad item : Nat) (bs : List Byte) : Option State :=
  match s.ladder? lad with
  | none => some s
  | some l =>
    let lost : State := (s.updLadder lad fun l => { l with slotloss := Nat.min (l.slotloss + 1) 0xFFFF }).itemDone lad item
    match s.check (s.slotWho l) .store (l.slot item) 16 false with
    | .ok c =>
      if c.mig then none
      else if s.slotErr item then some lost
      else some (((s.claim (s.slotWho l) (l.slot item).toNat 16 [] 2).plainStore l.part c.locs c.kinds bs).itemDone lad item)
    | .error _ => some lost
/-- The unit retires an item itself, of a thread of a company (R355); on a migrating page the slot's store stands in flight,
without bytes of memory yet, until it can be made (R151). [DEDUCED, log 84] -/
def State.retireItem (s : State) (cid tid : Nat) (lad item rung fate : Nat) (value : DWord) : State :=
  let bs := slotBytes value item rung fate
  match s.unitSlot lad item bs with
  | some s => s
  | none =>
    let op : MemOp := { id := s.nextId, grp := s.fresh, cid := cid, tid := tid, lanes := [], kind := .slot lad item bs, asid := 0,
                        va := 0, vas := [], locs := [], kinds := [], got := [], acq := false, rel := false, scope := 0, pc := 0, d := 0, n := 0,
                        born := s.clkOf cid }
    { s with ops := s.ops ++ [op], nextId := s.nextId + 1 }

/-! ### The end of a thread (R201, R300) -/

/-- A rendezvous at `rxbegin` completes or breaks when a thread exits (R330, R331). -/
def State.rendezvousExit (s : State) (cid : Nat) : State :=
  match s.company? cid with
  | none => s
  | some c => match c.region with
    | none => s
    | some r =>
      if r.running then s
      else if s.threads.all fun t => t.cid != cid || t.exited then s.updCompany cid fun c => { c with region := none }
      else s

/-- A thread that ends receives no result any more; a load for nobody else is dropped. -/
def MemOp.dropLane (cid tid : Nat) (o : MemOp) : Option MemOp :=
  if o.feeds cid tid then
    let r := o.lanes.filter fun l => l.tid != tid
    match o.kind with
    | .load _ | .ldp .. => if r.isEmpty then none else some { o with lanes := r }
    | _ => some { o with lanes := r }
  else some o

/-- The owner of a command (R253): the thread that issued it, else the lowest thread of its troupe, else of its company,
that has not exited. -/
def lowestOf (p : Thread → Bool) : List Thread → Option Thread
  | [] => none
  | t :: r => match lowestOf p r with
    | some u => if p t && t.tid < u.tid then some t else some u
    | none => if p t then some t else none
@[inherit_doc lowestOf] def State.ownerOf (s : State) (cid trp tid : Nat) : Option Thread :=
  let live (t : Thread) : Bool := t.cid == cid && !t.exited
  match lowestOf (fun t => live t && t.tid == tid) s.threads with
  | some t => some t
  | none => match lowestOf (fun t => live t && t.trp == trp) s.threads with
    | some t => some t
    | none => lowestOf live s.threads
/-- A command ends with FAULT (R253). -/
def Cmd.fault (c : Cmd) : Cmd := { c with state := .ended, status := c.status ||| 2 }
/-- Changes a command. -/
def State.updCmd (s : State) (id : Nat) (f : Cmd → Cmd) : State :=
  { s with cmds := s.cmds.map fun c => if c.id == id then f c else c }
/-- A stop of a command becomes a pending trap of its owner; without an owner the company's stopped commands end with FAULT (R253). -/
def State.engineTrap (s : State) (id : Nat) (a : Async) : State :=
  match s.cmds.find? fun c => c.id == id with
  | none => s
  | some c => match s.ownerOf c.cid c.trp c.tid with
    | some t => s.updThread t.cid t.tid fun u => { u with asyncs := u.asyncs ++ [a] }
    | none => { s with cmds := s.cmds.map fun x =>
        if x.id == id || (x.cid == c.cid && (match x.state with | .stopped _ => true | _ => false)) then x.fault else x }
/-- A stopped command goes on when the handler of its trap returns (R253). [DEDUCED, log 50] -/
def Cmd.afterReturn (c : Cmd) : Cmd :=
  match c.state with
  | .stopped true => { c with state := .retry }
  | .stopped false => c.fault
  | _ => c
/-- Stops of one company at one page of an ASID are one trap (R253). -/
def Cmd.samePage (c x : Cmd) : Bool := c.cid == x.cid && c.asid == x.asid && c.fva.toNat / 4096 == x.fva.toNat / 4096
/-- The commands that one handler's return lets go on. -/
def State.cmdReturn (s : State) (id : Nat) : State :=
  match s.cmds.find? fun c => c.id == id with
  | none => s
  | some c => { s with cmds := s.cmds.map fun x =>
      if x.id == id || (c.state == .stopped true && x.state == .stopped true && c.samePage x) then x.afterReturn else x }
/-- Stops whose owner ends pass to the next owner; those it was handling go on. -/
def State.passStops (s : State) (t : Thread) : State :=
  let s := t.asyncs.foldl (fun s a => match a.cmd with
    | some id => s.engineTrap id a
    | none => s) s
  t.frames.foldl (fun s f => match f.cmd with
    | some id => s.cmdReturn id
    | none => s) s

/-- A thread no longer waits for a mailbox operation; one for nobody else is withdrawn (R241). -/
def State.dropMbox (s : State) (cid tid id : Nat) : State :=
  match s.mbox.find? fun m => m.id == id with
  | none => s
  | some m =>
    let r := m.lanes.filter fun l => l != tid
    if r.isEmpty then
      let s := { s with mbox := s.mbox.filter fun m => m.id != id }
      if m.remote && m.kind != .get then s.outSub cid else s
    else { s with mbox := s.mbox.map fun m => if m.id == id then { m with lanes := r } else m }

/-- A thread no longer waits for an operation of the snapshot unit; one for nobody else is withdrawn. -/
def SnapOp.dropLane (tid id : Nat) (o : SnapOp) : Option SnapOp :=
  let r := o.lanes.filter (· != tid)
  if o.id != id then some o else if r.isEmpty then none else some { o with lanes := r }
/-- The operation is one of a bound pool: it names the pool's object, or reaches it under another name (R371). -/
def Pool.serves (p : Pool) (o : SnapOp) : Bool :=
  o.part == p.part && ((o.asid == p.asid && o.obj == p.obj) || (o.place.isSome && o.place == p.place))
/-- A pool without a full slot is released (R369), unless a copy of it has begun. -/
def State.sweepPools (s : State) : State :=
  { s with pools := s.pools.filter fun p => !p.slots.isEmpty || s.snaps.any fun o => o.begun && p.serves o }
/-- What a thread that leaves a wait no longer waits for. -/
def State.dropWait (s : State) (t : Thread) : State :=
  match t.wait with
  | .mbox id => s.dropMbox t.cid t.tid id
  | .snap id => ({ s with snaps := s.snaps.filterMap (SnapOp.dropLane t.tid id) } : State).sweepPools
  | _ => s

/-- A thread that ends keeps its registers: no reply of a call reaches it (R32, R201). -/
def MbOp.dropLane (cid tid : Nat) (m : MbOp) : MbOp :=
  if m.kind == .call && m.cid == cid then { m with lanes := m.lanes.filter (· != tid) } else m
/-- One thread ends: it leaves every mask of its troupe, its loads in flight are dropped, an item it holds retires
ABANDONED, and what waits for it is tested again (R201, R355). [DEDUCED, log 94] -/
def State.exitThread (s : State) (cid tid : Nat) : State :=
  match s.thread? cid tid with
  | none => s
  | some t =>
    if t.exited then s else
    let s := (s.dropWait t).updThread cid tid fun t =>
      { t with exited := true, guard := none, wait := .none, waita := none, mon := none, watched := none, asyncs := [], halt := none,
               item := none }
    let s := ({ s with ops := s.ops.filterMap (MemOp.dropLane cid tid), mbox := s.mbox.map (MbOp.dropLane cid tid) } : State).passStops t
    let bit : Word := ~~~(1#32 <<< (tid % 32))
    let s := s.updTroupe cid (tid / 32) fun u => { u with k := vmap (· &&& bit) u.k, arr := vmap (· &&& bit) u.arr }
    let s := match t.item with
      | some (l, i) =>
        let rung := match s.company? cid with
          | some c => match c.packed with | some p => p.rung | none => 0
          | none => 0
        s.retireItem cid tid l i rung 2 0
      | none => s
    let s := s.maskTests cid (tid / 32)
    let s := s.holdTest cid (tid / 32)
    let s := match s.company? cid with | some c => s.barTests c | none => s
    (s.rendezvousExit cid).rewake

/-- Threads of a company that have not exited. -/
def State.live (s : State) (cid : Nat) : List Thread := s.threads.filter fun t => t.cid == cid && !t.exited

/-- Drops a troupe's matrix loops (R290, R300). -/
def Troupe.dropLoops (u : Troupe) : Troupe := { u with work := u.work.filter fun | .loop _ => false | _ => true }

/-- Threads stalled at the full tender of a core try again (R245). -/
def State.wakeTender (s : State) (core : Nat) : State :=
  { s with threads := s.threads.map fun t =>
      if t.wait == .tender && s.companies.any (fun c => c.cid == t.cid && c.core == core) then
        { t with wait := .none, ready := s.oppsOf t.cid }
      else t }

/-- Fabric commands and hand-over copies, which run on whatever becomes of their company (R260, R300, R359). -/
def Cmd.runsOn (c : Cmd) : Bool :=
  match c.kind with
  | .coll | .rflush | .esc .. => true
  | _ => false
/-- A company's other tender commands and its matrix loops are cancelled, without completion words (R255, R290, R300). -/
def State.cancelEngines (s : State) (cid : Nat) : State :=
  let gone (c : Cmd) : Bool := c.cid == cid && !c.runsOn
  let s := (s.cmds.filter gone).foldl (fun s c => s.outSub c.cid) s
  let s : State := { s with cmds := s.cmds.filter fun c => !gone c,
                            troupes := s.troupes.map fun u => if u.cid == cid then u.dropLoops else u }
  s.wakeTender (s.coreOf cid)

/-- The company is terminated (R300): every thread ends, tender and loop commands are cancelled without a completion
word, fabric commands and hand-over copies go on, and the launch records its first REASON (R299). -/
def State.terminate (s : State) (cid reason : Nat) : State :=
  let s := match s.company? cid with
    | some c => s.updLaunch c.launch fun l => { l with reason := if l.reason == 0 then reason else l.reason }
    | none => s
  let s := (s.cancelEngines cid).updCompany cid fun c => { c with region := none }
  (s.live cid).foldl (fun s t => s.exitThread t.cid t.tid) s

/-- REASON codes (R299). -/
abbrev reasonDouble : Nat := 1
@[inherit_doc reasonDouble] abbrev reasonNoHandler : Nat := 2
@[inherit_doc reasonDouble] abbrev reasonArea : Nat := 3

/-! ### Taking a trap (R302 to R314) -/

/-- The address of a thread's side-buffer entry (R307, R309). -/
def State.sideEntry (s : State) (cid tid : Nat) : Word :=
  match s.company? cid with
  | none => 0
  | some c =>
    let slot := match s.troupe? cid (tid / 32) with | some u => u.slot | none => 0
    (s.part c.part).sbarea + BitVec.ofNat 32 (c.core * 0x20000 + (slot * 32 + tid % 32) * 64)

/-- The word at bytes 23:20 of a record (R308). -/
def recordInfo (cls sub : Nat) (sys : Bool) (g : Option GuardWin) : Nat :=
  cls + sub * 256 + (if sys then 65536 else 0) +
    (match g with | some w => (w.left - 1) % 8 * 2 ^ 18 + 2 ^ 21 | none => 0)

/-- The 32 bytes of a side-buffer record (R308). -/
def recordBytes (t : Thread) (tr : Trap) (pc : DWord) (g : Option GuardWin) : List Byte :=
  bytesOf 8 pc.toNat ++ bytesOf 8 tr.addr.toNat ++ bytesOf 4 tr.extra.toNat ++
    bytesOf 4 (recordInfo tr.cls tr.sub t.sys g) ++ bytesOf 4 (t.getV 62).toNat ++ bytesOf 4 (t.getV 63).toNat

/-- The masks a handler entered by this thread sees (R206): the troupe's masks, or, in a nested handler, the outer one's copy.
[DESIGN CHOICE, log 111] -/
def State.maskCopies (s : State) (t : Thread) : List MaskCopy :=
  match t.frames with
  | f :: _ => f.masks.map fun m => { m with written := false }
  | [] => match s.troupe? t.cid t.trp with
    | some u => u.k.toList.map fun e => ⟨e, false⟩
    | none => []

/-- DBGCTL of the core that runs a company (R318). -/
def State.dbgctl (s : State) (cid : Nat) : Word :=
  match s.company? cid with
  | some c => (s.core c.core).dbgctl
  | none => 0

/-- Leaves a wait because a trap is delivered (R241): an arrival that the waiting instruction made is withdrawn, since
the instruction executes again. [DEDUCED, log 32] -/
def State.leaveWait (s : State) (t : Thread) : State :=
  match t.wait with
  | .waitk k => s.updTroupe t.cid t.trp fun u =>
      { u with arr := u.arr.setIfInBounds k (u.arr.getD k 0 &&& ~~~(1#32 <<< t.lane)) }
  | .bar k .synced _ _ _ => s.barWithdraw k t.cid t.tid
  | _ => s.dropWait t

/-- A debug halt freezes the threads that FREEZE names, with their state untouched (R318, R319). -/
def State.freeze (s : State) (t : Thread) : State :=
  let core := match s.company? t.cid with | some c => c.core | none => 0
  let near (u : Thread) : Bool :=
    match (s.dbgctl t.cid).extractLsb' 6 2 with
    | 1 => u.cid == t.cid && u.trp == t.trp
    | 2 => u.cid == t.cid
    | 3 => s.companies.any fun c => c.cid == u.cid && c.core == core && c.onCore
    | _ => false
  s.updThreads (fun u => near u && !u.exited && u.halt.isNone && !(u.cid == t.cid && u.tid == t.tid))
    fun u => { u with halt := some (.frozen, (s.core core).clk) }

/-- A store that the device makes for a thread (R310, R312), as it would stand in flight; it is no access of an instruction in flight. -/
def State.deviceStore (s : State) (t : Thread) (va : Nat) (k : Checked) (bs : List Byte) : MemOp :=
  { id := s.nextId, grp := s.fresh + 1, cid := t.cid, tid := t.tid, lanes := [], kind := .store bs, asid := t.asid,
    va := BitVec.ofNat 64 va, vas := (List.range bs.length).map (va + ·), locs := k.locs, kinds := k.kinds, got := [], acq := false,
    rel := false, scope := 0, pc := t.pc, d := 0, n := 0, born := 0 }
/-- Threads that enter one vector in one cycle of their core form one cohort, or one for each troupe where home lanes clash (R21,
R306). -/
def State.enterCohort (s : State) (cid tid : Nat) : State :=
  match s.thread? cid tid with
  | none => s
  | some t =>
    let n := s.clkOf cid * 384 + s.coreOf cid
    let mate (u : Thread) : Bool := u.cid == cid && u.pc == t.pc && !u.exited &&
      (u.tid == tid || (cohNumber true n 0 ≤ u.coh && u.coh ≤ cohNumber true n 63 && u.coh % 2 == 1))
    let one := lanesDistinct ((s.threads.filter mate).map (·.tid))
    s.updThreads mate fun u => { u with coh := cohNumber true n (if one then 0 else u.trp + 1) }

/-- A trap whose record cannot be written yet is pending at the counter it returns to (R151, R161). -/
def State.pendTrap (s : State) (cid tid : Nat) (a : Async) (pc : DWord) (g : Option GuardWin) : State :=
  s.updThread cid tid fun t => { t with pc := pc, guard := g, asyncs := a :: t.asyncs }
/-- TAKING A TRAP (R312). `pc` is the saved counter, `g` the guard window at it. The thread leaves its wait; its record
is written with system privilege; results in flight are written before the handler's first instruction (R40). A DEBUG
trap other than UNIFORM halts the thread instead when `DBGCTL.HALT` is set (R319). While the page of the record is migrating
(R151), or an access of the thread must perform before the store of the record (R161, R162), the trap is pending at its counter. [DEDUCED, log 33] [DEDUCED, log 34]
[DEDUCED, log 38] [DEDUCED, log 84] -/
def State.takeTrap (s : State) (cid tid : Nat) (tr : Trap) (pc : DWord) (g : Option GuardWin)
    (cmd : Option Nat := none) (ticket : Nat := 0) : State :=
  match s.thread? cid tid, s.company? cid with
  | some t, some c =>
    let rec_ := t.frames.length
    if t.exited then s
    else if rec_ ≥ 2 then s.terminate cid reasonDouble
    else
      let tosys := t.sys || rec_ == 1 || c.deleg.getLsbD tr.cls || !c.trapUsr.getLsbD 0
      let base := if tosys then (s.core c.core).trapSys else c.trapUsr
      let halts := tr.cls == cDebug && tr.sub != 4 && (s.dbgctl cid).getLsbD 3
      if !halts && !base.getLsbD 0 then s.terminate cid reasonNoHandler
      else
        let entry : Word := s.sideEntry cid tid + BitVec.ofNat 32 (rec_ * 32)
        match s.check (s.whoIs t true) .store (entry.setWidth 64) 32 false with
        | .error _ => s.terminate cid reasonArea
        | .ok k =>
          if k.mig || !opFree (s.deviceStore t entry.toNat k (recordBytes t tr pc g)) s.ops then s.pendTrap cid tid ⟨tr, ticket, cmd⟩ pc g else
          let s := s.leaveWait t
          let s := (s.claim (s.whoIs t true) entry.toNat 32 [] 2).perform k.locs (recordBytes t tr pc g)
          let frame : TrapFrame := { pc := pc, sys := t.sys, guard := g, masks := s.maskCopies t, cmd := cmd, record := [] }
          let vector : DWord := (base &&& ~~~0x3FF) + BitVec.ofNat 64 (tr.cls * 0x40)
          let landing : Wait := if s.resultsOut cid tid then .marker else .none
          let s := s.updThread cid tid fun t =>
            { t with frames := frame :: t.frames, guard := none, step := false, waita := none, watched := none, old := [],
                     wait := landing, ready := s.oppsOf cid }
          if halts then
            let s := s.updThread cid tid fun t => { t with halt := some (.trapped, s.clkOf cid) }
            s.freeze t
          else (s.updThread cid tid fun t => { t with pc := vector, sys := tosys }).enterCohort cid tid
  | _, _ => s

/-! ### Traps inside a relaxation body (R332, R341, R342) -/

/-- The region whose body the thread executes: a step thread outside handler mode. -/
def State.bodyOf (s : State) (t : Thread) : Option Region :=
  match s.company? t.cid with
  | some c => match c.region with
    | some r => if r.running && t.tid < r.steps && t.frames.isEmpty then some r else none
    | none => none
  | none => none

/-- Records a deferred trap; the first of the pass stands, and the step counts as arrived (R341). -/
def State.deferTrap (s : State) (cid tid : Nat) (tr : Trap) (pc : DWord) : State :=
  let add (r : Region) : Region :=
    if r.traps.any (fun x => x.1 == tid) then r else { r with traps := r.traps ++ [(tid, tr, pc)] }
  let s := s.updCompany cid fun c => { c with region := c.region.map add }
  s.updThread cid tid fun t => { t with wait := .rxend }

/-- Place of a trap in the order of R304. -/
def Trap.rank (tr : Trap) : Nat :=
  match tr.cls with
  | 0 => 0
  | 1 => 1
  | 7 => 2
  | 2 | 3 | 4 | 10 => 3
  | 11 => if tr.sub == 1 || tr.sub == 4 || (tr.sub == 2 && tr.extra == 3) then 3 else 6
  | 5 => 4
  | 6 => 5
  | 9 => 7
  | 8 => 8
  | 12 => 9
  | _ => 10
/-- A thread of the executing instruction takes a trap: what R304 puts after it, it does not take. -/
def State.beats (s : State) (t : Thread) (tr : Trap) : State :=
  { s with rivals := s.rivals.filter fun x => !(x.cid == t.cid && x.tid == t.tid && tr.rank < x.trap.rank) }

/-- A trap met by an instruction: deferred in a relaxation body unless it is a PAGE fault or a DEBUG trap (R341, R342),
taken at once elsewhere. `t` is the thread as it stood at the instruction; counter, window and what was pending return
to it. -/
def State.raiseAt (s : State) (t : Thread) (tr : Trap) (pc : DWord) (g : Option GuardWin) : State :=
  let s := (s.beats t tr).updThread t.cid t.tid fun u => { u with pc := t.pc, guard := t.guard, step := t.step, asyncs := t.asyncs }
  match s.bodyOf t with
  | some _ => if tr.cls == cPage || tr.cls == cDebug then s.takeTrap t.cid t.tid tr pc g else s.deferTrap t.cid t.tid tr t.pc
  | none => s.takeTrap t.cid t.tid tr pc g
/-- A precise trap: the saved counter is that of the instruction (R305). -/
def State.raise (s : State) (t : Thread) (tr : Trap) : State := s.raiseAt t tr t.pc t.guard

/-! ### Return from a trap (R217, R314) -/

/-- The masks a returning handler wrote take its values, less exited threads; the outer handler's copy takes them where
the return is from a nested handler (R206). [DESIGN CHOICE, log 111] -/
def State.returnMasks (s : State) (t : Thread) (ms : List MaskCopy) (outer : List TrapFrame) : State :=
  match outer with
  | f :: fs =>
    let merged := (f.masks.zip ms).map fun (o, m) => if m.written then m else o
    s.updThread t.cid t.tid fun u => { u with frames := { f with masks := merged } :: fs }
  | [] =>
    let dead := s.exitedMask t.cid t.trp
    let s := s.updTroupe t.cid t.trp fun u =>
      { u with k := vmapIdx (fun i e => match ms[i]? with
          | some m => if m.written then m.e &&& ~~~dead else e
          | none => e) u.k }
    s.maskTests t.cid t.trp

/-- One thread returns from its innermost handler (R314): COUNTER and STEP are read from the record, the window comes
back only at the saved counter, mode and nesting take their saved values, and the masks are applied. -/
def State.trapReturn (s : State) (cid tid : Nat) : State :=
  match s.thread? cid tid with
  | none => s
  | some t => match t.frames with
    | [] => s
    | f :: fs =>
      let entry : Word := s.sideEntry cid tid + BitVec.ofNat 32 (fs.length * 32)
      match s.check (s.whoIs t true) .load (entry.setWidth 64) 32 false with
      | .error _ => s.terminate cid reasonArea
      | .ok k =>
        let bs := s.getLocs k.locs
        let counter : DWord := BitVec.ofNat 64 (natOf (bs.take 8)) &&& ~~~1
        let step := (natOf ((bs.drop 20).take 4)).testBit 17
        let s := s.updThread cid tid fun t =>
          { t with frames := fs, pc := counter, guard := if counter = f.pc then f.guard else none, sys := f.sys,
                   step := step, halt := none, old := [] }
        let s := match f.cmd with
          | some id => s.cmdReturn id
          | none => s
        let s := s.returnMasks t f.masks fs
        s.holdTest cid (tid / 32)

end Sys2Proof.Machine
end

