-- ==== Sys2Proof/Machine/Flags.lean ====
section
/-!
DEFINITION. The floating-point control word and every flag computation: the fields of `fpcsr` (R71), the flags an
instruction raises (R78), and whether and with which subcause it traps (R79, R80).
-/
namespace Sys2Proof.Machine

/-- Flags raised: NV, DZ, OF, UF, NX in bits 0 to 4; bit 5 tells that an operand was a signalling NaN (R80). -/
abbrev Flags := BitVec 6
/-- The flags (R78). A signalling NaN read as a number raises NV too. -/
abbrev fNV : Flags := 1
@[inherit_doc fNV] abbrev fDZ : Flags := 2
@[inherit_doc fNV] abbrev fOF : Flags := 4
@[inherit_doc fNV] abbrev fUF : Flags := 8
@[inherit_doc fNV] abbrev fNX : Flags := 16
@[inherit_doc fNV] abbrev fSNaN : Flags := 33
/-- A flag when a condition holds. -/
def flagIf (b : Bool) (f : Flags) : Flags := if b then f else 0

/-- Rounding modes (R71, R76). -/
inductive Mode where
  | rne | rtz | rdn | rup
  deriving DecidableEq, Repr

/-- `fpcsr.RM` (R71). -/
def rmOf (fpcsr : Word) : Mode :=
  match (fpcsr.extractLsb' 0 2).toNat with
  | 0 => .rne
  | 1 => .rtz
  | 2 => .rdn
  | _ => .rup
/-- The mode of a rnd code; code 000 takes `fpcsr.RM` (R57). -/
def modeOf (rnd : BitVec 3) (fpcsr : Word) : Mode :=
  match rnd.toNat with
  | 1 => .rne
  | 2 => .rtz
  | 3 => .rdn
  | 4 => .rup
  | _ => rmOf fpcsr
/-- `fpcsr.FTZ` (R71, R77). -/
def ftzOf (fpcsr : Word) : Bool := fpcsr.getLsbD 2

/-- The subcause of the FPEXC trap that raised flags cause under the enables of `fpcsr` (R79, R80). -/
def fpTrap (fpcsr : Word) (fl : Flags) : Option Nat :=
  if fl.getLsbD 5 && fpcsr.getLsbD 13 then some 6
  else if fl.getLsbD 0 && fpcsr.getLsbD 8 then some 1
  else if fl.getLsbD 1 && fpcsr.getLsbD 9 then some 2
  else if fl.getLsbD 2 && fpcsr.getLsbD 10 then some 3
  else if fl.getLsbD 3 && fpcsr.getLsbD 11 then some 4
  else if fl.getLsbD 4 && fpcsr.getLsbD 12 then some 5
  else none

/-- Raised flags as bits 7:3 of `fpcsr` (R71). -/
def flagBits (fl : Flags) : Word := ((fl &&& 31).setWidth 32) <<< 3

/-- Sets raised flags in a thread's `fpcsr`; none is cleared (R78). -/
def Thread.raiseFlags (t : Thread) (fl : Flags) : Thread :=
  if fl &&& 31 == 0 then t else t.write .f ((t.fpcsr ||| flagBits fl).setWidth 64)

end Sys2Proof.Machine
end

