-- ==== Sys2Proof/Machine/Issue.lean ====
section
/-!
DEFINITION. Issuing one instruction to a group of threads: the switch marker (R37), the guard window (R30, R195), what
an unmarked instruction reads (R38), the uniform bit and its check (R33, R35, R36), and lane instructions (R101 to R104).
-/
namespace Sys2Proof.Machine
open Sys2Proof.Config

/-- How an instruction issues. -/
structure Form where
  /-- bytes of the instruction -/
  len : Nat
  /-- waits until the results of earlier instructions are written: a switch marker, and what acts as one (R37, R144,
  R215, R217) -/
  mark : Bool
  uni : Bool
  /-- its sources in the sense of R33 -/
  src : List RegId
  /-- a release: it waits until the earlier accesses of the threads have performed (R240, R353, R358) -/
  quiet : Bool
  /-- forbidden in the body of a relaxation region (R332) -/
  forbid : Bool
  deriving DecidableEq, Repr

/-- A 32-bit instruction with its S and U bits. -/
def hdForm (h : Hd) (src : List RegId) : Form := ⟨4, h.mark, h.uni, src, false, false⟩
/-- A 32-bit instruction whose U bit is reserved. -/
def markForm (m : Bool) (src : List RegId := []) : Form := ⟨4, m, false, src, false, false⟩
/-- A 16-bit instruction (R53). -/
def shortForm (m : Bool) (src : List RegId := []) : Form := ⟨2, m, false, src, false, false⟩
/-- The form of an instruction that a relaxation body may not execute (R332). -/
def Form.barred (f : Form) : Form := { f with forbid := true }
/-- The form of a release. [DEDUCED, log 85] -/
def Form.release (f : Form) : Form := { f with quiet := true }

/-- The registers a base names (R55). -/
def baseRegs (b : Reg) : List RegId := if Reg.even b then [.v b, .v (b + 1)] else [.v b]
/-- Pairs, and groups of consecutive registers (R102). -/
def pairRegs (r : Reg) : List RegId := [.v r, .v (r + 1)]
@[inherit_doc pairRegs] def groupRegs (r : Reg) (n : Nat) : List RegId := (List.range n).map fun i => .v (r + BitVec.ofNat 6 i)
/-- Words of a register group. -/
def Thread.group (t : Thread) (r : Reg) (n : Nat) : List Word := (List.range n).map fun i => t.getV (r + BitVec.ofNat 6 i)

/-- A source as R35 compares it; of `fpcsr` the control fields only. -/
def Thread.source (t : Thread) (r : RegId) : DWord :=
  match r with
  | .f => (t.fpcsr &&& 0x3F07).setWidth 64
  | r => t.reg r

/-- A thread takes its place by home lane, then by number. -/
def insertByLane (t : Thread) : List Thread → List Thread
  | [] => [t]
  | u :: r => if t.lane < u.lane || (t.lane == u.lane && t.tid ≤ u.tid) then t :: u :: r else u :: insertByLane t r
/-- Threads in ascending home-lane order (R226, R239, R245). -/
def byLane (ts : List Thread) : List Thread := ts.foldr insertByLane []
/-- The threads of the group that still run. -/
def State.members (s : State) (g : Issue) : List Thread :=
  (g.tids.filterMap fun i => s.thread? g.cid i).filter fun t => !t.exited
/-- The participating thread with the lowest home lane (R33). -/
def lowest : List Thread → Option Thread
  | [] => none
  | t :: r => match lowest r with
    | some u => if u.lane < t.lane then some u else some t
    | none => some t

/-- At a switch marker every earlier result is seen, and what other agents wrote before the thread's last acquire (R37, R155). -/
def Thread.marked (t : Thread) : Thread := t.land.settle
/-- A member moves past the instruction. -/
def Thread.issued (f : Form) (t : Thread) : Thread :=
  let u := (if f.mark then t.marked else t).past f.len
  { u with seq := t.seq + 1 }
/-- What the instruction reads in a thread (R37, R38, R155). Even numbers draw the free choices of participating threads. -/
def Thread.reads (f : Form) (n : Nat) (t : Thread) : Thread := (if f.mark then t.marked else t).view (2 * n)
/-- The number that draws the free choices for other threads and for masks. -/
def State.draw (s : State) : Nat := 2 * s.fresh + 1

/-- Raises one trap in each of some threads (R36). [DEDUCED, log 27] -/
def State.raiseAll (s : State) (ts : List Thread) (tr : Trap) : State := ts.foldl (fun s t => s.raise t tr) s

/-- A thread waits at the instruction it was about to execute: counter, window and an armed step return to it. -/
def State.waitAt (s : State) (t : Thread) (w : Wait) : State :=
  s.updThread t.cid t.tid fun u => { u with pc := t.pc, guard := t.guard, step := t.step, asyncs := t.asyncs, wait := w }

/-- DBGCTL.UCHK is set and a participating thread's source differs from the lowest one's (R35). -/
def State.uniDiffers (s : State) (f : Form) (ps : List Thread) : Bool :=
  match lowest ps with
  | none => false
  | some l => (s.dbgctl l.cid).getLsbD 5 && ps.any fun t => f.src.any fun r => t.source r != l.source r

/-! ### Traps that an instruction meets beside its own (R303, R304) -/

/-- A register of a thread that an error has spoiled: a `v` register, a predicate or a `k` register, by a free choice. -/
def spoiledReg (fresh : Nat) : RegId :=
  let n := (freeWord fresh 4).toNat % 83
  if n < 64 then .v (BitVec.ofNat 6 n) else if n < 71 then .p (n - 64) else .k (n - 71)
/-- The spoiled register holds an unpredictable value (R303). -/
def State.spoil (s : State) (t : Thread) (r : RegId) : State :=
  let x := freeWord s.fresh 5
  match r with
  | .k n => s.updTroupe t.cid t.trp fun u => { u with k := u.k.setIfInBounds n x }
  | r => s.updThread t.cid t.tid fun u => u.setReg r (x.setWidth 64)
/-- DATAERR STATE (R303). -/
def stateErr : Trap := { cls := cDataerr, sub := 5 }
/-- The thread takes a trap that its instruction meets; the register of a DATAERR STATE is spoiled. -/
def State.fall (s : State) (t : Thread) (tr : Trap) : State :=
  (if tr == stateErr then s.spoil t (spoiledReg s.fresh) else s).raise t tr
/-- The traps that participating threads meet whatever the instruction does: an error in a register of one thread, a free choice, or of
each thread of a uniform instruction (R303); unequal sources (R35); a forbidden instruction in a running region (R332). [DEDUCED, log 26]
[DEDUCED, log 62] -/
def State.rivalsOf (s : State) (f : Form) (word : Word) (ps : List Thread) : List Rival :=
  let at_ (tr : Trap) (t : Thread) : Rival := ⟨t.cid, t.tid, tr⟩
  let hit := if f.uni then ps else (ps[(freeWord s.fresh 6).toNat % ps.length]?).toList
  (if s.bad == 2 then hit.map (at_ stateErr) else []) ++
    (if f.uni && s.uniDiffers f ps then ps.map (at_ { cls := cDebug, sub := 4 }) else []) ++
    (if f.forbid then (ps.filter fun t => (s.bodyOf t).isSome).map (at_ { cls := cUnit, sub := 3, extra := word }) else [])
/-- The first of a thread's rivals in the order of R304. -/
def firstRival (t : Thread) : List Rival → Option Trap
  | [] => none
  | x :: r => match firstRival t r with
    | some y => if x.cid == t.cid && x.tid == t.tid && x.trap.rank ≤ y.rank then some x.trap else some y
    | none => if x.cid == t.cid && x.tid == t.tid then some x.trap else none
/-- The thread is held at the instruction and will execute it anew: it takes none of its traps yet. -/
def Wait.held : Wait → Bool
  | .marker | .quiet | .mig .. | .tender | .tile | .hold => true
  | _ => false
/-- What a thread takes of the traps it meets, after the instruction has acted. -/
def State.due (r : State) (t : Thread) : Option Trap :=
  if (r.thread? t.cid t.tid).any fun u => u.wait.held then none else firstRival t r.rivals
/-- The instruction acts where its threads meet the traps `vs` as well. Each thread takes the first of what it raises and what it
meets (R304); the threads that take what they meet have no other effect, and the instruction acts on the rest. -/
def State.contend (s : State) (vs : List Rival) (ps : List Thread) (body : State → List Thread → State) : State :=
  let r := body { s with rivals := vs } ps
  if ps.all fun t => (r.due t).isNone then { r with rivals := [] }
  else
    let fall (s : State) (t : Thread) : State := match r.due t with
      | some tr => s.fall t tr
      | none => s
    body (ps.foldl fall s) (ps.filter fun t => (r.due t).isNone)

/-- Register reads a group needs: one for each distinct `v` register it reads (R379). [DEDUCED, log 30] -/
def Form.grants (f : Form) : Nat := (f.src.filter fun r => match r with | .v _ => true | _ => false).eraseDups.length

/-- Issues the pending group: `body` acts on the participating threads as the instruction reads them, after every
member has moved past the instruction. `stall` may hold the group at the instruction (R39, R272). -/
def State.runIssue (s : State) (f : Form) (body : State → List Thread → State)
    (stall : State → List Thread → Option Wait := fun _ _ => none) : State :=
  match s.issue with
  | none => s
  | some g =>
    let s := { s with issue := none }
    let ms := s.members g
    let hold (w : Wait) : State := ms.foldl (fun s t => s.waitAt t w) s
    if f.mark && ms.any (fun t => s.resultsOut t.cid t.tid) then hold .marker
    else if f.quiet && ms.any (fun t => s.releaseOut t.cid t.tid) then hold .quiet
    else
      let ps := (ms.filter Thread.passes).map (Thread.reads f s.fresh)
      match stall s ps with
      | some w => hold w
      | none =>
        let s := ({ s with fresh := s.fresh + 1, rivals := [] } : State).updCore g.core fun c => { c with need := c.need + f.grants }
        let s := ms.foldl (fun s t => s.updThread t.cid t.tid (Thread.issued f)) s
        match s.rivalsOf f g.word ps with
        | [] => body s ps
        | vs => s.contend vs ps body

/-- The threads that act for a group: the lowest one of a uniform instruction, or each (R33). -/
def actors (uni : Bool) (ps : List Thread) : List Thread := if uni then (lowest ps).toList else ps
/-- Each participating thread as source and receiver, or the lowest one as source for all of them (R33). [DEDUCED, log 43] [DEDUCED, log 45] -/
def State.each (s : State) (uni : Bool) (ps : List Thread) (f : State → Thread → List Thread → State) : State :=
  if uni then
    match lowest ps with
    | none => s
    | some l => f s l ps
  else ps.foldl (fun s t => f s t [t]) s

/-! ### Results -/

/-- A later instruction has written registers that an operation in flight was to write (R38). -/
def OpLane.overtake (tid : Nat) (rs : List RegId) (l : OpLane) : OpLane :=
  if l.tid == tid then { l with dead := l.dead ++ rs } else l
@[inherit_doc OpLane.overtake] def MemOp.overtake (cid tid : Nat) (rs : List RegId) (o : MemOp) : MemOp :=
  if o.feeds cid tid then { o with lanes := o.lanes.map (OpLane.overtake tid rs) } else o
@[inherit_doc OpLane.overtake] def MbOp.overtake (cid tid : Nat) (rs : List RegId) (m : MbOp) : MbOp :=
  if m.kind == .call && m.cid == cid && m.lanes.contains tid then { m with dead := m.dead ++ rs.map fun r => (tid, r) } else m

/-- Writes results to a thread's registers. -/
def State.writeRegs (s : State) (cid tid : Nat) (ws : List (RegId × DWord)) : State :=
  let s := s.updThread cid tid fun t => t.writes ws
  { s with ops := s.ops.map (MemOp.overtake cid tid (ws.map (·.1))), mbox := s.mbox.map (MbOp.overtake cid tid (ws.map (·.1))) }

/-- What a lane instruction delivers in one thread. -/
structure LaneOut where
  writes : List (RegId × DWord)
  fl : Flags := 0
  deriving DecidableEq, Repr

/-- Sets raised flags, and traps where an enable calls for it: then nothing else is written (R79). -/
def State.deliver (s : State) (t : Thread) (fpcsr : Word) (o : LaneOut) : State :=
  let s := s.updThread t.cid t.tid fun u => u.raiseFlags o.fl
  match fpTrap fpcsr o.fl with
  | some sub => s.raise t { cls := cFpexc, sub := sub }
  | none => s.writeRegs t.cid t.tid o.writes

/-- Delivers to each participating thread what it computed, or what the lowest one computed (R33). -/
def State.deliverAll (s : State) (uni : Bool) (ps : List Thread) (e : Thread → LaneOut) : State :=
  s.each uni ps fun s l rs => rs.foldl (fun s t => s.deliver t l.fpcsr (e l)) s

/-- A lane instruction: each participating thread on its own registers, or once for the group (R33, R101). -/
def State.laneOp (s : State) (f : Form) (e : Thread → LaneOut) : State :=
  s.runIssue f fun s ps => s.deliverAll f.uni ps e

/-- A 32-bit result in a `v` register. -/
def vOut (d : Reg) (x : Word) : LaneOut := { writes := [(.v d, x.setWidth 64)] }
/-- A 64-bit result in a pair. -/
def pairOut (d : Reg) (x : DWord) : LaneOut := { writes := pairWrites d x }
/-- A predicate result. -/
def pOut (p : BitVec 3) (b : Bool) : LaneOut := { writes := [(.p p.toNat, if b then 1 else 0)] }
/-- An FP32 result with its flags. -/
def fpOut (d : Reg) (x : Nat) (fl : Flags) : LaneOut := { writes := [(.v d, BitVec.ofNat 64 x)], fl := fl }

end Sys2Proof.Machine
end

