-- ==== Sys2Proof/Machine/Operands.lean ====
section
/-!
DEFINITION. Operand forms: the addresses and base updates of the M format (R47, R55, R174), text-relative addresses
(R56, R61), parameter blocks in pools (R51), control words and tensor descriptors (R92, R176).
-/
namespace Sys2Proof.Machine

/-- Bytes of a size code of the M format (R54, R175). -/
def sizeBytes (size : BitVec 3) : Nat :=
  match size.toNat with
  | 0 => 1
  | 1 => 2
  | 2 => 4
  | 3 => 8
  | 4 => 16
  | 5 => 1
  | 6 => 2
  | _ => 4

/-- `Wrap` (R174), on exact integers. -/
def wrapBase (b : DWord) (d : Int) (l : Word) : DWord :=
  let n : Int := b.toNat + d
  let len : Int := l.toNat
  if len != 0 && n / len != (b.toNat : Int) / len then BitVec.ofInt 64 (n - d.sign * len) else BitVec.ofInt 64 n

/-- An address and the register writes of its base update. -/
structure Addr where
  va : DWord
  upd : List (RegId × DWord) := []
  deriving DecidableEq, Repr

/-- The address of an M-format operand, where `unit` is the access size (R174). -/
def Thread.mAddr (t : Thread) (field : BitVec 6) (mode : BitVec 2) (base : Reg) (unit : Nat) : Addr :=
  let b := t.base base
  match mode.toNat with
  | 0 => { va := b + BitVec.ofInt 64 (field.toInt * unit) }
  | 1 => { va := b, upd := baseWrites base (b + BitVec.ofInt 64 (field.toInt * unit)) }
  | 2 =>
    let x := wrapBase b ((field.setWidth 4).toInt * unit) (t.getQ (field.toNat / 16))
    { va := b, upd := baseWrites base x }
  | _ => { va := b + (t.getV field).signExtend 64 }
/-- Its sources (R33). -/
def mSrc (field : BitVec 6) (mode : BitVec 2) (base : Reg) : List RegId :=
  baseRegs base ++ (match mode.toNat with | 2 => [.q (field.toNat / 16)] | 3 => [.v field] | _ => [])

/-- A text-relative address: (PC & ~3) + off × 4 (R51, R61). -/
def textAddr (pc : DWord) (off : Int) : DWord := (pc &&& ~~~3) + BitVec.ofInt 64 (off * 4)

/-! ### Pools (R50, R51, R62) -/

/-- The length a guard word states, in words; `none` where the word is no guard word (R50, R62). -/
def guardLen (w : Word) : Option Nat :=
  if w.extractLsb' 0 15 == 0x1F9#15 then some (w.extractLsb' 15 17).toNat else none

/-- A word read as instruction fetches read it (R51): by halfwords, so that the fault names the failing one. -/
def State.fetchWord (s : State) (w : Who) (va : DWord) : Except Trap Word :=
  match s.check w .fetch va 4 false with
  | .ok c => .ok (BitVec.ofNat 32 (natOf (s.getLocs c.locs)))
  | .error e => .error e
/-- Words read as instruction fetches from an address upward. -/
def State.fetchWords (s : State) (w : Who) (va : DWord) : Nat → Except Trap (List Word)
  | 0 => .ok []
  | n + 1 => match s.fetchWord w va with
    | .error e => .error e
    | .ok x => match s.fetchWords w (va + 4) n with
      | .error e => .error e
      | .ok r => .ok (x :: r)
/-- The first of some words whose page is migrating: their fetch has to wait (R151). [DEDUCED, log 84] -/
def State.fetchStall (s : State) (w : Who) (vas : List DWord) : Option DWord :=
  vas.find? fun va => match s.check w .fetch va 4 false with
    | .ok c => c.mig
    | .error _ => false
/-- The words of a parameter block, its guard word first (R51). -/
def paramVas (pc : DWord) (off : BitVec 12) (n : Nat) : List DWord :=
  (List.range (n + 1)).map fun i => textAddr pc off.toInt - 4 + BitVec.ofNat 64 (4 * i)
/-- The parameter block of `n` words named by off12 at an instruction (R51): its guard word, then the block; a failed
check is ILLEGAL with subcause PARAMS. -/
def State.params (s : State) (w : Who) (pc : DWord) (off : BitVec 12) (n : Nat) (word : Word) : Except Trap (List Word) :=
  let a := textAddr pc off.toInt
  match s.fetchWord w (a - 4) with
  | .error e => .error e
  | .ok g => match s.fetchWords w a n with
    | .error e => .error e
    | .ok ws => match guardLen g with
      | some l => if n ≤ l then .ok ws else .error { cls := cIllegal, sub := 6, extra := word }
      | none => .error { cls := cIllegal, sub := 6, extra := word }

/-! ### Tensors (R92, R176) -/

/-- Bytes of the scale range of a tensor of `n` elements (R92). -/
def scaleBytes (n : Nat) : Nat := (n / 32 + 63) / 64 * 64
/-- The addresses an element touches: its scale byte and its plane bytes 0 to k − 1 (R176). -/
def planeAddrs (tensor : DWord) (n i k : Nat) : List DWord :=
  (tensor + BitVec.ofNat 64 (i / 32)) ::
    (List.range k).map fun p => tensor + BitVec.ofNat 64 (scaleBytes n + p * n + i)

/-- The instruction word of the pending group. -/
def State.word (s : State) : Word :=
  match s.issue with
  | some g => g.word
  | none => 0

end Sys2Proof.Machine
end

