-- ==== Sys2Proof/Machine/Access.lean ====
section
/-!
DEFINITION. The path every thread's memory access takes: checks and faults (R149, R151, R169), operations in flight (R23), results, watches (R320), and the accesses of
a relaxation body (R339).
-/
namespace Sys2Proof.Machine
open Sys2Proof.Config

/-! ### Requests -/

/-- An access a thread asks for. -/
structure Req where
  va : DWord
  n : Nat
  acc : Acc
  natural : Bool := false
  upd : List (RegId × DWord) := []
  deriving DecidableEq, Repr

/-- Keeps the translations of an access's first and last byte (R326). -/
def State.fillFor (s : State) (w : Who) (va n : Nat) : State :=
  (s.fillTlb w.part w.asid va).fillTlb w.part w.asid (va + n - 1)

/-- The watch descriptors of a thread's core see an access (R320). -/
def State.watchHit (s : State) (t : Thread) (write : Bool) (vas : List Nat) : Bool :=
  match s.company? t.cid with
  | none => false
  | some c =>
    let k := s.core c.core
    k.dbgctl.getLsbD 4 && k.watches.any fun w =>
      (if write then w.wr else w.rd) && vas.any fun a => w.addr.toNat ≤ a && a < w.addr.toNat + w.len
/-- DEBUG WATCH, due once an access that reads and writes some bytes is made (R304, R320). [DEDUCED, log 36] -/
def State.watchFor (s : State) (ts : List Thread) (va : DWord) (reads writes : List Nat) : State :=
  ts.foldl (fun s t => if s.watchHit t false reads || s.watchHit t true writes then
    s.updThread t.cid t.tid fun u =>
      { u with asyncs := u.asyncs ++ [{ trap := { cls := cDebug, sub := 3, addr := va }, ticket := 0, cmd := none }] }
    else s) s

/-- The same for an access of one kind. -/
def State.watch (s : State) (ts : List Thread) (acc : Acc) (va : DWord) (vas : List Nat) : State :=
  s.watchFor ts va (if acc.reads then vas else []) (if acc.writes then vas else [])
/-- Threads wait at a page that is migrating (R151). [DEDUCED, log 84] -/
def State.stallAll (s : State) (rs : List Thread) (asid : BitVec 12) (va : DWord) : State :=
  rs.foldl (fun s t => s.waitAt t (.mig asid va)) s
/-- Base updates (R174). -/
def State.updateAll (s : State) (rs : List Thread) (upd : List (RegId × DWord)) : State :=
  rs.foldl (fun s t => s.writeRegs t.cid t.tid upd) s

/-- A read of the instruction, its `i`-th, meets an uncorrectable error in a thread: a free choice (R303). -/
def State.errAt (s : State) (t : Thread) (i : Nat) : Bool := s.bad == 3 && freeBit s.fresh t.tid (2000 + i)
/-- DATAERR LOAD at an address (R303). -/
def loadErr (va : DWord) : Trap := { cls := cDataerr, sub := 1, addr := va }
/-- One access by the source thread `l` for the threads `rs`: checks; then a fault in each of them, a stall on a
migrating page (R151), an uncorrectable error in what it reads (R149), or the access itself with its base update (R174). `hold` may keep it
from being made. -/
def State.access1 (s : State) (l : Thread) (rs : List Thread) (q : Req) (hold : State → Checked → Option State)
    (act : State → Checked → State) : State :=
  match s.check (s.whoIs l) q.acc q.va q.n q.natural with
  | .error tr => s.raiseAll rs tr
  | .ok c =>
    if c.mig then s.stallAll rs l.asid q.va
    else match hold s c with
      | some s => s
      | none =>
        if q.acc.reads && q.acc != .monitor && s.errAt l 0 then s.raiseAll rs (loadErr q.va) else
        let s := (s.fillFor (s.whoIs l) q.va.toNat q.n).updateAll rs q.upd
        (act s c).watch rs q.acc q.va ((List.range q.n).map (q.va.toNat + ·))

/-- The access of each participating thread, or of the lowest one for all of them (R33). -/
def State.access (s : State) (uni : Bool) (ps : List Thread) (q : Thread → Req)
    (act : State → Thread → List Thread → Req → Checked → State)
    (hold : State → Thread → List Thread → Req → Checked → Option State := fun _ _ _ _ _ => none) : State :=
  s.each uni ps fun s l rs => s.access1 l rs (q l) (fun s c => hold s l rs (q l) c) (fun s c => act s l rs (q l) c)

/-! ### Operations in flight -/

/-- What a register held before its last write, which stands first among `old`. -/
def Thread.before (t : Thread) (r : RegId) : DWord :=
  match t.old.find? fun o => o.1 == r with
  | some o => o.2
  | none => t.reg r
/-- The lane of a thread that will receive a result; its base update `upd` has just been written. -/
def State.opLane (s : State) (t : Thread) (upd : List (RegId × DWord)) : OpLane :=
  { tid := t.tid, seq := t.seq + 1, depth := t.frames.length, guard := t.guard, dead := [],
    undo := upd.map fun w => (w.1, ((s.thread? t.cid t.tid).getD t).before w.1) }

/-- Puts an operation in flight. -/
def State.pushOp (s : State) (o : MemOp) : State :=
  { s with ops := s.ops ++ [{ o with id := s.nextId, grp := s.fresh }], nextId := s.nextId + 1 }
/-- An operation of thread `l` whose result goes to the threads `rs`. -/
def State.mkOp (s : State) (l : Thread) (rs : List Thread) (q : Req) (c : Checked) (k : OpKind) (d : Reg) (n : Nat) : MemOp :=
  { id := 0, grp := 0, cid := l.cid, tid := l.tid, lanes := rs.map fun t => s.opLane t q.upd, kind := k, asid := l.asid,
    va := q.va, vas := (List.range q.n).map (q.va.toNat + ·), locs := c.locs, kinds := c.kinds, got := [], acq := false,
    rel := false, scope := 0, pc := l.pc, d := d, n := n, born := s.clkOf l.cid }

/-- The operations before one, and the operation itself. -/
def opSplit (id : Nat) : List MemOp → List MemOp × Option MemOp
  | [] => ([], none)
  | x :: r => if x.id == id then ([], some x) else let (e, o) := opSplit id r; (x :: e, o)
/-- An operation that may perform now. [DESIGN CHOICE, log 11] -/
def State.readyOp (s : State) (id : Nat) : Option MemOp :=
  match opSplit id s.ops with
  | (e, some o) => if opFree o e then some o else none
  | (_, none) => none
/-- A `cas` finds another value than its comparand (R223). -/
def State.casFails (s : State) (o : MemOp) : Bool :=
  match o.kind with
  | .atom _ 14 _ x _ => natOf (s.getLocs o.locs) != x.toNat
  | _ => false
/-- The part of an operation that performs next, by a free choice among those that may, and what then is left of the operation. A `cas`
that fails counts as a load only (R227). -/
def State.readyPart (s : State) (id : Nat) : Option (MemOp × Option MemOp) :=
  match opSplit id s.ops with
  | (_, none) => none
  | (e, some o) =>
    let rest (p : MemOp) : Option MemOp :=
      match o.pieces.filter (· != p) with
      | [] => none
      | [q] => some q
      | _ => some (o.cut fun a => !p.vas.contains a)
    match o.pieces.filter fun p => opFree p e || (s.casFails p && opFreeAs p false e) with
    | [] => none
    | [p] => some (p, rest p)
    | p :: r => let p := (p :: r).getD ((freeWord s.fresh id).toNat % (r.length + 1)) p; some (p, rest p)
/-- Who made an operation. -/
def State.opWho (s : State) (o : MemOp) : Who :=
  { cid := o.cid, part := match s.company? o.cid with | some c => c.part | none => 0, asid := o.asid.toNat, sys := true, scr := 0,
    tid := some o.tid }
/-- A store in flight, about to perform, marks its bytes under the translation in force (R148, R170, R180). [DESIGN CHOICE, log 18] -/
def State.claimAt (s : State) (o : MemOp) (va n : Nat) : State :=
  let fenced := match s.thread? o.cid o.tid with
    | some t => t.chain.filter fun x => o.grp < x.1
    | none => []
  s.claim (s.opWho o) va n fenced 2
@[inherit_doc State.claimAt] def State.claimOp (s : State) (o : MemOp) : State :=
  match o.vas with
  | [] => s
  | va :: _ => s.claimAt o va o.vas.length
/-- A part has performed: `rest` stands for the operation. -/
def State.keepPart (s : State) (rest : MemOp) : State :=
  { s with ops := s.ops.map fun o => if o.id == rest.id then rest else o, fresh := s.fresh + 1 }

/-- Fences with no earlier access of their thread in flight order nothing any more. -/
def pruneFences : List MemOp → List MemOp → List MemOp
  | _, [] => []
  | seen, o :: r =>
    if o.isFence && !(seen.any fun x => x.cid == o.cid && x.tid == o.tid) then pruneFences seen r
    else o :: pruneFences (o :: seen) r
/-- An operation leaves the list. Parked threads may go on. -/
def State.dropOp (s : State) (id : Nat) : State :=
  ({ s with ops := pruneFences [] (s.ops.filter fun o => o.id != id) }).rewake

/-- A result arrives in one thread. A register that a later instruction has written keeps that value, but a reader may
still have seen this one (R38). -/
def Thread.arrive (t : Thread) (dead : List RegId) (ws : List (RegId × DWord)) : Thread :=
  ws.foldl (fun t w => if dead.contains w.1 then { t with old := w :: t.old } else t.write w.1 w.2) t
/-- Operations and calls of a thread issued before number `below` no longer write these registers last (R38). -/
def State.supersede (s : State) (below cid tid : Nat) (rs : List RegId) : State :=
  { s with ops := s.ops.map fun o => if o.id < below then o.overtake cid tid rs else o,
           mbox := s.mbox.map fun m => if m.id < below then m.overtake cid tid rs else m }
/-- A result arrives in every thread that waits for it; an earlier one that comes later is not the last (R38). -/
def State.arrive (s : State) (o : MemOp) (ws : List (RegId × DWord)) : State :=
  o.lanes.foldl (fun s l => (s.updThread o.cid l.tid fun t => t.arrive l.dead ws).supersede o.id o.cid l.tid (ws.map (·.1))) s

/-- An uncorrectable error reaches threads that have issued nothing since: the instruction has no effect, and each takes
DATAERR precisely (R303). -/
def State.dataError (s : State) (o : MemOp) : State :=
  let s := { s with ops := pruneFences [] (s.ops.filter fun x => x.id != o.id) }
  let tr := loadErr o.va
  let s := o.lanes.foldl (fun s l =>
    let s := s.updThread o.cid l.tid fun t => { t with pc := o.pc, guard := l.guard, wait := .none }
    let s := l.undo.foldl (fun s w => s.updThread o.cid l.tid fun t => t.setReg w.1 w.2) s
    match s.thread? o.cid l.tid with
    | some t => s.raise t tr
    | none => s) s
  s.rewake
/-- The error can still be taken precisely: no thread of the operation has issued a later instruction or entered a handler since.
[DESIGN CHOICE, log 25] -/
def State.precise (s : State) (o : MemOp) : Bool :=
  o.lanes.all fun l => match s.thread? o.cid l.tid with
    | some t => t.seq == l.seq && t.frames.length == l.depth
    | none => false

/-! ### Accesses of a relaxation body (R339) -/

/-- The latest byte a step buffered at a location. -/
def bufferedByte (step : Nat) (l : Loc) (buf : List RxStore) : Option Byte :=
  buf.foldl (fun r b => if b.step == step then
    match (b.locs.zip b.data).find? fun x => x.1.plain == l.plain with
    | some x => some x.2
    | none => r
    else r) none
/-- What a step's load obtains: its own buffered bytes, and memory for the rest. -/
def State.bodyBytes (s : State) (r : Region) (step : Nat) (ls : List Loc) : List Byte :=
  ls.map fun l => (bufferedByte step l r.buf).getD (s.getLoc l)
/-- Records a step's load for the conflict test. [DEDUCED, log 63] -/
def State.bodyLoad (s : State) (cid : Nat) (steps : List Nat) (ls : List Loc) : State :=
  s.updCompany cid fun c => { c with region := c.region.map fun r =>
    { r with loads := r.loads ++ steps.flatMap fun t => ls.map fun l => (t, l) } }
/-- Granules of the store buffer in use (R339). -/
def granules (buf : List RxStore) : List (Nat × Loc) :=
  (buf.flatMap fun b => b.locs.map fun l => (b.step, l.unit 8)).eraseDups
/-- The buffer has room for a store. -/
def Region.room (r : Region) (x : RxStore) : Bool := (granules (r.buf ++ [x])).length ≤ 4096
/-- A buffered store. -/
def State.bodyStore (s : State) (cid : Nat) (x : RxStore) : State :=
  s.updCompany cid fun c => { c with region := c.region.map fun r =>
    { r with buf := r.buf ++ [x], stores := r.stores ++ x.locs.map fun l => (x.step, l) } }
/-- A store that finds the buffer full leaves the step waiting at it (R339). -/
def State.bodyOverflow (s : State) (t : Thread) : State :=
  let s := s.updCompany t.cid fun c => { c with region := c.region.map fun r => { r with overflow := t.tid :: r.overflow } }
  s.waitAt t .rxend

end Sys2Proof.Machine
end

