-- ==== Sys2Proof/Machine/Lane.lean ====
section
/-!
DEFINITION. Integer, bit, move, compare and special-register lane instructions (R106 to R116, R143 to R145) and the
integer 16-bit forms (R53).
-/
namespace Sys2Proof.Machine

/-- The outcome of an instruction is always a next state: what goes wrong is a trap (R302). -/
abbrev Out := Host.Outcome State Fault Refusal

/-! ### Shared shapes -/

/-- One result from two `v` registers. -/
def State.alu2 (s : State) (h : Hd) (d a b : Reg) (f : Word → Word → Word) : Out :=
  .next (s.laneOp (hdForm h [.v a, .v b]) fun t => vOut d (f (t.getV a) (t.getV b)))
/-- One result from one `v` register. -/
def State.alu1 (s : State) (h : Hd) (d a : Reg) (f : Word → Word) : Out :=
  .next (s.laneOp (hdForm h [.v a]) fun t => vOut d (f (t.getV a)))
/-- One result from two `v` registers and the destination (R103). -/
def State.alu3 (s : State) (h : Hd) (d a b : Reg) (f : Word → Word → Word → Word) : Out :=
  .next (s.laneOp (hdForm h [.v a, .v b, .v d]) fun t => vOut d (f (t.getV a) (t.getV b) (t.getV d)))
/-- A 16-bit form `vd := f vd vb` (R53). -/
def State.short2 (s : State) (m : Bool) (d b : BitVec 5) (f : Word → Word → Word) : Out :=
  .next (s.laneOp (shortForm m [.v (d.setWidth 6), .v (b.setWidth 6)]) fun t =>
    vOut (d.setWidth 6) (f (t.getV (d.setWidth 6)) (t.getV (b.setWidth 6))))

/-- Signed and unsigned minimum and maximum (R106). -/
def iminW (x y : Word) : Word := if x.slt y then x else y
@[inherit_doc iminW] def imaxW (x y : Word) : Word := if x.slt y then y else x
@[inherit_doc iminW] def uminW (x y : Word) : Word := if x < y then x else y
@[inherit_doc iminW] def umaxW (x y : Word) : Word := if x < y then y else x

/-- Shifts and rotations by the whole of an unsigned amount (R108). -/
def shlW (x n : Word) : Word := if n.toNat < 32 then x <<< n.toNat else 0
@[inherit_doc shlW] def shrW (x n : Word) : Word := x >>> n.toNat
@[inherit_doc shlW] def sarW (x n : Word) : Word := x.sshiftRight n.toNat
@[inherit_doc shlW] def rolW (x n : Word) : Word := x.rotateLeft (n.toNat % 32)
@[inherit_doc shlW] def rorW (x n : Word) : Word := x.rotateRight (n.toNat % 32)

/-! ### IALU (R106 to R108) -/

/-- `iadd` (R106). -/
def execIadd (h : Hd) (d a b : Reg) (s : State) : Out := s.alu2 h d a b (· + ·)
/-- `isub` (R106). -/
def execIsub (h : Hd) (d a b : Reg) (s : State) : Out := s.alu2 h d a b (· - ·)
/-- `iaddc`: the carry comes from `p6` and returns there (R107). -/
def execIaddc (h : Hd) (d a b : Reg) (s : State) : Out :=
  .next (s.laneOp (hdForm h [.v a, .v b, .p 6]) fun t =>
    let sum := (t.getV a).setWidth 33 + (t.getV b).setWidth 33 + (if t.getP 6 then 1 else 0)
    { writes := [(.v d, (sum.setWidth 32).setWidth 64), (.p 6, if sum.getLsbD 32 then 1 else 0)] })
/-- `isubb`: the borrow comes from `p6` and returns there (R107). -/
def execIsubb (h : Hd) (d a b : Reg) (s : State) : Out :=
  .next (s.laneOp (hdForm h [.v a, .v b, .p 6]) fun t =>
    let c : Word := if t.getP 6 then 1 else 0
    { writes := [(.v d, (t.getV a - t.getV b - c).setWidth 64),
        (.p 6, if (t.getV a).toNat < (t.getV b).toNat + c.toNat then 1 else 0)] })
/-- `ineg` (R106). -/
def execIneg (h : Hd) (d a : Reg) (s : State) : Out := s.alu1 h d a (fun x => 0 - x)
/-- `iabs` (R106). -/
def execIabs (h : Hd) (d a : Reg) (s : State) : Out := s.alu1 h d a (fun x => if x.msb then 0 - x else x)
/-- `imin` (R106). -/
def execImin (h : Hd) (d a b : Reg) (s : State) : Out := s.alu2 h d a b iminW
/-- `imax` (R106). -/
def execImax (h : Hd) (d a b : Reg) (s : State) : Out := s.alu2 h d a b imaxW
/-- `umin` (R106). -/
def execUmin (h : Hd) (d a b : Reg) (s : State) : Out := s.alu2 h d a b uminW
/-- `umax` (R106). -/
def execUmax (h : Hd) (d a b : Reg) (s : State) : Out := s.alu2 h d a b umaxW
/-- `and` (R106). -/
def execAnd (h : Hd) (d a b : Reg) (s : State) : Out := s.alu2 h d a b (· &&& ·)
/-- `or` (R106). -/
def execOr (h : Hd) (d a b : Reg) (s : State) : Out := s.alu2 h d a b (· ||| ·)
/-- `xor` (R106). -/
def execXor (h : Hd) (d a b : Reg) (s : State) : Out := s.alu2 h d a b (· ^^^ ·)
/-- `andn` (R106). -/
def execAndn (h : Hd) (d a b : Reg) (s : State) : Out := s.alu2 h d a b (fun x y => x &&& ~~~y)
/-- `orn` (R106). -/
def execOrn (h : Hd) (d a b : Reg) (s : State) : Out := s.alu2 h d a b (fun x y => x ||| ~~~y)
/-- `not` (R106). -/
def execNot (h : Hd) (d a : Reg) (s : State) : Out := s.alu1 h d a (fun x => ~~~x)
/-- `shl` (R108). -/
def execShl (h : Hd) (d a b : Reg) (s : State) : Out := s.alu2 h d a b shlW
/-- `shr` (R108). -/
def execShr (h : Hd) (d a b : Reg) (s : State) : Out := s.alu2 h d a b shrW
/-- `sar` (R108). -/
def execSar (h : Hd) (d a b : Reg) (s : State) : Out := s.alu2 h d a b sarW
/-- `rol` (R108). -/
def execRol (h : Hd) (d a b : Reg) (s : State) : Out := s.alu2 h d a b rolW
/-- `ror` (R108). -/
def execRor (h : Hd) (d a b : Reg) (s : State) : Out := s.alu2 h d a b rorW
/-- `lea` with a shift of 1 to 4 (R106). -/
def execLea (h : Hd) (sh : BitVec 2) (d a b : Reg) (s : State) : Out :=
  s.alu2 h d a b fun x y => x + y <<< (sh.toNat + 1)
/-- `mov` (R106). -/
def execMov (h : Hd) (d a : Reg) (s : State) : Out := s.alu1 h d a (fun x => x)

/-! ### IALUI (R109) -/

/-- One result from a register and a sign-extended immediate. -/
def State.aluImm (s : State) (h : Hd) (d a : Reg) (imm : BitVec 8) (f : Word → Word → Word) : Out :=
  s.alu1 h d a fun x => f x (imm.signExtend 32)
/-- `iadd` with an immediate (R109). -/
def execIaddImm (h : Hd) (d a : Reg) (imm : BitVec 8) (s : State) : Out := s.aluImm h d a imm (· + ·)
/-- `and` with an immediate (R109). -/
def execAndImm (h : Hd) (d a : Reg) (imm : BitVec 8) (s : State) : Out := s.aluImm h d a imm (· &&& ·)
/-- `or` with an immediate (R109). -/
def execOrImm (h : Hd) (d a : Reg) (imm : BitVec 8) (s : State) : Out := s.aluImm h d a imm (· ||| ·)
/-- `xor` with an immediate (R109). -/
def execXorImm (h : Hd) (d a : Reg) (imm : BitVec 8) (s : State) : Out := s.aluImm h d a imm (· ^^^ ·)
/-- `shl` with an immediate (R109). -/
def execShlImm (h : Hd) (d a : Reg) (imm : BitVec 8) (s : State) : Out := s.aluImm h d a imm shlW
/-- `shr` with an immediate (R109). -/
def execShrImm (h : Hd) (d a : Reg) (imm : BitVec 8) (s : State) : Out := s.aluImm h d a imm shrW
/-- `sar` with an immediate (R109). -/
def execSarImm (h : Hd) (d a : Reg) (imm : BitVec 8) (s : State) : Out := s.aluImm h d a imm sarW
/-- `rol` with an immediate (R109). -/
def execRolImm (h : Hd) (d a : Reg) (imm : BitVec 8) (s : State) : Out := s.aluImm h d a imm rolW

/-! ### IMUL (R110) -/

/-- `imul` (R110). -/
def execImul (h : Hd) (d a b : Reg) (s : State) : Out := s.alu2 h d a b (· * ·)
/-- `imulh` (R110). -/
def execImulh (h : Hd) (d a b : Reg) (s : State) : Out := s.alu2 h d a b (fun x y => ((x.signExtend 64 * y.signExtend 64) >>> 32).setWidth 32)
/-- `umulh` (R110). -/
def execUmulh (h : Hd) (d a b : Reg) (s : State) : Out := s.alu2 h d a b (fun x y => ((x.setWidth 64 * y.setWidth 64) >>> 32).setWidth 32)
/-- `imad` (R110). -/
def execImad (h : Hd) (d a b : Reg) (s : State) : Out := s.alu3 h d a b fun x y z => x * y + z

/-! ### BITS (R111 to R113) -/

/-- Number of one bits, of zero bits above the highest one and below the lowest one; 32 for 0 (R111). -/
def popcW (x : Word) : Word := BitVec.ofNat 32 ((List.range 32).countP fun i => x.getLsbD i)
@[inherit_doc popcW] def clzW (x : Word) : Word := BitVec.ofNat 32 (if x == 0 then 32 else 31 - Nat.log2 x.toNat)
@[inherit_doc popcW] def ctzW (x : Word) : Word :=
  BitVec.ofNat 32 (((List.range 32).find? fun i => x.getLsbD i).getD 32)
/-- The word with its bits reversed (R111). -/
def brevW (x : Word) : Word := x.reverse

/-- The field of `bfe` and `ubfe` at a control word: its value and width, none for an empty field (R112). -/
def bitField (x c : Word) : Option (Nat × Nat) :=
  let p := c.toNat % 256
  let l := c.toNat / 256 % 256
  if l == 0 || 32 ≤ p then none
  else
    let w := min l (32 - p)
    some ((x.toNat / 2 ^ p) % 2 ^ w, w)
/-- `ubfe`, `bfe` and `bfi` on words (R112). -/
def ubfeW (x c : Word) : Word :=
  match bitField x c with
  | some (f, _) => BitVec.ofNat 32 f
  | none => 0
@[inherit_doc ubfeW] def bfeW (x c : Word) : Word :=
  match bitField x c with
  | some (f, w) => if f.testBit (w - 1) then BitVec.ofNat 32 (f + 2 ^ 32 - 2 ^ w) else BitVec.ofNat 32 f
  | none => 0
@[inherit_doc ubfeW] def bfiW (x c z : Word) : Word :=
  let p := c.toNat % 256
  let l := c.toNat / 256 % 256
  if l == 0 || 32 ≤ p then z
  else
    let m : Word := BitVec.ofNat 32 (2 ^ min l (32 - p) - 1)
    (z &&& ~~~(m <<< p)) ||| ((x &&& m) <<< p)

/-- The result bytes of `bmix` from `i` upward; `prev` is the byte below (R113). -/
def bmixFrom (src : List Byte) (c : Word) (i : Nat) (prev : Byte) : Nat → List Byte
  | 0 => []
  | n + 1 =>
    let r : Byte := if c.getLsbD (12 + i) then 0
      else if i != 0 && c.getLsbD (16 + i) then (if prev.msb then 0xFF else 0)
      else src.getD (c.toNat / 2 ^ (3 * i) % 8) 0
    r :: bmixFrom src c (i + 1) r n
/-- `bmix` on words: bytes 0 to 3 are those of `x`, bytes 4 to 7 those of `z` (R113). -/
def bmixW (x c z : Word) : Word :=
  BitVec.ofNat 32 (natOf (bmixFrom (bytesOf 4 x.toNat ++ bytesOf 4 z.toNat) c 0 0 4))

/-- `popc` (R111). -/
def execPopc (h : Hd) (d a : Reg) (s : State) : Out := s.alu1 h d a popcW
/-- `clz` (R111). -/
def execClz (h : Hd) (d a : Reg) (s : State) : Out := s.alu1 h d a clzW
/-- `ctz` (R111). -/
def execCtz (h : Hd) (d a : Reg) (s : State) : Out := s.alu1 h d a ctzW
/-- `brev` (R111). -/
def execBrev (h : Hd) (d a : Reg) (s : State) : Out := s.alu1 h d a brevW
/-- `bfe` (R112). -/
def execBfe (h : Hd) (d a b : Reg) (s : State) : Out := s.alu2 h d a b bfeW
/-- `ubfe` (R112). -/
def execUbfe (h : Hd) (d a b : Reg) (s : State) : Out := s.alu2 h d a b ubfeW
/-- `bfi` (R112). -/
def execBfi (h : Hd) (d a b : Reg) (s : State) : Out := s.alu3 h d a b bfiW
/-- `bmix` (R113). -/
def execBmix (h : Hd) (d a b : Reg) (s : State) : Out := s.alu3 h d a b bmixW

/-! ### ICMP and MOVL (R60, R114 to R116) -/

/-- The conditions of `icmp` (R116). -/
def icmpHolds (cond : BitVec 5) (x y : Word) : Bool :=
  match cond.toNat with
  | 0 => x == y
  | 1 => x != y
  | 2 => x.slt y
  | 3 => x.sle y
  | 4 => y.slt x
  | 5 => y.sle x
  | 6 => x.ult y
  | 7 => x.ule y
  | 8 => y.ult x
  | _ => y.ule x
/-- `icmp` (R116). -/
def execIcmp (h : Hd) (cond : BitVec 5) (p : BitVec 3) (a b : Reg) (s : State) : Out :=
  .next (s.laneOp (hdForm h [.v a, .v b]) fun t => pOut p (icmpHolds cond (t.getV a) (t.getV b)))
/-- `isel` (R115). -/
def execIsel (h : Hd) (p : BitVec 3) (d a b : Reg) (s : State) : Out :=
  .next (s.laneOp (hdForm h [.v a, .v b, .p p.toNat]) fun t => vOut d (if t.getP p.toNat then t.getV a else t.getV b))
/-- `movi` (R60). -/
def execMovi (m : Bool) (d : BitVec 5) (imm : BitVec 17) (s : State) : Out :=
  .next (s.laneOp (markForm m) fun _ => vOut (d.setWidth 6) (imm.signExtend 32))
/-- `lui`: bits 31:15 of its destination (R60). -/
def execLui (m : Bool) (d : BitVec 5) (imm : BitVec 17) (s : State) : Out :=
  .next (s.laneOp (markForm m [.v (d.setWidth 6)]) fun t =>
    vOut (d.setWidth 6) ((imm.setWidth 32 <<< 15) ||| (t.getV (d.setWidth 6) &&& 0x7FFF)))

/-! ### SPEC (R17, R143 to R145) -/

/-- The special registers of R17, by the numbers of R66. -/
def State.special (s : State) (t : Thread) (r : Nat) : DWord :=
  let c := s.company? t.cid
  let core := match c with | some c => c.core | none => 0
  match r with
  | 0x00 => BitVec.ofNat 64 t.lane
  | 0x01 => BitVec.ofNat 64 t.tid
  | 0x02 => BitVec.ofNat 64 t.trp
  | 0x03 => BitVec.ofNat 64 (match c with | some c => c.index | none => 0)
  | 0x04 => BitVec.ofNat 64 core
  | 0x05 => BitVec.ofNat 64 (deckOf core % 6)
  | 0x06 => BitVec.ofNat 64 (pierOf core)
  | 0x10 => BitVec.ofNat 64 (s.core core).clk
  | 0x11 => t.fpcsr.setWidth 64
  | 0x18 => (t.getQ 0).setWidth 64
  | 0x19 => (t.getQ 1).setWidth 64
  | 0x1A => (t.getQ 2).setWidth 64
  | 0x1B => (t.getQ 3).setWidth 64
  | r => BitVec.ofNat 64 (match c with | some c => c.lvl.getD (r - 8) 0 | none => 0)
/-- The registers of `gets` that are sources in the sense of R33. -/
def getsSrc (r : Nat) : List RegId := if r = 0x11 then [.f] else if 0x18 ≤ r then [.q (r - 0x18)] else []
/-- `gets` (R143). -/
def execGets (h : Hd) (r : BitVec 9) (d : Reg) (s : State) : Out :=
  .next (s.laneOp (hdForm h (getsSrc r.toNat)) fun t =>
    if r.toNat = 0x10 then pairOut d (s.special t r.toNat) else vOut d ((s.special t r.toNat).setWidth 32))

/-- `sets` (R144). A write of `fpcsr` first waits for every earlier result of the thread, flags included; the whole group waits, and
also in a member whose guard fails they are then seen for certain. [DESIGN CHOICE, log 114] -/
def execSets (h : Hd) (r : BitVec 9) (a : Reg) (s : State) : Out :=
  if r.toNat = 0x11 then
    .next (s.runIssue { hdForm h [.v a] with mark := true } fun s ps =>
      ps.foldl (fun s t => s.updThread t.cid t.tid Thread.land)
        (s.deliverAll h.uni ps fun t => { writes := [(.f, (t.getV a).setWidth 64)] }))
  else .next (s.laneOp (hdForm h [.v a]) fun t => { writes := [(.q (r.toNat - 0x18), (t.getV a).setWidth 64)] })
/-- `nop` (R145). -/
def execNop (m : Bool) (s : State) : Out := .next (s.laneOp (markForm m) fun _ => { writes := [] })

/-! ### 16-bit forms (R53) -/

/-- The 16-bit `iadd` (R53). -/
def execIadd16 (m : Bool) (d b : BitVec 5) (s : State) : Out := s.short2 m d b (· + ·)
/-- The 16-bit `isub` (R53). -/
def execIsub16 (m : Bool) (d b : BitVec 5) (s : State) : Out := s.short2 m d b (· - ·)
/-- The 16-bit `and` (R53). -/
def execAnd16 (m : Bool) (d b : BitVec 5) (s : State) : Out := s.short2 m d b (· &&& ·)
/-- The 16-bit `or` (R53). -/
def execOr16 (m : Bool) (d b : BitVec 5) (s : State) : Out := s.short2 m d b (· ||| ·)
/-- The 16-bit `xor` (R53). -/
def execXor16 (m : Bool) (d b : BitVec 5) (s : State) : Out := s.short2 m d b (· ^^^ ·)
/-- The 16-bit `shl` (R53). -/
def execShl16 (m : Bool) (d b : BitVec 5) (s : State) : Out := s.short2 m d b shlW
/-- The 16-bit `shr` (R53). -/
def execShr16 (m : Bool) (d b : BitVec 5) (s : State) : Out := s.short2 m d b shrW
/-- The 16-bit `imul` (R53). -/
def execImul16 (m : Bool) (d b : BitVec 5) (s : State) : Out := s.short2 m d b (· * ·)
/-- The 16-bit `mov` (R53). -/
def execMov16 (m : Bool) (d b : BitVec 5) (s : State) : Out :=
  .next (s.laneOp (shortForm m [.v (b.setWidth 6)]) fun t => vOut (d.setWidth 6) (t.getV (b.setWidth 6)))
/-- The 16-bit `movi` (R53). -/
def execMovi16 (m : Bool) (d imm : BitVec 5) (s : State) : Out :=
  .next (s.laneOp (shortForm m) fun _ => vOut (d.setWidth 6) (imm.signExtend 32))
/-- The 16-bit `isel` by `p0` (R53). -/
def execIsel16 (m : Bool) (d b : BitVec 5) (s : State) : Out :=
  .next (s.laneOp (shortForm m [.v (d.setWidth 6), .v (b.setWidth 6)]) fun t =>
    vOut (d.setWidth 6) (if t.getP 0 then t.getV (d.setWidth 6) else t.getV (b.setWidth 6)))

end Sys2Proof.Machine
end

