-- ==== Sys2Proof/Machine/Float.lean ====
section
/-!
DEFINITION. Number formats and exact arithmetic: encodings as exact values (R73 to R75), rounding (R72, R82), lane
arithmetic (R118 to R124), conversions (R81 to R83), quantisation (R131 to R135), the summation tree (R87, R88) and the
nested planar formats (R90 to R95).
-/
namespace Sys2Proof.Machine

/-! ### Formats and values -/

/-- A floating-point format (R73). `ieee` formats have infinities; `lane` formats obey FTZ (R77). -/
structure Fmt where
  eb : Nat
  fb : Nat
  bias : Nat
  ieee : Bool
  lane : Bool
  /-- encoding of the largest finite magnitude -/
  top : Nat
  /-- the default NaN, or 0 where the format has none (R75) -/
  nan : Nat
  deriving DecidableEq, Repr

/-- The formats of R73. -/
def fp64 : Fmt := ⟨11, 52, 1023, true, true, 0x7FEFFFFFFFFFFFFF, 0x7FF8000000000000⟩
@[inherit_doc fp64] def fp32 : Fmt := ⟨8, 23, 127, true, true, 0x7F7FFFFF, 0x7FC00000⟩
@[inherit_doc fp64] def fp16 : Fmt := ⟨5, 10, 15, true, true, 0x7BFF, 0x7E00⟩
@[inherit_doc fp64] def bf16 : Fmt := ⟨8, 7, 127, true, true, 0x7F7F, 0x7FC0⟩
@[inherit_doc fp64] def e4m3 : Fmt := ⟨4, 3, 7, false, false, 0x7E, 0x7F⟩
@[inherit_doc fp64] def e5m2 : Fmt := ⟨5, 2, 15, true, false, 0x7B, 0x7E⟩
@[inherit_doc fp64] def e2m1 : Fmt := ⟨2, 1, 1, false, false, 7, 0⟩

/-- Position of the sign bit. -/
def Fmt.sp (f : Fmt) : Nat := f.eb + f.fb
/-- The exponent of the smallest normal number. -/
def Fmt.emin (f : Fmt) : Int := 1 - f.bias
/-- The sign bit of an encoding. -/
def Fmt.sign (f : Fmt) (x : Nat) : Bool := x.testBit f.sp
/-- The magnitude bits of an encoding. -/
def Fmt.mag (f : Fmt) (x : Nat) : Nat := x % 2 ^ f.sp
/-- An encoding from sign and magnitude bits. -/
def Fmt.make (f : Fmt) (neg : Bool) (mag : Nat) : Nat := if neg then mag + 2 ^ f.sp else mag
/-- The encoding of ±∞ of a format that has one. -/
def Fmt.infinity (f : Fmt) : Nat := (2 ^ f.eb - 1) * 2 ^ f.fb

/-- An exact value: a NaN (signalling or quiet), an infinity, or (−1)^neg × m × 2^e. -/
inductive FV where
  | nan (sig : Bool)
  | inf (neg : Bool)
  | fin (neg : Bool) (m : Nat) (e : Int)
  deriving DecidableEq, Repr

/-- The value of an encoding (R72 `Value`, R73, R75). -/
def Fmt.value (f : Fmt) (x : Nat) : FV :=
  let m := f.mag x
  if f.ieee && m > f.infinity then .nan (!(m.testBit (f.fb - 1)))
  else if f.ieee && m == f.infinity then .inf (f.sign x)
  else if !f.ieee && m > f.top then .nan false
  else
    let e := m / 2 ^ f.fb
    let g := m % 2 ^ f.fb
    if e == 0 then .fin (f.sign x) g (f.emin - f.fb) else .fin (f.sign x) (g + 2 ^ f.fb) (f.emin - f.fb + (e - 1 : Nat))

/-- `Value` with FTZ (R77, R118 `In`): a subnormal input reads as zero of its sign. -/
def Fmt.input (f : Fmt) (ftz : Bool) (x : Nat) : FV :=
  if ftz && f.lane && f.mag x < 2 ^ f.fb then .fin (f.sign x) 0 0 else f.value x

/-- The value is a NaN; it is a signalling one. -/
def FV.isNan : FV → Bool
  | .nan _ => true
  | _ => false
@[inherit_doc FV.isNan] def FV.isSig : FV → Bool
  | .nan s => s
  | _ => false
/-- The value is a zero. -/
def FV.isZero : FV → Bool
  | .fin _ m _ => m == 0
  | _ => false
/-- The sign of a value that is no NaN. -/
def FV.neg : FV → Bool
  | .fin n _ _ => n
  | .inf n => n
  | .nan _ => false
/-- The value with its sign inverted. -/
def FV.negate : FV → FV
  | .fin n m e => .fin (!n) m e
  | .inf n => .inf (!n)
  | .nan s => .nan s

/-! ### Rounding (R72, R82) -/

/-- A result: its encoding and the flags raised. -/
structure Res where
  bits : Nat
  fl : Flags
  deriving DecidableEq, Repr

/-- Whether a remainder rounds the magnitude away from zero. `r` of `2^k` is the part cut off, `odd` the part kept. -/
def roundsUp (mode : Mode) (neg odd : Bool) (r k : Nat) : Bool :=
  match mode with
  | .rne => 2 * r > 2 ^ k || (2 * r == 2 ^ k && odd)
  | .rtz => false
  | .rdn => neg && r != 0
  | .rup => !neg && r != 0

/-- `m × 2^e` as a whole number of `2^q` by a mode, and whether it is inexact. A shift beyond the width of `m` leaves
a remainder below one half. -/
def roundTo (mode : Mode) (neg : Bool) (m : Nat) (e q : Int) : Nat × Bool :=
  if q ≤ e then (m * 2 ^ (e - q).toNat, false)
  else
    let k := (q - e).toNat
    if k > Nat.log2 m + 2 then (if m != 0 && roundsUp mode neg false 1 2 then 1 else 0, m != 0)
    else
      let w := m / 2 ^ k
      let r := m % 2 ^ k
      (if roundsUp mode neg (w % 2 == 1) r k then w + 1 else w, r != 0)

/-- `Overflow` (R82). -/
def Fmt.overflow (f : Fmt) (neg : Bool) (mode : Mode) : Res :=
  let toInf := f.ieee && (match mode with | .rne => true | .rtz => false | .rdn => neg | .rup => !neg)
  ⟨f.make neg (if toInf then f.infinity else f.top), fOF ||| fNX⟩

/-- `Round` of a nonzero or zero magnitude `m × 2^e` with a sign (R72). Tininess is judged before rounding. -/
def Fmt.round (f : Fmt) (ftz : Bool) (mode : Mode) (neg : Bool) (m : Nat) (e : Int) : Res :=
  if m == 0 then ⟨f.make neg 0, 0⟩
  else
    let lg : Int := e + Nat.log2 m
    if lg > 2 ^ f.eb then f.overflow neg mode
    else
      let tiny := lg < f.emin
      let ef := max lg f.emin
      let (w, nx) := roundTo mode neg m e (ef - f.fb)
      let mag := (ef - f.emin).toNat * 2 ^ f.fb + w
      if mag > f.top then f.overflow neg mode
      else if ftz && f.lane && mag != 0 && mag < 2 ^ f.fb then ⟨f.make neg 0, fUF ||| fNX⟩
      else ⟨f.make neg mag, flagIf nx fNX ||| flagIf (nx && tiny) fUF⟩

/-- `Round` of an exact value that is no NaN; an infinity passes where the format has one (R118). -/
def Fmt.roundV (f : Fmt) (ftz : Bool) (mode : Mode) (v : FV) : Res :=
  match v with
  | .nan _ => ⟨f.nan, 0⟩
  | .inf n => ⟨f.make n f.infinity, 0⟩
  | .fin n m e => f.round ftz mode n m e

/-! ### Exact arithmetic -/

/-- The exact product of finite values. -/
def mulFin (n1 : Bool) (m1 : Nat) (e1 : Int) (n2 : Bool) (m2 : Nat) (e2 : Int) : FV := .fin (n1 ^^ n2) (m1 * m2) (e1 + e2)
/-- A signed integer from sign and magnitude, scaled to exponent `e` ≤ `e1`. -/
def alignTo (n : Bool) (m : Nat) (e1 e : Int) : Int :=
  let x : Int := m * 2 ^ (e1 - e).toNat
  if n then -x else x
/-- The exact sum of finite values. A zero sum of operands of opposite sign is +0, or −0 toward −∞ (R72). -/
def addFin (mode : Mode) (n1 : Bool) (m1 : Nat) (e1 : Int) (n2 : Bool) (m2 : Nat) (e2 : Int) : FV :=
  if m1 == 0 && m2 == 0 then .fin (if n1 == n2 then n1 else mode == .rdn) 0 0
  else if m1 == 0 then .fin n2 m2 e2
  else if m2 == 0 then .fin n1 m1 e1
  else
    let e := min e1 e2
    let x := alignTo n1 m1 e1 e + alignTo n2 m2 e2 e
    if x == 0 then .fin (mode == .rdn) 0 0 else .fin (x < 0) x.natAbs e

/-- The exact sum; `none` for ∞ − ∞ or a NaN. -/
def FV.add? (mode : Mode) : FV → FV → Option FV
  | .fin n1 m1 e1, .fin n2 m2 e2 => some (addFin mode n1 m1 e1 n2 m2 e2)
  | .inf n, .fin .. => some (.inf n)
  | .fin .., .inf n => some (.inf n)
  | .inf n1, .inf n2 => if n1 == n2 then some (.inf n1) else none
  | _, _ => none
/-- The exact product; `none` for 0 × ∞ or a NaN. -/
def FV.mul? : FV → FV → Option FV
  | .fin n1 m1 e1, .fin n2 m2 e2 => some (mulFin n1 m1 e1 n2 m2 e2)
  | .inf n1, .fin n2 m2 _ => if m2 == 0 then none else some (.inf (n1 ^^ n2))
  | .fin n1 m1 _, .inf n2 => if m1 == 0 then none else some (.inf (n1 ^^ n2))
  | .inf n1, .inf n2 => some (.inf (n1 ^^ n2))
  | _, _ => none
/-- A value that lies strictly between `m` and `m + 1` units is stood for by `m` and a half, which rounds alike. -/
def sticky (neg : Bool) (m : Nat) (e : Int) (exact : Bool) : FV :=
  if exact then .fin neg m e else .fin neg (2 * m + 1) (e - 1)
/-- The quotient of a value by a nonzero number, to 64 bits beyond the dividend and divisor. -/
def divFin (n1 : Bool) (m1 : Nat) (e1 : Int) (n2 : Bool) (m2 : Nat) (e2 : Int) : FV :=
  if m1 == 0 then .fin (n1 ^^ n2) 0 0
  else
    let k := 64 + Nat.log2 m2
    sticky (n1 ^^ n2) (m1 * 2 ^ k / m2) (e1 - e2 - k) (m1 * 2 ^ k % m2 == 0)

/-- One bit of the integer square root: the highest `b` bits are tried from above. -/
def isqrtFrom (x : Nat) : Nat → Nat → Nat
  | 0, r => r
  | b + 1, r => let c := r + 2 ^ b; isqrtFrom x b (if c * c ≤ x then c else r)
/-- The integer square root. -/
def isqrt (x : Nat) : Nat := isqrtFrom x (Nat.log2 x / 2 + 1) 0
/-- The square root of a finite number that is not negative. -/
def sqrtFin (m : Nat) (e : Int) : FV :=
  if m == 0 then .fin false 0 0
  else
    let (m, e) := if e % 2 == 0 then (m * 2 ^ 132, e - 132) else (m * 2 ^ 133, e - 133)
    let r := isqrt m
    sticky false r (e / 2) (r * r == m)

/-! ### Lane arithmetic (R118 to R124, R126, R127) -/

/-- A NaN operand made quiet (R75). -/
def Fmt.quiet (f : Fmt) (x : Nat) : Nat := if f.ieee then x ||| 2 ^ (f.fb - 1) else x

/-- The first NaN among operands, quieted; NV when any of them signals (R75, R118). -/
def Fmt.nanOf (f : Fmt) : List Nat → Option Res
  | xs =>
    match xs.find? fun x => (f.value x).isNan with
    | some x => some ⟨f.quiet x, flagIf (xs.any fun x => (f.value x).isSig) fSNaN⟩
    | none => none

/-- The default NaN with NV (R118, R119). -/
def Fmt.invalid (f : Fmt) : Res := ⟨f.nan, fNV⟩

/-- `RoundedOp` for add, sub, mul, div, fma and sqrt (R118, R119). -/
def Fmt.add (f : Fmt) (ftz : Bool) (mode : Mode) (a b : Nat) : Res :=
  match f.nanOf [a, b] with
  | some r => r
  | none => match (f.input ftz a).add? mode (f.input ftz b) with
    | some v => f.roundV ftz mode v
    | none => f.invalid
@[inherit_doc Fmt.add] def Fmt.sub (f : Fmt) (ftz : Bool) (mode : Mode) (a b : Nat) : Res :=
  match f.nanOf [a, b] with
  | some r => r
  | none => match (f.input ftz a).add? mode (f.input ftz b).negate with
    | some v => f.roundV ftz mode v
    | none => f.invalid
@[inherit_doc Fmt.add] def Fmt.mul (f : Fmt) (ftz : Bool) (mode : Mode) (a b : Nat) : Res :=
  match f.nanOf [a, b] with
  | some r => r
  | none => match (f.input ftz a).mul? (f.input ftz b) with
    | some v => f.roundV ftz mode v
    | none => f.invalid
@[inherit_doc Fmt.add] def Fmt.div (f : Fmt) (ftz : Bool) (mode : Mode) (a b : Nat) : Res :=
  match f.nanOf [a, b] with
  | some r => r
  | none => match f.input ftz a, f.input ftz b with
    | .fin n1 m1 e1, .fin n2 m2 e2 =>
      if m2 == 0 then (if m1 == 0 then f.invalid else ⟨f.make (n1 ^^ n2) f.infinity, fDZ⟩)
      else f.roundV ftz mode (divFin n1 m1 e1 n2 m2 e2)
    | .inf n1, .fin n2 _ _ => ⟨f.make (n1 ^^ n2) f.infinity, 0⟩
    | .fin n1 _ _, .inf n2 => ⟨f.make (n1 ^^ n2) 0, 0⟩
    | _, _ => f.invalid
@[inherit_doc Fmt.add] def Fmt.fma (f : Fmt) (ftz : Bool) (mode : Mode) (a b c : Nat) : Res :=
  match f.nanOf [a, b, c] with
  | some r => r
  | none => match (f.input ftz a).mul? (f.input ftz b) with
    | some p => match p.add? mode (f.input ftz c) with
      | some v => f.roundV ftz mode v
      | none => f.invalid
    | none => f.invalid
@[inherit_doc Fmt.add] def Fmt.sqrt (f : Fmt) (ftz : Bool) (mode : Mode) (a : Nat) : Res :=
  match f.nanOf [a] with
  | some r => r
  | none => match f.input ftz a with
    | .fin n m e => if m == 0 then ⟨f.make n 0, 0⟩ else if n then f.invalid else f.roundV ftz mode (sqrtFin m e)
    | .inf n => if n then f.invalid else ⟨f.infinity, 0⟩
    | .nan _ => f.invalid

/-- `fscale` (R120). -/
def Fmt.scale (f : Fmt) (ftz : Bool) (mode : Mode) (a : Nat) (n : Int) : Res :=
  match f.nanOf [a] with
  | some r => r
  | none => match f.input ftz a with
    | .fin s m e => if m == 0 then ⟨f.make s 0, 0⟩ else f.round ftz mode s m (e + n)
    | _ => ⟨a, 0⟩

/-- Exact comparison of values that are no NaN: less than. −0 = +0. -/
def FV.lt : FV → FV → Bool
  | .fin n1 m1 e1, .fin n2 m2 e2 =>
    let e := min e1 e2
    alignTo n1 m1 e1 e < alignTo n2 m2 e2 e
  | .inf n, .inf n2 => n && !n2
  | .inf n, .fin .. => n
  | .fin .., .inf n => !n
  | _, _ => false
@[inherit_doc FV.lt] def FV.eq : FV → FV → Bool
  | .fin n1 m1 e1, .fin n2 m2 e2 =>
    let e := min e1 e2
    alignTo n1 m1 e1 e == alignTo n2 m2 e2 e
  | .inf n, .inf n2 => n == n2
  | _, _ => false

/-- The delivered encoding of an operand: under FTZ a subnormal is zero of its sign (R121). -/
def Fmt.deliver (f : Fmt) (ftz : Bool) (x : Nat) : Nat :=
  if ftz && f.lane && f.mag x < 2 ^ f.fb then f.make (f.sign x) 0 else x

/-- `fmin` (`mx` false) and `fmax` (R121). -/
def Fmt.minmax (f : Fmt) (ftz mx : Bool) (a b : Nat) : Res :=
  let x := f.input ftz a
  let y := f.input ftz b
  let sg := flagIf (x.isSig || y.isSig) fSNaN
  if x.isNan && y.isNan then ⟨f.quiet a, sg⟩
  else if x.isNan then ⟨f.deliver ftz b, sg⟩
  else if y.isNan then ⟨f.deliver ftz a, sg⟩
  else
    let less := x.lt y || (x.eq y && x.neg && !y.neg)
    ⟨f.deliver ftz (if less ^^ mx then a else b), 0⟩

/-- The conditions of R123: 0 eq, 1 lt, 2 le, 3 un; and the flags they raise. -/
def Fmt.compare (f : Fmt) (ftz : Bool) (cond a b : Nat) : Bool × Flags :=
  let x := f.input ftz a
  let y := f.input ftz b
  let sg := flagIf (x.isSig || y.isSig) fSNaN
  let un := x.isNan || y.isNan
  match cond with
  | 0 => (!un && x.eq y, sg)
  | 1 => (!un && x.lt y, sg ||| flagIf un fNV)
  | 2 => (!un && (x.lt y || x.eq y), sg ||| flagIf un fNV)
  | _ => (un, sg)

/-- `fclass` (R124). -/
def Fmt.classify (f : Fmt) (x : Nat) : Nat :=
  let n := f.sign x
  match f.value x with
  | .inf _ => if n then 1 else 128
  | .nan s => if s then 256 else 512
  | .fin _ m _ =>
    if m == 0 then (if n then 8 else 16)
    else if f.mag x < 2 ^ f.fb then (if n then 4 else 32) else (if n then 2 else 64)

/-! ### Conversions (R81 to R83, R128 to R130) -/

/-- A NaN carried to another format: sign, leading payload bits and the quiet bit; the E4M3 NaN has no payload (R81, R82). -/
def convertNan (src dst : Fmt) (x : Nat) : Res :=
  let sig := flagIf (src.value x).isSig fSNaN
  if dst.ieee then
    let g := if src.ieee then x % 2 ^ src.fb else 2 ^ (src.fb - 1)
    let g' := if src.fb ≤ dst.fb then g * 2 ^ (dst.fb - src.fb) else g / 2 ^ (src.fb - dst.fb)
    ⟨dst.make (src.sign x) (dst.infinity + (g' ||| 2 ^ (dst.fb - 1))), sig⟩
  else if dst.nan == 0 then ⟨0, sig ||| fNV⟩
  else ⟨dst.make (src.sign x) dst.nan, sig⟩

/-- A conversion between floating formats (R81, R82). -/
def convert (src dst : Fmt) (ftz : Bool) (mode : Mode) (x : Nat) : Res :=
  match src.input ftz x with
  | .nan _ => convertNan src dst x
  | .inf n =>
    if dst.ieee then ⟨dst.make n dst.infinity, 0⟩
    else if dst.nan == 0 then ⟨dst.make n dst.top, fNV⟩ else ⟨dst.make n dst.nan, fNV⟩
  | .fin n m e => dst.round ftz mode n m e

/-- A floating value to an integer within `lo` to `hi` (R83). -/
def toInt (lo hi : Int) (mode : Mode) (v : FV) : Int × Flags :=
  match v with
  | .nan s => (0, fNV ||| flagIf s fSNaN)
  | .inf n => (if n then lo else hi, fNV)
  | .fin n m e =>
    if m != 0 && e + Nat.log2 m > 70 then (if n then lo else hi, fNV)
    else
      let (w, nx) := roundTo mode n m e 0
      let x : Int := if n then -w else w
      if x < lo then (lo, fNV) else if hi < x then (hi, fNV) else (x, flagIf nx fNX)

/-- An integer to a floating format (R83). -/
def ofInt (dst : Fmt) (ftz : Bool) (mode : Mode) (x : Int) : Res := dst.round ftz mode (x < 0) x.natAbs 0
/-- Saturation between integer formats (R83). -/
def clampInt (lo hi x : Int) : Int := if x < lo then lo else if hi < x then hi else x

/-! ### Quantisation (R131 to R135) -/

/-- Element formats of QNT. -/
inductive QFmt where
  | fl (f : Fmt)
  | int (bits : Nat)
  deriving DecidableEq, Repr

/-- The formats of the 8-bit and 4-bit kinds by code (R131). -/
def q8Fmt (code : BitVec 2) : QFmt :=
  match code.toNat with
  | 0 => .fl e4m3
  | 1 => .fl e5m2
  | _ => .int 8
@[inherit_doc q8Fmt] def q4Fmt (code : BitVec 2) : QFmt := if code == 0 then .fl e2m1 else .int 4

/-- The largest magnitude code, and the NaN code or 0 (R133). -/
def QFmt.top : QFmt → Nat
  | .fl f => f.top
  | .int b => 2 ^ (b - 1) - 1
@[inherit_doc QFmt.top] def QFmt.nan : QFmt → Nat
  | .fl f => f.nan
  | .int _ => 0
/-- Width of an element. -/
def QFmt.width : QFmt → Nat
  | .fl f => f.sp + 1
  | .int b => b
/-- A signed magnitude as an element. -/
def QFmt.make (q : QFmt) (neg : Bool) (mag : Nat) : Nat :=
  match q with
  | .fl f => f.make neg mag
  | .int b => if neg then (2 ^ b - mag) % 2 ^ b else mag
/-- The value of an element (R73, R74). -/
def QFmt.value (q : QFmt) (x : Nat) : FV :=
  match q with
  | .fl f => f.value x
  | .int b => if x ≥ 2 ^ (b - 1) then .fin true (2 ^ b - x) 0 else .fin false x 0

/-- A finite value on the grid, saturated to the largest value (R133). An integer format has no smallest normal: an inexact element
below 1 raises NX alone. [DESIGN CHOICE, log 104] -/
def QFmt.grid (q : QFmt) (neg : Bool) (m : Nat) (e : Int) : Res :=
  match q with
  | .fl f =>
    let r := f.round false .rne neg m e
    if r.fl.getLsbD 2 then ⟨f.make neg f.top, fOF ||| fNX⟩ else r
  | .int b =>
    if m != 0 && e + Nat.log2 m > 40 then ⟨q.make neg (2 ^ (b - 1) - 1), fOF ||| fNX⟩
    else
      let (w, nx) := roundTo .rne neg m e 0
      if w > 2 ^ (b - 1) - 1 then ⟨q.make neg (2 ^ (b - 1) - 1), fOF ||| fNX⟩ else ⟨q.make neg w, flagIf nx fNX⟩

/-- One element of `q8` or `q4` (R133). -/
def QFmt.quantise (q : QFmt) (ftz : Bool) (scale x : Nat) : Res :=
  let v := fp32.input ftz x
  if scale == 255 then ⟨q.nan, fNV ||| flagIf v.isSig fSNaN⟩
  else match v with
    | .nan s => ⟨q.nan, flagIf s fSNaN ||| flagIf (q.nan == 0) fNV⟩
    | .inf n => ⟨q.make n q.top, fNV⟩
    | .fin n m e => q.grid n m (e + 127 - scale)

/-- One element of `dq8` or `dq4` (R135). -/
def QFmt.dequantise (q : QFmt) (ftz : Bool) (scale x : Nat) : Res :=
  let v := q.value x
  if scale == 255 then ⟨fp32.nan, fNV ||| flagIf v.isSig fSNaN⟩
  else match v with
    | .nan s => ⟨fp32.nan, flagIf s fSNaN⟩
    | .inf n => ⟨fp32.make n fp32.infinity, 0⟩
    | .fin n m e => fp32.round ftz .rne n m (e + scale - 127)

/-- One element of a common-scale form under the largest scale (R134). -/
def QFmt.rescale (q : QFmt) (scale top x : Nat) : Res :=
  match q with
  | .fl f => match f.value x with
    | .nan s => ⟨f.quiet x, flagIf s fSNaN⟩
    | .inf n => ⟨f.make n f.infinity, 0⟩
    | .fin n m e => f.round false .rne n m (e + scale - top)
  | .int b =>
    match q.value x with
    | .fin n m e =>
      let (w, nx) := roundTo .rne n m (e + scale - top) 0
      ⟨if n then (2 ^ b - w) % 2 ^ b else w, flagIf nx fNX⟩
    | _ => ⟨0, 0⟩

/-- `scx` (R132). -/
def scx (x : Nat) (emax : Int) : Res :=
  match fp32.value x with
  | .nan s => ⟨255, fNV ||| flagIf s fSNaN⟩
  | .inf _ => ⟨254, fNV⟩
  | .fin _ m e => if m == 0 then ⟨0, 0⟩ else ⟨(clampInt 0 254 (e + Nat.log2 m - emax + 127)).toNat, 0⟩

/-! ### The summation tree (R84, R87, R88) -/

/-- A value inside the tree and the flags so far. -/
structure Node where
  v : FV
  fl : Flags
  deriving DecidableEq, Repr

/-- A rounded FP32 result as a value. -/
def Res.node (r : Res) : Node := ⟨fp32.value r.bits, r.fl⟩
/-- An exact product; the default NaN for a NaN operand or 0 × ∞ (R87). -/
def product (x y : FV) : Node :=
  if x.isNan || y.isNan then ⟨.nan false, flagIf (x.isSig || y.isSig) fSNaN⟩
  else match x.mul? y with
    | some p => ⟨p, 0⟩
    | none => ⟨.nan false, fNV⟩
/-- A node: the sum rounded to FP32, nearest even, FTZ ignored (R87). -/
def addNode (x y : FV) : Node :=
  if x.isNan || y.isNan then ⟨.nan false, 0⟩
  else match x.add? .rne y with
    | some v => (fp32.roundV false .rne v).node
    | none => ⟨.nan false, fNV⟩
/-- One level of the tree: positions 0+1, 2+3 and so on. -/
def addPairs : List Node → List Node
  | x :: y :: r => let n := addNode x.v y.v; ⟨n.v, n.fl ||| x.fl ||| y.fl⟩ :: addPairs r
  | l => l
/-- The tree over `2^k` products. -/
def tree : Nat → List Node → List Node
  | 0, l => l
  | k + 1, l => tree k (addPairs l)
/-- The block sum of `2^k` products, scaled; a scale byte of 0xFF makes it the default NaN (R84, R87). -/
def blockSum (k : Nat) (prods : List Node) (ea eb : Nat) : Node :=
  match tree k prods with
  | n :: _ =>
    if ea == 255 || eb == 255 then ⟨.nan false, n.fl ||| fNV⟩
    else match n.v with
      | .fin s m e => let r := (fp32.round false .rne s m (e + ea + eb - 254)).node; ⟨r.v, r.fl ||| n.fl⟩
      | v => ⟨v, n.fl⟩
  | [] => ⟨.fin false 0 0, 0⟩
/-- The accumulator with a block sum added (R88). -/
def accumulate (acc : Nat) (b : Node) : Res :=
  let a := fp32.value acc
  let n := addNode a b.v
  let fl := n.fl ||| b.fl ||| flagIf a.isSig fSNaN
  match n.v with
  | .nan _ => ⟨fp32.nan, fl⟩
  | v => ⟨(fp32.roundV false .rne v).bits, fl⟩

/-! ### Nested planar elements (R90 to R95) -/

/-- The value of an element with micro-exponent and fraction in `f` bits under scale `e` (R91). -/
def nfValue (scale : Nat) (neg : Bool) (m g f : Nat) : FV :=
  if scale == 255 then .nan false
  else if m == 0 then .fin neg g ((scale : Int) - 127 - 6 - f)
  else .fin neg (2 ^ f + g) ((scale : Int) - 127 + m - 7 - f)

/-- The fraction of the first `k` plane bytes (R90). -/
def nfFraction (bytes : List Byte) : Nat :=
  match bytes with
  | [] => 0
  | b :: r => r.foldl (fun g c => g * 256 + c.toNat) (b.toNat % 16)

/-- A read of `k` planes to FP32, truncating or rounded by plane `k`; its flags are those of that rounding alone (R93, R95,
R177). A scale of 0xFF gives the default NaN and no flag. -/
def nfRead (rn : Bool) (scale k : Nat) (planes : List Byte) : Res :=
  let p0 := (planes.getD 0 0).toNat
  let neg := p0.testBit 7
  let m := p0 / 16 % 8
  let g := nfFraction (planes.take k)
  let f := 8 * k - 4
  let next := (planes.getD k 0).toNat
  let up := rn && k < 4 && (next > 128 || (next == 128 && g % 2 == 1))
  let mag := m * 2 ^ f + g + (if up then 1 else 0)
  let ovr := mag ≥ 8 * 2 ^ f
  let mag := if ovr then 8 * 2 ^ f - 1 else mag
  let fl := if scale == 255 then 0 else flagIf up fNX ||| flagIf ovr (fOF ||| fNX)
  match nfValue scale neg (mag / 2 ^ f) (mag % 2 ^ f) f with
  | .fin n x e => ⟨(fp32.round false .rne n x e).bits, fl⟩
  | _ => ⟨fp32.nan, fl⟩

/-- `NFEncode` of a finite value (R94): sign, micro-exponent and fraction as one number, and the flags. [DEDUCED, log 41] -/
def nfEncode (mode : Mode) (scale k : Nat) (neg : Bool) (m : Nat) (e : Int) : Nat × Flags :=
  let f := 8 * k - 4
  if m == 0 then (0, 0)
  else
    let top := 8 * 2 ^ f - 1
    let emin : Int := (scale : Int) - 127 - 6
    let lg : Int := e + Nat.log2 m
    if lg > emin + 6 then (top, fOF ||| fNX)
    else
      let tiny := lg < emin
      let ef := max lg emin
      if lg == emin + 6 && FV.lt (nfValue scale false 7 (2 ^ f - 1) f) (.fin false m e) then (top, fOF ||| fNX)
      else
        let (w, nx) := roundTo mode neg m e (ef - f)
        ((ef - emin).toNat * 2 ^ f + w, flagIf nx fNX ||| flagIf (nx && tiny) fUF)

/-- The `k` plane bytes of an encoded element. -/
def nfBytes (k : Nat) (neg : Bool) (mag : Nat) : List Byte :=
  (List.range k).map fun p =>
    let b := mag / 256 ^ (k - 1 - p) % 256
    BitVec.ofNat 8 (if p == 0 && neg then b + 128 else b)

/-- The scale a writer chooses for a largest magnitude `m × 2^e` (R94). -/
def nfScale (m : Nat) (e : Int) : Nat := if m == 0 then 0 else (clampInt 0 254 (e + Nat.log2 m + 127)).toNat

end Sys2Proof.Machine
end

