-- ==== Sys2Proof/Machine/Special.lean ====
section
/-!
DEFINITION. The special functions of R97 and the random-number primitives of R139 to R142. A transcendental value is
worked out in fixed point to 384 or 512 fraction bits and rounded once; no FP32 operand's value lies near enough to a
rounding boundary for the cut to matter (a log entry names this). Exact cases are settled first.
-/
namespace Sys2Proof.Machine

/-- Fraction bits of the working format. -/
def sfBits : Nat := 384
/-- ln 2 in units of 2^-384. -/
def sfLn2 : Nat :=
  0xB17217F7D1CF79ABC9E3B39803F2F6AF40F343267298B62D8A0D175B8BAAFA2BE7B876206DEBAC98559552FB4AFA1B10
/-- π / 2 in units of 2^-512. -/
def sfHalfPi : Nat :=
  0x1921FB54442D18469898CC51701B839A252049C1114CF98E804177D4C76273644A29410F31C6809BBDF2A33679A748636605614DBE4BE286E9FC26ADADAA3848B

/-- Terms of the exponential series: `t` is the term `n`, `x` the argument in units of 2^-384. -/
def expTerms (x : Nat) : Nat → Nat → Nat → Nat
  | 0, _, _ => 0
  | fuel + 1, n, t => t + expTerms x fuel (n + 1) (t * x / 2 ^ sfBits / (n + 1))
/-- e^x of an argument below 1. -/
def expFix (x : Nat) : Nat := expTerms x 100 0 (2 ^ sfBits)
/-- Terms of the series of the inverse hyperbolic tangent: `t` is z to the power 2n + 1, `z2` the square of z. -/
def atanhTerms (z2 : Nat) : Nat → Nat → Nat → Nat
  | 0, _, _ => 0
  | fuel + 1, n, t => t / (2 * n + 1) + atanhTerms z2 fuel (n + 1) (t * z2 / 2 ^ sfBits)
/-- ln (a / b) for b ≤ a ≤ 2b, in units of 2^-384. -/
def lnFix (a b : Nat) : Nat :=
  let z := (a - b) * 2 ^ sfBits / (a + b)
  2 * atanhTerms (z * z / 2 ^ sfBits) 130 0 z
/-- ln x for a number in units of 2^-384. -/
def lnOf (x : Nat) : Int :=
  let k := Nat.log2 x
  ((k : Int) - sfBits) * sfLn2 + lnFix x (2 ^ k)
/-- Alternating terms of the sine (`n` = 1) and cosine (`n` = 0) series, in units of 2^-512; `t` is the term of power
`n`, `x2` the argument's square. -/
def trigTerms (x2 : Nat) : Nat → Nat → Int → Int
  | 0, _, _ => 0
  | fuel + 1, n, t => t + trigTerms x2 fuel (n + 2) (-(t * x2 / (2 ^ 512 : Nat) / ((n + 1) * (n + 2) : Nat)))

/-- A signed value in units of 2^-`p` that is not exact. -/
def inexact (x : Int) (p : Int) : FV := sticky (x < 0) x.natAbs (-p) false

/-- Sine (`cosine` false) or cosine of a finite number that is not zero, with exact argument reduction (R97). Below 2^-40 the
value lies just below the argument, or just below 1. -/
def trig (cosine : Bool) (neg : Bool) (m : Nat) (e : Int) : FV :=
  if e + Nat.log2 m < -40 then
    if cosine then .fin false (2 ^ 64 - 1) (-64) else .fin neg (m * 2 ^ 64 - 1) (e - 64)
  else
    let x := m * 2 ^ (e + 512).toNat
    let r := x % sfHalfPi
    let q := (x / sfHalfPi + (if cosine then 1 else 0)) % 4
    let r2 := r * r / 2 ^ 512
    let v := if q % 2 == 1 then trigTerms r2 70 0 ((2 : Int) ^ 512) else trigTerms r2 70 1 r
    inexact (if (2 ≤ q) ^^ (neg && !cosine) then -v else v) 512

/-- 2^x of a finite number that is not zero (R97). -/
def exp2 (neg : Bool) (m : Nat) (e : Int) : FV :=
  if e + Nat.log2 m > 9 then .fin false 1 (if neg then -1000 else 1000)
  else
    let x : Int := (m : Int) * 2 ^ (e + sfBits).toNat
    let x := if neg then -x else x
    let n := x / (2 ^ sfBits : Nat)
    let f := (x % (2 ^ sfBits : Nat)).toNat
    if f == 0 then .fin false 1 n else sticky false (expFix (f * sfLn2 / 2 ^ sfBits)) (n - sfBits) false

/-- log2 of a finite positive number (R97). -/
def log2V (m : Nat) (e : Int) : FV :=
  let k := Nat.log2 m
  let n := e + k
  if m == 2 ^ k then .fin (n < 0) n.natAbs 0
  else inexact (n * (2 ^ sfBits : Nat) + lnFix m (2 ^ k) * 2 ^ sfBits / sfLn2) sfBits

/-- tanh of a finite number that is not zero (R97). -/
def tanhV (neg : Bool) (m : Nat) (e : Int) : FV :=
  let lg := e + Nat.log2 m
  if lg < -40 then .fin neg (m * 2 ^ 64 - 1) (e - 64)
  else if lg ≥ 5 then .fin neg (2 ^ 64 - 1) (-64)
  else
    let y := m * 2 ^ (e + 1 + sfBits).toNat
    let x := expFix (y % sfLn2) * 2 ^ (y / sfLn2)
    sticky neg ((x - 2 ^ sfBits) * 2 ^ sfBits / (x + 2 ^ sfBits)) (-sfBits) false

/-- 1 / √x of a finite positive number (R97). -/
def rsqrtV (m : Nat) (e : Int) : FV :=
  let (m, e) := if e % 2 == 0 then (m, e) else (2 * m, e - 1)
  let r := isqrt (2 ^ 400 / m)
  sticky false r (-200 - e / 2) (r * r * m == 2 ^ 400)

/-- The special functions by minor of FSFU (R97, R125). A NaN operand gives the default NaN. [UNVERIFIED, log 40] -/
def specialFn (fn : Nat) (ftz : Bool) (a : Nat) : Res :=
  let one : Res := ⟨0x3F800000, 0⟩
  let inf (n : Bool) (fl : Flags) : Res := ⟨fp32.make n fp32.infinity, fl⟩
  let zero (n : Bool) : Res := ⟨fp32.make n 0, 0⟩
  match fp32.input ftz a with
  | .nan s => ⟨fp32.nan, flagIf s fSNaN⟩
  | .inf n =>
    match fn with
    | 0 => zero n
    | 1 => if n then fp32.invalid else zero false
    | 2 => if n then zero false else inf false 0
    | 3 => if n then fp32.invalid else inf false 0
    | 6 => if n then ⟨0xBF800000, 0⟩ else one
    | _ => fp32.invalid
  | .fin n m e =>
    if m == 0 then
      match fn with
      | 0 => inf n fDZ
      | 1 => inf n fDZ
      | 2 => one
      | 3 => inf true fDZ
      | 5 => one
      | _ => zero n
    else
      match fn with
      | 0 => fp32.roundV ftz .rne (divFin n 1 0 false m e)
      | 1 => if n then fp32.invalid else fp32.roundV ftz .rne (rsqrtV m e)
      | 2 => fp32.roundV ftz .rne (exp2 n m e)
      | 3 => if n then fp32.invalid else fp32.roundV ftz .rne (log2V m e)
      | 4 => fp32.roundV ftz .rne (trig false n m e)
      | 5 => fp32.roundV ftz .rne (trig true n m e)
      | _ => fp32.roundV ftz .rne (tanhV n m e)

/-! ### Random numbers (R140 to R142) -/

/-- One round of `Gen` (R140). -/
def genRound (x w : DWord) : DWord :=
  let x := x ^^^ w
  let x := x ^^^ (x >>> 31)
  let x := x * 0xC3A59E714B2D6F0B#64
  let x := x ^^^ (x >>> 29)
  let x := x * 0x8F13D2C75A69E4B5#64
  x ^^^ (x >>> 32)
/-- The remaining rounds; the key moves by G2 after each (R140). -/
def genRounds : Nat → DWord → DWord → DWord
  | 0, x, _ => x
  | n + 1, x, w => genRounds n (genRound x w) (w + 0xA7E13C95D08B4F27#64)
/-- `Gen` (R140). -/
def gen (key ctr : DWord) : DWord := genRounds 4 ctr key

/-- `rndf` (R141). -/
def rndf (x : Word) : Nat := (fp32.round false .rne false (x.toNat / 256) (-24)).bits

/-- `gumbel` (R142): NX and no other flag. -/
def gumbel (x : Word) : Res :=
  let n := 2 * x.toNat + 1
  let k := Nat.log2 n
  let l : Int := (33 - (k : Int)) * sfLn2 - lnFix n (2 ^ k)
  ⟨(fp32.roundV false .rne (inexact (-lnOf l.toNat) sfBits)).bits, fNX⟩

end Sys2Proof.Machine
end

