-- ==== Sys2Proof/Machine/LaneFp.lean ====
section
/-!
DEFINITION. Floating-point, conversion, quantisation, dot-product and random-number lane instructions (R117 to R142) and
the floating 16-bit forms (R53).
-/
namespace Sys2Proof.Machine

/-! ### Shared shapes -/

/-- An FP32 result from a list of source registers; the function takes FTZ, the mode and the thread (R118). -/
def State.fp (s : State) (f : Form) (rnd : BitVec 3) (d : Reg) (e : Bool → Mode → Thread → Res) : Out :=
  .next (s.laneOp { f with src := .f :: f.src } fun t =>
    let r := e (ftzOf t.fpcsr) (modeOf rnd t.fpcsr) t
    fpOut d r.bits r.fl)
/-- An FP64 result in a pair (R117). -/
def State.dp (s : State) (f : Form) (rnd : BitVec 3) (d : Reg) (e : Bool → Mode → Thread → Res) : Out :=
  .next (s.laneOp { f with src := .f :: f.src } fun t =>
    let r := e (ftzOf t.fpcsr) (modeOf rnd t.fpcsr) t
    { pairOut d (BitVec.ofNat 64 r.bits) with fl := r.fl })
/-- An FP32 operand, an FP64 operand. -/
def Thread.f32 (t : Thread) (r : Reg) : Nat := (t.getV r).toNat
@[inherit_doc Thread.f32] def Thread.f64 (t : Thread) (r : Reg) : Nat := (t.getPair r).toNat
/-- Two FP64 sources. -/
def hdPairs (h : Hd) (a b : Reg) : Form := hdForm h (pairRegs a ++ pairRegs b)

/-! ### FALU, FFMA and DALU (R117 to R124) -/

/-- `fadd` (R118). -/
def execFadd (h : Hd) (rnd : BitVec 3) (d a b : Reg) (s : State) : Out :=
  s.fp (hdForm h [.v a, .v b]) rnd d fun z m t => fp32.add z m (t.f32 a) (t.f32 b)
/-- `fsub` (R118). -/
def execFsub (h : Hd) (rnd : BitVec 3) (d a b : Reg) (s : State) : Out :=
  s.fp (hdForm h [.v a, .v b]) rnd d fun z m t => fp32.sub z m (t.f32 a) (t.f32 b)
/-- `fmul` (R118). -/
def execFmul (h : Hd) (rnd : BitVec 3) (d a b : Reg) (s : State) : Out :=
  s.fp (hdForm h [.v a, .v b]) rnd d fun z m t => fp32.mul z m (t.f32 a) (t.f32 b)
/-- `fdiv` (R118). -/
def execFdiv (h : Hd) (rnd : BitVec 3) (d a b : Reg) (s : State) : Out :=
  s.fp (hdForm h [.v a, .v b]) rnd d fun z m t => fp32.div z m (t.f32 a) (t.f32 b)
/-- `fmin` (R121). -/
def execFmin (h : Hd) (d a b : Reg) (s : State) : Out :=
  s.fp (hdForm h [.v a, .v b]) 0 d fun z _ t => fp32.minmax z false (t.f32 a) (t.f32 b)
/-- `fmax` (R121). -/
def execFmax (h : Hd) (d a b : Reg) (s : State) : Out :=
  s.fp (hdForm h [.v a, .v b]) 0 d fun z _ t => fp32.minmax z true (t.f32 a) (t.f32 b)
/-- `fabs` (R122). -/
def execFabs (h : Hd) (d a : Reg) (s : State) : Out := s.alu1 h d a fun x => x &&& 0x7FFFFFFF
/-- `fneg` (R122). -/
def execFneg (h : Hd) (d a : Reg) (s : State) : Out := s.alu1 h d a fun x => x ^^^ 0x80000000
/-- `fcmp` (R123). -/
def execFcmp (h : Hd) (cond : BitVec 2) (p : BitVec 3) (a b : Reg) (s : State) : Out :=
  .next (s.laneOp (hdForm h [.f, .v a, .v b]) fun t =>
    let r := fp32.compare (ftzOf t.fpcsr) cond.toNat (t.f32 a) (t.f32 b)
    { pOut p r.1 with fl := r.2 })
/-- `fclass` (R124). -/
def execFclass (h : Hd) (d a : Reg) (s : State) : Out :=
  s.alu1 h d a fun x => BitVec.ofNat 32 (fp32.classify x.toNat)
/-- `ffma` (R118). -/
def execFfma (h : Hd) (rnd : BitVec 3) (d a b : Reg) (s : State) : Out :=
  s.fp (hdForm h [.v a, .v b, .v d]) rnd d fun z m t => fp32.fma z m (t.f32 a) (t.f32 b) (t.f32 d)
/-- `fsqrt` (R118). -/
def execFsqrt (h : Hd) (rnd : BitVec 3) (d a : Reg) (s : State) : Out :=
  s.fp (hdForm h [.v a]) rnd d fun z m t => fp32.sqrt z m (t.f32 a)
/-- `dfma` (R118). -/
def execDfma (h : Hd) (rnd : BitVec 3) (d a b : Reg) (s : State) : Out :=
  s.dp (hdForm h (pairRegs a ++ pairRegs b ++ pairRegs d)) rnd d fun z m t => fp64.fma z m (t.f64 a) (t.f64 b) (t.f64 d)
/-- `dsqrt` (R118). -/
def execDsqrt (h : Hd) (rnd : BitVec 3) (d a : Reg) (s : State) : Out :=
  s.dp (hdForm h (pairRegs a)) rnd d fun z m t => fp64.sqrt z m (t.f64 a)
/-- `fscale` (R120). -/
def execFscale (h : Hd) (d a b : Reg) (s : State) : Out :=
  s.fp (hdForm h [.v a, .v b]) 0 d fun z m t => fp32.scale z m (t.f32 a) (t.getV b).toInt
/-- `dadd` (R118). -/
def execDadd (h : Hd) (rnd : BitVec 3) (d a b : Reg) (s : State) : Out :=
  s.dp (hdPairs h a b) rnd d fun z m t => fp64.add z m (t.f64 a) (t.f64 b)
/-- `dsub` (R118). -/
def execDsub (h : Hd) (rnd : BitVec 3) (d a b : Reg) (s : State) : Out :=
  s.dp (hdPairs h a b) rnd d fun z m t => fp64.sub z m (t.f64 a) (t.f64 b)
/-- `dmul` (R118). -/
def execDmul (h : Hd) (rnd : BitVec 3) (d a b : Reg) (s : State) : Out :=
  s.dp (hdPairs h a b) rnd d fun z m t => fp64.mul z m (t.f64 a) (t.f64 b)
/-- `ddiv` (R118). -/
def execDdiv (h : Hd) (rnd : BitVec 3) (d a b : Reg) (s : State) : Out :=
  s.dp (hdPairs h a b) rnd d fun z m t => fp64.div z m (t.f64 a) (t.f64 b)
/-- `dmin` (R121). -/
def execDmin (h : Hd) (d a b : Reg) (s : State) : Out :=
  s.dp (hdPairs h a b) 0 d fun z _ t => fp64.minmax z false (t.f64 a) (t.f64 b)
/-- `dmax` (R121). -/
def execDmax (h : Hd) (d a b : Reg) (s : State) : Out :=
  s.dp (hdPairs h a b) 0 d fun z _ t => fp64.minmax z true (t.f64 a) (t.f64 b)
/-- `dabs` (R122). -/
def execDabs (h : Hd) (d a : Reg) (s : State) : Out :=
  .next (s.laneOp (hdForm h (pairRegs a)) fun t => pairOut d (t.getPair a &&& 0x7FFFFFFFFFFFFFFF))
/-- `dneg` (R122). -/
def execDneg (h : Hd) (d a : Reg) (s : State) : Out :=
  .next (s.laneOp (hdForm h (pairRegs a)) fun t => pairOut d (t.getPair a ^^^ 0x8000000000000000))
/-- `dcmp` (R123). -/
def execDcmp (h : Hd) (cond : BitVec 2) (p : BitVec 3) (a b : Reg) (s : State) : Out :=
  .next (s.laneOp { hdPairs h a b with src := .f :: (hdPairs h a b).src } fun t =>
    let r := fp64.compare (ftzOf t.fpcsr) cond.toNat (t.f64 a) (t.f64 b)
    { pOut p r.1 with fl := r.2 })

/-! ### FSFU (R97, R125) -/

/-- A special function by minor. -/
def State.sfu (s : State) (h : Hd) (d a : Reg) (fn : Nat) : Out :=
  s.fp (hdForm h [.v a]) 0 d fun z _ t => specialFn fn z (t.f32 a)
/-- `frcp` (R97, R125). -/
def execFrcp (h : Hd) (d a : Reg) (s : State) : Out := s.sfu h d a 0
/-- `frsq` (R97, R125). -/
def execFrsq (h : Hd) (d a : Reg) (s : State) : Out := s.sfu h d a 1
/-- `fex2` (R97, R125). -/
def execFex2 (h : Hd) (d a : Reg) (s : State) : Out := s.sfu h d a 2
/-- `flg2` (R97, R125). -/
def execFlg2 (h : Hd) (d a : Reg) (s : State) : Out := s.sfu h d a 3
/-- `fsin` (R97, R125). -/
def execFsin (h : Hd) (d a : Reg) (s : State) : Out := s.sfu h d a 4
/-- `fcos` (R97, R125). -/
def execFcos (h : Hd) (d a : Reg) (s : State) : Out := s.sfu h d a 5
/-- `ftanh` (R97, R125). -/
def execFtanh (h : Hd) (d a : Reg) (s : State) : Out := s.sfu h d a 6

/-! ### HALU (R126, R127) -/

/-- FP16 or BF16 (R126). -/
def halfFmt (bf : Bool) : Fmt := if bf then bf16 else fp16
/-- Element `i` of a register of 16-bit elements (R74). -/
def half (x : Word) (i : Nat) : Nat := (x.extractLsb' (16 * i) 16).toNat
/-- Two results side by side, with the union of their flags (R79). -/
def packHalf (r0 r1 : Res) : Res := ⟨r0.bits + r1.bits * 65536, r0.fl ||| r1.fl⟩
/-- A packed operation on the elements of `va`, `vb` and `vd`. -/
def State.packed (s : State) (f : Form) (d a b : Reg) (e : Bool → Mode → Nat → Nat → Nat → Res) : Out :=
  s.fp f 0 d fun z m t =>
    packHalf (e z m (half (t.getV a) 0) (half (t.getV b) 0) (half (t.getV d) 0))
      (e z m (half (t.getV a) 1) (half (t.getV b) 1) (half (t.getV d) 1))
/-- `hadd2` (R126). -/
def execHadd2 (h : Hd) (bf : Bool) (d a b : Reg) (s : State) : Out :=
  s.packed (hdForm h [.v a, .v b]) d a b fun z m x y _ => (halfFmt bf).add z m x y
/-- `hsub2` (R126). -/
def execHsub2 (h : Hd) (bf : Bool) (d a b : Reg) (s : State) : Out :=
  s.packed (hdForm h [.v a, .v b]) d a b fun z m x y _ => (halfFmt bf).sub z m x y
/-- `hmul2` (R126). -/
def execHmul2 (h : Hd) (bf : Bool) (d a b : Reg) (s : State) : Out :=
  s.packed (hdForm h [.v a, .v b]) d a b fun z m x y _ => (halfFmt bf).mul z m x y
/-- `hfma2` (R126). -/
def execHfma2 (h : Hd) (bf : Bool) (d a b : Reg) (s : State) : Out :=
  s.packed (hdForm h [.v a, .v b, .v d]) d a b fun z m x y w => (halfFmt bf).fma z m x y w
/-- `hmin2` (R126). -/
def execHmin2 (h : Hd) (bf : Bool) (d a b : Reg) (s : State) : Out :=
  s.packed (hdForm h [.v a, .v b]) d a b fun z _ x y _ => (halfFmt bf).minmax z false x y
/-- `hmax2` (R126). -/
def execHmax2 (h : Hd) (bf : Bool) (d a b : Reg) (s : State) : Out :=
  s.packed (hdForm h [.v a, .v b]) d a b fun z _ x y _ => (halfFmt bf).minmax z true x y
/-- A packed compare: 0xFFFF where the condition holds (R127). -/
def State.hcmp (s : State) (h : Hd) (bf : Bool) (cond : Nat) (d a b : Reg) : Out :=
  s.packed (hdForm h [.v a, .v b]) d a b fun z _ x y _ =>
    let r := (halfFmt bf).compare z cond x y
    ⟨if r.1 then 0xFFFF else 0, r.2⟩
/-- `hcmp2.eq` (R127). -/
def execHcmp2Eq (h : Hd) (bf : Bool) (d a b : Reg) (s : State) : Out := s.hcmp h bf 0 d a b
/-- `hcmp2.lt` (R127). -/
def execHcmp2Lt (h : Hd) (bf : Bool) (d a b : Reg) (s : State) : Out := s.hcmp h bf 1 d a b
/-- `hcmp2.le` (R127). -/
def execHcmp2Le (h : Hd) (bf : Bool) (d a b : Reg) (s : State) : Out := s.hcmp h bf 2 d a b
/-- `hcmp2.un` (R127). -/
def execHcmp2Un (h : Hd) (bf : Bool) (d a b : Reg) (s : State) : Out := s.hcmp h bf 3 d a b

/-! ### CVT (R128 to R130) -/

/-- The floating format of a type code (R58). -/
def cvtFmt (t : BitVec 4) : Fmt :=
  match t.toNat with
  | 4 => fp64
  | 5 => fp32
  | 6 => fp16
  | 7 => bf16
  | 8 => e4m3
  | 9 => e5m2
  | _ => e2m1
/-- The limits of an integer type code (R58, R74). -/
def cvtLimits (t : BitVec 4) : Int × Int :=
  match t.toNat with
  | 0 => (-(2 ^ 31), 2 ^ 31 - 1)
  | 1 => (0, 2 ^ 32 - 1)
  | 2 => (-(2 ^ 63), 2 ^ 63 - 1)
  | _ => (0, 2 ^ 64 - 1)
/-- An integer source (R128). -/
def cvtInput (t : BitVec 4) (x : DWord) : Int :=
  match t.toNat with
  | 0 => (x.setWidth 32).toInt
  | 1 => (x.setWidth 32).toNat
  | 2 => x.toInt
  | _ => x.toNat
/-- A conversion between type codes; the result stands in the low bits (R128, R129). -/
def cvtValue (dst src : BitVec 4) (ftz : Bool) (mode : Mode) (x : DWord) : DWord × Flags :=
  if cvtInt dst then
    let lim := cvtLimits dst
    if cvtInt src then (BitVec.ofInt 64 (clampInt lim.1 lim.2 (cvtInput src x)), 0)
    else
      let f := cvtFmt src
      let r := toInt lim.1 lim.2 mode (f.input ftz (x.toNat % 2 ^ (f.sp + 1)))
      (BitVec.ofInt 64 r.1, r.2)
  else
    let g := cvtFmt dst
    let r := if cvtInt src then ofInt g ftz mode (cvtInput src x)
      else let f := cvtFmt src; convert f g ftz mode (x.toNat % 2 ^ (f.sp + 1))
    (BitVec.ofNat 64 r.bits, r.fl)
/-- The sources of a conversion (R33): neither result nor trap of one between integers, or of a 32-bit integer to FP64, depends on
`fpcsr` (R129). -/
def cvtSrc (dst src : BitVec 4) (a : Reg) : List RegId :=
  (if cvtInt src && (cvtInt dst || (dst == 4 && !cvtWide src)) then [] else [.f]) ++ if cvtWide src then pairRegs a else [.v a]
/-- `cvt` (R128 to R130). -/
def execCvt (h : Hd) (rnd : BitVec 3) (dst src : BitVec 4) (d a : Reg) (s : State) : Out :=
  .next (s.laneOp (hdForm h (cvtSrc dst src a)) fun t =>
    let x := if cvtWide src then t.getPair a else (t.getV a).setWidth 64
    let r := cvtValue dst src (ftzOf t.fpcsr) (modeOf rnd t.fpcsr) x
    { (if cvtWide dst then pairOut d r.1 else vOut d (r.1.setWidth 32)) with fl := r.2 })

/-! ### QNT (R131 to R135) -/

/-- Element `i` of `w` bits of a number. -/
def elem (x w i : Nat) : Nat := x / 2 ^ (w * i) % 2 ^ w
/-- Elements of `w` bits packed from the lowest upward, with the union of their flags. -/
def packElems (w : Nat) : List Res → Res
  | [] => ⟨0, 0⟩
  | r :: rs => let q := packElems w rs; ⟨r.bits + 2 ^ w * q.bits, r.fl ||| q.fl⟩

/-- `scx` (R132). -/
def execScx (h : Hd) (d a b : Reg) (s : State) : Out :=
  s.fp (hdForm h [.v a, .v b]) 0 d fun _ _ t => scx (t.f32 a) (t.getV b).toInt
/-- `n` FP32 values quantised under one scale (R133). -/
def State.quant (s : State) (h : Hd) (q : QFmt) (n : Nat) (d a b : Reg) : Out :=
  s.fp (hdForm h (groupRegs a n ++ [.v b])) 0 d fun z _ t =>
    packElems q.width ((t.group a n).map fun x => q.quantise z ((t.getV b).toNat % 256) x.toNat)
/-- `n` elements read as FP32 values under one scale (R135). -/
def State.dequant (s : State) (h : Hd) (q : QFmt) (n : Nat) (d a b : Reg) : Out :=
  .next (s.laneOp (hdForm h [.f, .v a, .v b]) fun t =>
    let rs := (List.range n).map fun i =>
      q.dequantise (ftzOf t.fpcsr) ((t.getV b).toNat % 256) (elem (t.getV a).toNat q.width i)
    { writes := groupWrites d (rs.map fun r => BitVec.ofNat 32 r.bits), fl := rs.foldl (fun f r => f ||| r.fl) 0 })
/-- Elements brought under the largest of their scales: the packed elements and that scale (R134). -/
def commonScale (q : QFmt) (n x scales : Nat) : Res × Nat :=
  let es := (List.range n).map fun i => (elem scales 8 i, elem x q.width i)
  let top := es.foldl (fun m e => max m e.1) 0
  let sg := flagIf (es.any fun e => (q.value e.2).isSig) fSNaN
  if top == 255 then
    let r := packElems q.width (es.map fun _ => ⟨q.nan, 0⟩)
    (⟨r.bits, fNV ||| sg⟩, 255)
  else (packElems q.width (es.map fun e => q.rescale e.1 top e.2), top)
/-- A common-scale form (R134). -/
def State.common (s : State) (f : Form) (q : QFmt) (n : Nat) (d a : Reg) (scales : Thread → Nat) : Out :=
  .next (s.laneOp { f with src := .f :: f.src } fun t =>
    let r := commonScale q n (t.getV a).toNat (scales t)
    { writes := groupWrites d [BitVec.ofNat 32 r.1.bits, BitVec.ofNat 32 r.2], fl := r.1.fl })
/-- `q8` (R133). -/
def execQ8 (h : Hd) (fmt : BitVec 2) (d a b : Reg) (s : State) : Out := s.quant h (q8Fmt fmt) 4 d a b
/-- `q4` (R133). -/
def execQ4 (h : Hd) (fmt : BitVec 2) (d a b : Reg) (s : State) : Out := s.quant h (q4Fmt fmt) 8 d a b
/-- `dq8` (R135). -/
def execDq8 (h : Hd) (fmt : BitVec 2) (d a b : Reg) (s : State) : Out := s.dequant h (q8Fmt fmt) 4 d a b
/-- `dq4` (R135). -/
def execDq4 (h : Hd) (fmt : BitVec 2) (d a b : Reg) (s : State) : Out := s.dequant h (q4Fmt fmt) 8 d a b
/-- `q8.cs` (R134). -/
def execQ8Cs (h : Hd) (fmt : BitVec 2) (d a b : Reg) (s : State) : Out :=
  s.common (hdForm h [.v a, .v b]) (q8Fmt fmt) 4 d a fun t => (t.getV b).toNat
/-- `q4.cs` (R134). -/
def execQ4Cs (h : Hd) (fmt : BitVec 2) (d a b : Reg) (s : State) : Out :=
  s.common (hdForm h (.v a :: pairRegs b)) (q4Fmt fmt) 8 d a fun t => (t.getPair b).toNat

/-! ### DOT (R136 to R138) -/

/-- An integer element of `w` bits, sign-extended. [DEDUCED, log 93] -/
def selem (x w i : Nat) : Int :=
  let e := elem x w i
  if e ≥ 2 ^ (w - 1) then (e : Int) - 2 ^ w else e
/-- An integer dot product added modulo 2^32 (R89, R137). -/
def idot (n w : Nat) (x y z : Word) : Word :=
  z + BitVec.ofInt 32 ((List.range n).foldl (fun acc i => acc + selem x.toNat w i * selem y.toNat w i) 0)
/-- `dp4` (R137). -/
def execDp4 (h : Hd) (d a b : Reg) (s : State) : Out := s.alu3 h d a b (idot 4 8)
/-- `dp8` (R137). -/
def execDp8 (h : Hd) (d a b : Reg) (s : State) : Out := s.alu3 h d a b (idot 8 4)
/-- A block sum of `2^k` elements of a format, scaled and added to an accumulator (R87, R88, R138). -/
def fdot (f : Fmt) (k x y ea eb acc : Nat) : Res :=
  let prods := (List.range (2 ^ k)).map fun i =>
    product (f.value (elem x (f.sp + 1) i)) (f.value (elem y (f.sp + 1) i))
  accumulate acc (blockSum k prods ea eb)
/-- A scaled dot product: elements and scales in pairs (R138). -/
def State.fdp (s : State) (h : Hd) (f : Fmt) (k : Nat) (sel : BitVec 2) (d a b : Reg) : Out :=
  s.fp (hdForm h (pairRegs a ++ pairRegs b ++ [.v d])) 0 d fun _ _ t =>
    fdot f k (t.getV a).toNat (t.getV b).toNat (byteOf (t.getV (a + 1)) sel.toNat).toNat
      (byteOf (t.getV (b + 1)) sel.toNat).toNat (t.f32 d)
/-- `fdp4.e4m3` (R138). -/
def execFdp4E4m3 (h : Hd) (sel : BitVec 2) (d a b : Reg) (s : State) : Out := s.fdp h e4m3 2 sel d a b
/-- `fdp4.e5m2` (R138). -/
def execFdp4E5m2 (h : Hd) (sel : BitVec 2) (d a b : Reg) (s : State) : Out := s.fdp h e5m2 2 sel d a b
/-- `fdp8` (R138). -/
def execFdp8 (h : Hd) (sel : BitVec 2) (d a b : Reg) (s : State) : Out := s.fdp h e2m1 3 sel d a b
/-- `hdp2.f16` (R138). -/
def execHdp2F16 (h : Hd) (d a b : Reg) (s : State) : Out :=
  s.fp (hdForm h [.v a, .v b, .v d]) 0 d fun _ _ t => fdot fp16 1 (t.f32 a) (t.f32 b) 127 127 (t.f32 d)
/-- `hdp2.bf16` (R138). -/
def execHdp2Bf16 (h : Hd) (d a b : Reg) (s : State) : Out :=
  s.fp (hdForm h [.v a, .v b, .v d]) 0 d fun _ _ t => fdot bf16 1 (t.f32 a) (t.f32 b) 127 127 (t.f32 d)

/-! ### RAND (R139 to R142) -/

/-- `gen` (R140). -/
def execGen (h : Hd) (d a b : Reg) (s : State) : Out :=
  .next (s.laneOp (hdPairs h a b) fun t => pairOut d (gen (t.getPair a) (t.getPair b)))
/-- `gumbel` (R142). -/
def execGumbel (h : Hd) (d a : Reg) (s : State) : Out := s.fp (hdForm h [.v a]) 0 d fun _ _ t => gumbel (t.getV a)
/-- `rndf` (R141). -/
def execRndf (h : Hd) (d a : Reg) (s : State) : Out := s.alu1 h d a fun x => BitVec.ofNat 32 (rndf x)

/-! ### 16-bit forms (R53): rounding from `fpcsr` -/

/-- A floating 16-bit form. -/
def State.fpShort (s : State) (m : Bool) (d b : BitVec 5) (e : Bool → Mode → Nat → Nat → Res) : Out :=
  s.fp (shortForm m [.v (d.setWidth 6), .v (b.setWidth 6)]) 0 (d.setWidth 6) fun z md t => e z md (t.f32 (d.setWidth 6)) (t.f32 (b.setWidth 6))
/-- The 16-bit `fadd` (R53). -/
def execFadd16 (m : Bool) (d b : BitVec 5) (s : State) : Out := s.fpShort m d b fp32.add
/-- The 16-bit `fmul` (R53). -/
def execFmul16 (m : Bool) (d b : BitVec 5) (s : State) : Out := s.fpShort m d b fp32.mul
/-- The 16-bit `ffma`: vd := vd × vb + vd (R53). -/
def execFfma16 (m : Bool) (d b : BitVec 5) (s : State) : Out := s.fpShort m d b fun z md x y => fp32.fma z md x y x
/-- The 16-bit `fmin` (R53). -/
def execFmin16 (m : Bool) (d b : BitVec 5) (s : State) : Out := s.fpShort m d b fun z _ x y => fp32.minmax z false x y
/-- The 16-bit `fmax` (R53). -/
def execFmax16 (m : Bool) (d b : BitVec 5) (s : State) : Out := s.fpShort m d b fun z _ x y => fp32.minmax z true x y

end Sys2Proof.Machine
end

