-- ==== Sys2Proof/Machine/Mem.lean ====
section
/-!
DEFINITION. Loads, stores, plane accesses, acquires and releases, cache control, fences and schedule instructions (R61,
R174 to R184).
-/
namespace Sys2Proof.Machine

/-! ### Loads and stores (R61, R175, R179) -/

/-- The register writes of loaded bytes (R175). -/
def loadWrites (d : Reg) (sx : Bool) (bs : List Byte) : List (RegId × DWord) :=
  let x := natOf bs
  match bs.length with
  | 1 => [(.v d, ((if sx then (BitVec.ofNat 8 x).signExtend 32 else BitVec.ofNat 32 x)).setWidth 64)]
  | 2 => [(.v d, ((if sx then (BitVec.ofNat 16 x).signExtend 32 else BitVec.ofNat 32 x)).setWidth 64)]
  | 4 => [(.v d, BitVec.ofNat 64 x)]
  | 8 => pairWrites d (BitVec.ofNat 64 x)
  | _ => groupWrites d ((List.range 4).map fun i => BitVec.ofNat 32 (x / 2 ^ (32 * i)))
/-- The bytes of a data group (R175). -/
def Thread.data (t : Thread) (r : Reg) (n : Nat) : List Byte :=
  if n ≤ 4 then bytesOf n (t.getV r).toNat else (t.group r (n / 4)).flatMap fun w => bytesOf 4 w.toNat

/-- A load has returned its data at issue (R387). -/
def State.sampleNow (s : State) (l : Thread) : State :=
  match s.company? l.cid with
  | some c => s.sample c.core 0 0
  | none => s
/-- A load by thread `l` for the threads `rs`: in flight, or at once in a relaxation body (R339). -/
def State.loadAct (s : State) (l : Thread) (rs : List Thread) (q : Req) (c : Checked) (d : Reg) (sx acq : Bool)
    (scope : Nat := 0) : State :=
  match s.bodyOf l with
  | some r =>
    let s := s.bodyLoad l.cid (rs.map Thread.tid) c.locs
    let bs := s.bodyBytes r l.tid c.locs
    (rs.foldl (fun s t => s.writeRegs t.cid t.tid (loadWrites d sx bs)) s).sampleNow l
  | none => s.pushOp { s.mkOp l rs q c (.load sx) d q.n with acq := acq, scope := scope }
/-- An access made at issue must wait for earlier accesses of the thread that are ordered before it (R161, R162). -/
def State.mayAct (s : State) (l : Thread) (k : OpKind) (vas : List DWord) (c : Checked) : Bool :=
  opFree { s.mkOp l [] { va := vas.headD 0, n := vas.length, acc := .load } c k 0 0 with
    grp := s.fresh, vas := vas.map (·.toNat) } s.ops
/-- A read made at issue; a store made at issue. -/
def State.mayRead (s : State) (l : Thread) (vas : List DWord) (c : Checked) : Bool := s.mayAct l (.load false) vas c
@[inherit_doc State.mayRead] def State.mayWrite (s : State) (l : Thread) (vas : List DWord) (c : Checked) : Bool :=
  s.mayAct l (.store []) vas c
/-- A load of a relaxation body, which reads at once, waits for what the thread has in flight from before (R161, R339). -/
def State.loadHold (s : State) (l : Thread) (rs : List Thread) (q : Req) (c : Checked) : Option State :=
  if (s.bodyOf l).isSome && !s.mayRead l ((List.range q.n).map fun i => q.va + BitVec.ofNat 64 i) c then
    some (rs.foldl (fun s t => s.waitAt t .quiet) s)
  else none

/-- A store that a relaxation body buffers. -/
def Thread.rxStore (l : Thread) (q : Req) (c : Checked) (bs : List Byte) : RxStore :=
  ⟨l.tid, l.asid.toNat, (List.range q.n).map (q.va.toNat + ·), c.locs, bs⟩
/-- In a relaxation body, a store to a RED page is forbidden (R332), and one that finds the buffer full waits (R339). -/
def State.storeHold (s : State) (word : Word) (l : Thread) (rs : List Thread) (q : Req) (c : Checked) (bs : List Byte) : Option State :=
  match s.bodyOf l with
  | some r =>
    if c.kinds == [.red] then some (s.raiseAll rs { cls := cUnit, sub := 3, extra := word })
    else if r.room (l.rxStore q c bs) then none
    else some (rs.foldl State.bodyOverflow s)
  | none => none
/-- A step thread of a running region that is in a handler (R332). -/
def State.besideRegion (s : State) (t : Thread) : Bool :=
  match s.company? t.cid with
  | some c => c.region.any fun r => r.running && t.tid < r.steps && !t.frames.isEmpty
  | none => false
/-- A store of thread `l`: in flight; in a handler beside a running region it performs at once, where no earlier access of the thread must
come first (R161, R332). -/
def State.putStore (s : State) (l : Thread) (o : MemOp) : State :=
  if s.besideRegion l && opFree { o with grp := s.fresh } s.ops then
    match o.kind with
    | .contrib a bs => s.updPart (s.partOf o.cid) fun p => p.contribute a bs
    | .store bs => (s.claimOp { o with grp := s.fresh }).perform o.locs bs
    | _ => s
  else (s.outAdd l.cid 1).pushOp o
/-- A store by thread `l`: in flight, a contribution on a RED page (R168), or buffered in a relaxation body (R339). -/
def State.storeAct (s : State) (l : Thread) (q : Req) (c : Checked) (bs : List Byte) (rel : Bool) : State :=
  match s.bodyOf l with
  | some _ => s.bodyStore l.cid (l.rxStore q c bs)
  | none =>
    let k : OpKind := match c.kinds, c.locs.map Loc.plain with
      | [.red], .phys a :: _ => .contrib a bs
      | _, _ => .store bs
    s.putStore l { s.mkOp l [] q c k 0 0 with rel := rel }

/-- `ld` (R175). -/
def execLd (h : Hd) (field : BitVec 6) (size : BitVec 3) (mode : BitVec 2) (base t : Reg) (s : State) : Out :=
  let n := sizeBytes size
  .next (s.runIssue (hdForm h (mSrc field mode base)) fun s ps =>
    s.access h.uni ps
      (fun u => let a := u.mAddr field mode base n; { va := a.va, n := n, acc := .load, upd := a.upd })
      (fun s l rs q c => s.loadAct l rs q c t (size.toNat == 5 || size.toNat == 6) false) State.loadHold)
/-- `ldt` (R61). -/
def execLdt (h : Hd) (off : BitVec 14) (t : Reg) (s : State) : Out :=
  .next (s.runIssue (hdForm h []) fun s ps =>
    s.access h.uni ps (fun u => { va := textAddr u.pc off.toInt, n := 4, acc := .load })
      (fun s l rs q c => s.loadAct l rs q c t false false) State.loadHold)
/-- `st` (R175). -/
def execSt (h : Hd) (field : BitVec 6) (size : BitVec 3) (mode : BitVec 2) (base t : Reg) (s : State) : Out :=
  let n := sizeBytes size
  let word := s.word
  .next (s.runIssue (hdForm h (mSrc field mode base ++ groupRegs t (max 1 (n / 4)))) fun s ps =>
    s.access h.uni ps
      (fun u => let a := u.mAddr field mode base n; { va := a.va, n := n, acc := .store, upd := a.upd })
      (fun s l _ q c => s.storeAct l q c (l.data t n) false)
      (fun s l rs q c => s.storeHold word l rs q c (l.data t n)))
/-- `ldacq`: an acquire unless its scope is the thread (R179). -/
def execLdacq (h : Hd) (scope : BitVec 3) (size : BitVec 2) (base t : Reg) (s : State) : Out :=
  .next (s.runIssue (hdForm h (baseRegs base)).barred fun s ps =>
    s.access h.uni ps
      (fun u => { va := u.base base, n := 2 ^ size.toNat, acc := .acquire, natural := true })
      fun s l rs q c => s.loadAct l rs q c t false (scope != 0) scope.toNat)
/-- `strel`: a release unless its scope is the thread (R179). -/
def execStrel (h : Hd) (scope : BitVec 3) (size : BitVec 2) (base t : Reg) (s : State) : Out :=
  let n := 2 ^ size.toNat
  .next (s.runIssue (hdForm h (baseRegs base ++ groupRegs t (max 1 (n / 4)))).barred fun s ps =>
    s.access h.uni ps
      (fun u => { va := u.base base, n := n, acc := .release, natural := true })
      fun s l _ q c => s.storeAct l q c (l.data t n) (scope != 0))

/-! ### Plane accesses (R176 to R178) -/

/-- The tensor quad of a plane instruction: base, element count, first index (R176, R242). -/
structure Tensor where
  base : DWord
  n : Nat
  i : Word
  deriving DecidableEq, Repr
@[inherit_doc Tensor] def Thread.tensor (t : Thread) (b : Reg) : Tensor :=
  ⟨t.getPair b, (t.getV (b + 2)).toNat, t.getV (b + 3)⟩
/-- The element index and its update by mode (R176). -/
def Thread.planeIndex (t : Thread) (field : BitVec 6) (mode : BitVec 2) (b : Reg) : Word × List (RegId × DWord) :=
  let i0 := t.getV (b + 3)
  let i1 := i0 + BitVec.ofInt 32 (field.toInt * 32)
  match mode.toNat with
  | 1 => (i0, [(.v (b + 3), i1.setWidth 64)])
  | 3 => (i0 + t.getV field, [])
  | _ => (i1, [])

/-- Byte addresses checked one by one, each with its kind of access and through all its checks before the next (R149, R176).
[DESIGN CHOICE, log 115] -/
def State.checkBytes (s : State) (w : Who) : List (DWord × Acc) → Except Trap Checked
  | [] => .ok ⟨[], [], false⟩
  | (a, k) :: r => match s.checkPart w k a.toNat 1 true with
    | .error e => .error e
    | .ok x => match s.checkBytes w r with
      | .error e => .error e
      | .ok y => .ok ⟨x.locs ++ y.locs, x.kinds ++ y.kinds, x.mig || y.mig⟩
/-- The checks of R176 for element `i` and planes 0 to k − 1: alignment, bounds, then every byte. -/
def State.planeCheck (s : State) (w : Who) (x : Tensor) (i : Word) (k : Nat) (sc pl : Acc) : Except Trap Checked :=
  if x.base.toNat % 64 != 0 then .error (faultAt cAlign 1 x.base.toNat)
  else if x.n == 0 || x.n % 32 != 0 || x.n ≤ i.toNat then
    .error { cls := cAccess, sub := aBounds, addr := x.base + BitVec.ofNat 64 (scaleBytes x.n + i.toNat) }
  else match planeAddrs x.base x.n i.toNat k with
    | [] => .ok ⟨[], [], false⟩
    | a :: r => s.checkBytes w ((a, sc) :: r.map fun b => (b, pl))

/-- An operation on the bytes of an element. -/
def State.planeOp (s : State) (l : Thread) (rs : List Thread) (upd : List (RegId × DWord)) (vas : List DWord)
    (locs : List Loc) (kinds : List PKind) (k : OpKind) (d : Reg) (n : Nat) : MemOp :=
  { id := 0, grp := 0, cid := l.cid, tid := l.tid, lanes := rs.map fun t => s.opLane t upd, kind := k, asid := l.asid,
    va := vas.headD 0, vas := vas.map (·.toNat), locs := locs, kinds := kinds, got := [], acq := false, rel := false, scope := 0, pc := l.pc,
    d := d, n := n, born := s.clkOf l.cid }
/-- A read made at issue for the threads `rs`, the instruction's `i`-th, waits for the accesses ordered before it (R161), and traps where
it meets an uncorrectable error (R303). -/
def State.readOr (s : State) (l : Thread) (rs : List Thread) (vas : List DWord) (c : Checked) (go : State → State)
    (i : Nat := 0) : State :=
  if !s.mayRead l vas c then rs.foldl (fun s t => s.waitAt t .quiet) s
  else if s.errAt l i then s.raiseAll rs (loadErr (vas.headD 0))
  else go s

/-- Bytes read at issue, with a step's own buffered bytes in a relaxation body (R339). -/
def State.readNow (s : State) (l : Thread) (ls : List Loc) : List Byte :=
  match s.bodyOf l with
  | some r => s.bodyBytes r l.tid ls
  | none => s.getLocs ls
/-- Flags of a plane access; `true` where they trap (R79, R177, R178). -/
def State.planeFlags (s : State) (rs : List Thread) (fpcsr : Word) (fl : Flags) : State × Bool :=
  let s := rs.foldl (fun s t => s.updThread t.cid t.tid fun u => u.raiseFlags fl) s
  match fpTrap fpcsr fl with
  | some sub => (s.raiseAll rs { cls := cFpexc, sub := sub }, true)
  | none => (s, false)

/-- A plane load that reads at issue: in a relaxation body (R339), and where its flags may trap (R79). -/
def State.ldpNow (s : State) (l : Thread) (rs : List Thread) (upd : List (RegId × DWord)) (vas : List DWord) (c : Checked) (k : Nat)
    (rn : Bool) (d : Reg) : State :=
  s.readOr l rs vas c fun s =>
    let w := s.whoIs l
    let s : State := vas.foldl (fun s a => s.fillTlb w.part w.asid a.toNat) s
    let bs := s.readNow l c.locs
    let s : State := match s.bodyOf l with
      | some _ => s.bodyLoad l.cid (rs.map Thread.tid) c.locs
      | none => s
    let r := nfRead rn (bs.headD 0).toNat k bs.tail
    match (s.sampleNow l).planeFlags rs l.fpcsr r.fl with
    | (s, true) => s
    | (s, false) => (s.updateAll rs (upd ++ [(.v d, BitVec.ofNat 64 r.bits)])).watch rs .planeR (vas.headD 0) (vas.map (·.toNat))
/-- `ldp` by thread `l` for the threads `rs`: in flight, and read unit by unit (R96, R177). [DEDUCED, log 124] -/
def State.ldp1 (s : State) (field : BitVec 6) (k : Nat) (mode : BitVec 2) (b d : Reg) (l : Thread) (rs : List Thread) : State :=
  let x := l.tensor b
  let (i, upd) : Word × List (RegId × DWord) := l.planeIndex field mode b
  let rn := mode.toNat == 2 && k < 4
  let planes := if rn then k + 1 else k
  let w := s.whoIs l
  match s.planeCheck w x i planes .planeR .planeR with
  | .error tr => s.raiseAll rs tr
  | .ok c =>
    let vas : List DWord := planeAddrs x.base x.n i.toNat planes
    if c.mig then s.stallAll rs l.asid (vas.headD 0)
    else if (s.bodyOf l).isSome || (rn && (fpTrap l.fpcsr (fOF ||| fNX)).isSome) then s.ldpNow l rs upd vas c k rn d
    else if s.errAt l 0 then s.raiseAll rs (loadErr (vas.headD 0))
    else
      let s : State := (vas.foldl (fun s a => s.fillTlb w.part w.asid a.toNat) s).updateAll rs upd
      (s.pushOp (s.planeOp l rs upd vas c.locs c.kinds (.ldp k rn) d 1)).watch rs .planeR (vas.headD 0) (vas.map (·.toNat))
/-- Its sources (R33): only a rounded read may trap, as `fpcsr` says (R79, R177). -/
def ldpSrc (field : BitVec 6) (k : BitVec 2) (mode : BitVec 2) (base : Reg) : List RegId :=
  (if mode == 2 && k != 3 then [.f] else []) ++ groupRegs base 4 ++ if mode == 3 then [.v field] else []
/-- `ldp` (R176, R177). -/
def execLdp (h : Hd) (field : BitVec 6) (k : BitVec 2) (mode : BitVec 2) (base t : Reg) (s : State) : Out :=
  .next (s.runIssue (hdForm h (ldpSrc field k mode base)) fun s ps =>
    s.each h.uni ps fun s l rs => s.ldp1 field (k.toNat + 1) mode base t l rs)

/-- What `stp` writes for a value under a block's scale: bytes to write with the positions of their addresses (0 the scale
byte, p + 1 plane p), and the flags (R178). -/
def stpBytes (fpcsr : Word) (k x scale : Nat) : List (Nat × Byte) × Flags :=
  let planes (neg : Bool) (mag : Nat) : List (Nat × Byte) := (nfBytes k neg mag).mapIdx fun p b => (p + 1, b)
  let v := fp32.input (ftzOf fpcsr) x
  let sg := flagIf v.isSig fSNaN
  if scale == 255 then ([], fNV ||| sg)
  else match v with
    | .nan _ => ([(0, 0xFF)], fNV ||| sg)
    | .inf n => (planes n (8 * 2 ^ (8 * k - 4) - 1), fNV ||| fOF ||| fNX)
    | .fin n m e => let r := nfEncode (rmOf fpcsr) scale k n m e; (planes n r.1, r.2)

/-- The writes of `stp`: positions among `vas` with their bytes, once its flags cause no trap (R178, R339). -/
def State.stpWrite (s : State) (l : Thread) (rs : List Thread) (upd : List (RegId × DWord)) (vas : List DWord) (c : Checked)
    (ws : List (Nat × Byte)) (fl : Flags) : State :=
  let w := s.whoIs l
  let x : RxStore := ⟨l.tid, l.asid.toNat, ws.filterMap (fun p => (vas[p.1]?).map (·.toNat)), ws.filterMap fun p => c.locs[p.1]?,
    ws.map fun p => p.2⟩
  let full : Bool := match s.bodyOf l with
    | some r => !r.room x
    | none => false
  if full then rs.foldl State.bodyOverflow s
  else match s.planeFlags rs l.fpcsr fl with
    | (s, true) => s
    | (s, false) =>
      let s : State := (vas.foldl (fun s a => s.fillTlb w.part w.asid a.toNat) s).updateAll rs upd
      let put (s : State) (p : Nat × Byte) : State :=
        s.putStore l (s.planeOp l [] [] ((vas[p.1]?).toList) ((c.locs[p.1]?).toList)
          ((c.kinds[p.1]?).toList) (.store [p.2]) 0 (if p.1 == 0 then 1 else 32))
      let s : State := match s.bodyOf l with
        | some _ => if ws.isEmpty then s else s.bodyStore l.cid x
        | none => ws.foldl put s
      s.watchFor rs (vas.headD 0) ((vas.take 1).map (·.toNat)) x.vas

/-- `stp` by thread `l` for the threads `rs` (R178). The scale is read at issue; each plane byte is a store of its own. -/
def State.stp1 (s : State) (field : BitVec 6) (k : Nat) (mode : BitVec 2) (b d : Reg) (l : Thread) (rs : List Thread) : State :=
  let x := l.tensor b
  let (i, upd) : Word × List (RegId × DWord) := l.planeIndex field mode b
  let w := s.whoIs l
  let vas : List DWord := planeAddrs x.base x.n i.toNat k
  let v := (l.getV d).toNat
  match s.planeCheck w x i k .planeR .planeW with
  | .error tr => s.raiseAll rs tr
  | .ok c =>
    if c.mig then s.stallAll rs l.asid (vas.headD 0)
    else if (fp32.value v).isSig && l.fpcsr.getLsbD 13 then (s.planeFlags rs l.fpcsr fSNaN).1
    else s.readOr l rs (vas.take 1) ⟨c.locs.take 1, c.kinds.take 1, false⟩ fun s =>
      let scale := (s.readNow l (c.locs.take 1)).headD 0
      let s : State := match s.bodyOf l with
        | some _ => s.bodyLoad l.cid (rs.map Thread.tid) (c.locs.take 1)
        | none => s
      let p := stpBytes l.fpcsr k v scale.toNat
      let again : Except Trap Checked := if p.1.any (fun x => x.1 == 0) then s.checkBytes w [(vas.headD 0, .planeW)] else .ok c
      match again with
      | .error tr => s.raiseAll rs tr
      | .ok _ => s.stpWrite l rs upd vas c p.1 p.2
/-- `stp` (R176, R178). -/
def execStp (h : Hd) (field : BitVec 6) (k : BitVec 2) (mode : BitVec 2) (base t : Reg) (s : State) : Out :=
  .next (s.runIssue (hdForm h (.f :: .v t :: groupRegs base 4 ++ if mode.toNat == 3 then [.v field] else [])) fun s ps =>
    s.each h.uni ps fun s l rs => s.stp1 field (k.toNat + 1) mode base t l rs)

/-! ### Cache control, fences, schedules (R180 to R184) -/

/-- An instruction without an architectural effect: it moves on. -/
def State.hint (s : State) (f : Form) : Out := .next (s.runIssue f fun s _ => s)
/-- `cctl.wb` (R180): no value changes. -/
def execCctlWb (h : Hd) (base : Reg) (s : State) : Out := s.hint (hdForm h (baseRegs base)).barred
/-- `cctl.wbinv` (R180): no value changes. -/
def execCctlWbinv (h : Hd) (base : Reg) (s : State) : Out := s.hint (hdForm h (baseRegs base)).barred
/-- `cctl.pf1` (R180): no value changes. -/
def execCctlPf1 (h : Hd) (base : Reg) (s : State) : Out := s.hint (hdForm h (baseRegs base)).barred
/-- `cctl.pf2` (R180): no value changes. -/
def execCctlPf2 (h : Hd) (base : Reg) (s : State) : Out := s.hint (hdForm h (baseRegs base)).barred
/-- The line of device memory at an address of a thread. -/
def State.lineAt (s : State) (t : Thread) (va : DWord) : Option Nat :=
  if va.toNat < Config.scratchEnd then none else
  match s.translate (s.whoIs t).part t.asid.toNat va.toNat with
  | .ok l => some (l.phys va.toNat / 64)
  | .error _ => none
/-- A store of the thread to the line has not performed. -/
def State.lineBusy (s : State) (t : Thread) (va : DWord) : Bool :=
  match s.lineAt t va with
  | some n => s.ops.any fun o => o.cid == t.cid && o.tid == t.tid && o.stores && (o.locs.map (Loc.unit 64)).contains (.phys n)
  | none => false
/-- `cctl.iinv` by a thread: it covers what stores have left in the line (R180); without effect where the line is not translated. -/
def State.iinv1 (s : State) (scope : Nat) (va : DWord) (t : Thread) : State :=
  match s.lineAt t va with
  | none => s
  | some n => { s with fresh := s.fresh + 1, lines := s.lines.map fun m =>
      if m.line == n then { m with iinvs := (s.fresh, scope, s.coreOf t.cid) :: m.iinvs } else m }
/-- `cctl.iinv` (R180): fetches may obtain what memory holds. The stores that its threads have made to the line before it come first.
[DEDUCED, log 14] -/
def execCctlIinv (h : Hd) (scope : BitVec 3) (base : Reg) (s : State) : Out :=
  .next (s.runIssue (hdForm h (baseRegs base)).barred
    (fun s ps => s.each h.uni ps fun s l _ => s.iinv1 scope.toNat (l.base base) l)
    fun s ps => if ps.any fun t => s.lineBusy t (t.base base) then some .quiet else none)
/-- `cctl.zero`: zero to the 64 bytes of the line (R180). -/
def execCctlZero (h : Hd) (base : Reg) (s : State) : Out :=
  .next (s.runIssue (hdForm h (baseRegs base)).barred fun s ps =>
    s.access h.uni ps (fun u => { va := u.base base &&& ~~~63, n := 64, acc := .zero })
      fun s l _ q c => s.storeAct l q c (List.replicate 64 0) false)

/-- A fence stands between the thread's accesses in flight and its later ones (R162, R181). [DEDUCED, log 86] -/
def State.fence1 (s : State) (acq rel uo : Bool) (t : Thread) : State :=
  if s.accessesOut t.cid t.tid then s.pushOp (s.planeOp t [] [] [] [] [] (.fence acq rel uo) 0 0) else s
/-- What a thread obtains after an acquiring fence: writes to its registers that it has acquired (R155), and, in fetches, what an `iinv`
before it covers (R180). -/
def State.fenceAcquire (s : State) (scope : Nat) (t : Thread) : State :=
  s.updThread t.cid t.tid fun u => { (if 2 ≤ scope then u.acquire else u) with fence := s.fresh }
/-- `fence` (R181). -/
def execFence (m : Bool) (scope : BitVec 3) (acq rel uo : Bool) (s : State) : Out :=
  .next (s.runIssue (markForm m).barred fun s ps => ps.foldl (fun s t =>
    let s := s.fence1 acq rel uo t
    if acq then s.fenceAcquire scope.toNat t else s) s)
/-- `aliasf` by a thread: the writes it has made so far are the first end of an alias chain, and it is itself the second end of those
before it (R170). -/
def State.aliasf1 (s : State) (scope : Nat) (t : Thread) : State :=
  let mine (n : ByteName) : ByteName :=
    if n.cid == t.cid && n.tid == some t.tid && !(n.fenced.any fun x => x.2 == scope) then { n with fenced := (s.fresh, scope) :: n.fenced } else n
  { (s.fence1 true true true t).updThread t.cid t.tid fun u => { u with chain := (s.fresh, scope) :: u.chain.filter (fun x => x.2 != scope) } with
    marks := s.marks.map fun m => { m with writes := m.writes.map fun w => { w with name := w.name.map mine } } }
/-- `aliasf` orders as a fence with every bit set (R182). -/
def execAliasf (m : Bool) (scope : BitVec 3) (s : State) : Out :=
  .next (s.runIssue (markForm m).barred fun s ps => ps.foldl (fun s t => s.aliasf1 scope.toNat t) s)
/-- `evs`: the phase of an installed schedule only rises (R183). [DEDUCED, log 87] -/
def execEvs (m : Bool) (a : Reg) (s : State) : Out :=
  .next (s.runIssue (markForm m [.v a]).barred fun s ps =>
    ps.foldl (fun s t => s.updPart (s.partOf t.cid) fun p =>
      if p.sched.isSome && p.phase < (t.getV a).toNat then { p with phase := (t.getV a).toNat } else p) s)

end Sys2Proof.Machine
end

