-- ==== Sys2Proof/Machine/Masks.lean ====
section
/-!
DEFINITION. Rejoin masks (R202 to R207): writes of the expected set, the handler's private copies (R206), and the
instructions of MASK.
-/
namespace Sys2Proof.Machine

/-- A mask as an unmarked instruction may still read it (R38): an entry of `old` is the expected set before a write. [DEDUCED, log 24] -/
def staleMask (n tid k : Nat) : List (RegId × DWord) → Word → Word
  | [], e => e
  | (r, x) :: rest, e =>
    let e := staleMask n tid k rest e
    if r = .k k && Config.freeBit n tid rest.length then x.setWidth 32 else e

/-- The expected set of mask `k` that a thread reads: its handler's copy (R206), or the troupe's mask. -/
def State.maskRead (s : State) (t : Thread) (k : Nat) : Word :=
  match t.frames with
  | f :: _ => match f.masks[k]? with
    | some c => c.e
    | none => 0
  | [] => match s.troupe? t.cid t.trp with
    | some u => staleMask s.draw t.tid k t.old (u.k.getD k 0)
    | none => 0

/-- A handler's copy of a mask takes a value (R206). -/
def Thread.setCopy (t : Thread) (k : Nat) (e : Word) : Thread :=
  match t.frames with
  | f :: fs => { t with frames := { f with masks := f.masks.modify k fun _ => ⟨e, true⟩ } :: fs }
  | [] => t

/-- The troupe's mask takes a value that the threads `tids` write, and is tested (R38, R204). -/
def State.putMask (s : State) (cid trp : Nat) (tids : List Nat) (k : Nat) (e : Word) : State :=
  let old : Word := match s.troupe? cid trp with
    | some u => u.k.getD k 0
    | none => 0
  let s := s.updThreads (fun t => t.cid == cid && tids.contains t.tid && t.frames.isEmpty) fun t =>
    { t with old := (.k k, old.setWidth 64) :: t.old }
  (s.updTroupe cid trp fun u => { u with k := u.k.setIfInBounds k e }).maskTest cid trp k
/-- A later write of mask `k` by a thread of a `kload` in flight: the loaded word is no longer the last (R38). -/
def MemOp.overtakeMask (cid : Nat) (tids : List Nat) (k : Nat) (o : MemOp) : MemOp :=
  match o.kind with
  | .kload _ k' _ => if k' == k then tids.foldl (fun o t => o.overtake cid t [.k k]) o else o
  | _ => o
/-- Writes the expected set of mask `k` for the threads `tids` of a troupe: each handler's own copy, and the troupe's
mask where a thread outside handler mode writes, which is then tested (R204, R206). -/
def State.setMask (s : State) (cid trp : Nat) (tids : List Nat) (k : Nat) (e : Word) : State :=
  let mine (t : Thread) : Bool := t.cid == cid && tids.contains t.tid
  let s := { s.updThreads (fun t => mine t && !t.frames.isEmpty) fun t => t.setCopy k e with
    ops := s.ops.map (MemOp.overtakeMask cid tids k) }
  if s.threads.any fun t => mine t && t.frames.isEmpty then s.putMask cid trp tids k e else s

/-- The form of a MASK instruction: forbidden in relaxation bodies (R332). -/
def maskForm (m : Bool) (src : List RegId := []) : Form := (markForm m src).barred

/-- `join`: the lowest participating thread's value, less the exited threads (R203). -/
def execJoin (m : Bool) (k a : Reg) (s : State) : Out :=
  .next (s.runIssue (maskForm m [.v a]) fun s ps => match lowest ps with
    | none => s
    | some l => s.setMask l.cid l.trp (ps.map Thread.tid) k.toNat (l.getV a &&& ~~~(s.exitedMask l.cid l.trp)))
/-- `leave` (R204); a handler changes its own copy (R206). Of a group with both kinds of threads, the troupe's mask loses those outside
handlers, and each handler's copy loses all. [DESIGN CHOICE, log 117] -/
def execLeave (m : Bool) (k : Reg) (s : State) : Out :=
  .next (s.runIssue (maskForm m) fun s ps =>
    let out := ps.filter fun t => t.frames.isEmpty
    let s := (ps.filter fun t => !t.frames.isEmpty).foldl (fun s t =>
      s.setMask t.cid t.trp [t.tid] k.toNat (s.maskRead t k.toNat &&& ~~~(laneMask (ps.map Thread.tid)))) s
    match lowest out with
    | none => s
    | some l => s.setMask l.cid l.trp (out.map Thread.tid) k.toNat
        (s.maskRead l k.toNat &&& ~~~(laneMask (out.map Thread.tid))))

/-- `waitk` by threads outside handler mode: they arrive and wait; the mask is tested as they read it (R38, R204). -/
def State.waitkAll (s : State) (k : Nat) (ps : List Thread) : State :=
  match lowest ps with
  | none => s
  | some l =>
    let s := ps.foldl (fun s t => s.waitAt t (.waitk k)) s
    let s := s.updTroupe l.cid l.trp fun u =>
      { u with arr := u.arr.setIfInBounds k (u.arr.getD k 0 ||| laneMask (ps.map Thread.tid)) }
    match s.troupe? l.cid l.trp with
    | none => s
    | some u =>
      if s.maskRead l k &&& ~~~(u.arr.getD k 0) == 0 then s.maskRelease l.cid l.trp k
      else s.maskTest l.cid l.trp k
/-- `waitk` (R204); in handler mode CFLOW INHANDLER (R206). -/
def execWaitk (m : Bool) (k : Reg) (s : State) : Out :=
  let word := s.word
  .next (s.runIssue (maskForm m) fun s ps =>
    let s := s.raiseAll (ps.filter fun t => !t.frames.isEmpty) { cls := cCflow, sub := 4, extra := word }
    s.waitkAll k.toNat (ps.filter fun t => t.frames.isEmpty))

/-- The address of a spill (R205). -/
def Thread.spillAddr (t : Thread) (e : BitVec 6) (a : Reg) : DWord := (t.getV a).setWidth 64 + BitVec.ofNat 64 (4 * e.toNat)
/-- `ksave`: a 4-byte store of the expected set, which must be aligned and not on a RED page (R205). -/
def execKsave (m : Bool) (e : BitVec 6) (k a : Reg) (s : State) : Out :=
  .next (s.runIssue (maskForm m [.v a]) fun s ps =>
    s.access false ps
      (fun t => { va := t.spillAddr e a, n := 4, acc := .release, natural := true })
      fun s l _ q c => s.storeAct l q c (bytesOf 4 (s.maskRead l k.toNat).toNat) false)
/-- `kload`: each thread loads its own word; that of the lowest participating thread becomes the expected set when the data arrive
(R205). A thread that faults takes no part; while a thread's page is migrating the whole group waits (R151). [DESIGN CHOICE, log 125] -/
def execKload (m : Bool) (e : BitVec 6) (k a : Reg) (s : State) : Out :=
  .next (s.runIssue (maskForm m [.v a]) fun s ps =>
    let checked (t : Thread) : Except Trap Checked := s.check (s.whoIs t) .acquire (t.spillAddr e a) 4 true
    let passed := ps.filter fun t => (checked t).isOk
    let moves := passed.filter fun t => (checked t).toOption.any (·.mig)
    let lead := (lowest (passed.filter fun t => !s.errAt t 0)).map Thread.tid
    let go := match lowest moves with
      | none => ps
      | some _ => ps.filter fun t => !(checked t).isOk
    let s := s.access false go (fun t => { va := t.spillAddr e a, n := 4, acc := .acquire, natural := true })
      fun s l rs q c => s.pushOp (s.mkOp l rs q c (.kload l.trp k.toNat (lead == some l.tid)) 0 4)
    match lowest moves with
    | none => s
    | some u => s.stallAll passed u.asid (u.spillAddr e a))

end Sys2Proof.Machine
end

