-- ==== Sys2Proof/Machine/Atomics.lean ====
section
/-!
DEFINITION. Data atomics (R222 to R228), operations on synchronisation variables (R229 to R232), plane updates (R242 to
R244), and the steps in which memory operations in flight perform.
-/
namespace Sys2Proof.Machine

/-! ### Data atomics -/

/-- Floating addition of an atomic: nearest even, subnormals kept, every NaN the default one (R224). -/
def Fmt.atomAdd (f : Fmt) (a b : Nat) : Nat :=
  if (f.value a).isNan || (f.value b).isNan then f.nan else (f.add false .rne a b).bits
/-- Floating minimum and maximum of an atomic (R224). -/
def Fmt.atomMinmax (f : Fmt) (mx : Bool) (a b : Nat) : Nat :=
  if (f.value a).isNan && (f.value b).isNan then f.nan else (f.minmax false mx a b).bits
/-- A packed floating addition (R224). -/
def atomAdd2 (f : Fmt) (a b : Nat) : Nat :=
  f.atomAdd (a % 65536) (b % 65536) + 65536 * f.atomAdd (a / 65536 % 65536) (b / 65536 % 65536)
/-- The key of `amax64` (R225): operand word 0 is the FP32 value, word 1 the index. -/
def amaxKey (x : Nat) : Nat :=
  let f := x % 2 ^ 32
  let j := x / 2 ^ 32 % 2 ^ 32
  let v := fp32.value f
  let h := if v.isNan then 0 else if v.isZero then 0x80000000 else if v.neg then 2 ^ 32 - 1 - f else f + 0x80000000
  h * 2 ^ 32 + (2 ^ 32 - 1 - j)

/-- The new memory value of an atomic of `n` bytes, or `none` where nothing is written (R222 to R225). `x` is the operand,
the comparand of `cas`; `y` is the new value of `cas`. -/
def atomNew (op n old x y : Nat) : Option Nat :=
  let m := 2 ^ (8 * n)
  let sg (v : Nat) : Int := if v ≥ m / 2 then (v : Int) - m else v
  let f := if n = 4 then fp32 else fp64
  match op with
  | 0 => some ((old + x) % m)
  | 1 => some (f.atomAdd old x)
  | 2 => some (atomAdd2 bf16 old x)
  | 3 => some (atomAdd2 fp16 old x)
  | 4 => some (if sg old ≤ sg x then old else x)
  | 5 => some (if sg x ≤ sg old then old else x)
  | 6 => some (min old x)
  | 7 => some (max old x)
  | 8 => some (f.atomMinmax false old x)
  | 9 => some (f.atomMinmax true old x)
  | 10 => some (old &&& x)
  | 11 => some (old ||| x)
  | 12 => some (old ^^^ x)
  | 13 => some x
  | 14 => if old = x then some y else none
  | _ => some (max old (amaxKey x))

/-- The operand of a floating atomic is a signalling NaN (R80, R224). -/
def atomSignals (op n x : Nat) : Bool :=
  match op with
  | 1 | 8 | 9 => ((if n = 4 then fp32 else fp64).value x).isSig
  | 2 => (bf16.value (x % 65536)).isSig || (bf16.value (x / 65536)).isSig
  | 3 => (fp16.value (x % 65536)).isSig || (fp16.value (x / 65536)).isSig
  | _ => false

/-- The operands of an atomic: the data group as read at issue (R223). -/
def Thread.atomArgs (t : Thread) (op n : Nat) (r : Reg) : DWord × DWord :=
  if n = 4 then ((t.getV r).setWidth 64, if op = 14 then (t.getV (r + 1)).setWidth 64 else 0)
  else (t.getPair r, if op = 14 then t.getPair (r + 2) else 0)
/-- The registers of the data group (R222). -/
def atomRegs (op n : Nat) (r : Reg) : List RegId := groupRegs r ((if op = 14 then 2 else 1) * (n / 4))

/-- Its sources (R33): a floating atomic traps as `fpcsr` says (R80, R224). -/
def atomSrc (op n : Nat) (base t : Reg) : List RegId :=
  (if [1, 2, 3, 8, 9].contains op then [.f] else []) ++ baseRegs base ++ atomRegs op n t

/-- An atomic by every participating thread (R223, R226). -/
def State.atomic (s : State) (h : Hd) (ret : Bool) (op : BitVec 6) (size : BitVec 3) (base t : Reg) : Out :=
  let n := sizeBytes size
  .next (s.runIssue (hdForm h (atomSrc op.toNat n base t)).barred fun s ps =>
    s.access h.uni ps
      (fun u => { va := u.base base, n := n, acc := if ret then .atom else .red, natural := true })
      (fun s l rs q c =>
        let x := l.atomArgs op.toNat n t
        let s := if ret then s else s.outAdd l.cid 1
        s.pushOp (s.mkOp l (if ret then rs else []) q c (.atom ret op.toNat n x.1 x.2) t n))
      (fun s l rs _ _ =>
        if l.fpcsr.getLsbD 13 && atomSignals op.toNat n (l.atomArgs op.toNat n t).1.toNat then
          some (s.planeFlags rs l.fpcsr fSNaN).1
        else none))
/-- `atom` (R222 to R227). -/
def execAtom (h : Hd) (op : BitVec 6) (size : BitVec 3) (base t : Reg) (s : State) : Out := s.atomic h true op size base t
/-- `red` (R222 to R227). -/
def execRed (h : Hd) (op : BitVec 6) (size : BitVec 3) (base t : Reg) (s : State) : Out := s.atomic h false op size base t

/-! ### Synchronisation variables -/

/-- A SYNC operation: the new value where one is written, and the success bit (R231). -/
def syncNew (minor : Nat) (old x y : Word) : Option Word × Bool :=
  match minor with
  | 0 => (some (old + x), true)
  | 1 => if old.toNat + x.toNat ≤ y.toNat then (some (old + x), true) else (none, false)
  | 2 => (some (if x.toNat ≤ old.toNat then 0 else old + 1), true)
  | 3 => if old == x then (some y, true) else (none, false)
  | 4 => (some x, true)
  | 5 => (some (if old.toNat ≤ x.toNat then old else x), true)
  | _ => (some (if old.toNat ≤ x.toNat then x else old), true)

/-- The checks of a variable's offset (R231, R153). -/
def State.syncCheck (s : State) (w : Who) (o : Word) : Except Trap Checked :=
  let va := Config.syncBase + o.toNat
  if o.toNat % 8 != 0 then .error (faultAt cAlign 1 va)
  else if !syncIn (s.part w.part) o.toNat then .error (faultAt cAccess aWindow va)
  else .ok ⟨(List.range 4).map fun i => .sync w.part (o.toNat + i), [.so], false⟩

/-- A SYNC operation by thread `l` for the threads `rs`. -/
def State.sync1 (s : State) (minor : Nat) (d a b : Reg) (l : Thread) (rs : List Thread) : State :=
  match s.syncCheck (s.whoIs l) (l.getV a) with
  | .error tr => s.raiseAll rs tr
  | .ok c =>
    let va : DWord := BitVec.ofNat 64 (Config.syncBase + (l.getV a).toNat)
    let q : Req := { va := va, n := 4, acc := .atom }
    (s.pushOp (s.mkOp l rs q c (.sync minor (l.getV b) (l.getV (b + 1))) d 1)).watch rs .atom va
      ((List.range 4).map (va.toNat + ·))
/-- A SYNC operation by every participating thread (R231, R232). -/
def State.syncOp (s : State) (h : Hd) (minor : Nat) (src : List RegId) (d a b : Reg) : Out :=
  .next (s.runIssue (hdForm h (.v a :: src)).barred fun s ps =>
    s.each h.uni ps fun s l rs => s.sync1 minor d a b l rs)
/-- `sadd` (R231). -/
def execSadd (h : Hd) (d a b : Reg) (s : State) : Out := s.syncOp h 0 [.v b] d a b
/-- `sbadd` (R231). -/
def execSbadd (h : Hd) (d a b : Reg) (s : State) : Out := s.syncOp h 1 (pairRegs b) d a b
/-- `sincw` (R231). -/
def execSincw (h : Hd) (d a b : Reg) (s : State) : Out := s.syncOp h 2 [.v b] d a b
/-- `scas` (R231). -/
def execScas (h : Hd) (d a b : Reg) (s : State) : Out := s.syncOp h 3 (pairRegs b) d a b
/-- `sexch` (R231). -/
def execSexch (h : Hd) (d a b : Reg) (s : State) : Out := s.syncOp h 4 [.v b] d a b
/-- `smin` (R231). -/
def execSmin (h : Hd) (d a b : Reg) (s : State) : Out := s.syncOp h 5 [.v b] d a b
/-- `smax` (R231). -/
def execSmax (h : Hd) (d a b : Reg) (s : State) : Out := s.syncOp h 6 [.v b] d a b

/-! ### Plane updates -/

/-- The new value of an element of `k` planes and the bytes to write, by position (0 the scale, p + 1 plane p) (R243). -/
def pladdNew (k : Nat) (x : Nat) (bs : List Byte) : Nat × List (Nat × Byte) :=
  let scale := (bs.headD 0).toNat
  let ps := bs.tail
  let changed (new : List Byte) : List (Nat × Byte) :=
    ((new.mapIdx fun p b => (p + 1, b)).zip ps).filterMap fun y => if y.1.2 == y.2 then none else some y.1
  let done (neg : Bool) (mag : Nat) : Nat × List (Nat × Byte) :=
    let new := nfBytes k neg mag
    ((nfRead false scale k new).bits, changed new)
  if scale == 255 then (fp32.nan, [])
  else match fp32.value x with
    | .nan _ => (fp32.nan, [(0, 0xFF)])
    | .inf n => done n (8 * 2 ^ (8 * k - 4) - 1)
    | .fin n m e =>
      let p0 := (ps.headD 0).toNat
      match nfValue scale (p0.testBit 7) (p0 / 16 % 8) (nfFraction ps) (8 * k - 4) with
      | .fin n' m' e' => match addFin .rne n' m' e' n m e with
        | .fin sn sm se => done sn (nfEncode .rne scale k sn sm se).1
        | _ => (fp32.nan, [])
      | _ => (fp32.nan, [])

/-- `pladd` by thread `l` for the threads `rs` (R242, R243). -/
def State.pladd1 (s : State) (k : Nat) (d a b : Reg) (l : Thread) (rs : List Thread) : State :=
  let x := l.tensor a
  let w := s.whoIs l
  let vas : List DWord := planeAddrs x.base x.n x.i.toNat k
  match s.planeCheck w x x.i k .planeRW .planeRW with
  | .error tr => s.raiseAll rs tr
  | .ok c =>
    if c.mig then s.stallAll rs l.asid (vas.headD 0)
    else if l.fpcsr.getLsbD 13 && (fp32.value (l.getV b).toNat).isSig then (s.planeFlags rs l.fpcsr fSNaN).1
    else
      let s : State := vas.foldl (fun s a => s.fillTlb w.part w.asid a.toNat) s
      let v : Word := BitVec.ofNat 32 (fp32.deliver (ftzOf l.fpcsr) (l.getV b).toNat)
      (s.pushOp (s.planeOp l rs [] vas c.locs c.kinds (.pladd k x.i.toNat v) d 1)).watch rs .planeRW (vas.headD 0)
        (vas.map fun a => a.toNat)
/-- `pladd` (R242 to R244). -/
def execPladd (h : Hd) (k : BitVec 2) (d a b : Reg) (s : State) : Out :=
  .next (s.runIssue (hdForm h (.f :: .v b :: groupRegs a 4)).barred fun s ps =>
    s.each h.uni ps fun s l rs => s.pladd1 (k.toNat + 1) d a b l rs)

/-! ### Operations perform -/

/-- A load's own bytes no longer count toward its thread's monitor (R235). -/
def Monitor.seen (id : Nat) (ls : List Loc) (m : Monitor) : Monitor :=
  if m.since ≤ id then { m with hit := m.hit.filter fun l => !ls.contains l } else m
/-- The bytes of a load once its last part is read, by rising address (R169). -/
def byAddress : Nat × Byte → List (Nat × Byte) → List (Nat × Byte)
  | x, [] => [x]
  | x, y :: r => if x.1 ≤ y.1 then x :: y :: r else y :: byAddress x r
@[inherit_doc byAddress] def State.loaded (s : State) (o : MemOp) : List Byte :=
  match o.got with
  | [] => s.getLocs o.locs
  | g => ((o.vas.zip (s.getLocs o.locs)).foldl (fun l x => byAddress x l) g).map (·.2)
/-- A load of the core has returned: the probes sample the cycles since its issue (R387). -/
def State.loadSample (s : State) (o : MemOp) : State :=
  match s.company? o.cid with
  | some c => s.sample c.core 0 (s.clkOf o.cid - o.born)
  | none => s
/-- What follows once a load's bytes are read: its monitor has seen them (R235), and an acquire lets its threads see what was written to
their registers before (R155). -/
def State.obtained (s : State) (o : MemOp) : State :=
  let seen (m : Option Monitor) : Option Monitor := m.map (Monitor.seen o.id (o.locs.map s.canon))
  let of (t : Thread) : Bool := match t.wait with | .mwait _ src _ _ _ => src == o.tid | _ => false
  let s := (s.updThread o.cid o.tid fun t => { t with mon := seen t.mon }).updThreads (fun t => t.cid == o.cid && of t) fun t =>
    { t with watched := seen t.watched }
  if o.acq && 2 ≤ o.scope then o.lanes.foldl (fun s l => s.acquired o.cid l.tid) s else s
/-- The result of a load arrives: its words, and the flags that a rounded plane read raises (R175, R177). -/
def State.loadArrive (s : State) (o : MemOp) (bs : List Byte) : State :=
  match o.kind with
  | .load sx => s.arrive o (loadWrites o.d sx bs)
  | .ldp k rn =>
    let r := nfRead rn (bs.headD 0).toNat k bs.tail
    (o.lanes.foldl (fun s l => s.updThread o.cid l.tid fun t => t.raiseFlags r.fl) s).arrive o [(.v o.d, BitVec.ofNat 64 r.bits)]
  | _ => s
/-- LOAD_DATA_ARRIVE (R96, R149, R169, R175, R177, R303, R387): a part of a load performs; with the last one its result is written. An
uncorrectable error is DATAERR where no thread of the load has issued anything since; later no error is met. -/
def execLoadDataArrive (id : Nat) (err : Bool) (s : State) : Out :=
  .next (match s.readyPart id with
  | some (o, rest) => match o.kind with
    | .load _ | .ldp .. =>
      if err then (if s.precise o then s.dataError o else s)
      else match rest with
        | some r => (s.obtained o).keepPart { r with got := (o.vas.zip (s.getLocs o.locs)).foldl (fun l x => byAddress x l) o.got }
        | none => (((s.loadArrive o (s.loaded o)).obtained o).loadSample o).dropOp id
    | _ => s
  | none => s)

/-- A word loaded at nesting level `d` reaches the copies of a thread in handlers (R206): the copy of that level has been written; a copy
that a deeper handler has taken from it since, and not written, shows it. -/
def Thread.landCopy (d k : Nat) (e : Word) (t : Thread) : Thread :=
  { t with frames := t.frames.mapIdx fun i f =>
      let level := t.frames.length - i
      { f with masks := f.masks.modify k fun c =>
          if level == d then ⟨e, true⟩ else if d < level && !c.written then ⟨e, false⟩ else c } }
/-- Loads of one `kload` of a troupe, of all its threads. -/
def MemOp.kloadMate (o x : MemOp) : Bool :=
  x.grp == o.grp && x.cid == o.cid && match o.kind, x.kind with
    | .kload t k _, .kload t' k' _ => t == t' && k == k'
    | _, _ => false
/-- The loaded word becomes the expected set for the threads that issued the `kload` (R205): the troupe's mask where they issued it outside
handlers, or their handlers' copies. After a later write of the mask it can only be seen by who reads it still (R38). -/
def State.kloadArrive (s : State) (o : MemOp) (trp k : Nat) : State :=
  let e : Word := BitVec.ofNat 32 (natOf (s.getLocs o.locs)) &&& ~~~(s.exitedMask o.cid trp)
  let lanes := (s.ops.filter o.kloadMate).flatMap (·.lanes)
  let live := lanes.filter fun l => !l.dead.contains (.k k)
  let s := { live.foldl (fun s l => s.updThread o.cid l.tid (Thread.landCopy l.depth k e)) s with
    ops := s.ops.map fun x => if x.id < o.id then x.overtakeMask o.cid (live.map (·.tid)) k else x }
  let outside := lanes.filter fun l => l.depth == 0
  if outside.isEmpty then s
  else if outside.all fun l => !l.dead.contains (.k k) then s.putMask o.cid trp (lanes.map (·.tid)) k e
  else outside.foldl (fun s l => s.updThread o.cid l.tid fun t => { t with old := (.k k, e.setWidth 64) :: t.old }) s
/-- A thread that faults takes no part: the lowest of the others loads the expected set. -/
def State.passLead (s : State) (o : MemOp) : State :=
  let rest := s.ops.filter fun x => o.kloadMate x && x.id != o.id
  match rest.find? fun x => rest.all fun y => x.tid % 32 ≤ y.tid % 32 with
  | none => s
  | some n => { s with ops := s.ops.map fun x =>
      if x.id == n.id then { x with kind := match x.kind with | .kload t k _ => .kload t k true | y => y } else x }

/-- KLOAD_DATA_ARRIVE (R205, R303, R387): a thread's word arrives, that of the lowest thread first. -/
def execKloadDataArrive (id : Nat) (err : Bool) (s : State) : Out :=
  .next (match s.readyOp id with
  | some o => match o.kind with
    | .kload trp k lead =>
      let led := s.ops.any fun x => o.kloadMate x && match x.kind with | .kload _ _ l => l | _ => false
      if err then (if s.precise o then (if lead then s.passLead o else s).dataError o else s)
      else if lead then (((s.kloadArrive o trp k).obtained o).loadSample o).dropOp id
      else if led then s
      else ((s.obtained o).loadSample o).dropOp id
    | _ => s
  | none => s)

/-- A read-modify-write performs (R223, R227). -/
def State.rmw (s : State) (o : MemOp) (op n : Nat) (x y : DWord) : State :=
  match atomNew op n (natOf (s.getLocs o.locs)) x.toNat y.toNat with
  | some v => (s.claimOp o).perform o.locs (bytesOf n v)
  | none => s
/-- One half of a packed addition performs (R224). -/
def State.rmwHalf (s : State) (o : MemOp) (op : Nat) (x : BitVec 16) : State :=
  let f := if op == 2 then bf16 else fp16
  (s.claimOp o).perform o.locs (bytesOf 2 (f.atomAdd (natOf (s.getLocs o.locs)) x.toNat))
/-- The old word of a packed addition, from its halves. -/
def joinHalves (hi : Bool) (mine other : Nat) : Nat := if hi then other + 65536 * mine else mine + 65536 * other
/-- Plane bytes of one group within one plane unit are written together (R178). -/
def MemOp.sameUnit (x y : MemOp) : Bool :=
  x.id == y.id || (x.n == 32 && y.n == 32 && x.grp == y.grp && x.cid == y.cid && x.locs.map (Loc.unit 32) == y.locs.map (Loc.unit 32))
/-- A store performs and leaves the outstanding counter (R261). -/
def State.storeDone (s : State) (o : MemOp) : State :=
  match o.kind with
  | .store bs => (((s.claimOp o).perform o.locs bs).outSub o.cid).dropOp o.id
  | _ => s
/-- A unit that a `pladd` has changed is written (R96). -/
def State.unitDone (s : State) (o : MemOp) : State :=
  match o.kind with
  | .unit _ bs => ((s.claimOp o).perform o.locs bs).dropOp o.id
  | _ => s
/-- A part of an operation without a result performs (R169, R178, R223, R224, R244, R261, R354, R355). -/
def State.storePart (s : State) (o : MemOp) (rest : Option MemOp) : State :=
  match o.kind, rest with
  | .store bs, some r => ((s.claimOp o).perform o.locs bs).keepPart r
  | .store _, none =>
    let us := s.ops.filter o.sameUnit
    if us.length ≤ 1 then s.storeDone o
    else if us.all fun u => (s.readyOp u.id).isSome then us.foldl State.storeDone s else s
  | .atom false op n x y, _ => ((s.rmw o op n x y).outSub o.cid).dropOp o.id
  | .half false op _ x _, some r => (s.rmwHalf o op x).keepPart r
  | .half false op _ x _, none => ((s.rmwHalf o op x).outSub o.cid).dropOp o.id
  | .unit .., _ =>
    let us := s.ops.filter o.sameUnit
    if us.all fun u => (s.readyOp u.id).isSome then us.foldl State.unitDone s else s
  | .slot lad item bs, _ =>
    if o.locs.isEmpty then match s.unitSlot lad item bs with
      | some s => s.dropOp o.id
      | none => s
    else (((s.claimOp o).plainStore (s.partOf o.cid) o.locs o.kinds bs).itemDone lad item).dropOp o.id
  | _, _ => s
/-- STORE_PERFORM: a store, a `red`, a unit of a `pladd`, the slot of an `lres` or one that the unit writes performs. -/
def execStorePerform (id : Nat) (s : State) : Out :=
  .next (match s.readyPart id with
  | some (o, rest) => s.storePart o rest
  | none => s)

/-- The register writes of an atomic's old value (R223). -/
def atomWrites (d : Reg) (n old : Nat) : List (RegId × DWord) :=
  if n = 4 then [(.v d, BitVec.ofNat 64 old)] else pairWrites d (BitVec.ofNat 64 old)
/-- An `atom` has performed: its old value returns. -/
def State.atomDone (s : State) (o : MemOp) (n old : Nat) : State :=
  (((s.arrive o (atomWrites o.d n old)).obtained o).loadSample o).dropOp o.id
/-- ATOM_RESULT_RETURN (R223 to R228, R387): an `atom`, or one half of a packed one, performs, and with the last part its old value
returns; with an error in the line the location keeps its contents and the thread takes DATAERR. -/
def execAtomResultReturn (id : Nat) (err : Bool) (s : State) : Out :=
  .next (match s.readyPart id with
  | some (o, rest) =>
    let old := natOf (s.getLocs o.locs)
    match o.kind, rest with
    | .atom true op n x y, _ =>
      if err then (if s.precise o then s.dataError o else s)
      else (s.rmw o op n x y).atomDone o n old
    | .half true op _ x got, some r =>
      if err then (if got.isNone && s.precise o then s.dataError o else s)
      else ((s.rmwHalf o op x).obtained o).keepPart { r with kind := match r.kind with | .half t p h y _ => .half t p h y (some old) | k => k }
    | .half true op hi x got, none =>
      if err then s
      else (s.rmwHalf o op x).atomDone o 4 (joinHalves hi old (got.getD 0))
    | _, _ => s
  | none => s)

/-- RED_DATAERR_DEFERRED (R228, R280): a `red`, or a drain's merge, meets an error; its thread takes DATAERR DEFERRED before its next
instruction. -/
def execRedDataerrDeferred (id : Nat) (s : State) : Out :=
  .next (match s.readyOp id with
  | some o => match o.kind with
    | .atom false .. | .half false _ _ _ none | .drainMax .. =>
      let tr : Async := { trap := { cls := cDataerr, sub := 3, addr := o.va }, ticket := 0, cmd := none }
      let s := s.updThread o.cid o.tid fun t => if t.exited then t else { t with asyncs := t.asyncs ++ [tr] }
      (s.outSub o.cid).dropOp id
    | _ => s
  | none => s)

/-- SYNC_REPLY (R231, R232): an operation on a variable performs and replies. -/
def execSyncReply (id : Nat) (err : Bool) (s : State) : Out :=
  .next (match s.readyOp id with
  | some o => match o.kind with
    | .sync minor x y =>
      if err then (if s.precise o then s.dataError o else s)
      else
        let old : Word := BitVec.ofNat 32 (natOf (s.getLocs o.locs))
        let r := syncNew minor old x y
        let s := match r.1 with
          | some v => s.perform o.locs (bytesOf 4 v.toNat)
          | none => s
        let ok := if minor == 1 || minor == 3 then [(RegId.p 6, if r.2 then (1 : DWord) else 0)] else []
        (s.arrive o ((.v o.d, old.setWidth 64) :: ok)).dropOp id
    | _ => s
  | none => s)

/-- Bytes that updates have changed, by location and address, the latest last. -/
abbrev Overlay := List (Loc × Nat × Byte)
/-- A byte as the updates so far leave it. -/
def State.overlaid (s : State) (ov : Overlay) (l : Loc) : Byte := ov.foldl (fun b x => if x.1 == l.plain then x.2.2 else b) (s.getLoc l)
/-- One update of a group on the bytes that those before it leave (R243): its result and the bytes it changes. -/
def State.pladdOne (s : State) (ov : Overlay) (o : MemOp) : Nat × Overlay :=
  match o.kind with
  | .pladd k _ x =>
    let r := pladdNew k x.toNat (o.locs.map (s.overlaid ov))
    (r.1, r.2.filterMap fun p => match o.locs[p.1]?, o.vas[p.1]? with
      | some l, some va => some (l.plain, va, p.2)
      | _, _ => none)
  | _ => (0, [])
/-- The write of a unit that an update has changed: the scale byte, or 32 bytes of a plane (R96). -/
def State.unitOp (s : State) (ov : Overlay) (o : MemOp) (x : Loc × Nat × Byte) (i : Nat) : MemOp :=
  let p := (o.locs.map Loc.plain).idxOf x.1
  let n := if p == 0 then 1 else 32
  let ls := x.1.unitBytes n
  { o with id := s.nextId + i, lanes := [], kind := .unit ((o.locs.headD (.phys 0)).plain) (ls.map (s.overlaid ov)), locs := ls,
           vas := (List.range n).map (x.2.1 / n * n + ·), kinds := (o.kinds.drop p).take 1, n := 32 }
/-- The updates of one group to one block, with the results they return and the units they leave to be written. -/
def State.pladdRun (s : State) : List MemOp → Overlay → List (MemOp × Nat) × List (MemOp × Loc × Nat × Byte) × Overlay
  | [], ov => ([], [], ov)
  | o :: r, ov =>
    let one := s.pladdOne ov o
    let rest := s.pladdRun r (ov ++ one.2)
    ((o, one.1) :: rest.1, one.2.map (fun x => (o, x)) ++ rest.2.1, rest.2.2)
/-- The updates have been made: their units stand in flight where the updates stood, and the results arrive. -/
def State.pladdDone (s : State) (first : Nat) (os : List MemOp) : State :=
  let r := s.pladdRun os []
  let units := r.2.1.mapIdx fun i x => s.unitOp r.2.2 x.1 x.2 i
  let s : State := { s with ops := s.ops.flatMap (fun x => if x.id == first then units ++ [x] else [x]), nextId := s.nextId + units.length }
  r.1.foldl (fun s x => ((s.arrive x.1 [(.v x.1.d, BitVec.ofNat 64 x.2)]).obtained x.1).dropOp x.1.id) s
/-- The updates of a group to one block that may be made now, in lane order: nothing else holds them back. -/
def State.pladdGroup (s : State) (o : MemOp) : List MemOp :=
  let g := s.ops.filter fun x => x.grp == o.grp && x.cid == o.cid && x.locs.take 1 == o.locs.take 1 && (match x.kind with | .pladd .. => true | _ => false)
  g.takeWhile fun x => match opSplit x.id s.ops with
    | (e, some x) => opFree x (e.filter fun y => !g.contains y)
    | (_, none) => false
/-- PLADD_RESULT_RETURN (R96, R243, R244): the updates of one group to one block are made in lane order without another between
them, once those before them have written their units; each changed unit is written once, by a step of its own. -/
def execPladdResultReturn (id : Nat) (err : Bool) (s : State) : Out :=
  .next (match s.readyOp id with
  | some o => match o.kind with
    | .pladd .. =>
      let block := (o.locs.headD (.phys 0)).plain
      if s.ops.any fun x => match x.kind with | .unit b _ => b == block | _ => false then s
      else if err then (if s.precise o then s.dataError o else s)
      else s.pladdDone id (s.pladdGroup o)
    | _ => s
  | none => s)

/-- CONTRIBUTION_ENTER (R168, R258): a store to a RED page reaches its quay die. -/
def execContributionEnter (id : Nat) (s : State) : Out :=
  .next (match s.readyOp id with
  | some o => match o.kind with
    | .contrib a bs => ((s.updPart (s.partOf o.cid) fun p => p.contribute a bs).outSub o.cid).dropOp id
    | _ => s
  | none => s)

end Sys2Proof.Machine
end

