-- ==== Sys2Proof/Machine/Bar.lean ====
section
/-!
DEFINITION. Barriers (R208 to R213), their time-out (R212) and its dump (R317).
-/
namespace Sys2Proof.Machine

/-- The threads an instance has, exited ones included (R209): from the sizes the launch declares. -/
def State.barSize (s : State) (c : Company) (level : Nat) : Nat :=
  if level = 1 then 32
  else if level = 2 then c.ntr * 32
  else match s.launch? c.launch with
    | some l => ((l.levels.take (level + 1)).drop 3).foldl (fun n e => n * e.size) (c.ntr * 32)
    | none => 0

/-- The extra word of BARRIER traps (R186). -/
def BarKey.extra (k : BarKey) : Word := BitVec.ofNat 32 (k.level * 16 + k.num)

/-- What a thread asks of a barrier. -/
inductive BarOp where
  | arrive | wait | sync
  deriving DecidableEq, Repr

/-- A thread arrives at a barrier; the phase is tested (R210). -/
def State.barGo (s : State) (t : Thread) (k : BarKey) (form : Option Nat) : State :=
  (s.barArrive k t.cid t.tid form).barTest k (s.threads.length + 1)
/-- A thread starts to wait at a barrier under the limit that `BARTO` holds (R212, R316). -/
def State.barWaitFor (s : State) (t : Thread) (c : Company) (k : BarKey) (n : BarNext) (form : Option Nat) : State :=
  s.waitAt t (.bar k n form (s.clkOf t.cid) c.barto.toNat)

/-- The action of R210 by the thread's state at the barrier. [DEDUCED, log 37] -/
def State.barAct (s : State) (op : BarOp) (t : Thread) (c : Company) (k : BarKey) (form : Option Nat) : State :=
  match op, ((s.thread? t.cid t.tid).getD t).barState k with
  | .arrive, some false => s.barWaitFor t c k .arrive form
  | .arrive, _ => (s.updThread t.cid t.tid fun u => u.setBar k (some false)).barGo t k form
  | .wait, none => s.raise t { cls := cBarrier, sub := 3, extra := k.extra }
  | .wait, some false => s.barWaitFor t c k .wait form
  | .wait, some true => s.updThread t.cid t.tid (s.barLeave k)
  | .sync, some false => s.barWaitFor t c k .sync form
  | .sync, _ => ((s.updThread t.cid t.tid fun u => u.setBar k none).barWaitFor t c k .synced form).barGo t k form

/-- A `bar` instruction in one thread: CFLOW INHANDLER, then BARRIER LEVEL and COUNT, then its action (R209, R210,
R304). -/
def State.bar1 (s : State) (op : BarOp) (word : Word) (counted : Bool) (l : BitVec 3) (a : Reg) (n : BitVec 4) (t : Thread) : State :=
  match s.company? t.cid with
  | none => s
  | some c =>
    if !t.frames.isEmpty then s.raise t { cls := cCflow, sub := 4, extra := word }
    else match s.barKey c t.tid l.toNat n.toNat with
      | none => s.raise t { cls := cBarrier, sub := 2, extra := BitVec.ofNat 32 (l.toNat * 16 + n.toNat) }
      | some k =>
        let count := (t.getV a).toNat
        if counted && (count == 0 || s.barSize c l.toNat < count) then
          s.raise t { cls := cBarrier, sub := 4, extra := t.getV a }
        else s.barAct op t c k (if counted then some count else none)

/-- `bar.arrive`: a release (R210, R211). -/
def execBarArrive (m : Bool) (c : Bool) (l : BitVec 3) (a : Reg) (n : BitVec 4) (s : State) : Out :=
  let word := s.word
  .next (s.runIssue (markForm m (if c then [.v a] else [])).release.barred fun s ps => ps.foldl (fun s t => s.bar1 .arrive word c l a n t) s)
/-- `bar.wait` (R210). -/
def execBarWait (m : Bool) (c : Bool) (l : BitVec 3) (a : Reg) (n : BitVec 4) (s : State) : Out :=
  let word := s.word
  .next (s.runIssue (markForm m (if c then [.v a] else [])).barred fun s ps => ps.foldl (fun s t => s.bar1 .wait word c l a n t) s)
/-- `bar.sync`: a release (R210, R211). -/
def execBarSync (m : Bool) (c : Bool) (l : BitVec 3) (a : Reg) (n : BitVec 4) (s : State) : Out :=
  let word := s.word
  .next (s.runIssue (markForm m (if c then [.v a] else [])).release.barred fun s ps => ps.foldl (fun s t => s.bar1 .sync word c l a n t) s)

/-! ### Time-out (R212) and its dump (R317) -/

/-- The STATE of a line of the dump (R317). -/
def State.dumpState (s : State) (t : Thread) : Nat :=
  let saved : Bool := match s.company? t.cid with
    | some c => !c.onCore
    | none => false
  if t.exited then 6 else if saved then 4 else if t.halt.isSome then 3 else if !t.frames.isEmpty then 2
  else match t.wait with
    | .none => 0
    | .marker | .quiet | .mig .. | .tender | .tile | .hold | .rxfull | .yield _ => 5
    | _ => 1
/-- Threads of the instance that have not arrived; exited ones only where a counted phase still expects them. -/
def State.barMissing (s : State) (b : Barrier) (form : Option Nat) : List Thread :=
  s.threads.filter fun t => s.barMember b.key t && !b.has t && (!t.exited || form.isSome)

/-- Of threads, the one with the lowest `tid`. -/
def lowestTid : List Thread → Option Thread
  | [] => none
  | t :: r => match lowestTid r with
    | some u => if u.tid < t.tid then some u else some t
    | none => some t
/-- Inserts a line by its key. -/
def insertLine (x : Nat × List Byte) : List (Nat × List Byte) → List (Nat × List Byte)
  | [] => [x]
  | y :: r => if x.1 ≤ y.1 then x :: y :: r else y :: insertLine x r

/-- The lines of a dump in ascending order: missing threads, or missing companies from level 3 on. STATE of a company's line is
that of its lowest missing thread, as COUNTER is. [DESIGN CHOICE, log 122] -/
def State.dumpLines (s : State) (b : Barrier) (form : Option Nat) : List (List Byte) :=
  let ms := s.barMissing b form
  let line (id : Nat) (t : Thread) : List Byte := bytesOf 4 id ++ bytesOf 4 (s.dumpState t) ++ bytesOf 8 t.pc.toNat
  let keyed : List (Nat × List Byte) :=
    if b.key.level ≤ 2 then ms.map fun t => (t.tid, line t.tid t)
    else s.companies.filterMap fun c => match lowestTid (ms.filter fun t => t.cid == c.cid) with
      | some t => some (c.index, line (2 ^ 31 + c.index) t)
      | none => none
  (keyed.foldl (fun r x => insertLine x r) []).map (·.2)

/-- The bytes of a dump (R317). -/
def State.dumpBytes (s : State) (c : Company) (b : Barrier) (form : Option Nat) (seq : Nat) : List Byte :=
  let ls := s.dumpLines b form
  bytesOf 4 seq ++ bytesOf 4 c.index ++ bytesOf 4 b.key.extra.toNat ++ bytesOf 4 (s.barExpected b.key form) ++
    bytesOf 4 b.arrived.length ++ bytesOf 4 (min ls.length 1024) ++ bytesOf 4 c.barto.toNat ++ bytesOf 4 ls.length ++
    List.replicate 32 0 ++ (ls.take 1024).flatten

/-- Where the dump of a core of the thread's company goes (R307, R317). -/
def State.dumpVa (s : State) (c : Company) : Nat := (s.part c.part).sbarea.toNat + c.core * 0x20000 + 0x10000
/-- A dump has to be written, and part of its place lies on a migrating page (R151). [DEDUCED, log 84] -/
def State.dumpStalls (s : State) (t : Thread) (c : Company) (k : BarKey) : Bool :=
  let b := s.barrier k
  match b.form with
  | none => false
  | some form =>
    let n := (s.dumpBytes c b form 0).length
    !b.dumped && match s.checkRange (s.whoIs t true) .store (s.dumpVa c) n (n + 1) with
      | .ok k => k.mig
      | .error _ => false
/-- The first time-out of a phase writes the dump into the area of the thread's core, with system privilege (R307,
R317); where a check fails nothing is written. -/
def State.barDump (s : State) (t : Thread) (c : Company) (k : BarKey) : State :=
  let b := s.barrier k
  match b.form with
  | none => s
  | some form =>
    if b.dumped then s else
    let seq := ((s.core c.core).dumpSeq.getD 0) + 1
    let bs := s.dumpBytes c b form seq
    let va : Nat := s.dumpVa c
    let s := (s.updCore c.core fun x => { x with dumpSeq := some seq }).setBarrier { b with dumped := true }
    match s.checkRange (s.whoIs t true) .store va bs.length (bs.length + 1) with
    | .ok k => (s.claim (s.whoIs t true) va bs.length [] (bs.length + 1)).perform k.locs bs
    | .error _ => s

/-- The count of a wait pauses while a thread of the instance is debug-halted (R212). -/
def State.barPaused (s : State) (k : BarKey) : Bool := s.threads.any fun t => s.barMember k t && t.halt.isSome

/-- The cycle counter of a core never runs backwards. [DESIGN CHOICE, log 90] -/
def State.advance (s : State) (core now : Nat) : State := s.updCore core fun c => { c with clk := max c.clk now }

/-- BARRIER_TIMEOUT (R212, R317): at cycle `now` of its core a waiting thread has reached its limit. Its arrival is
withdrawn, and the trap is taken before it issues again. It waits while the dump's page is migrating (R151). -/
def execBarrierTimeout (cid tid now : Nat) (s : State) : Out :=
  .next (match s.thread? cid tid, s.company? cid with
  | some t, some c => match t.wait with
    | .bar k _ _ start limit =>
      if limit != 0 && start + limit * 1024 ≤ now && !s.barPaused k && t.halt.isNone && c.onCore &&
          !s.dumpStalls t c k then
        let s := (s.advance c.core now).barDump t c k
        let s := s.barWithdraw k cid tid
        let tr : Async := { trap := { cls := cBarrier, sub := 1, extra := k.extra }, ticket := 0, cmd := none }
        let s := s.updThread cid tid fun u => { u.setBar k none with wait := .none, asyncs := u.asyncs ++ [tr] }
        s.barTest k (s.threads.length + 1)
      else s
    | _ => s
  | _, _ => s)

end Sys2Proof.Machine
end

