-- ==== Sys2Proof/Machine/Branch.lean ====
section
/-!
DEFINITION. Branches, calls, tables, returns and exit (R56, R70, R197 to R201).
-/
namespace Sys2Proof.Machine

/-- A thread continues at a target; its guard window closes (R195). -/
def State.jump (s : State) (t : Thread) (target : DWord) : State :=
  s.updThread t.cid t.tid fun u => { u with pc := target, guard := none }
/-- The target of a B-format instruction (R56). -/
def branchTarget (pc : DWord) (off : BitVec 19) : DWord := pc + BitVec.ofInt 64 (off.toInt * 2)

/-- `bra` (R197). -/
def execBra (m : Bool) (off : BitVec 19) (g : PredOp) (s : State) : Out :=
  .next (s.runIssue (markForm m) fun s ps =>
    (ps.filter fun t => t.pred g).foldl (fun s t => s.jump t (branchTarget t.pc off)) s)

/-- A write that no later reader misses (R198): nothing older of the register is seen any more. [DEDUCED, log 44] -/
def Thread.writeSeen (t : Thread) (r : RegId) (x : DWord) : Thread :=
  let u := (t.farOwn r).setReg r x
  { u with old := u.old.filter fun o => o.1 != r }
/-- `call` (R198). -/
def execCall (m : Bool) (off : BitVec 19) (g : PredOp) (s : State) : Out :=
  .next (s.runIssue (markForm m) fun s ps =>
    (ps.filter fun t => t.pred g).foldl (fun s t =>
      let s := s.writeRegs t.cid t.tid [(.v 62, ((t.pc + 4).setWidth 32).setWidth 64)]
      let s := s.updThread t.cid t.tid fun u => u.writeSeen (.v 62) (((t.pc + 4).setWidth 32).setWidth 64)
      s.jump t (branchTarget t.pc off)) s)

/-- The target `btab` reads, or its trap: the guard word, the index against the length, the list's entry (R199). -/
def State.tableTarget (s : State) (w : Who) (pc : DWord) (index : Word) : Except Trap DWord :=
  match s.fetchWord w (pc + 4) with
  | .error e => .error e
  | .ok g => match guardLen g with
    | none => .error { cls := cCflow, sub := 2, extra := g }
    | some n =>
      if n ≤ index.toNat then .error { cls := cCflow, sub := 1, extra := index }
      else match s.fetchWord w (pc + 8 + BitVec.ofNat 64 (4 * index.toNat)) with
        | .error e => .error e
        | .ok x =>
          let t := pc + x.signExtend 64
          if t.getLsbD 0 then .error { cls := cCflow, sub := 3, extra := t.setWidth 32 } else .ok t
/-- A word that `btab` reads lies on a migrating page (R151, R199). [DEDUCED, log 84] -/
def State.tableStall (s : State) (w : Who) (pc : DWord) (index : Word) : Option DWord :=
  match s.fetchStall w [pc + 4] with
  | some va => some va
  | none => match s.fetchWord w (pc + 4) with
    | .error _ => none
    | .ok g => match guardLen g with
      | none => none
      | some n => if n ≤ index.toNat then none else s.fetchStall w [pc + 8 + BitVec.ofNat 64 (4 * index.toNat)]
/-- `btab` (R199); on a migrating page it waits (R151). -/
def execBtab (m : Bool) (a : Reg) (s : State) : Out :=
  .next (s.runIssue (markForm m [.v a]) fun s ps =>
    ps.foldl (fun s t => match s.tableStall (s.whoIs t) t.pc (t.getV a) with
      | some va => s.waitAt t (.mig t.asid va)
      | none => match s.tableTarget (s.whoIs t) t.pc (t.getV a) with
        | .error e => s.raise t e
        | .ok x => s.jump t x) s)
/-- The target of `ret`: bits 63:32 of the counter, bits 31:0 of the register (R70). -/
def retTarget (pc : DWord) (x : Word) : DWord := pc.extractLsb' 32 32 ++ x
/-- `ret` (R200). -/
def execRet (m : Bool) (a : Reg) (s : State) : Out :=
  .next (s.runIssue (markForm m [.v a]) fun s ps =>
    ps.foldl (fun s t =>
      if (t.getV a).getLsbD 0 then s.raise t { cls := cCflow, sub := 3, extra := t.getV a }
      else s.jump t (retTarget t.pc (t.getV a))) s)
/-- `exit` (R201). -/
def execExit (m : Bool) (s : State) : Out :=
  .next (s.runIssue (markForm m).barred fun s ps => ps.foldl (fun s t => s.exitThread t.cid t.tid) s)

end Sys2Proof.Machine
end

