-- ==== Sys2Proof/Machine/Cross.lean ====
section
/-!
DEFINITION. Cross-lane instructions (R187 to R193) and predicates with the guard prefix (R194 to R196).
-/
namespace Sys2Proof.Machine

/-! ### Values of the lanes of a troupe (R30, R32) -/

/-- The value of a register in home lane `l` of the group's troupe: as the participating thread reads it, or the present
value of an inactive lane. The present value of a thread on another path may be one not yet overtaken (R32). [DEDUCED, log 23] -/
def State.laneValue (s : State) (ps : List Thread) (r : Reg) (l : Nat) : Word :=
  match ps.find? fun t => t.lane == l with
  | some t => t.getV r
  | none => match ps with
    | [] => 0
    | p :: _ => match s.thread? p.cid (p.trp * 32 + l) with
      | some t => if t.exited then t.getV r else (t.view s.draw).getV r
      | none => 0

/-- The sources of a predicate operand. -/
def predSrc (o : PredOp) : List RegId := [.p o.p.toNat]
/-- A cross-lane instruction: what each participating thread receives, from the values of the whole troupe. -/
def State.crossOp (s : State) (m : Bool) (src : List RegId) (e : State → List Thread → Thread → LaneOut) : Out :=
  .next (s.runIssue (markForm m src) fun s ps =>
    (ps.map fun t => (t, e s ps t)).foldl (fun s o => s.deliver o.1 o.1.fpcsr o.2) s)

/-- `bfx` (R188). -/
def execBfx (m : Bool) (stage : BitVec 3) (d a : Reg) (s : State) : Out :=
  s.crossOp m [.v d, .v a] fun s ps t =>
    let p := t.lane ^^^ 2 ^ stage.toNat
    if t.lane.testBit stage.toNat then vOut d (s.laneValue ps a p) else vOut a (s.laneValue ps d p)

/-- The source lane of `lget` for lane `l` with control word `c` (R189). -/
def lgetLane (mode : BitVec 2) (l : Nat) (c : Word) : Nat :=
  let n := c.toNat % 32
  let w := 2 ^ min (c.toNat / 256 % 8) 5
  match mode.toNat with
  | 0 => n
  | 1 => (l + n) % 32
  | 2 => l / w * w + n % w
  | _ => l ^^^ (w - 1)
/-- `lget` (R189). -/
def execLget (m : Bool) (mode : BitVec 2) (d a b : Reg) (s : State) : Out :=
  s.crossOp m [.v a, .v b] fun s ps t => vOut d (s.laneValue ps a (lgetLane mode t.lane (t.getV b)))

/-- `poll.cnt` (R190). -/
def execPollCnt (m : Bool) (d : Reg) (p : PredOp) (s : State) : Out :=
  s.crossOp m (predSrc p) fun _ ps _ => vOut d (BitVec.ofNat 32 (ps.countP fun u => u.pred p))
/-- `poll.rank` (R190). -/
def execPollRank (m : Bool) (d : Reg) (p : PredOp) (s : State) : Out :=
  s.crossOp m (predSrc p) fun _ ps t => vOut d (BitVec.ofNat 32 (ps.countP fun u => u.lane < t.lane && u.pred p))
/-- `poll.mask` (R190). -/
def execPollMask (m : Bool) (d : Reg) (p : PredOp) (s : State) : Out :=
  s.crossOp m (predSrc p) fun _ ps _ => vOut d (laneMask ((ps.filter fun u => u.pred p).map Thread.tid))
/-- `poll.same` (R190). -/
def execPollSame (m : Bool) (p : BitVec 3) (a : Reg) (s : State) : Out :=
  s.crossOp m [.v a] fun _ ps t => pOut p (ps.all fun u => u.getV a == t.getV a)

/-! ### Reductions and scans (R191, R192) -/

/-- The operator of `redx` and `scanx`: integer addition, FP32 addition, signed maximum and minimum. -/
def crossNode (op : BitVec 2) (x y : Word) : Word × Flags :=
  match op.toNat with
  | 0 => (x + y, 0)
  | 1 => if (fp32.value x.toNat).isNan || (fp32.value y.toNat).isNan then (BitVec.ofNat 32 fp32.nan, 0)
    else let r := fp32.add false .rne x.toNat y.toNat; (BitVec.ofNat 32 r.bits, r.fl)
  | 2 => (imaxW x y, 0)
  | _ => (iminW x y, 0)
/-- A value entering the tree: in the `.fadd` forms each NaN becomes the default NaN (R192). -/
def crossLeaf (op : BitVec 2) (x : Word) : Word × Flags :=
  if op.toNat == 1 && (fp32.value x.toNat).isNan then
    (BitVec.ofNat 32 fp32.nan, flagIf (fp32.value x.toNat).isSig fSNaN)
  else (x, 0)
/-- The operator on values of which one may be absent (R191). -/
def crossJoin (op : BitVec 2) (x y : Option Word) : Option Word × Flags :=
  match x, y with
  | some a, some b => let r := crossNode op a b; (some r.1, r.2)
  | some a, none => (some a, 0)
  | none, y => (y, 0)

/-- The values of P by home lane, with the flags of entering them. -/
def crossLeaves (op : BitVec 2) (a : Reg) (ps : List Thread) : List (Option Word) × Flags :=
  (List.range 32).foldl (fun r l => match ps.find? fun t => t.lane == l with
    | some t => let x := crossLeaf op (t.getV a); (r.1 ++ [some x.1], r.2 ||| x.2)
    | none => (r.1 ++ [none], r.2)) ([], 0)
/-- One level of the fixed tree. -/
def crossPairs (op : BitVec 2) : List (Option Word) → List (Option Word) × Flags
  | x :: y :: r =>
    let n := crossJoin op x y
    let rest := crossPairs op r
    (n.1 :: rest.1, n.2 ||| rest.2)
  | r => (r, 0)
/-- The levels of the tree of `redx`. -/
def crossTree (op : BitVec 2) : Nat → List (Option Word) × Flags → List (Option Word) × Flags
  | 0, x => x
  | n + 1, x => let y := crossPairs op x.1; crossTree op n (y.1, x.2 ||| y.2)
/-- One step of `scanx` at distance `dist`. -/
def crossStep (op : BitVec 2) (x : List (Option Word) × Flags) (dist : Nat) : List (Option Word) × Flags :=
  (List.range 32).foldl (fun r l =>
    if l < dist then (r.1 ++ [x.1.getD l none], r.2)
    else let n := crossJoin op (x.1.getD (l - dist) none) (x.1.getD l none); (r.1 ++ [n.1], r.2 ||| n.2)) ([], x.2)

/-- The result of `redx` and its flags (R191). -/
def redxOf (op : BitVec 2) (a : Reg) (ps : List Thread) : Word × Flags :=
  let r := crossTree op 5 (crossLeaves op a ps)
  ((r.1.headD none).getD 0, r.2)
/-- The results of `scanx` by home lane, and the flags (R191). -/
def scanxOf (op : BitVec 2) (a : Reg) (ps : List Thread) : List (Option Word) × Flags :=
  [1, 2, 4, 8, 16].foldl (crossStep op) (crossLeaves op a ps)

/-- `redx` (R191, R192). -/
def execRedx (m : Bool) (op : BitVec 2) (d a : Reg) (s : State) : Out :=
  s.crossOp m [.v a] fun _ ps _ => let r := redxOf op a ps; { vOut d r.1 with fl := r.2 }
/-- `scanx` (R191, R192). -/
def execScanx (m : Bool) (op : BitVec 2) (d a : Reg) (s : State) : Out :=
  s.crossOp m [.v a] fun _ ps t => let r := scanxOf op a ps; { vOut d ((r.1.getD t.lane none).getD 0) with fl := r.2 }

/-! ### Predicates (R194, R195) -/

/-- `plop` (R194). -/
def execPlop (h : Hd) (op : BitVec 2) (d : BitVec 3) (a b : PredOp) (s : State) : Out :=
  .next (s.laneOp (hdForm h (predSrc a ++ predSrc b)) fun t =>
    let x := t.pred a
    let y := t.pred b
    pOut d (match op.toNat with
      | 0 => x && y
      | 1 => x || y
      | 2 => x ^^ y
      | _ => x && !y))
/-- The predicates `p0` to `p7` as bits 7:0 (R194). -/
def Thread.preds (t : Thread) : Word := (t.p &&& 0x7F ||| 0x80).setWidth 32
/-- `pmov vd, pp` (R194). -/
def execPmovToReg (h : Hd) (d : Reg) (s : State) : Out :=
  .next (s.laneOp (hdForm h ((List.range 7).map .p)) fun t => vOut d t.preds)
/-- `pmov pp, va` (R194). -/
def execPmovToPred (h : Hd) (a : Reg) (s : State) : Out :=
  .next (s.laneOp (hdForm h [.v a]) fun t =>
    { writes := (List.range 7).map fun n => (.p n, if (t.getV a).getLsbD n then 1 else 0) })
/-- `grd`: a window over the next n instructions of each participating thread (R195). -/
def execGrd (h : Hd) (p : PredOp) (n1 : BitVec 3) (s : State) : Out :=
  .next (s.runIssue (hdForm h (predSrc p)) fun s ps =>
    s.each h.uni ps fun s l rs =>
      rs.foldl (fun s t => s.updThread t.cid t.tid fun u => { u with guard := some ⟨l.pred p, n1.toNat + 1⟩ }) s)

end Sys2Proof.Machine
end

