-- ==== Sys2Proof/Decode.lean ====
section
/-!
DEFINITION. The decoder of R53 to R67 and, after it, the encoder written from the same rulers. The decoder is total: a
word that is no instruction is rejected with the subcause R63 gives it, tested in R63's order (OPCODE, MINOR, RESERVED,
OPERAND). A guard word decodes to `poolGuard`, whose execution raises ILLEGAL with subcause POOL (R62).
-/
namespace Sys2Proof

/-- The `n` bits of a word from bit `lo` upward. -/
def fieldOf (w : Word) (lo n : Nat) : BitVec n := w.extractLsb' lo n
/-- A field placed with its lowest bit at bit `lo` of a word. -/
def put {n : Nat} (f : BitVec n) (lo : Nat) : Word := f.setWidth 32 <<< lo
/-- One bit of a word. -/
def bitOf (w : Word) (lo : Nat) : Bool := fieldOf w lo 1 == 1#1

/-- Subcauses of ILLEGAL (R63). -/
abbrev subOpcode : BitVec 8 := 1
@[inherit_doc subOpcode] abbrev subMinor : BitVec 8 := 2
@[inherit_doc subOpcode] abbrev subReserved : BitVec 8 := 3
@[inherit_doc subOpcode] abbrev subOperand : BitVec 8 := 4
@[inherit_doc subOpcode] abbrev subPool : BitVec 8 := 5
@[inherit_doc subOpcode] abbrev subParams : BitVec 8 := 6

/-- What a word decodes to: an instruction or the subcause of ILLEGAL (R63). -/
abbrev Decoded := Except (BitVec 8) Instr

/-- The reserved fields are checked first, then the operand limits (R63). -/
def need (reserved operand : Bool) (i : Instr) : Decoded :=
  if reserved then (if operand then .ok i else .error subOperand) else .error subReserved

/-- The S and U bits (R54). -/
def hdOf (w : Word) : Hd := ⟨bitOf w 1, bitOf w 2⟩
/-- The fields of format R (R54). -/
def fb (w : Word) : Reg := fieldOf w 21 6
@[inherit_doc fb] def fa (w : Word) : Reg := fieldOf w 15 6
@[inherit_doc fb] def fd (w : Word) : Reg := fieldOf w 9 6
/-- U is reserved and zero (R34, R185). -/
def uz (w : Word) : Bool := !bitOf w 2
/-- A predicate operand at bits lo+2:lo with its negate bit above it (R187, R194). -/
def predAt (w : Word) (lo : Nat) : PredOp := ⟨bitOf w (lo + 3), fieldOf w lo 3⟩

/-- IALU (R106). -/
def decIalu (w : Word) : Decoded :=
  let h := hdOf w; let d := fd w; let a := fa w; let b := fb w
  match (fieldOf w 27 5).toNat with
  | 0 => .ok (.iadd h d a b) | 1 => .ok (.isub h d a b) | 2 => .ok (.iaddc h d a b) | 3 => .ok (.isubb h d a b)
  | 4 => need (b == 0) true (.ineg h d a) | 5 => need (b == 0) true (.iabs h d a)
  | 6 => .ok (.imin h d a b) | 7 => .ok (.imax h d a b) | 8 => .ok (.umin h d a b) | 9 => .ok (.umax h d a b)
  | 10 => .ok (.and h d a b) | 11 => .ok (.or h d a b) | 12 => .ok (.xor h d a b) | 13 => .ok (.andn h d a b)
  | 14 => .ok (.orn h d a b) | 15 => need (b == 0) true (.not h d a)
  | 16 => .ok (.shl h d a b) | 17 => .ok (.shr h d a b) | 18 => .ok (.sar h d a b) | 19 => .ok (.rol h d a b)
  | 20 => .ok (.ror h d a b)
  | 21 => .ok (.lea h 0 d a b) | 22 => .ok (.lea h 1 d a b) | 23 => .ok (.lea h 2 d a b) | 24 => .ok (.lea h 3 d a b)
  | 25 => need (b == 0) true (.mov h d a)
  | _ => .error subMinor

/-- IALUI (R109). -/
def decIalui (w : Word) : Decoded :=
  let h := hdOf w; let d := fd w; let a := fa w; let i := fieldOf w 24 8
  match (fieldOf w 21 3).toNat with
  | 0 => .ok (.iaddImm h d a i) | 1 => .ok (.andImm h d a i) | 2 => .ok (.orImm h d a i) | 3 => .ok (.xorImm h d a i)
  | 4 => need true (i.toNat < 32) (.shlImm h d a i) | 5 => need true (i.toNat < 32) (.shrImm h d a i)
  | 6 => need true (i.toNat < 32) (.sarImm h d a i) | _ => need true (i.toNat < 32) (.rolImm h d a i)

/-- IMUL (R110). -/
def decImul (w : Word) : Decoded :=
  let h := hdOf w; let d := fd w; let a := fa w; let b := fb w
  match (fieldOf w 27 5).toNat with
  | 0 => .ok (.imul h d a b) | 1 => .ok (.imulh h d a b) | 2 => .ok (.umulh h d a b) | 3 => .ok (.imad h d a b)
  | _ => .error subMinor

/-- BITS (R111 to R113). -/
def decBits (w : Word) : Decoded :=
  let h := hdOf w; let d := fd w; let a := fa w; let b := fb w
  match (fieldOf w 27 5).toNat with
  | 0 => need (b == 0) true (.popc h d a) | 1 => need (b == 0) true (.clz h d a)
  | 2 => need (b == 0) true (.ctz h d a) | 3 => need (b == 0) true (.brev h d a)
  | 4 => .ok (.bfe h d a b) | 5 => .ok (.ubfe h d a b) | 6 => .ok (.bfi h d a b) | 7 => .ok (.bmix h d a b)
  | _ => .error subMinor

/-- ICMP and `isel` (R115, R116). -/
def decIcmp (w : Word) : Decoded :=
  if bitOf w 31 then
    if bitOf w 30 then .error subMinor else .ok (.isel (hdOf w) (fieldOf w 27 3) (fd w) (fa w) (fb w))
  else if (fieldOf w 27 5).toNat ≤ 9 then
    need (fieldOf w 12 3 == 0) true (.icmp (hdOf w) (fieldOf w 27 5) (fieldOf w 9 3) (fa w) (fb w))
  else .error subMinor

/-- MOVL (R60). -/
def decMovl (w : Word) : Decoded :=
  if bitOf w 14 then need (uz w) true (.lui (bitOf w 1) (fieldOf w 9 5) (fieldOf w 15 17))
  else need (uz w) true (.movi (bitOf w 1) (fieldOf w 9 5) (fieldOf w 15 17))

/-- FALU (R57, R117). -/
def decFalu (w : Word) : Decoded :=
  let h := hdOf w; let d := fd w; let a := fa w; let b := fb w; let r := fieldOf w 29 3
  match r.toNat, (fieldOf w 27 2).toNat with
  | 5, 0 => .ok (.fmin h d a b) | 5, 1 => .ok (.fmax h d a b)
  | 5, 2 => need (b == 0) true (.fabs h d a) | 5, _ => need (b == 0) true (.fneg h d a)
  | 6, _ => need (fieldOf w 12 3 == 0) true (.fcmp h (fieldOf w 27 2) (fieldOf w 9 3) a b)
  | 7, 0 => need (b == 0) true (.fclass h d a) | 7, _ => .error subMinor
  | _, 0 => .ok (.fadd h r d a b) | _, 1 => .ok (.fsub h r d a b) | _, 2 => .ok (.fmul h r d a b)
  | _, _ => .ok (.fdiv h r d a b)

/-- FFMA (R57, R117, R120). -/
def decFfma (w : Word) : Decoded :=
  let h := hdOf w; let d := fd w; let a := fa w; let b := fb w; let r := fieldOf w 29 3
  match r.toNat, (fieldOf w 27 2).toNat with
  | 5, 0 => .ok (.fscale h d a b) | 5, _ => .error subMinor | 6, _ => .error subMinor | 7, _ => .error subMinor
  | _, 0 => .ok (.ffma h r d a b) | _, 1 => need (b == 0) true (.fsqrt h r d a)
  | _, 2 => need true (d.even && a.even && b.even) (.dfma h r d a b)
  | _, _ => need (b == 0) (d.even && a.even) (.dsqrt h r d a)

/-- FSFU (R125). -/
def decFsfu (w : Word) : Decoded :=
  let h := hdOf w; let d := fd w; let a := fa w; let z := fb w == 0
  match (fieldOf w 27 5).toNat with
  | 0 => need z true (.frcp h d a) | 1 => need z true (.frsq h d a) | 2 => need z true (.fex2 h d a)
  | 3 => need z true (.flg2 h d a) | 4 => need z true (.fsin h d a) | 5 => need z true (.fcos h d a)
  | 6 => need z true (.ftanh h d a) | _ => .error subMinor

/-- DALU (R57, R117). -/
def decDalu (w : Word) : Decoded :=
  let h := hdOf w; let d := fd w; let a := fa w; let b := fb w; let r := fieldOf w 29 3
  let e3 := d.even && a.even && b.even
  match r.toNat, (fieldOf w 27 2).toNat with
  | 5, 0 => need true e3 (.dmin h d a b) | 5, 1 => need true e3 (.dmax h d a b)
  | 5, 2 => need (b == 0) (d.even && a.even) (.dabs h d a) | 5, _ => need (b == 0) (d.even && a.even) (.dneg h d a)
  | 6, _ => need (fieldOf w 12 3 == 0) (a.even && b.even) (.dcmp h (fieldOf w 27 2) (fieldOf w 9 3) a b)
  | 7, _ => .error subMinor
  | _, 0 => need true e3 (.dadd h r d a b) | _, 1 => need true e3 (.dsub h r d a b)
  | _, 2 => need true e3 (.dmul h r d a b) | _, _ => need true e3 (.ddiv h r d a b)

/-- HALU (R126). -/
def decHalu (w : Word) : Decoded :=
  let h := hdOf w; let d := fd w; let a := fa w; let b := fb w; let t := bitOf w 27
  match (fieldOf w 28 4).toNat with
  | 0 => .ok (.hadd2 h t d a b) | 1 => .ok (.hsub2 h t d a b) | 2 => .ok (.hmul2 h t d a b)
  | 3 => .ok (.hfma2 h t d a b) | 4 => .ok (.hmin2 h t d a b) | 5 => .ok (.hmax2 h t d a b)
  | 6 => .ok (.hcmp2Eq h t d a b) | 7 => .ok (.hcmp2Lt h t d a b) | 8 => .ok (.hcmp2Le h t d a b)
  | 9 => .ok (.hcmp2Un h t d a b) | _ => .error subMinor

/-- CVT (R58, R128 to R130). -/
def decCvt (w : Word) : Decoded :=
  let d := fd w; let a := fa w; let r := fieldOf w 29 3; let t := fieldOf w 25 4; let v := fieldOf w 21 4
  if rndLegal r && cvtLegal t v then need true ((!cvtWide t || d.even) && (!cvtWide v || a.even)) (.cvt (hdOf w) r t v d a)
  else .error subMinor

/-- QNT (R131). -/
def decQnt (w : Word) : Decoded :=
  let h := hdOf w; let d := fd w; let a := fa w; let b := fb w; let f := fieldOf w 27 2
  match (fieldOf w 29 3).toNat with
  | 0 => if f == 0 then .ok (.scx h d a b) else .error subMinor
  | 1 => if f.toNat ≤ 2 then need true a.quad (.q8 h f d a b) else .error subMinor
  | 2 => if f.toNat ≤ 1 then need true a.octet (.q4 h f d a b) else .error subMinor
  | 3 => if f.toNat ≤ 2 then need true d.quad (.dq8 h f d a b) else .error subMinor
  | 4 => if f.toNat ≤ 1 then need true d.octet (.dq4 h f d a b) else .error subMinor
  | 5 => if f.toNat ≤ 2 then need true d.even (.q8Cs h f d a b) else .error subMinor
  | 6 => if f.toNat ≤ 1 then need true (d.even && b.even) (.q4Cs h f d a b) else .error subMinor
  | _ => .error subMinor

/-- DOT (R136). -/
def decDot (w : Word) : Decoded :=
  let h := hdOf w; let d := fd w; let a := fa w; let b := fb w; let f := fieldOf w 27 2
  match (fieldOf w 29 3).toNat with
  | 0 => need (f == 0) true (.dp4 h d a b) | 1 => need (f == 0) true (.dp8 h d a b)
  | 2 => need true (a.even && b.even) (.fdp4E4m3 h f d a b) | 3 => need true (a.even && b.even) (.fdp4E5m2 h f d a b)
  | 4 => need true (a.even && b.even) (.fdp8 h f d a b)
  | 5 => need (f == 0) true (.hdp2F16 h d a b) | 6 => need (f == 0) true (.hdp2Bf16 h d a b)
  | _ => .error subMinor

/-- RAND (R139). -/
def decRand (w : Word) : Decoded :=
  let h := hdOf w; let d := fd w; let a := fa w; let b := fb w
  match (fieldOf w 27 5).toNat with
  | 0 => need true (d.even && a.even && b.even) (.gen h d a b)
  | 1 => need (b == 0) true (.gumbel h d a) | 2 => need (b == 0) true (.rndf h d a) | _ => .error subMinor

/-- XLANE (R187). -/
def decXlane (w : Word) : Decoded :=
  let m := bitOf w 1; let d := fd w; let a := fa w; let f := fieldOf w 27 2
  let pz := uz w && (fb w == 0 && fieldOf w 19 2 == 0)
  match (fieldOf w 29 3).toNat, f.toNat with
  | 0, 0 => need (uz w && fieldOf w 24 3 == 0) ((fieldOf w 21 3).toNat ≤ 4) (.bfx m (fieldOf w 21 3) d a)
  | 0, _ => .error subMinor
  | 1, _ => need (uz w) true (.lget m f d a (fb w))
  | 2, 0 => need pz true (.pollCnt m d (predAt w 15)) | 2, 1 => need pz true (.pollRank m d (predAt w 15))
  | 2, 2 => need pz true (.pollMask m d (predAt w 15))
  | 2, _ => need (uz w && (fb w == 0 && fieldOf w 12 3 == 0)) true (.pollSame m (fieldOf w 9 3) a)
  | 3, _ => need (uz w && fb w == 0) true (.redx m f d a)
  | 4, _ => need (uz w && fb w == 0) true (.scanx m f d a)
  | _, _ => .error subMinor

/-- PRED (R194, R195). -/
def decPred (w : Word) : Decoded :=
  let h := hdOf w
  let pz := fieldOf w 12 3 == 0 && (fieldOf w 19 2 == 0 && fieldOf w 25 2 == 0)
  let plop (op : BitVec 2) := need pz true (.plop h op (fieldOf w 9 3) (predAt w 15) (predAt w 21))
  match (fieldOf w 27 5).toNat with
  | 0 => plop 0 | 1 => plop 1 | 2 => plop 2 | 3 => plop 3
  | 4 => need (fa w == 0 && fb w == 0) true (.pmovToReg h (fd w))
  | 5 => need (fd w == 0 && fb w == 0) true (.pmovToPred h (fa w))
  | 8 => need (fieldOf w 12 3 == 0 && (fieldOf w 19 2 == 0 && fb w == 0)) true (.grd h (predAt w 15) (fieldOf w 9 3))
  | _ => .error subMinor

/-- SPEC (R143 to R145). -/
def decSpec (w : Word) : Decoded :=
  let h := hdOf w; let r := fieldOf w 21 9
  match (fieldOf w 30 2).toNat with
  | 0 => if getsLegal r then need (fa w == 0) (r.toNat != 0x10 || (fd w).even) (.gets h r (fd w)) else .error subMinor
  | 1 => if setsLegal r then need (fd w == 0) true (.sets h r (fa w)) else .error subMinor
  | 2 => need (uz w && (r == 0 && (fa w == 0 && fd w == 0))) true (.nop (bitOf w 1))
  | _ => .error subMinor

/-- LD (R61, R175). -/
def decLd (w : Word) : Decoded :=
  let z := fieldOf w 23 3
  if z.toNat ≤ 6 then
    need true (dataGroup z (fd w)) (.ld (hdOf w) (fieldOf w 26 6) z (fieldOf w 21 2) (fa w) (fd w))
  else .ok (.ldt (hdOf w) (fieldOf w 26 6 ++ fieldOf w 15 8) (fd w))

/-- ST (R175). -/
def decSt (w : Word) : Decoded :=
  let z := fieldOf w 23 3
  if z.toNat ≤ 4 then
    need true (dataGroup z (fd w)) (.st (hdOf w) (fieldOf w 26 6) z (fieldOf w 21 2) (fa w) (fd w))
  else .error subMinor

/-- PLANE (R176). -/
def decPlane (w : Word) : Decoded :=
  let m := fieldOf w 21 2
  if bitOf w 25 then
    if m.toNat != 2 then need true (fa w).quad (.stp (hdOf w) (fieldOf w 26 6) (fieldOf w 23 2) m (fa w) (fd w))
    else .error subMinor
  else need true (fa w).quad (.ldp (hdOf w) (fieldOf w 26 6) (fieldOf w 23 2) m (fa w) (fd w))

/-- ORD (R179, R180). -/
def decOrd (w : Word) : Decoded :=
  let h := hdOf w; let c := fieldOf w 26 3; let o := fieldOf w 29 3; let z := fieldOf w 23 2; let b := fa w
  let cz := fd w == 0 && (bitOf w 25 == false && z == 0)
  match (fieldOf w 21 2).toNat with
  | 0 => if !bitOf w 25 && c.toNat != 7 then need (o == 0) (z.toNat != 3 || (fd w).even) (.ldacq h c z b (fd w))
         else .error subMinor
  | 1 => if !bitOf w 25 && c.toNat != 7 then need (o == 0) (z.toNat != 3 || (fd w).even) (.strel h c z b (fd w))
         else .error subMinor
  | 2 => match o.toNat with
    | 0 => need (cz && c == 0) true (.cctlWb h b) | 1 => need (cz && c == 0) true (.cctlWbinv h b)
    | 2 => need (cz && c == 0) true (.cctlPf1 h b) | 3 => need (cz && c == 0) true (.cctlPf2 h b)
    | 4 => need (cz && c == 0) true (.cctlZero h b)
    | 5 => if 2 ≤ c.toNat && c.toNat ≤ 6 then need cz true (.cctlIinv h c b) else .error subMinor
    | _ => .error subMinor
  | _ => .error subMinor

/-- FENCE (R181 to R184). -/
def decFence (w : Word) : Decoded :=
  let m := bitOf w 1; let c := fieldOf w 26 3; let q := bitOf w 25; let r := bitOf w 24
  let lz := uz w && (fieldOf w 21 2 == 0 && fd w == 0)
  match (fieldOf w 29 3).toNat with
  | 0 => if (q || r) && c.toNat != 7 then need (lz && fa w == 0) true (.fence m c q r (bitOf w 23)) else .error subMinor
  | 1 => if c.toNat != 7 then need (lz && (fieldOf w 23 3 == 0 && fa w == 0)) true (.aliasf m c) else .error subMinor
  | 2 => need (lz && fieldOf w 23 6 == 0) true (.evs m (fa w))
  | _ => .error subMinor

/-- ATOM (R222). -/
def decAtom (w : Word) : Decoded :=
  let h := hdOf w; let o := fieldOf w 26 6; let z := fieldOf w 23 3; let t := fd w
  match (fieldOf w 21 2).toNat with
  | 0 => if atomLegal false o z then need true (atomGroup o z t) (.atom h o z (fa w) t) else .error subMinor
  | 1 => if atomLegal true o z then need true (atomGroup o z t) (.red h o z (fa w) t) else .error subMinor
  | _ => .error subMinor

/-- SYNC (R230). -/
def decSync (w : Word) : Decoded :=
  let h := hdOf w; let d := fd w; let a := fa w; let b := fb w
  match (fieldOf w 27 5).toNat with
  | 0 => .ok (.sadd h d a b) | 1 => need true b.even (.sbadd h d a b) | 2 => .ok (.sincw h d a b)
  | 3 => need true b.even (.scas h d a b) | 4 => .ok (.sexch h d a b) | 5 => .ok (.smin h d a b)
  | 6 => .ok (.smax h d a b) | 7 => need true (d.quad && a.quad) (.waita h d a b)
  | 8 => need (d == 0 && b == 0) true (.mon h a) | 9 => need (a == 0) true (.mwait h d b)
  | 10 => need (d == 0) b.even (.mbput h a b) | 11 => need (b == 0) d.even (.mbget h d a)
  | _ => .error subMinor

/-- PLUPD (R242). -/
def decPlupd (w : Word) : Decoded :=
  if fieldOf w 29 3 == 0 then need true (fa w).quad (.pladd (hdOf w) (fieldOf w 27 2) (fd w) (fa w) (fb w))
  else .error subMinor

/-- MMA (R267, R268). -/
def decMma (w : Word) : Decoded :=
  let t := fieldOf w 25 4; let b : Reg := fieldOf w 19 6; let a : Reg := fieldOf w 13 6; let rz := uz w && !bitOf w 31
  if t.toNat ≤ 7 then
    if bitOf w 29 then need rz (mmaRange true t b a) (.mmae (bitOf w 1) (bitOf w 30) t b a (fieldOf w 9 4))
    else need rz (mmaRange false t b a) (.mma (bitOf w 1) (bitOf w 30) t b a (fieldOf w 9 4))
  else .error subMinor

/-- MCTL (R274). -/
def decMctl (w : Word) : Decoded :=
  let m := bitOf w 1; let n := fieldOf w 9 4; let nz := uz w && fieldOf w 13 2 == 0
  match (fieldOf w 27 5).toNat with
  | 0 => need nz true (.mloop m (fieldOf w 15 12) n)
  | 1 => need (nz && (fa w == 0 && fb w == 0)) true (.mzero m n)
  | 2 => need nz true (.mload m (fb w) (fa w) n)
  | 3 => need nz (fb w).quad (.mdrain m (fb w) (fa w) n)
  | 4 => need (uz w && (fieldOf w 19 2 == 0 && fb w == 0)) true (.mstat m (fieldOf w 15 4) (fd w))
  | _ => .error subMinor

/-- DEMU (R286). -/
def decDemu (w : Word) : Decoded :=
  let m := bitOf w 1; let d := fd w; let a := fa w; let b := fb w; let n := fieldOf w 9 4
  match (fieldOf w 27 5).toNat with
  | 0 => need (uz w && b == 0) a.even (.dexp m d a)
  | 1 => need (uz w) (d.octet && a.octet) (.dsplit m d a b)
  | 2 => need (uz w && (fieldOf w 13 2 == 0 && fieldOf w 19 2 == 0)) (n.toNat % 2 == 0 && b.quad)
           (.dmerge m b (fieldOf w 15 4) n)
  | _ => .error subMinor

/-- TEND (R245). -/
def decTend (w : Word) : Decoded :=
  let h := hdOf w; let d := fd w; let a := fa w; let b := fb w
  match (fieldOf w 27 5).toNat with
  | 0 => .ok (.tcopy h d a b) | 1 => .ok (.tcopy2 h d a b) | 2 => .ok (.tgath h d a b) | 3 => .ok (.tscat h d a b)
  | 4 => .ok (.tfill h d a b) | 5 => .ok (.tnote h d a b) | 6 => need (b == 0) true (.twait h d a)
  | _ => .error subMinor

/-- FAB (R256). -/
def decFab (w : Word) : Decoded :=
  match (fieldOf w 27 5).toNat with
  | 0 => .ok (.tcoll (hdOf w) (fd w) (fa w) (fb w)) | 1 => .ok (.rflush (hdOf w) (fd w) (fa w) (fb w))
  | _ => .error subMinor

/-- JCTL (R199 to R201). -/
def decJctl (w : Word) : Decoded :=
  let m := bitOf w 1; let z := uz w && (fd w == 0 && fb w == 0)
  match (fieldOf w 27 5).toNat with
  | 0 => need z true (.btab m (fa w)) | 1 => need z true (.ret m (fa w))
  | 2 => need (z && fa w == 0) true (.exit m) | _ => .error subMinor

/-- MASK (R202). -/
def decMask (w : Word) : Decoded :=
  let m := bitOf w 1; let k := fd w; let a := fa w; let o := k.toNat ≤ 11
  match (fieldOf w 27 5).toNat with
  | 0 => need (uz w && fb w == 0) o (.join m k a)
  | 1 => need (uz w && (a == 0 && fb w == 0)) o (.leave m k)
  | 2 => need (uz w && (a == 0 && fb w == 0)) o (.waitk m k)
  | 3 => need (uz w) o (.ksave m (fieldOf w 21 6) k a)
  | 4 => need (uz w) o (.kload m (fieldOf w 21 6) k a)
  | _ => .error subMinor

/-- BAR (R208). -/
def decBar (w : Word) : Decoded :=
  let m := bitOf w 1; let c := bitOf w 24; let l := fieldOf w 21 3; let a := fa w; let n := fieldOf w 9 4
  let z := uz w && (fieldOf w 13 2 == 0 && (fieldOf w 25 2 == 0 && (c || a == 0)))
  match (fieldOf w 27 5).toNat with
  | 0 => need z (barRange l n) (.barArrive m c l a n) | 1 => need z (barRange l n) (.barWait m c l a n)
  | 2 => need z (barRange l n) (.barSync m c l a n) | _ => .error subMinor

/-- SYS (R214). -/
def decSys (w : Word) : Decoded :=
  let h := hdOf w; let m := bitOf w 1; let r := fieldOf w 21 8; let d := fd w; let a := fa w
  let z := uz w && (r == 0 && (d == 0 && a == 0))
  match (fieldOf w 29 3).toNat with
  | 0 => if sysLegal r then need (a == 0) (!sysWide r || d.even) (.sysr h r d) else .error subMinor
  | 1 => if sysLegal r then need (d == 0) (!sysWide r || a.even) (.sysw h r a) else .error subMinor
  | 2 => need (uz w && (d == 0 && a == 0)) true (.trap m r) | 3 => need (uz w && (d == 0 && a == 0)) true (.brk m r)
  | 4 => need z true (.rte m) | 5 => need z true (.yield m)
  | 6 => need (r == 0 && d == 0) true (.prog h a)
  | _ => match r.toNat with
    | 0 => need true a.even (.launch h d a) | 1 => need (uz w) a.even (.tlbinv m d a) | _ => .error subMinor

/-- RX (R329). -/
def decRx (w : Word) : Decoded :=
  let m := bitOf w 1; let d := fd w
  match (fieldOf w 27 5).toNat with
  | 0 => need (uz w) true (.rxbegin m (fieldOf w 15 12) d)
  | 1 => need (uz w && fieldOf w 15 12 == 0) true (.rxprev m d)
  | 2 => need (uz w && d == 0) true (.rxput m (fa w) (fb w))
  | 3 => need (uz w && (fieldOf w 15 12 == 0 && d == 0)) true (.rxend m)
  | 4 => need (uz w && fieldOf w 15 12 == 0) d.quad (.rxstat m d)
  | _ => .error subMinor

/-- LAD (R349). -/
def decLad (w : Word) : Decoded :=
  let h := hdOf w; let m := bitOf w 1; let d := fd w; let a := fa w
  match (fieldOf w 27 5).toNat with
  | 0 => .ok (.lpost h (fieldOf w 15 12) d)
  | 1 => need (uz w && (d == 0 && fb w == 0)) true (.esc m a)
  | 2 => need (uz w && (d == 0 && fb w == 0)) a.even (.lres m a)
  | 3 => need (fb w == 0) (d.quad && a.even) (.lstat h d a)
  | _ => .error subMinor

/-- GEN (R360). -/
def decGen (w : Word) : Decoded :=
  let h := hdOf w; let d := fd w; let a := fa w; let b := fb w
  match (fieldOf w 27 5).toNat with
  | 0 => need (b == 0) a.even (.gmload h d a) | 1 => need (b == 0) true (.gmstep h d a)
  | 2 => .ok (.gmmask h d a b) | 3 => need (b == 0) true (.gmforce h d a)
  | 4 => need (b == 0) a.quad (.snap h d a) | 5 => need (b == 0) a.quad (.snapsel h d a)
  | 6 => need (b == 0) a.quad (.snapfree h d a) | 7 => need true b.even (.acall h d a b)
  | _ => .error subMinor

/-- A 32-bit instruction word (R54, R59, R63). -/
def decode32 (w : Word) : Decoded :=
  match (fieldOf w 3 6).toNat with
  | 0x01 => decIalu w | 0x02 => decIalui w | 0x03 => decImul w | 0x04 => decBits w | 0x05 => decIcmp w
  | 0x06 => decMovl w | 0x07 => decFalu w | 0x08 => decFfma w | 0x09 => decFsfu w | 0x0A => decDalu w
  | 0x0B => decHalu w | 0x0C => decCvt w | 0x0D => decQnt w | 0x0E => decDot w | 0x0F => decRand w
  | 0x10 => decXlane w | 0x11 => decPred w | 0x12 => decSpec w
  | 0x18 => decLd w | 0x19 => decSt w | 0x1A => decPlane w | 0x1B => decOrd w | 0x1C => decFence w | 0x1D => decAtom w
  | 0x1E => decSync w | 0x1F => decPlupd w | 0x20 => decMma w | 0x21 => decMctl w | 0x22 => decDemu w
  | 0x23 => decTend w | 0x24 => decFab w
  | 0x28 => need (uz w) true (.bra (bitOf w 1) (fieldOf w 13 19) (predAt w 9))
  | 0x29 => need (uz w) true (.call (bitOf w 1) (fieldOf w 13 19) (predAt w 9))
  | 0x2A => decJctl w | 0x2B => decMask w | 0x2C => decBar w | 0x2D => decSys w
  | 0x30 => decRx w | 0x31 => decLad w | 0x32 => decGen w
  | 0x3F => need (fd w == 0 && fieldOf w 1 2 == 0) true (.poolGuard (fieldOf w 15 17))
  | _ => .error subOpcode

/-- A 16-bit instruction, in the low half of a word (R53). -/
def decode16 (w : Word) : Instr :=
  let m := bitOf w 1; let d := fieldOf w 6 5; let b := fieldOf w 11 5
  match (fieldOf w 2 4).toNat with
  | 0 => .iadd16 m d b | 1 => .isub16 m d b | 2 => .and16 m d b | 3 => .or16 m d b | 4 => .xor16 m d b
  | 5 => .shl16 m d b | 6 => .shr16 m d b | 7 => .mov16 m d b | 8 => .movi16 m d b | 9 => .imul16 m d b
  | 10 => .fadd16 m d b | 11 => .fmul16 m d b | 12 => .ffma16 m d b | 13 => .fmin16 m d b | 14 => .fmax16 m d b
  | _ => .isel16 m d b

/-- An instruction begins with a 16-bit form exactly when its bit 0 is 0 (R5). -/
def isShort (w : Word) : Bool := !bitOf w 0

/-- The instruction at the start of a word: the low half alone when bit 0 is 0 (R5). -/
def decode (w : Word) : Decoded := if isShort w then .ok (decode16 w) else decode32 w

/-- Little-endian bytes as a word (R5); missing bytes are 0. -/
def wordOfBytes (bs : List Byte) : Word :=
  put (bs.getD 0 0) 0 ||| put (bs.getD 1 0) 8 ||| put (bs.getD 2 0) 16 ||| put (bs.getD 3 0) 24

/-- The instruction the decoder reads from bytes in ascending addresses (R5). -/
def decodeBytes (bs : List Byte) : Decoded := decode (wordOfBytes bs)

/-- The instruction whose bits are `w`, numbered as the opcode table numbers them: bit 0 is the least significant bit
of the first byte stored. -/
def decodeTableWord (nbits w : Nat) : Option Instr :=
  let v := BitVec.ofNat 32 (w % 2 ^ nbits)
  match decodeBytes [fieldOf v 0 8, fieldOf v 8 8, fieldOf v 16 8, fieldOf v 24 8] with
  | .ok i => some i
  | .error _ => none

/-! ### The encoder -/

/-- A bit placed in a word. -/
def putB (b : Bool) (lo : Nat) : Word := put (BitVec.ofBool b) lo
/-- The major opcode with S, U and bit 0 (R54). -/
def enc (maj : BitVec 6) (h : Hd) : Word := put maj 3 ||| putB h.uni 2 ||| putB h.mark 1 ||| put 1#1 0
/-- The same for an instruction whose uniform bit is reserved (R34). -/
def encM (maj : BitVec 6) (m : Bool) : Word := put maj 3 ||| putB m 1 ||| put 1#1 0
/-- Format R with three registers (R54). -/
def encR (maj : BitVec 6) (minor : BitVec 5) (h : Hd) (d a b : Reg) : Word :=
  enc maj h ||| put minor 27 ||| put b 21 ||| put a 15 ||| put d 9
/-- Format R with two registers, b zero (R54). -/
def encR2 (maj : BitVec 6) (minor : BitVec 5) (h : Hd) (d a : Reg) : Word :=
  enc maj h ||| put minor 27 ||| put a 15 ||| put d 9
/-- Format R whose minor is a 3-bit code and a 2-bit code (R57, R131, R136). -/
def encRr (maj : BitVec 6) (r : BitVec 3) (op : BitVec 2) (h : Hd) (d a b : Reg) : Word :=
  enc maj h ||| put r 29 ||| put op 27 ||| put b 21 ||| put a 15 ||| put d 9
@[inherit_doc encRr] def encRr2 (maj : BitVec 6) (r : BitVec 3) (op : BitVec 2) (h : Hd) (d a : Reg) : Word :=
  enc maj h ||| put r 29 ||| put op 27 ||| put a 15 ||| put d 9
/-- Format I (R54). -/
def encI (minor : BitVec 3) (h : Hd) (d a : Reg) (i : BitVec 8) : Word :=
  enc 0x02 h ||| put i 24 ||| put minor 21 ||| put a 15 ||| put d 9
/-- A predicate operand (R187, R194). -/
def encP (p : PredOp) (lo : Nat) : Word := put p.p lo ||| putB p.neg (lo + 3)
/-- The compares: predicate index in d (R116, R123). -/
def encC (maj : BitVec 6) (h : Hd) (c : BitVec 2) (p : BitVec 3) (a b : Reg) : Word :=
  enc maj h ||| put 6#3 29 ||| put c 27 ||| put b 21 ||| put a 15 ||| put p 9
/-- HALU (R126). -/
def encH (op : BitVec 4) (bf : Bool) (h : Hd) (d a b : Reg) : Word :=
  enc 0x0B h ||| put op 28 ||| putB bf 27 ||| put b 21 ||| put a 15 ||| put d 9
/-- Format M (R54). -/
def encMem (maj : BitVec 6) (h : Hd) (field : BitVec 6) (size : BitVec 3) (mode : BitVec 2) (base t : Reg) : Word :=
  enc maj h ||| put field 26 ||| put size 23 ||| put mode 21 ||| put base 15 ||| put t 9
/-- PLANE (R176). -/
def encPl (st : Bool) (h : Hd) (field : BitVec 6) (k mode : BitVec 2) (base t : Reg) : Word :=
  enc 0x1A h ||| put field 26 ||| putB st 25 ||| put k 23 ||| put mode 21 ||| put base 15 ||| put t 9
/-- ORD `ldacq` and `strel` (R179). -/
def encOrd (mode : BitVec 2) (h : Hd) (c : BitVec 3) (z : BitVec 2) (base t : Reg) : Word :=
  enc 0x1B h ||| put c 26 ||| put z 23 ||| put mode 21 ||| put base 15 ||| put t 9
/-- ORD `cctl` (R180). -/
def encCctl (op : BitVec 3) (h : Hd) (c : BitVec 3) (base : Reg) : Word :=
  enc 0x1B h ||| put op 29 ||| put c 26 ||| put 2#2 21 ||| put base 15
/-- Format X (R54). -/
def encX (edge m ow : Bool) (t : BitVec 4) (b a : Reg) (n : BitVec 4) : Word :=
  encM 0x20 m ||| putB ow 30 ||| putB edge 29 ||| put t 25 ||| put b 19 ||| put a 13 ||| put n 9
/-- Format B (R54). -/
def encB (maj : BitVec 6) (m : Bool) (off : BitVec 19) (g : PredOp) : Word := encM maj m ||| put off 13 ||| encP g 9
/-- BAR (R208). -/
def encBar (minor : BitVec 5) (m c : Bool) (l : BitVec 3) (a : Reg) (n : BitVec 4) : Word :=
  encM 0x2C m ||| put minor 27 ||| putB c 24 ||| put l 21 ||| put a 15 ||| put n 9
/-- A 16-bit form (R53). -/
def enc16 (op : BitVec 4) (m : Bool) (d b : BitVec 5) : Word := put b 11 ||| put d 6 ||| put op 2 ||| putB m 1

/-- The word of an instruction, written from the rulers of R53, R54 and the encodings of the reference entries; a
16-bit form stands in the low half. A step without an encoding has none. -/
def encode : Instr → Option Word
  | .iadd h d a b => some (encR 0x01 0 h d a b)
  | .isub h d a b => some (encR 0x01 1 h d a b)
  | .iaddc h d a b => some (encR 0x01 2 h d a b)
  | .isubb h d a b => some (encR 0x01 3 h d a b)
  | .ineg h d a => some (encR2 0x01 4 h d a)
  | .iabs h d a => some (encR2 0x01 5 h d a)
  | .imin h d a b => some (encR 0x01 6 h d a b)
  | .imax h d a b => some (encR 0x01 7 h d a b)
  | .umin h d a b => some (encR 0x01 8 h d a b)
  | .umax h d a b => some (encR 0x01 9 h d a b)
  | .and h d a b => some (encR 0x01 10 h d a b)
  | .or h d a b => some (encR 0x01 11 h d a b)
  | .xor h d a b => some (encR 0x01 12 h d a b)
  | .andn h d a b => some (encR 0x01 13 h d a b)
  | .orn h d a b => some (encR 0x01 14 h d a b)
  | .not h d a => some (encR2 0x01 15 h d a)
  | .shl h d a b => some (encR 0x01 16 h d a b)
  | .shr h d a b => some (encR 0x01 17 h d a b)
  | .sar h d a b => some (encR 0x01 18 h d a b)
  | .rol h d a b => some (encR 0x01 19 h d a b)
  | .ror h d a b => some (encR 0x01 20 h d a b)
  | .lea h sh d a b => some (encR 0x01 (21 + sh.setWidth 5) h d a b)
  | .mov h d a => some (encR2 0x01 25 h d a)
  | .iaddImm h d a i => some (encI 0 h d a i)
  | .andImm h d a i => some (encI 1 h d a i)
  | .orImm h d a i => some (encI 2 h d a i)
  | .xorImm h d a i => some (encI 3 h d a i)
  | .shlImm h d a i => some (encI 4 h d a i)
  | .shrImm h d a i => some (encI 5 h d a i)
  | .sarImm h d a i => some (encI 6 h d a i)
  | .rolImm h d a i => some (encI 7 h d a i)
  | .imul h d a b => some (encR 0x03 0 h d a b)
  | .imulh h d a b => some (encR 0x03 1 h d a b)
  | .umulh h d a b => some (encR 0x03 2 h d a b)
  | .imad h d a b => some (encR 0x03 3 h d a b)
  | .popc h d a => some (encR2 0x04 0 h d a)
  | .clz h d a => some (encR2 0x04 1 h d a)
  | .ctz h d a => some (encR2 0x04 2 h d a)
  | .brev h d a => some (encR2 0x04 3 h d a)
  | .bfe h d a b => some (encR 0x04 4 h d a b)
  | .ubfe h d a b => some (encR 0x04 5 h d a b)
  | .bfi h d a b => some (encR 0x04 6 h d a b)
  | .bmix h d a b => some (encR 0x04 7 h d a b)
  | .icmp h c p a b => some (enc 0x05 h ||| put c 27 ||| put b 21 ||| put a 15 ||| put p 9)
  | .isel h p d a b => some (enc 0x05 h ||| put 2#2 30 ||| put p 27 ||| put b 21 ||| put a 15 ||| put d 9)
  | .movi m d i => some (encM 0x06 m ||| put i 15 ||| put d 9)
  | .lui m d i => some (encM 0x06 m ||| put i 15 ||| put 1#1 14 ||| put d 9)
  | .fadd h r d a b => some (encRr 0x07 r 0 h d a b)
  | .fsub h r d a b => some (encRr 0x07 r 1 h d a b)
  | .fmul h r d a b => some (encRr 0x07 r 2 h d a b)
  | .fdiv h r d a b => some (encRr 0x07 r 3 h d a b)
  | .fmin h d a b => some (encRr 0x07 5 0 h d a b)
  | .fmax h d a b => some (encRr 0x07 5 1 h d a b)
  | .fabs h d a => some (encRr2 0x07 5 2 h d a)
  | .fneg h d a => some (encRr2 0x07 5 3 h d a)
  | .fcmp h c p a b => some (encC 0x07 h c p a b)
  | .fclass h d a => some (encRr2 0x07 7 0 h d a)
  | .ffma h r d a b => some (encRr 0x08 r 0 h d a b)
  | .fsqrt h r d a => some (encRr2 0x08 r 1 h d a)
  | .dfma h r d a b => some (encRr 0x08 r 2 h d a b)
  | .dsqrt h r d a => some (encRr2 0x08 r 3 h d a)
  | .fscale h d a b => some (encRr 0x08 5 0 h d a b)
  | .frcp h d a => some (encR2 0x09 0 h d a)
  | .frsq h d a => some (encR2 0x09 1 h d a)
  | .fex2 h d a => some (encR2 0x09 2 h d a)
  | .flg2 h d a => some (encR2 0x09 3 h d a)
  | .fsin h d a => some (encR2 0x09 4 h d a)
  | .fcos h d a => some (encR2 0x09 5 h d a)
  | .ftanh h d a => some (encR2 0x09 6 h d a)
  | .dadd h r d a b => some (encRr 0x0A r 0 h d a b)
  | .dsub h r d a b => some (encRr 0x0A r 1 h d a b)
  | .dmul h r d a b => some (encRr 0x0A r 2 h d a b)
  | .ddiv h r d a b => some (encRr 0x0A r 3 h d a b)
  | .dmin h d a b => some (encRr 0x0A 5 0 h d a b)
  | .dmax h d a b => some (encRr 0x0A 5 1 h d a b)
  | .dabs h d a => some (encRr2 0x0A 5 2 h d a)
  | .dneg h d a => some (encRr2 0x0A 5 3 h d a)
  | .dcmp h c p a b => some (encC 0x0A h c p a b)
  | .hadd2 h t d a b => some (encH 0 t h d a b)
  | .hsub2 h t d a b => some (encH 1 t h d a b)
  | .hmul2 h t d a b => some (encH 2 t h d a b)
  | .hfma2 h t d a b => some (encH 3 t h d a b)
  | .hmin2 h t d a b => some (encH 4 t h d a b)
  | .hmax2 h t d a b => some (encH 5 t h d a b)
  | .hcmp2Eq h t d a b => some (encH 6 t h d a b)
  | .hcmp2Lt h t d a b => some (encH 7 t h d a b)
  | .hcmp2Le h t d a b => some (encH 8 t h d a b)
  | .hcmp2Un h t d a b => some (encH 9 t h d a b)
  | .cvt h r t v d a => some (enc 0x0C h ||| put r 29 ||| put t 25 ||| put v 21 ||| put a 15 ||| put d 9)
  | .scx h d a b => some (encRr 0x0D 0 0 h d a b)
  | .q8 h f d a b => some (encRr 0x0D 1 f h d a b)
  | .q4 h f d a b => some (encRr 0x0D 2 f h d a b)
  | .dq8 h f d a b => some (encRr 0x0D 3 f h d a b)
  | .dq4 h f d a b => some (encRr 0x0D 4 f h d a b)
  | .q8Cs h f d a b => some (encRr 0x0D 5 f h d a b)
  | .q4Cs h f d a b => some (encRr 0x0D 6 f h d a b)
  | .dp4 h d a b => some (encRr 0x0E 0 0 h d a b)
  | .dp8 h d a b => some (encRr 0x0E 1 0 h d a b)
  | .fdp4E4m3 h s d a b => some (encRr 0x0E 2 s h d a b)
  | .fdp4E5m2 h s d a b => some (encRr 0x0E 3 s h d a b)
  | .fdp8 h s d a b => some (encRr 0x0E 4 s h d a b)
  | .hdp2F16 h d a b => some (encRr 0x0E 5 0 h d a b)
  | .hdp2Bf16 h d a b => some (encRr 0x0E 6 0 h d a b)
  | .gen h d a b => some (encR 0x0F 0 h d a b)
  | .gumbel h d a => some (encR2 0x0F 1 h d a)
  | .rndf h d a => some (encR2 0x0F 2 h d a)
  | .bfx m s d a => some (encM 0x10 m ||| put s 21 ||| put a 15 ||| put d 9)
  | .lget m o d a b => some (encM 0x10 m ||| put 1#3 29 ||| put o 27 ||| put b 21 ||| put a 15 ||| put d 9)
  | .pollCnt m d p => some (encM 0x10 m ||| put 2#3 29 ||| encP p 15 ||| put d 9)
  | .pollRank m d p => some (encM 0x10 m ||| put 2#3 29 ||| put 1#2 27 ||| encP p 15 ||| put d 9)
  | .pollMask m d p => some (encM 0x10 m ||| put 2#3 29 ||| put 2#2 27 ||| encP p 15 ||| put d 9)
  | .pollSame m p a => some (encM 0x10 m ||| put 2#3 29 ||| put 3#2 27 ||| put a 15 ||| put p 9)
  | .redx m o d a => some (encM 0x10 m ||| put 3#3 29 ||| put o 27 ||| put a 15 ||| put d 9)
  | .scanx m o d a => some (encM 0x10 m ||| put 4#3 29 ||| put o 27 ||| put a 15 ||| put d 9)
  | .plop h o d a b => some (enc 0x11 h ||| put o 27 ||| encP b 21 ||| encP a 15 ||| put d 9)
  | .pmovToReg h d => some (enc 0x11 h ||| put 4#5 27 ||| put d 9)
  | .pmovToPred h a => some (enc 0x11 h ||| put 5#5 27 ||| put a 15)
  | .grd h p n => some (enc 0x11 h ||| put 8#5 27 ||| encP p 15 ||| put n 9)
  | .gets h r d => some (enc 0x12 h ||| put r 21 ||| put d 9)
  | .sets h r a => some (enc 0x12 h ||| put 1#2 30 ||| put r 21 ||| put a 15)
  | .nop m => some (encM 0x12 m ||| put 2#2 30)
  | .ld h f z m b t => some (encMem 0x18 h f z m b t)
  | .ldt h o t => some (enc 0x18 h ||| put (o.extractLsb' 8 6) 26 ||| put 7#3 23 ||| put (o.extractLsb' 0 8) 15 ||| put t 9)
  | .st h f z m b t => some (encMem 0x19 h f z m b t)
  | .ldp h f k m b t => some (encPl false h f k m b t)
  | .stp h f k m b t => some (encPl true h f k m b t)
  | .ldacq h c z b t => some (encOrd 0 h c z b t)
  | .strel h c z b t => some (encOrd 1 h c z b t)
  | .cctlWb h b => some (encCctl 0 h 0 b)
  | .cctlWbinv h b => some (encCctl 1 h 0 b)
  | .cctlPf1 h b => some (encCctl 2 h 0 b)
  | .cctlPf2 h b => some (encCctl 3 h 0 b)
  | .cctlZero h b => some (encCctl 4 h 0 b)
  | .cctlIinv h c b => some (encCctl 5 h c b)
  | .fence m c q r o => some (encM 0x1C m ||| put c 26 ||| putB q 25 ||| putB r 24 ||| putB o 23)
  | .aliasf m c => some (encM 0x1C m ||| put 1#3 29 ||| put c 26)
  | .evs m a => some (encM 0x1C m ||| put 2#3 29 ||| put a 15)
  | .atom h o z b t => some (encMem 0x1D h o z 0 b t)
  | .red h o z b t => some (encMem 0x1D h o z 1 b t)
  | .sadd h d a b => some (encR 0x1E 0 h d a b)
  | .sbadd h d a b => some (encR 0x1E 1 h d a b)
  | .sincw h d a b => some (encR 0x1E 2 h d a b)
  | .scas h d a b => some (encR 0x1E 3 h d a b)
  | .sexch h d a b => some (encR 0x1E 4 h d a b)
  | .smin h d a b => some (encR 0x1E 5 h d a b)
  | .smax h d a b => some (encR 0x1E 6 h d a b)
  | .waita h d a b => some (encR 0x1E 7 h d a b)
  | .mon h a => some (enc 0x1E h ||| put 8#5 27 ||| put a 15)
  | .mwait h d b => some (enc 0x1E h ||| put 9#5 27 ||| put b 21 ||| put d 9)
  | .mbput h a b => some (enc 0x1E h ||| put 10#5 27 ||| put b 21 ||| put a 15)
  | .mbget h d a => some (encR2 0x1E 11 h d a)
  | .pladd h k d a b => some (encRr 0x1F 0 k h d a b)
  | .mma m o t b a n => some (encX false m o t b a n)
  | .mmae m o t b a n => some (encX true m o t b a n)
  | .mloop m o n => some (encM 0x21 m ||| put o 15 ||| put n 9)
  | .mzero m n => some (encM 0x21 m ||| put 1#5 27 ||| put n 9)
  | .mload m b a n => some (encM 0x21 m ||| put 2#5 27 ||| put b 21 ||| put a 15 ||| put n 9)
  | .mdrain m b a n => some (encM 0x21 m ||| put 3#5 27 ||| put b 21 ||| put a 15 ||| put n 9)
  | .mstat m n d => some (encM 0x21 m ||| put 4#5 27 ||| put n 15 ||| put d 9)
  | .dexp m d a => some (encM 0x22 m ||| put a 15 ||| put d 9)
  | .dsplit m d a b => some (encM 0x22 m ||| put 1#5 27 ||| put b 21 ||| put a 15 ||| put d 9)
  | .dmerge m b x n => some (encM 0x22 m ||| put 2#5 27 ||| put b 21 ||| put x 15 ||| put n 9)
  | .tcopy h d a b => some (encR 0x23 0 h d a b)
  | .tcopy2 h d a b => some (encR 0x23 1 h d a b)
  | .tgath h d a b => some (encR 0x23 2 h d a b)
  | .tscat h d a b => some (encR 0x23 3 h d a b)
  | .tfill h d a b => some (encR 0x23 4 h d a b)
  | .tnote h d a b => some (encR 0x23 5 h d a b)
  | .twait h d a => some (encR2 0x23 6 h d a)
  | .tcoll h d a b => some (encR 0x24 0 h d a b)
  | .rflush h d a b => some (encR 0x24 1 h d a b)
  | .bra m o g => some (encB 0x28 m o g)
  | .call m o g => some (encB 0x29 m o g)
  | .btab m a => some (encM 0x2A m ||| put a 15)
  | .ret m a => some (encM 0x2A m ||| put 1#5 27 ||| put a 15)
  | .exit m => some (encM 0x2A m ||| put 2#5 27)
  | .join m k a => some (encM 0x2B m ||| put a 15 ||| put k 9)
  | .leave m k => some (encM 0x2B m ||| put 1#5 27 ||| put k 9)
  | .waitk m k => some (encM 0x2B m ||| put 2#5 27 ||| put k 9)
  | .ksave m e k a => some (encM 0x2B m ||| put 3#5 27 ||| put e 21 ||| put a 15 ||| put k 9)
  | .kload m e k a => some (encM 0x2B m ||| put 4#5 27 ||| put e 21 ||| put a 15 ||| put k 9)
  | .barArrive m c l a n => some (encBar 0 m c l a n)
  | .barWait m c l a n => some (encBar 1 m c l a n)
  | .barSync m c l a n => some (encBar 2 m c l a n)
  | .sysr h r d => some (enc 0x2D h ||| put r 21 ||| put d 9)
  | .sysw h r a => some (enc 0x2D h ||| put 1#3 29 ||| put r 21 ||| put a 15)
  | .trap m c => some (encM 0x2D m ||| put 2#3 29 ||| put c 21)
  | .brk m c => some (encM 0x2D m ||| put 3#3 29 ||| put c 21)
  | .rte m => some (encM 0x2D m ||| put 4#3 29)
  | .yield m => some (encM 0x2D m ||| put 5#3 29)
  | .prog h a => some (enc 0x2D h ||| put 6#3 29 ||| put a 15)
  | .launch h d a => some (enc 0x2D h ||| put 7#3 29 ||| put a 15 ||| put d 9)
  | .tlbinv m d a => some (encM 0x2D m ||| put 7#3 29 ||| put 1#8 21 ||| put a 15 ||| put d 9)
  | .rxbegin m o d => some (encM 0x30 m ||| put o 15 ||| put d 9)
  | .rxprev m d => some (encM 0x30 m ||| put 1#5 27 ||| put d 9)
  | .rxput m a b => some (encM 0x30 m ||| put 2#5 27 ||| put b 21 ||| put a 15)
  | .rxend m => some (encM 0x30 m ||| put 3#5 27)
  | .rxstat m d => some (encM 0x30 m ||| put 4#5 27 ||| put d 9)
  | .lpost h o d => some (enc 0x31 h ||| put o 15 ||| put d 9)
  | .esc m a => some (encM 0x31 m ||| put 1#5 27 ||| put a 15)
  | .lres m a => some (encM 0x31 m ||| put 2#5 27 ||| put a 15)
  | .lstat h d a => some (encR2 0x31 3 h d a)
  | .gmload h d a => some (encR2 0x32 0 h d a)
  | .gmstep h d a => some (encR2 0x32 1 h d a)
  | .gmmask h d a b => some (encR 0x32 2 h d a b)
  | .gmforce h d a => some (encR2 0x32 3 h d a)
  | .snap h d a => some (encR2 0x32 4 h d a)
  | .snapsel h d a => some (encR2 0x32 5 h d a)
  | .snapfree h d a => some (encR2 0x32 6 h d a)
  | .acall h d a b => some (encR 0x32 7 h d a b)
  | .poolGuard n => some (put 0x3F#6 3 ||| put 1#1 0 ||| put n 15)
  | .iadd16 m d b => some (enc16 0 m d b)
  | .isub16 m d b => some (enc16 1 m d b)
  | .and16 m d b => some (enc16 2 m d b)
  | .or16 m d b => some (enc16 3 m d b)
  | .xor16 m d b => some (enc16 4 m d b)
  | .shl16 m d b => some (enc16 5 m d b)
  | .shr16 m d b => some (enc16 6 m d b)
  | .mov16 m d b => some (enc16 7 m d b)
  | .movi16 m d b => some (enc16 8 m d b)
  | .imul16 m d b => some (enc16 9 m d b)
  | .fadd16 m d b => some (enc16 10 m d b)
  | .fmul16 m d b => some (enc16 11 m d b)
  | .ffma16 m d b => some (enc16 12 m d b)
  | .fmin16 m d b => some (enc16 13 m d b)
  | .fmax16 m d b => some (enc16 14 m d b)
  | .isel16 m d b => some (enc16 15 m d b)
  | _ => none

end Sys2Proof
end

