-- ==== Sys2Proof/Machine/System.lean ====
section
/-!
DEFINITION. System registers (R67, R215 and the chapters that define them), software traps and the return from a trap
(R216, R217), `yield`, `prog`, `launch` and `tlbinv` (R218 to R221), and the writes of system registers as steps.
-/
namespace Sys2Proof.Machine

/-! ### Reading system registers -/

/-- Names of system registers (R67). -/
inductive SysReg where
  | trapUsr | trapSys | deleg | sidebuf | tslice | qfloor | barto | grantcap | tallow | tstat | tovr
  | probe (n : Nat) | dbgctl | asid
  deriving DecidableEq, Repr

/-- The register of a number; the decoder admits listed numbers only. -/
def sysReg (r : BitVec 8) : SysReg :=
  match r.toNat with
  | 0x00 => .trapUsr
  | 0x01 => .trapSys
  | 0x02 => .deleg
  | 0x03 => .sidebuf
  | 0x10 => .tslice
  | 0x11 => .qfloor
  | 0x12 => .barto
  | 0x20 => .grantcap
  | 0x21 => .tallow
  | 0x22 => .tstat
  | 0x23 => .tovr
  | 0x40 => .dbgctl
  | 0x41 => .asid
  | n => .probe (n % 8)

/-- 64-bit registers (R67). -/
def SysReg.wide : SysReg → Bool
  | .trapUsr | .trapSys | .probe _ => true
  | .deleg | .sidebuf | .tslice | .qfloor | .barto | .grantcap | .tallow | .tstat | .tovr | .dbgctl | .asid => false
/-- User mode may read the register (R67). -/
def SysReg.userRead : SysReg → Bool
  | .trapUsr | .sidebuf | .qfloor | .barto | .tallow | .tstat | .probe _ => true
  | .trapSys | .deleg | .tslice | .grantcap | .tovr | .dbgctl | .asid => false
/-- User mode may write the register (R67). -/
def SysReg.userWrite : SysReg → Bool
  | .trapUsr | .barto => true
  | .trapSys | .deleg | .sidebuf | .tslice | .qfloor | .grantcap | .tallow | .tstat | .tovr | .probe _ | .dbgctl
  | .asid => false

/-- The hottest deck of a pier from site `d` up: its site and temperature, the lowest site on ties (R380). -/
def State.hottest (s : State) (pier d : Nat) : Nat × Nat :=
  ((List.range 6).drop d).foldl (fun r e => let t := (s.deck (6 * pier + e)).temp; if r.2 < t then (e, t) else r)
    (d, (s.deck (6 * pier + d)).temp)
/-- A sample has fallen on a deck of the pier from site `d` up; before the first one HSITE holds its reset value (R380). [DEDUCED, log 6] -/
def State.sensed (s : State) (pier d : Nat) : Bool := ((List.range 6).drop d).any fun e => 65536 ≤ (s.deck (6 * pier + e)).clk
/-- `TSTAT` of a core (R380). -/
def State.tstat (s : State) (core : Nat) : Word :=
  let p := pierOf core
  let d := deckOf core % 6
  let own := s.deck (deckOf core)
  let decks := (List.range 6).map fun e => s.deck (6 * p + e)
  let h := s.hottest p d
  let site := if s.sensed p d then h.1 else 0
  let bit (b : Bool) (n : Nat) : Nat := if b then 2 ^ n else 0
  BitVec.ofNat 32 (own.temp % 256 + h.2 % 256 * 2 ^ 8 + site * 2 ^ 16 + bit own.double 19 + bit (decks.any Deck.double) 20 +
    bit ((s.core core).allow < 256) 21 + bit (decks.any fun k => k.ovr.isSome) 22)

/-- `GRANTCAP` of a core (R379). -/
def Core.grantcap (c : Core) : Word := BitVec.ofNat 32 (c.eff * 2 ^ 8 + (if c.auto then 2 ^ 6 else 0) + c.cap)
/-- `PROBE n` of a core; a dump is never seen in progress (R386). -/
def Probe.read (p : Probe) : DWord := p.block ||| (if p.en then 1 else 0)
/-- A probe of a core. -/
def Core.probe (c : Core) (n : Nat) : Probe := c.probes.getD n Probe.reset

/-- The value of a system register for a thread (R215). -/
def State.sysRead (s : State) (t : Thread) (r : SysReg) : DWord :=
  match s.company? t.cid with
  | none => 0
  | some c =>
    let k := s.core c.core
    match r with
    | .trapUsr => c.trapUsr
    | .trapSys => k.trapSys
    | .deleg => c.deleg.setWidth 64
    | .sidebuf => (s.sideEntry t.cid t.tid).setWidth 64
    | .tslice => k.tslice.setWidth 64
    | .qfloor => BitVec.ofNat 64 k.qfloor
    | .barto => c.barto.setWidth 64
    | .grantcap => k.grantcap.setWidth 64
    | .tallow => BitVec.ofNat 64 k.allow
    | .tstat => (s.tstat c.core).setWidth 64
    | .tovr => (s.tovr.getD (pierOf c.core) 0).setWidth 64
    | .probe n => (k.probe n).read
    | .dbgctl => k.dbgctl.setWidth 64
    | .asid => t.asid.setWidth 64

/-- PRIV REGISTER (R67, R302). -/
def privReg : Trap := { cls := cPriv, sub := 1 }
/-- `sysr` (R215). -/
def execSysr (h : Hd) (r : BitVec 8) (d : Reg) (s : State) : Out :=
  .next (s.runIssue (hdForm h []) fun s ps =>
    s.each h.uni ps fun s l rs =>
      if !l.sys && !(sysReg r).userRead then s.raiseAll rs privReg
      else
        let x := s.sysRead l (sysReg r)
        let o := if (sysReg r).wide then pairOut d x else vOut d (x.setWidth 32)
        rs.foldl (fun s t => s.deliver t l.fpcsr o) s)

/-! ### Writing system registers -/

/-- A plain store that the device makes at once for a thread, an object or a queue: a contribution on a RED page. -/
def State.storeAt (s : State) (w : Who) (va : Nat) (bs : List Byte) : Except Trap State :=
  match s.check w .store (BitVec.ofNat 64 va) bs.length false with
  | .error e => .error e
  | .ok c => match c.kinds, c.locs.map Loc.plain with
    | [.red], .phys a :: _ => .ok (s.updPart w.part fun p => p.contribute a bs)
    | _, _ => .ok ((s.claim w va bs.length [] 2).perform c.locs bs)
/-- Several such stores, all or none. -/
def State.storesAt (s : State) (w : Who) : List (Nat × List Byte) → Except Trap State
  | [] => .ok s
  | (va, bs) :: r => match s.storeAt w va bs with
    | .error e => .error e
    | .ok s => s.storesAt w r

/-- `TSLICE` after a write (R321). -/
def tsliceWord (floor : Nat) (x : Word) : Word :=
  let len := x.toNat % 2 ^ 24
  if len != 0 && len < floor then BitVec.ofNat 32 (floor + 2 ^ 31) else BitVec.ofNat 32 len
/-- A core's `GRANTCAP` after a write (R379). -/
def Core.writeGrantcap (c : Core) (x : Word) : Core :=
  let cap := max 4 (min 32 (x.toNat % 64))
  let auto := x.getLsbD 6
  { c with cap := cap, auto := auto, eff := if auto then min c.eff cap else cap }
/-- A write of `TOVR` by a core of a pier (R385). [DEDUCED, log 81] -/
def State.writeTovr (s : State) (pier : Nat) (x : Word) : State :=
  let site := x.toNat / 2 ^ 24 % 8
  let x := x &&& 0x870000FF
  let s := { s with tovr := s.tovr.setIfInBounds pier x }
  if site < 6 then s.updDeck (6 * pier + site) fun k => { k with ovr := if x.getLsbD 31 then some (x.toNat % 256) else none }
  else s

/-- A watch descriptor of 16 bytes; length 0 turns it off (R320). -/
def watchOf (bs : List Byte) : Option Watch :=
  let len := natOf ((bs.drop 8).take 4)
  let ctl := natOf ((bs.drop 12).take 4)
  if len == 0 then none
  else some { addr := BitVec.ofNat 64 (natOf (bs.take 8)), len := len, rd := ctl.testBit 0, wr := ctl.testBit 1 }
/-- The watch descriptors of a core's area (R307, R320); where a check fails none is in force. -/
def State.readWatches (s : State) (t : Thread) (c : Company) : List Watch :=
  let va := (s.part c.part).sbarea.toNat + c.core * 0x20000 + 0x1C000
  match s.check (s.whoIs t true) .load (BitVec.ofNat 64 va) 64 false with
  | .ok k =>
    let bs := s.getLocs k.locs
    (List.range 4).filterMap fun i => watchOf ((bs.drop (16 * i)).take 16)
  | .error _ => []
/-- A write of `DBGCTL` (R318, R320). -/
def State.writeDbgctl (s : State) (t : Thread) (c : Company) (x : Word) : State :=
  let ws := if x.getLsbD 4 then s.readWatches t c else []
  s.updCore c.core fun k => { k with dbgctl := x &&& 0xF8, watches := ws }

/-- The stores of a probe dump (R386, R387). -/
def Probe.dump (p : Probe) (block : Nat) : List (Nat × List Byte) :=
  [(block + 16, bytesOf 4 p.min), (block + 20, bytesOf 4 p.max), (block + 24, bytesOf 8 p.count), (block + 32, bytesOf 8 p.sum)] ++
    (p.bins.mapIdx fun i n => (block + 48 + 4 * i, bytesOf 4 n))
/-- A configuration word that lets a probe record (R386). -/
def probeConfigOk (w : Word) : Bool := w.toNat % 16 < 5 && w &&& 0xFFFFE0E0 == 0
/-- Cleared accumulators (R386). -/
def Probe.clear (p : Probe) : Probe := { Probe.reset with block := p.block, en := p.en, config := p.config, base := p.base }

/-- A write of `PROBE n` (R386): dump, then clear, then start; the loads and stores are the thread's own. [DEDUCED, log 83] -/
def State.writeProbe (s : State) (t : Thread) (c : Company) (n : Nat) (x : DWord) : Except Trap State :=
  let p := (s.core c.core).probe n
  let block : DWord := x &&& ~~~0x7F
  let en := x.getLsbD 0
  let w := s.whoIs t
  let put (s : State) (p : Probe) : State := s.updCore c.core fun k => { k with probes := k.probes.setIfInBounds n p }
  match (if x.getLsbD 2 || (p.en && !en) then s.storesAt w (p.dump block.toNat) else .ok s) with
  | .error e => .error e
  | .ok s =>
    let p := if x.getLsbD 1 then p.clear else p
    if en && !p.en then
      match s.check w .load block 8 false with
      | .error e => .error e
      | .ok k =>
        let bs := s.getLocs k.locs
        let cfg : Word := BitVec.ofNat 32 (natOf (bs.take 4))
        .ok (put s (if probeConfigOk cfg then
          { p with block := block, en := true, config := cfg, base := BitVec.ofNat 32 (natOf (bs.drop 4)) }
          else { p with block := block, en := false }))
    else .ok (put s { p with block := block, en := en })

/-- A write of a system register by thread `l`; per-thread registers are written in the threads `rs` (R185, R215). Writes
to read-only registers are ignored. -/
def State.sysWrite (s : State) (l : Thread) (rs : List Thread) (r : SysReg) (x : DWord) : Except Trap State :=
  match s.company? l.cid with
  | none => .ok s
  | some c =>
    let w : Word := x.setWidth 32
    match r with
    | .trapUsr => .ok (s.updCompany l.cid fun c => { c with trapUsr := x &&& ~~~0x3FE })
    | .trapSys => .ok (s.updCore c.core fun k => { k with trapSys := x &&& ~~~0x3FE })
    | .deleg => .ok (s.updCompany l.cid fun c => { c with deleg := w &&& 0x3FFF })
    | .tslice => .ok (s.updCore c.core fun k => { k with tslice := tsliceWord k.qfloor w })
    | .barto => .ok (s.updCompany l.cid fun c => { c with barto := w })
    | .grantcap => .ok (s.updCore c.core fun k => k.writeGrantcap w)
    | .tovr => .ok (s.writeTovr (pierOf c.core) w)
    | .probe n => s.writeProbe l c n x
    | .dbgctl => .ok (s.writeDbgctl l c w)
    | .asid => .ok (rs.foldl (fun s t => s.updThread t.cid t.tid fun u => { u with asid := w.setWidth 12 }) s)
    | .sidebuf | .qfloor | .tallow | .tstat => .ok s

/-- An access of the device or of a thread at issue has to wait: its page is migrating (R151). -/
def State.accessStalls (s : State) (w : Who) (k : Acc) (va n : Nat) : Bool :=
  match s.check w k (BitVec.ofNat 64 va) n false with
  | .ok c => c.mig
  | .error _ => false
/-- The accesses that a write of a system register makes in memory lie on a migrating page: that of the watch descriptors (R320),
or of a probe's block (R386). [DEDUCED, log 84] -/
def State.writeStall (s : State) (t : Thread) (r : SysReg) (x : DWord) : Option Wait :=
  match s.company? t.cid with
  | none => none
  | some c =>
    let block : Nat := (x &&& ~~~0x7F).toNat
    match r with
    | .dbgctl =>
      let va := (s.part c.part).sbarea.toNat + c.core * 0x20000 + 0x1C000
      if x.getLsbD 4 && s.accessStalls (s.whoIs t true) .load va 64 then some (.mig t.asid (BitVec.ofNat 64 va)) else none
    | .probe n =>
      let p := (s.core c.core).probe n
      if ((x.getLsbD 2 || (p.en && !x.getLsbD 0)) && s.accessStalls (s.whoIs t) .store (block + 16) 96) ||
          (x.getLsbD 0 && !p.en && s.accessStalls (s.whoIs t) .load block 8) then some (.mig t.asid (BitVec.ofNat 64 block)) else none
    | _ => none
/-- Earlier accesses of the threads must have performed before a probe write makes its own (R161, R386). -/
def probeHold (r : SysReg) (s : State) (ps : List Thread) : Option Wait :=
  match r with
  | .probe _ => if ps.any fun t => t.sys && s.accessesOut t.cid t.tid then some .quiet else none
  | _ => none
/-- What holds a write of a system register: the writer's earlier accesses, then a migrating page. -/
def sysHold (uni : Bool) (r : SysReg) (x : Thread → DWord) (s : State) (ps : List Thread) : Option Wait :=
  match probeHold r s ps with
  | some w => some w
  | none => (if uni then (lowest ps).toList else ps).findSome? fun t => if !t.sys && !r.userWrite then none else s.writeStall t r (x t)
/-- `sysw` (R215): it waits for earlier results, then writes. -/
def execSysw (h : Hd) (r : BitVec 8) (a : Reg) (s : State) : Out :=
  .next (s.runIssue { (hdForm h (if (sysReg r).wide then pairRegs a else [.v a])).barred with mark := true } (fun s ps =>
    s.each h.uni ps fun s l rs =>
      if !l.sys && !(sysReg r).userWrite then s.raiseAll rs privReg
      else match s.sysWrite l rs (sysReg r) (if (sysReg r).wide then l.getPair a else (l.getV a).setWidth 64) with
        | .ok s => s
        | .error e => s.raiseAll rs e)
    (sysHold h.uni (sysReg r) fun t => if (sysReg r).wide then t.getPair a else (t.getV a).setWidth 64))

/-- The write of a system register by a thread performs, where the thread may make it. [DEDUCED, log 89] -/
def State.writeStep (s : State) (cid tid : Nat) (r : SysReg) (x : DWord) : State :=
  match s.thread? cid tid with
  | some t => if t.exited || (!t.sys && !r.userWrite) || (s.writeStall t r x).isSome then s
    else match s.sysWrite t [t] r x with
      | .ok s => s
      | .error e => s.raise t e
  | none => s
/-- TSLICE_WRITE (R321). -/
def execTsliceWrite (cid tid : Nat) (x : Word) (s : State) : Out := .next (s.writeStep cid tid .tslice (x.setWidth 64))
/-- TOVR_WRITE (R385). -/
def execTovrWrite (cid tid : Nat) (x : Word) (s : State) : Out := .next (s.writeStep cid tid .tovr (x.setWidth 64))
/-- DBGCTL_WRITE (R318, R320). -/
def execDbgctlWrite (cid tid : Nat) (x : Word) (s : State) : Out := .next (s.writeStep cid tid .dbgctl (x.setWidth 64))
/-- GRANTCAP_WRITE (R379). -/
def execGrantcapWrite (cid tid : Nat) (x : Word) (s : State) : Out := .next (s.writeStep cid tid .grantcap (x.setWidth 64))
/-- BARTO_WRITE (R316). -/
def execBartoWrite (cid tid : Nat) (x : Word) (s : State) : Out := .next (s.writeStep cid tid .barto (x.setWidth 64))
/-- ASID_WRITE (R150). -/
def execAsidWrite (cid tid : Nat) (x : Word) (s : State) : Out := .next (s.writeStep cid tid .asid (x.setWidth 64))
/-- The probe a thread's core holds. -/
def State.probeOf (s : State) (cid n : Nat) : Probe :=
  match s.company? cid with
  | some c => (s.core c.core).probe n
  | none => Probe.reset
/-- PROBE_ENABLE (R386): a write takes EN from 0 to 1. -/
def execProbeEnable (cid tid n : Nat) (x : DWord) (s : State) : Out :=
  .next (if x.getLsbD 0 && !(s.probeOf cid n).en then s.writeStep cid tid (.probe n) x else s)
/-- PROBE_DUMP (R386): a write sets DUMP. -/
def execProbeDump (cid tid n : Nat) (x : DWord) (s : State) : Out :=
  .next (if x.getLsbD 2 then s.writeStep cid tid (.probe n) x else s)
/-- PROBE_CLEAR (R386): a write sets CLR. -/
def execProbeClear (cid tid n : Nat) (x : DWord) (s : State) : Out :=
  .next (if x.getLsbD 1 then s.writeStep cid tid (.probe n) x else s)
/-- PROBE_DISABLE (R386): a write takes EN from 1 to 0. -/
def execProbeDisable (cid tid n : Nat) (x : DWord) (s : State) : Out :=
  .next (if !x.getLsbD 0 && (s.probeOf cid n).en then s.writeStep cid tid (.probe n) x else s)

/-! ### Traps by instruction, return, yield, progress (R216 to R219) -/

/-- `trap`: SOFTWARE with the code; it resumes after itself (R216, R305). -/
def execTrap (m : Bool) (code : BitVec 8) (s : State) : Out :=
  .next (s.runIssue (markForm m) fun s ps =>
    ps.foldl (fun s t => s.raiseAt t { cls := cSoftware, sub := code.toNat } (t.pc + 4) (nextGuard t.guard)) s)
/-- `brk`: DEBUG BRK with the code (R216). -/
def execBrk (m : Bool) (code : BitVec 8) (s : State) : Out :=
  .next (s.runIssue (markForm m) fun s ps =>
    s.raiseAll ps { cls := cDebug, sub := 1, extra := code.setWidth 32 })

/-- The record of the innermost handler of a thread (R307, R308). -/
def State.recordAddr (s : State) (t : Thread) : Nat := (s.sideEntry t.cid t.tid).toNat + (t.frames.length - 1) * 32
/-- `rte` reads its record as a load of the thread: it waits for the thread's earlier accesses to it (R161, R314), and while
its page is migrating (R151). [DEDUCED, log 88] [DEDUCED, log 84] -/
def rteHold (s : State) (ps : List Thread) : Option Wait :=
  if ps.any fun t => !t.frames.isEmpty && s.ops.any fun o => o.cid == t.cid && o.tid == t.tid && o.isAccess &&
    o.vas.any fun a => s.recordAddr t ≤ a && a < s.recordAddr t + 32
  then some .quiet
  else (ps.find? fun t => !t.frames.isEmpty && s.accessStalls (s.whoIs t true) .load (s.recordAddr t) 32).map fun t =>
    .mig t.asid (BitVec.ofNat 64 (s.recordAddr t))
/-- `rte` (R217, R314). -/
def execRte (m : Bool) (s : State) : Out :=
  let word := s.word
  .next (s.runIssue { markForm m with mark := true } (fun s ps =>
    ps.foldl (fun s t =>
      if t.frames.isEmpty then s.raise t { cls := cCflow, sub := 5, extra := word }
      else s.trapReturn t.cid t.tid) s) rteHold)

/-- `yield` (R218): not ready for the next 32 issue opportunities of the core. -/
def execYield (m : Bool) (s : State) : Out :=
  .next (s.runIssue (markForm m).barred fun s ps =>
    ps.foldl (fun s t => s.updThread t.cid t.tid fun u => { u with wait := .yield (s.oppsOf t.cid + 32) }) s)
/-- Threads of one yielded group are due. -/
def Thread.yielded (t : Thread) (opps : Nat) : Option Nat :=
  match t.wait with
  | .yield due => if due ≤ opps then some due else none
  | _ => none
/-- The groups that are due become ready, each as one cohort (R21, R218). -/
def State.yieldsDue (s : State) (core : Nat) : Nat → State
  | 0 => s
  | fuel + 1 =>
    let opps := (s.core core).opps
    let here (t : Thread) : Bool := s.companies.any fun c => c.cid == t.cid && c.core == core && c.onCore
    match s.threads.find? fun t => here t && (t.yielded opps).isSome with
    | none => s
    | some t =>
      (s.release (fun u => u.cid == t.cid && u.pc == t.pc && u.wait == t.wait) id).yieldsDue core fuel
/-- YIELD_EXPIRY (R218). -/
def execYieldExpiry (core : Nat) (s : State) : Out := .next (s.yieldsDue core s.threads.length)

/-- `prog` (R219): a saturating addition to the company's count. -/
def execProg (h : Hd) (a : Reg) (s : State) : Out :=
  .next (s.runIssue (hdForm h [.v a]).barred fun s ps =>
    s.each h.uni ps fun s l _ => s.updCompany l.cid fun c =>
      { c with progress := BitVec.ofNat 32 (min (2 ^ 32 - 1) (c.progress.toNat + (l.getV a).toNat)) })

/-! ### `launch` (R220, R292, R293) -/

/-- A launch queue's descriptor (R292). -/
structure Queue where
  base : Nat
  count : Nat
  head : Nat
  tail : Nat
  prio : Nat
  en : Bool
  sys : Bool
  asid : Nat
  errs : Nat
  deriving DecidableEq, Repr
/-- The address of a descriptor. -/
def State.queueAt (s : State) (part q : Nat) : Nat := (s.part part).qtab.toNat + 32 * q
/-- Reads a descriptor. -/
def State.queue (s : State) (part q : Nat) : Queue :=
  let a := s.queueAt part q
  let f := s.physNat (a + 20) 4
  { base := s.physNat a 8, count := s.physNat (a + 8) 4, head := s.physNat (a + 12) 4, tail := s.physNat (a + 16) 4,
    prio := f % 4, en := f.testBit 8, sys := f.testBit 9, asid := f / 2 ^ 16 % 2 ^ 12, errs := s.physNat (a + 24) 4 }
/-- COUNT is a power of two from 2 to 65,536. -/
def Queue.countOk (q : Queue) : Bool := (List.range 17).any fun k => 1 ≤ k && q.count == 2 ^ k
/-- Writes a 32-bit field of a descriptor. -/
def State.setQueue (s : State) (part q off x : Nat) : State :=
  s.perform ((List.range 4).map fun i => .phys (s.queueAt part q + off + i)) (bytesOf 4 x)
/-- A queue gets a producer; with both kinds HEAD and TAIL become unpredictable (R293). -/
def State.produce (s : State) (part q : Nat) (host : Bool) : State :=
  let p := s.part part
  let s := if p.makers.contains (q, host) then s else s.updPart part fun p => { p with makers := (q, host) :: p.makers }
  if (s.part part).makers.contains (q, !host) then
    let s := (s.setQueue part q 12 (Config.freeWord s.fresh 0).toNat).setQueue part q 16 (Config.freeWord s.fresh 1).toNat
    { s with fresh := s.fresh + 1 }
  else s

/-- What a submission ends with: a status, or a stall on a migrating page. -/
inductive Submit where
  | status (n : Nat) (s : State)
  | stall (asid : BitVec 12) (va : DWord)
  deriving DecidableEq, Repr
/-- Submits a record to a queue of a partition (R220): the entry and TAIL are written under the queue's ASID with system
privilege. -/
def State.submit (s : State) (part q : Nat) (record : DWord) : Submit :=
  let d := s.queue part q
  let va : DWord := BitVec.ofNat 64 (d.base + d.tail % d.count * 8)
  let w : Who := { cid := 0, part := part, asid := d.asid, sys := true, scr := 0 }
  if !d.countOk then .status 2 s
  else if (d.tail + 2 ^ 32 - d.head) % 2 ^ 32 == d.count then .status 1 s
  else match s.check w .store va 8 false with
    | .error _ => .status 2 s
    | .ok c =>
      if c.mig then .stall (BitVec.ofNat 12 d.asid) va
      else match s.storeAt w va.toNat (bytesOf 8 record.toNat) with
        | .error _ => .status 2 s
        | .ok s =>
          let s := (s.setQueue part q 16 (d.tail + 1)).produce part q false
          .status 0 (s.updPart part fun p => { p with bells := if p.bells.contains q then p.bells else q :: p.bells })
/-- `launch` by thread `l` for the threads `rs`. -/
def State.launch1 (s : State) (d a : Reg) (l : Thread) (rs : List Thread) : State :=
  let va := l.getPair a
  if va.toNat % 64 != 0 then s.raiseAll rs (faultAt cAlign 1 va.toNat)
  else match s.submit (s.partOf l.cid) ((l.getV d).toNat % 64) va with
    | .stall asid va => s.stallAll rs asid va
    | .status n s => rs.foldl (fun s t => s.deliver t l.fpcsr (vOut d (BitVec.ofNat 32 n))) s
/-- `launch`: a release (R220). -/
def execLaunch (h : Hd) (d a : Reg) (s : State) : Out :=
  .next (s.runIssue (hdForm h (.v d :: pairRegs a)).release.barred fun s ps =>
    s.each h.uni ps fun s l rs => s.launch1 d a l rs)

/-! ### `tlbinv` (R221) -/

/-- What a control word and an address remove (R221). -/
structure Removal where
  part : Nat
  global : Bool
  all : Bool
  asid : Nat
  va : Nat
  deriving DecidableEq, Repr
@[inherit_doc Removal] def Removal.of (part : Nat) (ctl : Word) (va : DWord) : Removal :=
  { part := part, global := ctl.getLsbD 13, all := ctl.getLsbD 12, asid := ctl.toNat % 2 ^ 12, va := va.toNat }
/-- The removal covers a page of `size` bytes at an address of an ASID. -/
def Removal.covers (r : Removal) (asid va size : Nat) : Bool :=
  r.global || (asid == r.asid && (r.all || va / size == r.va / size))
/-- Sizes of pages that may map an address: of its cached translations and of the tables as they are; the largest where there is none. -/
def State.pageSizes (s : State) (part asid va : Nat) : List Nat :=
  let cached := (s.tlb.filter fun e => e.part == part && e.asid.toNat == asid && e.page == va / e.size).map (·.size)
  (match s.walk (s.part part) asid va with
    | .ok l => l.size
    | .error _ => 2 ^ 30) :: cached
/-- The removal covers a page that may map an address. -/
def State.removes (s : State) (r : Removal) (asid va : Nat) : Bool := (s.pageSizes r.part asid va).any (r.covers asid va)
/-- An operation in flight uses a removed translation. -/
def State.usesRemoved (s : State) (r : Removal) (o : MemOp) : Bool :=
  s.partOf o.cid == r.part && o.isAccess && o.vas.any (s.removes r o.asid.toNat)
/-- A buffered store of a region has captured a removed translation, and is neither performed nor discarded (R343). -/
def State.buffersRemoved (s : State) (r : Removal) (c : Company) : Bool :=
  c.part == r.part && c.region.any fun x => x.buf.any fun b => b.vas.any (s.removes r b.asid)
/-- Removes cached translations, and monitors lose the lines they covered (R221, R235). [DEDUCED, log 92] -/
def State.invalidate (s : State) (r : Removal) : State :=
  let lose (m : Monitor) : Monitor :=
    if s.removes r m.asid.toNat m.va.toNat then { m with lost := true } else m
  { s with
    tlb := s.tlb.filter fun e => !(e.part == r.part && r.covers e.asid.toNat (e.page * e.size) e.size)
    threads := s.threads.map fun t => if s.partOf t.cid == r.part then { t with mon := t.mon.map lose, watched := t.watched.map lose } else t }
/-- `tlbinv` waits until the accesses that used a removed translation have performed, stores that a region buffers among them, and until
the thread's own stores have, since later walks see them; one in a relaxation body traps (R332), and waits for nothing. -/
def tlbinvHold (d a : Reg) (s : State) (ps : List Thread) : Option Wait :=
  if ps.any fun t => t.sys && (s.bodyOf t).isNone &&
    let r := Removal.of (s.partOf t.cid) (t.getV d) (t.getPair a)
    (s.ops.any fun o => s.usesRemoved r o || (o.stores && o.owned t.cid t.tid)) || s.companies.any (s.buffersRemoved r)
  then some .quiet else none
/-- `tlbinv` (R221): PRIV INSTR in user mode. -/
def execTlbinv (m : Bool) (d a : Reg) (s : State) : Out :=
  .next (s.runIssue (markForm m (.v d :: pairRegs a)).barred (fun s ps =>
    let s := s.raiseAll (ps.filter fun t => !t.sys) { cls := cPriv, sub := 2 }
    (ps.filter fun t => t.sys).foldl (fun s t => s.invalidate (.of (s.partOf t.cid) (t.getV d) (t.getPair a))) s) (tlbinvHold d a))

end Sys2Proof.Machine
end

