-- ==== Sys2Proof/Machine/Waits.lean ====
section
/-!
DEFINITION. Waits on words and monitors (R233 to R236, R241) and mailboxes (R237 to R240), with the steps that end them.
-/
namespace Sys2Proof.Machine
open Sys2Proof.Config

/-! ### `waita` (R233, R234) -/

/-- An armed entry's bytes, or its fault (R233). -/
def State.armCheck (s : State) (w : Who) (sync : Bool) (a : Word) : Except Trap (List Loc) :=
  if sync then
    let va := Config.syncBase + a.toNat
    if a.toNat % 8 != 0 then .error (faultAt cAlign 1 va)
    else if !syncIn (s.part w.part) a.toNat then .error (faultAt cAccess aWindow va)
    else .ok ((List.range 4).map fun i => .sync w.part (a.toNat + i))
  else if a.toNat % 4 != 0 then .error (faultAt cAlign 1 a.toNat)
  else if a.toNat + 4 ≤ w.scr then .ok ((List.range 4).map fun i => .scratch w.cid (a.toNat + i))
  else .error (faultAt cAccess aWindow a.toNat)
/-- The virtual address of an armed word. -/
def armVa (sync : Bool) (a : Word) : Nat := if sync then Config.syncBase + a.toNat else a.toNat
/-- The kind of each armed byte: a sync variable is strongly ordered (R153, R165). -/
def armedKinds (es : List (Nat × Bool × Word)) : List PKind := es.flatMap fun e => List.replicate 4 (if e.2.1 then .so else .rc)
/-- The armed entries of a `waita`: position, kind and address. -/
def armedList (ctl : Word) (as : List Word) : List (Nat × Bool × Word) :=
  (List.range 4).filterMap fun i => if ctl.getLsbD i then some (i, ctl.getLsbD (4 + i), as.getD i 0) else none
/-- Arms the entries in order; a fault arms nothing. -/
def State.armAll (s : State) (w : Who) : List (Nat × Bool × Word) → Except Trap (List Armed)
  | [] => .ok []
  | (i, k, a) :: r => match s.armCheck w k a with
    | .error e => .error e
    | .ok ls => match s.armAll w r with
      | .error e => .error e
      | .ok xs => .ok (⟨i, ls, BitVec.ofNat 32 (natOf (s.getLocs ls)), false⟩ :: xs)
/-- The words that differ from the expected values when armed. -/
def Armed.differs (expect : List Word) (a : Armed) : Bool := a.value != expect.getD a.i 0
/-- What `waita` returns with word `j`. -/
def waitaWrites (d : Reg) (j : Nat) (x : Word) : List (RegId × DWord) :=
  [(.v d, BitVec.ofNat 64 j), (.v (d + 1), x.setWidth 64)]
/-- What it returns without a word. -/
def waitaNone (d : Reg) : List (RegId × DWord) := [(.v d, 0xFFFFFFFF)]

/-- `waita` by thread `l` for the threads `rs`. -/
def State.waita1 (s : State) (d a b : Reg) (l : Thread) (rs : List Thread) : State :=
  let ctl := l.getV b
  let expect := l.group d 4
  let es := armedList ctl (l.group a 4)
  match s.armAll (s.whoIs l) es with
  | .error e => s.raiseAll rs e
  | .ok xs =>
    let vas : List DWord := es.flatMap fun e => (List.range 4).map fun i => BitVec.ofNat 64 (armVa e.2.1 e.2.2 + i)
    if xs.isEmpty then rs.foldl (fun s t => s.writeRegs t.cid t.tid (waitaNone d)) s
    else s.readOr l rs vas ⟨xs.flatMap Armed.locs, armedKinds es, false⟩ fun s => match xs.find? (Armed.differs expect) with
      | some x => rs.foldl (fun s t => (s.writeRegs t.cid t.tid (waitaWrites d x.i x.value)).acquired t.cid t.tid) s
      | none =>
        let arm : Waita := { words := xs, expect := expect, mates := rs.map Thread.tid, d := d, start := s.clkOf l.cid,
                             tmo := ctl.toNat / 2 ^ 16 * 1024 }
        rs.foldl (fun s t => (s.waitAt t .waita).updThread t.cid t.tid fun u => { u with waita := some arm }) s
/-- `waita` (R233, R234). -/
def execWaita (h : Hd) (d a b : Reg) (s : State) : Out :=
  .next (s.runIssue (hdForm h (groupRegs a 4 ++ groupRegs d 4 ++ [.v b])).barred fun s ps =>
    s.each h.uni ps fun s l rs => s.waita1 d a b l rs)

/-- Ends the `waita` of a thread and of those that armed with it; a return with an index is an acquire (R172). -/
def State.waitaEnd (s : State) (t : Thread) (w : Waita) (index : Bool) (ws : List (RegId × DWord)) : State :=
  let mine (u : Thread) : Bool := u.cid == t.cid && w.mates.contains u.tid && u.wait == .waita &&
    (u.waita.map fun x => (x.mates, x.start)) == some (w.mates, w.start)
  let s := (s.threads.filter mine).foldl (fun s u => s.writeRegs u.cid u.tid ws) s
  s.release mine fun u => { (if index then u.acquire else u).past 4 with waita := none }
/-- WAITA_WAKE (R234, R241): a word of a thread waiting on its core has been written; the lowest such word ends the wait. -/
def execWaitaWake (cid tid : Nat) (s : State) : Out :=
  .next (match s.thread? cid tid, s.company? cid with
  | some t, some c => match t.wait, t.waita with
    | .waita, some w => match w.words.find? fun x => x.hit with
      | some x => if c.onCore then s.waitaEnd t w true (waitaWrites w.d x.i (BitVec.ofNat 32 (natOf (s.getLocs x.locs)))) else s
      | none => s
    | _, _ => s
  | _, _ => s)
/-- WAITA_TIMEOUT (R234): at cycle `now` TMO has expired and no armed word was written; a debug halt pauses the count. -/
def execWaitaTimeout (cid tid now : Nat) (s : State) : Out :=
  .next (match s.thread? cid tid, s.company? cid with
  | some t, some c => match t.wait, t.waita with
    | .waita, some w =>
      if w.tmo != 0 && w.start + w.tmo ≤ now && t.halt.isNone && c.onCore && w.words.all fun x => !x.hit then
        (s.advance c.core now).waitaEnd t w false (waitaNone w.d)
      else s
    | _, _ => s
  | _, _ => s)

/-! ### `mon` and `mwait` (R235, R236) -/

/-- `mon` (R235). Under `.uni` every participating thread arms its monitor on the line of the lowest one. [DESIGN CHOICE, log 98] -/
def execMon (h : Hd) (a : Reg) (s : State) : Out :=
  .next (s.runIssue (hdForm h (baseRegs a)).barred fun s ps =>
    s.access h.uni ps (fun u => { va := u.base a &&& ~~~63, n := 64, acc := .monitor })
      fun s _ rs q c => rs.foldl (fun s t => s.updThread t.cid t.tid fun u =>
        { u with mon := some { va := q.va, asid := u.asid, since := s.nextId, locs := c.locs.map s.canon, hit := [], lost := false } }) s)
/-- The monitor's event is set (R235). -/
def Monitor.event (m : Monitor) : Bool := m.lost || !m.hit.isEmpty
/-- `mwait` on the monitor of thread `l` for the threads `rs` (R236). -/
def State.mwait1 (s : State) (d b : Reg) (l : Thread) (rs : List Thread) : State :=
  let give (s : State) (x : DWord) : State := rs.foldl (fun s t => s.writeRegs t.cid t.tid [(.v d, x)]) s
  match ((s.thread? l.cid l.tid).getD l).mon with
  | none => give s 2
  | some m =>
    if m.event then rs.foldl (fun s t => s.acquired t.cid t.tid) (give (s.updThread l.cid l.tid fun u => { u with mon := none }) 0)
    else rs.foldl (fun s t => (s.waitAt t (.mwait d l.tid s.fresh (s.clkOf t.cid) ((l.getV b).toNat / 2 ^ 16 * 1024))).updThread t.cid t.tid
      fun u => { u with watched := some m }) s
/-- `mwait` (R236). -/
def execMwait (h : Hd) (d b : Reg) (s : State) : Out :=
  .next (s.runIssue (hdForm h [.v b]).barred fun s ps => s.each h.uni ps fun s l rs => s.mwait1 d b l rs)
/-- The destination of a thread that waits at the `mwait` of issue `grp` on the monitor of thread `src`. -/
def Thread.mwaits (t : Thread) (cid src grp : Nat) : Option Reg :=
  match t.wait with
  | .mwait d src' grp' _ _ => if t.cid == cid && src' == src && grp' == grp then some d else none
  | _ => none
/-- Ends an `mwait` in every thread of it that still waits, with a status; status 0 disarms the monitor and is an acquire (R172). -/
def State.mwaitEnd (s : State) (cid src grp : Nat) (x : DWord) : State :=
  let s := s.threads.foldl (fun s t => match t.mwaits cid src grp with
    | some d => s.writeRegs t.cid t.tid [(.v d, x)]
    | none => s) s
  s.release (fun t => (t.mwaits cid src grp).isSome) fun t =>
    let t := { (if x == 0 then t.acquire else t).past 4 with watched := none }
    if x == 0 && t.tid == src then { t with mon := none } else t
/-- The line of a monitor is evicted: a free choice (R235). -/
def State.evicted (s : State) (cid tid : Nat) : Bool := freeBit s.fresh cid (4000 + tid)
/-- MWAIT_WAKE (R235, R236): the event of the monitor at which a thread waits is set, by a write or because its line has been lost. -/
def execMwaitWake (cid tid : Nat) (s : State) : Out :=
  .next (match s.thread? cid tid, s.company? cid with
  | some t, some c => match t.wait, t.watched with
    | .mwait _ src grp _ _, some m =>
      if (m.event || s.evicted cid tid) && c.onCore then ({ s with fresh := s.fresh + 1 } : State).mwaitEnd cid src grp 0 else s
    | _, _ => s
  | _, _ => s)
/-- MWAIT_TIMEOUT (R236): at cycle `now` TMO has expired; the monitor stays armed. -/
def execMwaitTimeout (cid tid now : Nat) (s : State) : Out :=
  .next (match s.thread? cid tid, s.company? cid with
  | some t, some c => match t.wait, t.watched with
    | .mwait _ src grp start tmo, some m =>
      if tmo != 0 && start + tmo ≤ now && !m.event && t.halt.isNone && c.onCore then (s.advance c.core now).mwaitEnd cid src grp 1
      else s
    | _, _ => s
  | _, _ => s)

/-! ### Mailboxes (R237 to R240) -/

/-- The mailbox a handle names: the ring's company and header address (R238). [DEDUCED, log 47] -/
def State.mailbox (s : State) (c : Company) (handle : Word) : Except Trap (Company × Nat × Bool) :=
  let h := handle.toNat % 2 ^ 31
  if handle.getLsbD 31 then
    if h / 2 ^ 12 != 0 then .error (faultAt cAccess aMbox handle.toNat)
    else match s.companies.find? fun x => x.part == c.part && x.exportNum == some h && x.state != .ended with
      | some x => .ok (x, x.exportHdr, true)
      | none => .error (faultAt cAccess aMbox handle.toNat)
  else if h % 16 != 0 then .error (faultAt cAlign 1 h)
  else if h + 16 ≤ c.scrS then .ok (c, h, false)
  else .error (faultAt cAccess aWindow h)
/-- A word of a company's scratchpad. -/
def State.scrWord (s : State) (cid b : Nat) : Nat := natOf ((List.range 4).map fun i => s.getLoc (.scratch cid (b + i)))
/-- A mailbox header (R237). -/
structure Ring where
  base : Nat
  count : Nat
  head : Nat
  tail : Nat
  deriving DecidableEq, Repr
@[inherit_doc Ring] def State.ring (s : State) (cid hdr : Nat) : Ring :=
  ⟨s.scrWord cid hdr, s.scrWord cid (hdr + 4), s.scrWord cid (hdr + 8), s.scrWord cid (hdr + 12)⟩
/-- The header is valid (R237). -/
def Ring.ok (r : Ring) (c : Company) : Bool :=
  r.base % 8 == 0 && ((List.range 17).any fun k => 1 ≤ k && r.count == 2 ^ k) && r.base + r.count * 8 ≤ c.scrS
/-- Messages in the ring. -/
def Ring.used (r : Ring) : Nat := (r.tail + 2 ^ 32 - r.head) % 2 ^ 32
/-- The address of a slot. -/
def Ring.slot (r : Ring) (i : Nat) : Nat := r.base + i % r.count * 8

/-- A mailbox operation of thread `l` for the threads `rs` arrives at its ring and waits there; a `put` of another
company's ring counts as outstanding (R239, R240). -/
def State.mbArrive (s : State) (kind : MbKind) (l : Thread) (rs : List Thread) (handle : Word) (msg : DWord) (d : Reg) : State :=
  match s.company? l.cid with
  | none => s
  | some c => match s.mailbox c handle with
    | .error e => s.raiseAll rs e
    | .ok (x, hdr, remote) =>
      let vas : List DWord := if remote then [] else (List.range 16).map fun i => BitVec.ofNat 64 (hdr + i)
      s.readOr l rs vas ⟨(List.range 16).map fun i => .scratch x.cid (hdr + i), [.rc], false⟩ fun s =>
      if !(s.ring x.cid hdr).ok x then s.raiseAll rs (faultAt cAccess aMbox hdr)
      else
        let id := s.nextId
        let op : MbOp := { id := id, kind := kind, cid := l.cid, tid := l.tid, lanes := rs.map Thread.tid, ring := x.cid,
                           hdr := hdr, remote := remote, spoiled := false, msg := msg, d := d, dead := [] }
        let s := { s with mbox := s.mbox ++ [op], nextId := id + 1 }
        let s := if remote && kind != .get then s.outAdd l.cid 1 else s
        if kind == .call then s else rs.foldl (fun s t => s.waitAt t (.mbox id)) s
/-- An operation's read of its header must wait (R161): then the whole group does, since its lanes arrive in order (R239). -/
def State.mbHolds (s : State) (handle : Thread → Word) (ts : List Thread) : Option Wait :=
  let s : State := { s with fresh := s.fresh + 1 }
  if ts.any fun l => match s.company? l.cid with
    | none => false
    | some c => match s.mailbox c (handle l) with
      | .ok (x, hdr, false) => !s.mayRead l ((List.range 16).map fun i => BitVec.ofNat 64 (hdr + i))
          ⟨(List.range 16).map fun i => .scratch x.cid (hdr + i), [.rc], false⟩
      | _ => false
  then some .quiet else none
/-- `mbput`: a release (R239, R240). -/
def execMbput (h : Hd) (a b : Reg) (s : State) : Out :=
  .next (s.runIssue (hdForm h (.v a :: pairRegs b)).release.barred
    (fun s ps => s.each h.uni ps fun s l rs => s.mbArrive .put l rs (l.getV a) (l.getPair b) 0)
    fun s ps => s.mbHolds (·.getV a) (actors h.uni ps))
/-- `mbget` (R239, R240). -/
def execMbget (h : Hd) (d a : Reg) (s : State) : Out :=
  .next (s.runIssue (hdForm h [.v a]).barred
    (fun s ps => s.each h.uni ps fun s l rs => s.mbArrive .get l rs (l.getV a) 0 d)
    fun s ps => s.mbHolds (·.getV a) (actors h.uni ps))

/-- Operations of one ring that wait in one order: gets, or puts and calls (R239). -/
def MbOp.sameLine (m x : MbOp) : Bool := m.ring == x.ring && m.hdr == x.hdr && (m.kind == .get) == (x.kind == .get)
/-- A company takes part in mailbox operations: it is on its core and not being saved (R240). -/
def Company.open_ (c : Company) : Bool := match c.state with | .resident | .draining _ => true | _ => false
/-- An operation may be served: it is the first of its line, and the ring's company and its own are on their cores and not being
saved; one of a saved company keeps its place (R41, R240). [DEDUCED, log 126] -/
def State.mbFirst (s : State) (id : Nat) : Option (MbOp × Company) :=
  match s.mbox.find? fun m => m.id == id with
  | none => none
  | some m => match s.mbox.find? (MbOp.sameLine m), s.company? m.ring with
    | some x, some c => if x.id == id && c.open_ && (s.company? m.cid).any Company.open_ then some (m, c) else none
    | _, _ => none
/-- A header that the program wrote under a pending operation has unpredictable HEAD and TAIL (R237). -/
def State.spoilRing (s : State) (m : MbOp) : State :=
  if s.mbox.any fun x => x.ring == m.ring && x.hdr == m.hdr && x.spoiled then
    let s := s.ringWrite ((List.range 8).map fun i => .scratch m.ring (m.hdr + 8 + i))
      (bytesOf 4 (Config.freeWord s.fresh 0).toNat ++ bytesOf 4 (Config.freeWord s.fresh 1).toNat)
    { s with fresh := s.fresh + 1,
             mbox := s.mbox.map fun x => if x.ring == m.ring && x.hdr == m.hdr then { x with spoiled := false } else x }
  else s
/-- An operation whose header is no longer valid faults in its threads, and leaves the line. -/
def State.mbFault (s : State) (m : MbOp) : State :=
  let ts := m.lanes.filterMap fun i => s.thread? m.cid i
  let s := { s with mbox := s.mbox.filter fun x => x.id != m.id }
  let s := if m.remote && m.kind != .get then s.outSub m.cid else s
  (ts.foldl (fun s t => s.updThread t.cid t.tid fun u => { u with wait := .none }) s).raiseAll ts (faultAt cAccess aMbox m.hdr)
/-- The threads of a served operation go on with what they receive; an `mbget` is an acquire (R172). -/
def State.mbDone (s : State) (m : MbOp) (ws : List (RegId × DWord)) : State :=
  let s := { s with mbox := s.mbox.filter fun x => x.id != m.id }
  let s := m.lanes.foldl (fun s i => s.writeRegs m.cid i ws) s
  let s := s.release (fun t => t.wait == .mbox m.id) fun t => (if m.kind == .get then t.acquire else t).past 4
  if m.remote && m.kind != .get then s.outSub m.cid else s
/-- A message is placed (R239). -/
def State.ringPut (s : State) (m : MbOp) (r : Ring) : State :=
  let s := s.ringWrite ((List.range 8).map fun i => .scratch m.ring (r.slot r.tail + i)) (bytesOf 8 m.msg.toNat)
  s.ringWrite ((List.range 4).map fun i => .scratch m.ring (m.hdr + 12 + i)) (bytesOf 4 (r.tail + 1))

/-- MBPUT_SERVE (R239): a waiting put is served once its ring has room. -/
def execMbputServe (id : Nat) (s : State) : Out :=
  .next (match s.mbFirst id with
  | some (m, c) =>
    if m.kind != .put then s else
    let s := s.spoilRing m
    let r := s.ring m.ring m.hdr
    if !r.ok c then s.mbFault m
    else if r.used == r.count then s
    else (s.ringPut m r).mbDone m []
  | none => s)
/-- MBGET_SERVE (R239): a waiting get is served once its ring holds a message. -/
def execMbgetServe (id : Nat) (s : State) : Out :=
  .next (match s.mbFirst id with
  | some (m, c) =>
    if m.kind != .get then s else
    let s := s.spoilRing m
    let r := s.ring m.ring m.hdr
    if !r.ok c then s.mbFault m
    else if r.used == 0 then s
    else
      let x : DWord := BitVec.ofNat 64 (natOf ((List.range 8).map fun i => s.getLoc (.scratch m.ring (r.slot r.head + i))))
      let s := s.ringWrite ((List.range 4).map fun i => .scratch m.ring (m.hdr + 8 + i)) (bytesOf 4 (r.head + 1))
      s.mbDone m (pairWrites m.d x)
  | none => s)

end Sys2Proof.Machine
end

