-- ==== Sys2Proof/Machine/Tender.lean ====
section
/-!
DEFINITION. The tender (R245 to R255), the fabric engine (R256 to R260), and the steps in which their commands run.
-/
namespace Sys2Proof.Machine

/-! ### Command blocks (R246 to R248, R256) -/

/-- A command block as 16 words. -/
abbrev Block := List Word
/-- A word of a block, by byte offset. -/
def bw (b : Block) (off : Nat) : Nat := (b.getD (off / 4) 0).toNat
/-- A 64-bit field. -/
def bd (b : Block) (off : Nat) : Nat := bw b off + bw b (off + 4) * 2 ^ 32
/-- A signed 64-bit field. -/
def bs64 (b : Block) (off : Nat) : Int := (BitVec.ofNat 64 (bd b off)).toInt

/-- Field checks of a block in ascending offset: the offset and whether the field is legal (R248, R256). [DEDUCED, log 49] [DEDUCED, log 53] -/
def blockChecks (k : CmdKind) (b : Block) : List (Nat × Bool) :=
  let z (off : Nat) : Nat × Bool := (off, bw b off == 0)
  let z8 (off : Nat) : Nat × Bool := (off, bd b off == 0)
  match k with
  | .copy => [z 28, z8 32, z8 40]
  | .copy2 => [(24, 1 ≤ bw b 24 && bw b 24 ≤ 4096), (28, bw b 28 ≤ 65535)]
  | .gath | .scat => [(24, bw b 24 % 4 == 0 && 4 ≤ bw b 24 && bw b 24 ≤ 4096), (32, bd b 32 % 4 == 0), z8 40]
  | .fill => [z8 0, (8, bd b 8 % 8 == 0), (24, bw b 24 % 8 == 0), z 28, z8 40]
  | .note => [z8 0, z8 8, z 24, z 28, z8 32, z8 40]
  | .coll => [(24, bw b 24 % 16 < 4 && bw b 24 / 16 % 16 < 4 && bw b 24 / 2 ^ 16 == 0), (32, bw b 32 / 2 ^ 16 == 0), z8 40]
  | .rflush => [z8 8, z 28, z 32, z 36, z8 40]
  | .esc .. => []
/-- The offset of the first offending field of a block (R247). -/
def blockBad (k : CmdKind) (cw : Bool) (scr : Nat) (b : Block) : Option Nat :=
  let cwOk := !cw || (bw b 16 % 4 == 0 && bw b 16 + 4 ≤ scr)
  let cs := blockChecks k b
  let all := cs.filter (fun c => c.1 < 16) ++ [(16, cwOk)] ++ cs.filter (fun c => 16 ≤ c.1) ++
    [(48, bd b 48 == 0), (60, bw b 60 == 0)]
  (all.find? fun c => !c.2).map (·.1)
/-- The control word is legal: reserved bits are zero and SCOPE is not 7 (R246, R247). -/
def ctlOk (x : Word) : Bool := x.toNat / 256 == 0 && !x.getLsbD 3 && x.toNat % 8 != 7

/-- The tender executes the command; it is a hand-over copy. -/
def CmdKind.tender : CmdKind → Bool
  | .coll | .rflush => false
  | _ => true
@[inherit_doc CmdKind.tender] def CmdKind.isEsc : CmdKind → Bool
  | .esc .. => true
  | _ => false
/-- Commands that the tender of a core holds (R245); those of a saved company have left it (R255). [DEDUCED, log 48] -/
def State.tenderLoad (s : State) (core : Nat) : Nat :=
  s.cmds.countP fun c => c.core == core && c.kind.tender && !(s.companies.any fun k => k.cid == c.cid && k.state == .saved)

/-- ENGINE BADCMD (R247). -/
def badCmd (extra : Word) : Trap := { cls := cEngine, sub := 1, extra := extra }
/-- Queues a command as its troupe's next ticket and gives the ticket (R245). -/
def State.queueCmd (s : State) (c : Cmd) : State × Word :=
  let tk : Word := match s.troupe? c.cid c.trp with
    | some u => u.ticket + 1
    | none => 1
  let s := s.updTroupe c.cid c.trp fun u => { u with ticket := tk }
  let s := { s with cmds := s.cmds ++ [{ c with id := s.nextId, ticket := tk }], nextId := s.nextId + 1 }
  (s.outAdd c.cid 1, tk)

/-- A command of thread `l`, whose ticket goes to the threads `rs` (R245 to R247). The control word is tested after the block; where it is
illegal, the extra word is a free value. [DESIGN CHOICE, log 100] -/
def State.command1 (s : State) (k : CmdKind) (d a b : Reg) (l : Thread) (rs : List Thread) : State :=
  match s.company? l.cid with
  | none => s
  | some c =>
    let ctl := l.getV b
    let va : DWord := (l.getV a).setWidth 64
    if ctl.getLsbD 7 && !l.sys then s.raiseAll rs { cls := cPriv, sub := 3 }
    else if va.toNat % 64 != 0 then s.raiseAll rs (faultAt cAlign 1 va.toNat)
    else if c.scrS < va.toNat + 64 then s.raiseAll rs (faultAt cAccess aWindow va.toNat)
    else
      let ls : List Loc := (List.range 64).map fun i => .scratch c.cid (va.toNat + i)
      s.readOr l rs ((List.range 64).map fun i => va + BitVec.ofNat 64 i) ⟨ls, [.rc], false⟩ fun s =>
        let bytes := s.getLocs ls
        let blk : Block := (List.range 16).map fun i => BitVec.ofNat 32 (natOf ((bytes.drop (4 * i)).take 4))
        match blockBad k (ctl.getLsbD 6) c.scrS blk with
        | some off => s.raiseAll rs (badCmd (BitVec.ofNat 32 off))
        | none =>
          if !ctlOk ctl then { s.raiseAll rs (badCmd (Config.freeWord s.fresh 0)) with fresh := s.fresh + 1 }
          else if k.tender && 64 ≤ s.tenderLoad c.core then rs.foldl (fun s t => s.waitAt t .tender) s
          else
            let cmd : Cmd := { id := 0, core := c.core, cid := c.cid, trp := l.trp, tid := l.tid, launch := c.launch, ticket := 0,
                               kind := k, state := .run, asid := l.asid, sys := l.sys, physAddr := ctl.getLsbD 7,
                               cw := ctl.getLsbD 6, rel := ctl.getLsbD 5, acq := ctl.getLsbD 4, blk := va.toNat,
                               src := BitVec.ofNat 64 (bd blk 0), dst := BitVec.ofNat 64 (bd blk 8), cwaddr := bw blk 16,
                               cwval := BitVec.ofNat 32 (bw blk 20), w := blk, cursor := 0, status := 0, fva := 0 }
            match s.queueCmd cmd with
            | (s, tk) => rs.foldl (fun s t => s.writeRegs t.cid t.tid [(.v d, tk.setWidth 64)]) s
/-- A command's read of its block must wait (R161): then the whole group does, since its lanes issue in order (R245). -/
def State.cmdHolds (s : State) (a b : Reg) (ts : List Thread) : Option Wait :=
  let s : State := { s with fresh := s.fresh + 1 }
  if ts.any fun l => match s.company? l.cid with
    | none => false
    | some c =>
      let va := (l.getV a).toNat
      ((l.getV b).getLsbD 7 → l.sys) && va % 64 == 0 && va + 64 ≤ c.scrS &&
        !s.mayRead l ((List.range 64).map fun i => BitVec.ofNat 64 (va + i)) ⟨(List.range 64).map fun i => .scratch c.cid (va + i), [.rc], false⟩
  then some .quiet else none
/-- A TEND or FAB command by every participating thread (R245). -/
def State.command (s : State) (h : Hd) (k : CmdKind) (d a b : Reg) : Out :=
  .next (s.runIssue (hdForm h [.v a, .v b]).barred (fun s ps => s.each h.uni ps fun s l rs => s.command1 k d a b l rs)
    fun s ps => s.cmdHolds a b (actors h.uni ps))
/-- `tcopy` (R248). -/
def execTcopy (h : Hd) (d a b : Reg) (s : State) : Out := s.command h .copy d a b
/-- `tcopy2` (R248). -/
def execTcopy2 (h : Hd) (d a b : Reg) (s : State) : Out := s.command h .copy2 d a b
/-- `tgath` (R250). -/
def execTgath (h : Hd) (d a b : Reg) (s : State) : Out := s.command h .gath d a b
/-- `tscat` (R250). -/
def execTscat (h : Hd) (d a b : Reg) (s : State) : Out := s.command h .scat d a b
/-- `tfill` (R248). -/
def execTfill (h : Hd) (d a b : Reg) (s : State) : Out := s.command h .fill d a b
/-- `tnote` (R248, R251). -/
def execTnote (h : Hd) (d a b : Reg) (s : State) : Out := s.command h .note d a b
/-- `tcoll` (R256, R257). -/
def execTcoll (h : Hd) (d a b : Reg) (s : State) : Out := s.command h .coll d a b
/-- `rflush` (R256, R258). -/
def execRflush (h : Hd) (d a b : Reg) (s : State) : Out := s.command h .rflush d a b

/-! ### `twait` (R252) -/

/-- Commands of a troupe that a ticket waits for. -/
def State.ticketOut (s : State) (cid trp : Nat) (tk : Word) : Bool :=
  s.cmds.any fun c => c.cid == cid && c.trp == trp && (tk - c.ticket).toNat < 2 ^ 31
/-- The sticky status of a troupe. -/
def State.tenderStatus (s : State) (cid trp : Nat) : Word :=
  match s.troupe? cid trp with
  | some u => u.status.setWidth 32
  | none => 0
/-- Clears the sticky status of troupes, by company and index. -/
def State.clearStatus (s : State) (us : List (Nat × Nat)) : State :=
  { s with troupes := s.troupes.map fun u => if us.contains (u.cid, u.idx) then { u with status := 0 } else u }
/-- `twait`: threads whose commands have completed receive their troupe's status together, and it is cleared; the others
wait. Under `.uni` ticket, commands and status are those of the lowest thread (R33, R252). -/
def execTwait (h : Hd) (d a : Reg) (s : State) : Out :=
  .next (s.runIssue (hdForm h [.v a]).barred fun s ps =>
    let go (s : State) (l : Thread) (rs : List Thread) : State :=
      if s.ticketOut l.cid l.trp (l.getV a) then rs.foldl (fun s t => s.waitAt t (.twait l.trp (l.getV a) d)) s
      else rs.foldl (fun s t => s.writeRegs t.cid t.tid [(.v d, (s.tenderStatus l.cid l.trp).setWidth 64)]) s
    let done := (actors h.uni ps).filter fun l => !s.ticketOut l.cid l.trp (l.getV a)
    (s.each h.uni ps go).clearStatus (done.map fun l => (l.cid, l.trp)))
/-- What a thread at `twait` receives where its commands have completed: the troupe and the destination. -/
def State.twaitDone (s : State) (t : Thread) : Option (Nat × Reg) :=
  match t.wait with
  | .twait trp tk d => if s.ticketOut t.cid trp tk then none else some (trp, d)
  | _ => none
/-- Threads at `twait` whose commands have completed return (R252). -/
def State.wakeTwait (s : State) : State :=
  let done := s.threads.filterMap fun t => (s.twaitDone t).map fun x => (t, x)
  let s := done.foldl (fun s x => s.writeRegs x.1.cid x.1.tid [(.v x.2.2, (s.tenderStatus x.1.cid x.2.1).setWidth 64)]) s
  if done.isEmpty then s
  else (s.release (fun t => done.any fun x => x.1.cid == t.cid && x.1.tid == t.tid) (·.past 4)).clearStatus (done.map fun x => (x.1.cid, x.2.1))

/-! ### Units (R248 to R250) -/

/-- The 64-byte-aligned pieces of a destination. -/
def pieces (dst len : Nat) : Nat := if len == 0 then 0 else (dst + len - 1) / 64 - dst / 64 + 1
/-- Piece `k`: where it starts, relative to `dst`, and its length. -/
def piece (dst len k : Nat) : Nat × Nat :=
  let lo := if k == 0 then dst else (dst / 64 + k) * 64
  let hi := min (dst + len) ((dst / 64 + k + 1) * 64)
  (lo - dst, hi - lo)
/-- Units of a command. -/
def Cmd.units (c : Cmd) : Nat :=
  match c.kind with
  | .copy | .fill => pieces c.dst.toNat (bw c.w 24)
  | .copy2 => bw c.w 28
  | .gath | .scat => bw c.w 28
  | .note => 0
  | .coll | .rflush | .esc .. => 1

/-- A unit: where it reads and writes, and how much; `tfill` reads nothing. -/
structure TUnit where
  src : Option Nat
  dst : Nat
  len : Nat
  deriving DecidableEq, Repr
/-- An address modulo 2^64. -/
def va64 (x : Int) : Nat := (BitVec.ofInt 64 x).toNat
/-- Unit `k` of a command, with the index word `x` of a gather or scatter. -/
def Cmd.unitAt (c : Cmd) (k x : Nat) : TUnit :=
  let s := c.src.toNat
  let d := c.dst.toNat
  match c.kind with
  | .copy => let p := piece d (bw c.w 24) k; ⟨some (va64 (s + p.1)), va64 (d + p.1), p.2⟩
  | .fill => let p := piece d (bw c.w 24) k; ⟨none, va64 (d + p.1), p.2⟩
  | .copy2 => ⟨some (va64 (s + k * bs64 c.w 32)), va64 (d + k * bs64 c.w 40), bw c.w 24⟩
  | .gath => ⟨some (va64 (s + x * bw c.w 24)), va64 (d + k * bw c.w 24), bw c.w 24⟩
  | .scat => ⟨some (va64 (s + k * bw c.w 24)), va64 (d + x * bw c.w 24), bw c.w 24⟩
  | .note => ⟨none, d, 0⟩
  | .coll | .rflush => ⟨none, d, 0⟩
  | .esc .. => ⟨some s, d, bw c.w 24⟩

/-- The accessing agent of a command: the issuing thread's company, ASID and mode (R150). -/
def State.cmdWho (s : State) (c : Cmd) : Who :=
  match s.company? c.cid with
  | some k => { cid := c.cid, part := k.part, asid := c.asid.toNat, sys := c.sys, scr := k.scrS }
  | none => { cid := c.cid, part := 0, asid := c.asid.toNat, sys := c.sys, scr := 0 }
/-- The first fault of a device-physical range in the on-chip windows, page by page (R154). -/
def State.physFault (s : State) (a n : Nat) : Nat → Option Trap
  | 0 => none
  | fuel + 1 =>
    let n1 := firstPart a n
    let here := match chipCore a with
      | some c => (s.chipFault c ((a - Config.chipBase) % Config.chipSize) n1).map fun sub => faultAt cAccess sub a
      | none => none
    if n == 0 then none else here <|> s.physFault (a + n1) (n - n1) fuel
/-- Checks a range for a command; with PHYS its addresses are device-physical (R154, R246, R249), and one beyond 48 bits names memory
like any other. [DESIGN CHOICE, log 116] -/
def State.cmdCheck (s : State) (c : Cmd) (k : Acc) (va n : Nat) : Except Trap Checked :=
  if c.physAddr then match s.physFault va n (n / 4096 + 2) with
    | some tr => .error tr
    | none => .ok ⟨(List.range n).map fun i => if k.reads then s.physAt (s.partOf c.cid) (va + i) else .phys (va + i), [.rc], false⟩
  else s.checkRange (s.cmdWho c) k va n (n / 4096 + 2)
/-- Writes bytes that have passed their checks, page by page; a RED page takes them as FP32 contributions (R168, R249). -/
def State.cmdStore (s : State) (c : Cmd) (va : Nat) (bs : List Byte) : Nat → State
  | 0 => s
  | fuel + 1 =>
    if bs.isEmpty then s else
    let n := if c.physAddr then bs.length else firstPart va bs.length
    let s := match s.cmdCheck c .engineW va n with
      | .error _ => s
      | .ok k => match k.kinds, k.locs.map Loc.plain with
        | [.red], .phys a :: _ => s.updPart (s.partOf c.cid) fun p =>
            (List.range (n / 4)).foldl (fun p i => p.contribute (a + 4 * i) ((bs.drop (4 * i)).take 4)) p
        | _, _ => (if c.physAddr then s.claimPhys (s.partOf c.cid) va n else s.claim (s.cmdWho c) va n [] 2).perform k.locs (bs.take n)
    s.cmdStore c (va + n) (bs.drop n) fuel

/-- The bytes of the completion word, where one is asked for (R251). -/
def Cmd.wordRange (c : Cmd) : List (Nat × Nat) := if c.cw then [(c.cwaddr, 4)] else []
/-- A range of a command's addresses reaches a device-physical byte. -/
def State.cmdReaches (s : State) (c : Cmd) (a : Nat) (r : Nat × Nat) : Bool :=
  if c.physAddr then inRanges [r] a else (List.range r.2).any fun i =>
    Config.scratchEnd ≤ r.1 + i && match s.translate (s.partOf c.cid) c.asid.toNat (r.1 + i) with
      | .ok l => l.phys (r.1 + i) == a
      | .error _ => false
/-- A command and an operation reach one location (R160): one virtual address, or one byte of an on-chip window. -/
def State.cmdMeets (s : State) (c : Cmd) (ranges words : List (Nat × Nat)) (o : MemOp) : Bool :=
  (o.asid == c.asid && o.spanVas.any (inRanges ((if c.physAddr then [] else ranges) ++ words))) ||
    o.spanLocs.any fun l => match l with
      | .phys a => (chipCore a).isSome && ranges.any (s.cmdReaches c a)
      | _ => false
/-- The command may make its next access, to its ranges, or with `word` to its completion word too: it is the first of its troupe that has
not completed, its company runs on its core, and what it is ordered after has performed: with ACQ every access of its thread but those to
UO pages, whatever fence stands between, else those to the same locations (R160, R171, R249, R255). A hand-over copy runs on while its
company is saved or flushed (R359), and in a save so do the commands before it; one of these that has stopped at a fault it passes.
[DESIGN CHOICE, log 101] -/
def State.cmdReady (s : State) (c : Cmd) (ranges : List (Nat × Nat)) (word : Bool := false) : Bool :=
  let state : Residency := match s.company? c.cid with | some k => k.state | none => .ended
  let passed (x : Cmd) : Bool := c.kind.isEsc && !x.kind.isEsc && x.kind.tender &&
    state == .saving && match x.state with
    | .stopped _ => true
    | _ => false
  let first := !(s.cmds.any fun x => x.cid == c.cid && x.trp == c.trp && x.id < c.id && !passed x)
  let runs := !c.kind.tender || match state with
    | .resident | .draining _ => true
    | .saving => s.cmds.any fun x => x.cid == c.cid && x.trp == c.trp && c.id ≤ x.id && x.kind.isEsc
    | .flushing => c.kind.isEsc
    | _ => false
  let held (o : MemOp) : Bool := o.cid == c.cid && o.tid == c.tid && o.id < c.id && o.isAccess &&
    ((c.acq && !(o.kinds.all (· == .uo))) || s.cmdMeets c ranges (if word then c.wordRange else []) o)
  first && runs && !(s.ops.any held)

/-- A unit's check failed: CURSOR is written and the owner is to take an ENGINE trap; a second PAGE fault of a unit ends
the command with FAULT (R253). -/
def State.cmdStop (s : State) (c : Cmd) (tr : Trap) : State :=
  let page := tr.cls == cPage
  let s := if (s.cmdWho c).scr < c.blk + 64 || c.kind.isEsc then s
    else s.perform ((List.range 4).map fun i => .scratch c.cid (c.blk + 56 + i)) (bytesOf 4 c.cursor)
  if page && c.state == .retry then s.updCmd c.id Cmd.fault
  else
    let shared := s.cmds.any fun x => x.state == .stopped page && x.samePage { c with fva := tr.addr }
    let s := s.updCmd c.id fun x => { x with state := .stopped page, fva := tr.addr }
    if shared then s
    else s.engineTrap c.id { trap := { cls := cEngine, sub := if page then 2 else 3, addr := tr.addr, extra := c.ticket },
                             ticket := c.ticket.toNat, cmd := some c.id }
/-- The command has done a unit. -/
def Cmd.advance (c : Cmd) : Cmd := { c with cursor := c.cursor + 1, state := .run }

/-- The bytes of the index word of the next entry of a gather or scatter. -/
def Cmd.indexRange (c : Cmd) : List (Nat × Nat) :=
  match c.kind with
  | .gath | .scat => [(va64 (bd c.w 32 + 4 * c.cursor), 4)]
  | _ => []
/-- The index word of a gather or scatter for entry `k`. -/
def State.cmdIndex (s : State) (c : Cmd) : Except Trap (Nat × Bool) :=
  match c.kind with
  | .gath | .scat => match s.cmdCheck c .load (va64 (bd c.w 32 + 4 * c.cursor)) 4 with
    | .error e => .error e
    | .ok k => .ok (natOf (s.getLocs k.locs), k.mig)
  | _ => .ok (0, false)
/-- The bytes of a `tfill` unit: the pattern from DST on. -/
def Cmd.pattern (c : Cmd) (off n : Nat) : List Byte :=
  (List.range n).map fun i => (bytesOf 8 (bd c.w 32)).getD ((off + i) % 8) 0

/-- The checks and the work of one unit. -/
def State.cmdUnit (s : State) (c : Cmd) (u : TUnit) (err : Bool) : State :=
  let src : Except Trap Checked := match u.src with
    | some a => s.cmdCheck c .load a u.len
    | none => .ok ⟨[], [], false⟩
  match src, s.cmdCheck c .engineW u.dst u.len with
  | .error e, _ => s.cmdStop c e
  | .ok _, .error e => s.cmdStop c e
  | .ok x, .ok y =>
    if x.mig || y.mig then s
    else if err && u.src.isSome then s.updCmd c.id fun c => { c.advance with status := c.status ||| 1 }
    else
      let bs := match u.src with
        | some _ => s.getLocs x.locs
        | none => c.pattern (u.dst - c.dst.toNat) u.len
      (s.cmdStore c u.dst bs (u.len + 1)).updCmd c.id Cmd.advance

/-- A command that can run. -/
def CmdState.live : CmdState → Bool
  | .run | .retry => true
  | .stopped _ | .ended => false
/-- TENDER_UNIT (R249 to R254): the tender performs the next unit of a command, or stops it. -/
def execTenderUnit (id : Nat) (err : Bool) (s : State) : Out :=
  .next (match s.cmds.find? fun c => c.id == id with
  | none => s
  | some c =>
    if !c.kind.tender || !c.state.live || c.units ≤ c.cursor || c.kind.isEsc then s
    else if !s.cmdReady c c.indexRange then s
    else match s.cmdIndex c with
      | .error e => s.cmdStop c e
      | .ok (x, mig) =>
        let u := c.unitAt c.cursor x
        if mig || !s.cmdReady c ((match u.src with | some a => [(a, u.len)] | none => []) ++ [(u.dst, u.len)]) then s
        else s.cmdUnit c u err)

/-- A command leaves its queue: its completion word is written where asked, its status joins the troupe's, and whoever
waits for it goes on (R245, R251, R252, R261). -/
def State.cmdFinish (s : State) (c : Cmd) : State :=
  let s := if c.cw && c.cwaddr + 4 ≤ (s.cmdWho c).scr then
    s.perform ((List.range 4).map fun i => .scratch c.cid (c.cwaddr + i)) (bytesOf 4 c.cwval.toNat) else s
  let s := s.updTroupe c.cid c.trp fun u => { u with status := u.status ||| c.status }
  let s := ({ s with cmds := s.cmds.filter fun x => x.id != c.id } : State).outSub c.cid
  (if c.kind.tender then s.wakeTender c.core else s).wakeTwait
/-- TENDER_COMPLETE (R251): a command that has done all its units, or ended at a fault, completes in ticket order. -/
def execTenderComplete (id : Nat) (s : State) : Out :=
  .next (match s.cmds.find? fun c => c.id == id with
  | none => s
  | some c =>
    let done := (c.state == .run && c.units ≤ c.cursor) || c.state == .ended
    if c.kind.tender && done && s.cmdReady c [] true && !c.kind.isEsc then s.cmdFinish c
    else s)

/-! ### Collectives (R257) -/

/-- The ranks of a Sokerex group (R256, R389). -/
def State.groupOf (s : State) (c : Cmd) (n : Nat) : Option Group := (s.part (s.partOf c.cid)).groups[n]?
/-- A node of the tree over ranks: FP32 addition, INT32 addition, FP32 maximum (R257). Of a NaN and a number the maximum is the number, as
R224 has it. [DESIGN CHOICE, log 99] -/
def collNode (ty : Nat) (x y : Nat) : Nat :=
  match ty with
  | 2 => (x + y) % 2 ^ 32
  | 3 => fp32.atomMinmax true x y
  | _ => fp32.atomAdd x y
/-- One level of the tree over ranks: pairs in rank order; an unpaired last operand passes up unchanged. -/
def rankPairs {α : Type} (node : α → α → α) : List α → List α
  | x :: y :: r => node x y :: rankPairs node r
  | r => r
/-- The tree over ranks; `fuel` bounds its levels. -/
def rankTree {α : Type} (node : α → α → α) (none_ : α) : Nat → List α → α
  | 0, xs => xs.headD none_
  | fuel + 1, xs => match xs with
    | [] => none_
    | [x] => x
    | _ => rankTree node none_ fuel (rankPairs node xs)
@[inherit_doc rankTree] def collTree (ty : Nat) (fuel : Nat) (xs : List Nat) : Nat := rankTree (collNode ty) 0 fuel xs
/-- Bytes of an element: BF16 has two. -/
def collSize (ty : Nat) : Nat := if ty == 1 then 2 else 4
/-- An element as it enters the tree. -/
def collIn (ty x : Nat) : Nat :=
  let y := if ty == 1 then x % 2 ^ 16 * 2 ^ 16 else x
  if ty ≤ 1 && (fp32.value y).isNan then fp32.nan else y
/-- An element as the root gives it: BF16 is rounded once. -/
def collOut (ty x : Nat) : Nat := if ty == 1 then (convert fp32 bf16 false .rne x).bits else x

/-- The reduction of element `e` over the ranks, where this rank's is `x`. -/
def collReduce (fresh : Nat) (g : Group) (ty e x : Nat) : Nat :=
  let vals := (List.range g.ranks).map fun r => collIn ty (if r == g.rank then x else (Config.rankWord fresh r e).toNat)
  collOut ty (collTree ty (g.ranks + 1) vals)
/-- The elements that a collective writes on this rank, from its source elements (R257). [DEDUCED, log 51] -/
def collResult (fresh : Nat) (g : Group) (kind ty root count : Nat) (src : List Nat) : List Nat :=
  match kind with
  | 0 => (List.range count).map fun e => collReduce fresh g ty e (src.getD e 0)
  | 1 => (List.range count).map fun e => collReduce fresh g ty (g.rank * count + e) (src.getD (g.rank * count + e) 0)
  | 2 => (List.range (g.ranks * count)).map fun e =>
      if e / max count 1 == g.rank then src.getD (e % max count 1) 0 else (Config.rankWord fresh (e / max count 1) (e % max count 1)).toNat
  | _ => (List.range count).map fun e => if root == g.rank then src.getD e 0 else (Config.rankWord fresh root e).toNat

/-- A fabric command ends with FABRIC (R257, R259). -/
def Cmd.fabric (c : Cmd) : Cmd := { c with status := c.status ||| 4 }
/-- The fields of a `tcoll` (R256). -/
structure Coll where
  kind : Nat
  ty : Nat
  root : Nat
  count : Nat
  group : Nat
  deriving DecidableEq, Repr
@[inherit_doc Coll] def Cmd.coll (c : Cmd) : Coll :=
  ⟨bw c.w 24 % 16, bw c.w 24 / 16 % 16, bw c.w 24 / 256 % 256, bw c.w 28, bw c.w 32 % 2 ^ 16⟩
/-- A fabric command that may run now. -/
def State.fabricReady (s : State) (id : Nat) : Option Cmd :=
  match s.cmds.find? fun c => c.id == id with
  | some c => if c.state.live && s.cmdReady c [] then some c else none
  | none => none
/-- A port that the command needs is down (R389). -/
def State.portLost (s : State) (c : Cmd) : Bool :=
  (List.range 8).any fun p => !(s.status.getD 3 0).getLsbD p && Config.usesPort c.id p
/-- The data part of a `tcoll` whose ranks agree, or not. -/
def State.collDo (s : State) (c : Cmd) (agree : Bool) : State :=
  let f := c.coll
  let agree := agree && !s.portLost c
  let sz := collSize f.ty
  let ranks := match s.groupOf c f.group with
    | some g => g.ranks
    | none => 1
  let nsrc := (if f.kind == 1 then ranks * f.count else f.count) * sz
  let ndst := (if f.kind == 2 then ranks * f.count else f.count) * sz
  match s.cmdCheck c .load c.src.toNat nsrc, s.cmdCheck c .engineW c.dst.toNat ndst with
  | .error e, _ => s.cmdStop c e
  | .ok _, .error e => s.cmdStop c e
  | .ok x, .ok y =>
    if x.mig || y.mig || !s.cmdReady c [(c.src.toNat, nsrc), (c.dst.toNat, ndst)] true then s
    else
      let s' := { s with fresh := s.fresh + 1 }
      match s.groupOf c f.group, agree && (f.kind != 3 || f.root < ranks) with
      | some g, true =>
        let bs := s.getLocs x.locs
        let src := (List.range (nsrc / sz)).map fun e => natOf ((bs.drop (e * sz)).take sz)
        let out := (collResult s.fresh g f.kind f.ty f.root f.count src).flatMap (bytesOf sz)
        (s'.cmdStore c c.dst.toNat out (out.length + 1)).cmdFinish c
      | _, _ =>
        let junk := (List.range ndst).map fun i => Config.freeByte s.fresh i
        (s'.cmdStore c c.dst.toNat junk (ndst + 1)).cmdFinish c.fabric
/-- TCOLL_COMPLETE (R257): all ranks of the group have issued the collective; `agree` tells that their fields are equal
and no link has failed. A stopped command waits for its handler. -/
def execTcollComplete (id : Nat) (agree : Bool) (s : State) : Out :=
  .next (match s.fabricReady id with
  | some c => match c.kind with
    | .coll => s.collDo c agree
    | _ => s
  | none => match s.cmds.find? fun c => c.id == id with
    | some c => if c.kind == .coll && c.state == .ended && s.cmdReady c [] true then s.cmdFinish c else s
    | none => s)

/-! ### The reducing window (R258, R259) -/

/-- The pieces of a contribution: address, bytes of the element (2 or 4) and its bits. -/
def contribParts (a : Nat) (bs : List Byte) : List (Nat × Nat × Nat) :=
  if bs.length == 2 then [(a, 2, natOf bs)]
  else (List.range (bs.length / 4)).map fun i => (a + 4 * i, 4, natOf ((bs.drop (4 * i)).take 4))
/-- The element's value as FP32. -/
def contribValue (p : Nat × Nat × Nat) : Nat := if p.2.1 == 2 then collIn 1 p.2.2 else collIn 0 p.2.2
/-- The sum of one element's contributions in the order they entered (R258). [DEDUCED, log 52] -/
def contribSum (ps : List (Nat × Nat × Nat)) : Nat :=
  match ps with
  | [] => 0
  | p :: r => r.foldl (fun x q => fp32.atomAdd x (contribValue q)) (contribValue p)
/-- Another rank has contributed to an element: number 4w + 1 is the FP32 element of word w, 4w and 4w + 2 are its BF16 elements. -/
def othersHave (fresh : Nat) (g : Group) (e : Nat) : Bool := (List.range g.ranks).any fun r => r != g.rank && Config.rankHas fresh r e
/-- A node where ranks may have given nothing: the other operand passes up. [DEDUCED, log 52] -/
def rflushNode : Option Nat → Option Nat → Option Nat
  | some x, some y => some (collNode 0 x y)
  | some x, none => some x
  | none, y => y
/-- The total of an element over the ranks, by the tree of R257; this rank's sum is `x`. -/
def rflushTotal (fresh : Nat) (g : Group) (e : Nat) (x : Option Nat) : Nat :=
  let vals := (List.range g.ranks).map fun r =>
    if r == g.rank then x
    else if Config.rankHas fresh r e then some (collIn 0 (Config.rankWord fresh r e).toNat) else none
  (rankTree rflushNode none (g.ranks + 1) vals).getD 0
/-- What lands at one word of a region: its bytes by offset. An element lands where any rank has contributed to it; a word to which both
widths were contributed lands unpredictable (R259). -/
def rflushWord (fresh : Nat) (g : Group) (r : RedRegion) (parts : List (Nat × Nat × Nat)) (w : Nat) : List (Nat × List Byte) :=
  let at_ (o n : Nat) := parts.filter fun p => p.1 == r.base + 4 * w + o && p.2.1 == n
  let sum (ps : List (Nat × Nat × Nat)) : Option Nat := if ps.isEmpty then none else some (contribSum ps)
  let wide := !(at_ 0 4).isEmpty || othersHave fresh g (4 * w + 1)
  let half (o : Nat) : Bool := !(at_ o 2).isEmpty || othersHave fresh g (4 * w + o)
  if wide then
    if half 0 || half 2 then [(4 * w, (List.range 4).map fun i => Config.freeByte fresh (4 * w + i))]
    else [(4 * w, bytesOf 4 (rflushTotal fresh g (4 * w + 1) (sum (at_ 0 4))))]
  else ([0, 2].filter half).map fun o => (4 * w + o, bytesOf 2 (collOut 1 (rflushTotal fresh g (4 * w + o) (sum (at_ o 2)))))
/-- The landing of a region's epoch (R259). -/
def State.landRegion (s : State) (part : Nat) (g : Group) (r : RedRegion) : State :=
  let parts := r.entered.flatMap fun e => contribParts e.1 e.2
  let put (s : State) (x : Nat × List Byte) : State :=
    (s.claimPhys part (r.landing + x.1) x.2.length).perform ((List.range x.2.length).map fun i => .phys (r.landing + x.1 + i)) x.2
  (List.range (r.len / 4)).foldl (fun s w => (rflushWord s.fresh g r parts w).foldl put s) s
/-- The region of a partition that holds a device-physical address, and its place in the table. -/
def Part.regionAt (p : Part) (a : Nat) : Option (Nat × RedRegion) :=
  (p.reds.mapIdx fun i r => (i, r)).find? fun x => x.2.base ≤ a && a < x.2.base + x.2.len
/-- Closes the epoch of a region. -/
def Part.closeEpoch (p : Part) (i : Nat) : Part := { p with reds := p.reds.modify i fun r => { r with entered := [] } }

/-- The device-physical address that SRC of an `rflush` names: a byte of a RED page (R256). -/
def State.redAddr (s : State) (c : Cmd) : Except Trap (Nat × Bool) :=
  let w := s.cmdWho c
  let va := c.src.toNat
  if c.physAddr then .ok (va, false)
  else if va < Config.scratchEnd || 2 ^ 49 ≤ va || (Config.syncBase ≤ va && va < Config.syncEnd) then .error (faultAt cAccess aKind va)
  else match s.translate w.part w.asid va with
    | .error e => .error (faultAt cPage e va)
    | .ok l =>
      if !w.sys && !pteU l.entry then .error (faultAt cAccess aPerm va)
      else if pteKind l.entry != .red then .error (faultAt cAccess aKind va)
      else .ok (l.phys va, pteMig l.entry)
/-- The thread's own contributions before an `rflush` must have entered before its cut (R258). -/
def State.contribOut (s : State) (c : Cmd) : Bool :=
  s.ops.any fun o => o.cid == c.cid && o.tid == c.tid && o.id < c.id && 
    (match o.kind with | .contrib .. => true | .drain .. => o.kinds == [.red] | _ => false)
/-- An `rflush` whose ranks have all flushed with equal TAG, or not (R258, R259). -/
def State.rflushDo (s : State) (c : Cmd) (agree : Bool) : State :=
  let agree := agree && !s.portLost c
  if s.contribOut c || !s.cmdReady c [] true then s else
  match s.redAddr c with
  | .error e => s.cmdStop c e
  | .ok (a, mig) =>
    if mig then s else
    let pi := s.partOf c.cid
    match (s.part pi).regionAt a with
    | none => s.cmdStop c (faultAt cAccess aKind c.src.toNat)
    | some (i, r) => match (s.part pi).groups[r.group]?, agree with
      | some g, true =>
        let s := { s.landRegion pi g r with fresh := s.fresh + 1 }
        (s.updPart pi fun p => p.closeEpoch i).cmdFinish c
      | _, _ => (s.updPart pi fun p => p.closeEpoch i).cmdFinish c.fabric
/-- RFLUSH_EPOCH_COMPLETE (R259): every rank has flushed the region; `agree` tells that their TAGs are equal. -/
def execRflushEpochComplete (id : Nat) (agree : Bool) (s : State) : Out :=
  .next (match s.fabricReady id with
  | some c => match c.kind with
    | .rflush => s.rflushDo c agree
    | _ => s
  | none => match s.cmds.find? fun c => c.id == id with
    | some c => if c.kind == .rflush && c.state == .ended && s.cmdReady c [] true then s.cmdFinish c else s
    | none => s)

end Sys2Proof.Machine
end

