-- ==== Sys2Proof/Machine/Matrix.lean ====
section
/-!
DEFINITION. The matrix engine (R262 to R290): tiles and the queue of matrix work, steps, loads, drains, loops, the slices
and merges of emulated double precision, and the traps of R271.
-/
namespace Sys2Proof.Machine

/-! ### Tiles and the queue (R262 to R264) -/

/-- Changes a tile. -/
def State.updTile (s : State) (cid trp n : Nat) (f : Tile → Tile) : State :=
  s.updTroupe cid trp fun u => { u with tiles := u.tiles.modify n f }
/-- A tile of a troupe; beyond the last one there is none. -/
def State.tile? (s : State) (cid trp n : Nat) : Option Tile :=
  match s.troupe? cid trp with
  | some u => u.tiles[n]?
  | none => none
/-- Sticky flags of a tile are gathered (R270). -/
def Tile.gather (fl : Flags) (t : Tile) : Tile := { t with flags := t.flags ||| fl }
/-- Element (i, j) of a tile (R263). -/
def Tile.at (t : Tile) (i j : Nat) : Word := t.data.getD (i * 32 + j) 0
/-- Contents computed element by element. -/
def Tile.fill (t : Tile) (f : Nat → Nat → Word) : Tile := { t with data := vmapIdx (fun k _ => f (k / 32) (k % 32)) t.data }
/-- All elements zero. -/
def Tile.blank (t : Tile) : Tile := t.fill fun _ _ => 0
/-- An uncorrectable error: the contents are unpredictable and the error state is set (R273). -/
def Tile.spoil (fresh : Nat) (t : Tile) : Tile := { t.scramble fresh with err := true }

/-- Words of a tile that a thread of its troupe has not acquired yet (R155), among elements that satisfy a test. -/
def State.tileFar (s : State) (cid trp n : Nat) (p : Nat → Bool) : List FarTile :=
  (s.threads.filter fun t => t.cid == cid && t.trp == trp && !t.exited).flatMap fun t => t.farTiles.filter fun x => x.n == n && p x.e
/-- A tile as matrix work reads it: of a word that another agent has written, the value before or after, by a free choice, until every
thread has acquired it (R155). [DEDUCED, log 123] -/
def State.tileSeen (s : State) (cid trp n : Nat) (p : Nat → Bool) (t : Tile) : Tile :=
  { t with data := (s.tileFar cid trp n p).foldl (fun v x => if Config.freeBit s.fresh (n + 8000) x.e then v.setIfInBounds x.e x.other else v) t.data }
/-- Matrix work has written elements of a tile: what other agents wrote there before is gone. -/
def State.tileWritten (s : State) (cid trp n : Nat) (p : Nat → Bool) : State :=
  s.updThreads (fun t => t.cid == cid && t.trp == trp) fun t => { t with farTiles := t.farTiles.filter fun x => !(x.n == n && p x.e) }
/-- An element of the first rows and columns. -/
def inBlock (rows cols e : Nat) : Bool := e / 32 < rows && e % 32 < cols

/-- A troupe has work outstanding on one of some tiles (R264). -/
def State.tileBusy (s : State) (cid trp : Nat) (ns : List Nat) : Bool :=
  match s.troupe? cid trp with
  | some u => ns.any u.busy
  | none => false
/-- The next work of a troupe in issue order. Trailing stores of a drain hold back work on their tiles only. [DEDUCED, log 54] -/
def nextWork (busy : List Nat) : List MWork → Option MWork
  | [] => none
  | w :: r => match w with
    | .drain .. => nextWork (busy ++ w.tiles) r
    | _ => if w.tiles.any busy.contains then none else some w
/-- The queue with its next work replaced, or removed. -/
def changeWork (x : Option MWork) : List MWork → List MWork
  | [] => []
  | w :: r => match w with
    | .drain .. => w :: changeWork x r
    | _ => x.toList ++ r
/-- The company runs on its core. -/
def State.runs (s : State) (cid : Nat) : Bool :=
  s.companies.any fun c => c.cid == cid && (match c.state with | .resident | .draining _ => true | _ => false)
/-- Work that a save waits for: all but loops (R290). -/
def MWork.mustEnd : MWork → Bool
  | .loop _ => false
  | _ => true
/-- The next work of a troupe. A company that is being saved completes its queued work; a loop stops between steps unless
such work stands behind it (R290). -/
def State.work? (s : State) (cid trp : Nat) : Option MWork :=
  match s.troupe? cid trp with
  | some u =>
    if s.runs cid || (u.work.any MWork.mustEnd && s.companies.any fun c => c.cid == cid && c.onCore) then nextWork [] u.work
    else none
  | none => none
/-- Queues work. -/
def State.queueWork (s : State) (cid trp : Nat) (w : MWork) : State := s.updTroupe cid trp fun u => { u with work := u.work ++ [w] }
/-- Threads that wait for a tile or a staging register try again (R39). -/
def State.wakeTile (s : State) (cid : Nat) : State :=
  { s with threads := s.threads.map fun t =>
      if t.cid == cid && t.wait == .tile then { t with wait := .none, ready := s.oppsOf cid } else t }
/-- The next work of a troupe is done. -/
def State.doneWork (s : State) (cid trp : Nat) : State :=
  (s.updTroupe cid trp fun u => { u with work := changeWork none u.work }).wakeTile cid

/-! ### Issue of matrix instructions (R31, R271, R272) -/

/-- A member outside handler mode is held while a thread of its troupe is in a handler or halted (R272). -/
def State.heldBack (s : State) (ms : List Thread) : Bool :=
  ms.any fun m => m.frames.isEmpty &&
    s.threads.any fun t => t.cid == m.cid && t.trp == m.trp && !t.exited && (!t.frames.isEmpty || t.halt.isSome)
/-- The participating threads by home lane, where all 32 of one troupe participate (R31). -/
def fullTroupe (ps : List Thread) : Option (List Thread) :=
  match ps with
  | [] => none
  | p :: _ =>
    let r := (List.range 32).filterMap fun l => ps.find? fun t => t.lane == l && t.trp == p.trp
    if r.length == 32 then some r else none
/-- A thread's own cause at a matrix instruction: what it raises, or an earlier trap that it meets beside (R304). -/
def State.cause (s : State) (own : Thread → Option Trap) (t : Thread) : Option Trap :=
  match own t, firstRival t s.rivals with
  | some a, some b => if b.rank < a.rank then some b else some a
  | some a, none => some a
  | none, b => b
/-- Threads with a cause of their own take it; every other thread takes MASK SIBLING (R271). -/
def State.siblingTraps (s : State) (ps : List Thread) (own : Thread → Option Trap) : State :=
  let mask := laneMask ((ps.filter fun t => (s.cause own t).isSome).map Thread.tid)
  { ps.foldl (fun r t => r.fall t ((s.cause own t).getD { cls := cMask, sub := 2, extra := mask })) s with rivals := [] }
/-- Some thread has a cause of its own. -/
def anyCause (ps : List Thread) (own : Thread → Option Trap) : Bool := ps.any fun t => (own t).isSome

/-- What a matrix instruction does: it acts on the 32 threads of a troupe, in lane order. A partial group traps, and so does
every thread where one meets a trap beside what the instruction does (R271), UNIT REGION in a relaxation body among them (R304, R332). -/
def State.matrixBody (s : State) (ps : List Thread) (act : State → Thread → List Thread → State) : State :=
  match fullTroupe ps with
  | some (l :: r) =>
    let s' := act s l (l :: r)
    if anyCause (l :: r) s'.due then s.siblingTraps (l :: r) fun _ => none else s'
  | _ => s.raiseAll ps { cls := cMask, sub := 1, extra := laneMask (ps.map Thread.tid) }
/-- What holds a matrix instruction at issue: a sibling in a handler, or a tile among those that `busy` names (R264). -/
def State.matrixStall (s : State) (ms ps : List Thread) (busy : List Thread → List Nat) : Option Wait :=
  if s.heldBack ms then some .hold
  else match fullTroupe ps with
    | some (l :: r) => if s.tileBusy l.cid l.trp (busy (l :: r)) then some .tile else none
    | _ => none
/-- The threads of the pending group, as they stand. -/
def State.group (s : State) : List Thread :=
  match s.issue with
  | some g => s.members g
  | none => []
/-- A matrix instruction. -/
def State.matrixOp (s : State) (m : Bool) (src : List RegId) (busy : List Thread → List Nat)
    (act : State → Thread → List Thread → State) : Out :=
  let ms := s.group
  .next (s.runIssue (markForm m src).barred (fun s ps => s.matrixBody ps act) fun s ps => s.matrixStall ms ps busy)
/-- The parameter block of the pending group's instruction; a failed check or fetch is taken by every thread of the group,
whether or not its guard passes, before any other trap of the instruction (R51, R304). On a migrating page they wait (R151). -/
def State.withBlock (s : State) (ms : List Thread) (off : BitVec 12) (n : Nat) (word : Word) (act : List Word → State) : State :=
  match ms with
  | [] => s
  | t :: _ => match s.fetchStall (s.whoIs t) (paramVas t.pc off n) with
    | some va => s.stallAll ms t.asid va
    | none => match s.params (s.whoIs t) t.pc off n word with
      | .error e => ({ s with rivals := [] } : State).raiseAll ms e
      | .ok w => act w

/-- Tiles each troupe of a company has (T of R16). -/
def State.tileCount (s : State) (cid : Nat) : Nat :=
  match s.company? cid with
  | some c => c.tileT
  | none => 0
/-- ACCESS TILE (R15). -/
def tileTrap : Trap := { cls := cAccess, sub := aTile }
/-- DATAERR TILE (R273). -/
def tileError : Trap := { cls := cDataerr, sub := 4 }
/-- Every thread takes DATAERR TILE (R273). -/
def State.tileFails (s : State) (ps : List Thread) : State := s.siblingTraps ps fun _ => some tileError
/-- One of some tiles has its error state set. -/
def State.tilesErr (s : State) (cid trp : Nat) (ns : List Nat) : Bool :=
  ns.any fun n => match s.tile? cid trp n with
    | some t => t.err
    | none => false
/-- The flags of some tiles. -/
def State.tilesFlags (s : State) (cid trp : Nat) (ns : List Nat) : Flags :=
  ns.foldl (fun fl n => match s.tile? cid trp n with
    | some t => fl ||| t.flags
    | none => fl) 0
/-- Flags reach the `fpcsr` of threads. -/
def State.raiseIn (s : State) (ts : List Thread) (fl : Thread → Flags) : State :=
  ts.foldl (fun s t => s.updThread t.cid t.tid fun u => u.raiseFlags (fl t)) s
/-- The threads whose own cause is the trap that they take (R304). -/
def State.owners (s : State) (ps : List Thread) (own : Thread → Option Trap) : List Thread :=
  ps.filter fun t => (own t).isSome && s.cause own t == own t
/-- Flags of a tile reach the `fpcsr` of every thread. Where some threads' enables match, those alone have them and trap, unless they take
an earlier trap, and the others take MASK SIBLING (R271, R277). `true` where they trap. [DEDUCED, log 56] -/
def State.matrixFlags (s : State) (ps : List Thread) (fl : Flags) : State × Bool :=
  let own (t : Thread) : Option Trap := (fpTrap t.fpcsr fl).map fun sub => { cls := cFpexc, sub := sub }
  if anyCause ps own then ((s.raiseIn (s.owners ps own) fun _ => fl).siblingTraps ps own, true)
  else (s.raiseIn ps fun _ => fl, false)

/-! ### The matrix step (R265 to R270) -/

/-- The formats of A and B elements by type code (R267); type 0 is INT8. -/
def mmaFmt (ty : Nat) : Fmt × Fmt :=
  match ty with
  | 1 => (e4m3, e4m3)
  | 2 => (e4m3, e5m2)
  | 3 => (e5m2, e4m3)
  | 4 => (e5m2, e5m2)
  | 5 => (e2m1, e2m1)
  | 6 => (bf16, bf16)
  | _ => (fp16, fp16)
/-- Bits of an element (R265). -/
def mmaWidth (ty : Nat) : Nat := if ty ≤ 4 then 8 else if ty == 5 then 4 else 16
/-- The elements of one lane's fragment (R265). -/
def fragment (w : Nat) (regs : List Word) : List Nat :=
  regs.flatMap fun r => (List.range (32 / w)).map fun i => elem r.toNat w i
/-- A block sum of `2^k` products added to an accumulator (R87, R88, R269). -/
def mmaBlock (f : Fmt × Fmt) (k : Nat) (a b : List Nat) (ea eb : Nat) (acc : Nat) : Res :=
  accumulate acc (blockSum k (List.zipWith (fun x y => product (f.1.value x) (f.2.value y)) a b) ea eb)
/-- One element of a step (R269): rows and columns as fragments, scale words from the scale cursor on. -/
def mmaElem (ty : Nat) (a b : List Nat) (sa sb : Word) (acc : Nat) : Res :=
  let f := mmaFmt ty
  let ea (i : Nat) : Nat := (byteOf sa i).toNat
  let eb (i : Nat) : Nat := (byteOf sb i).toNat
  match ty with
  | 0 => ⟨(BitVec.ofInt 32 ((List.zipWith (fun x y => selem x 8 0 * selem y 8 0) a b).foldl (· + ·) (acc : Int))).toNat, 0⟩
  | 1 | 2 | 3 | 4 => mmaBlock f 5 a b (ea 0) (eb 0) acc
  | 5 =>
    let r := mmaBlock f 5 (a.take 32) (b.take 32) (ea 0) (eb 0) acc
    let q := mmaBlock f 5 (a.drop 32) (b.drop 32) (ea 1) (eb 1) r.bits
    ⟨q.bits, r.fl ||| q.fl⟩
  | _ => mmaBlock f 4 a b 127 127 acc
/-- A step on a tile: masked elements are kept (R269). -/
def Tile.step (t : Tile) (ty : Nat) (ow : Bool) (rows cols : Nat) (a b : List (List Word)) (sa sb : List Word) : Tile :=
  let w := mmaWidth ty
  let as := a.map (fragment w)
  let bs := b.map (fragment w)
  let rs := (List.range 1024).map fun k =>
    if rows ≤ k / 32 || cols ≤ k % 32 then (⟨(t.at (k / 32) (k % 32)).toNat, 0⟩ : Res)
    else mmaElem ty (as.getD (k / 32) []) (bs.getD (k % 32) []) (sa.getD (k / 32) 0) (sb.getD (k % 32) 0)
      (if ow then 0 else (t.at (k / 32) (k % 32)).toNat)
  (t.fill fun i j => BitVec.ofNat 32 (rs.getD (i * 32 + j) ⟨0, 0⟩).bits).gather (rs.foldl (fun fl r => fl ||| r.fl) 0)

/-- The sources of a step (R265, R266, R269). -/
def mmaSrc (edge : Bool) (ty : BitVec 4) (b a : Reg) : List RegId :=
  groupRegs a (if edge then 9 else 8) ++ groupRegs b (if 1 ≤ ty.toNat && ty.toNat ≤ 5 then 10 else 8)
/-- A count of the count register: a count above 32 acts as 32 (R269). -/
def edgeCount (x : Word) (lo : Nat) : Nat := min (x.toNat / 2 ^ lo % 64) 32
/-- Queues a step with the operands as they are read at issue (R264). -/
def State.queueStep (s : State) (edge ow : Bool) (ty : BitVec 4) (b a : Reg) (n : BitVec 4) (l : Thread) (ps : List Thread) : State :=
  if s.tileCount l.cid ≤ n.toNat then s.raiseAll ps tileTrap
  else
    let c := l.getV (a + 8)
    s.queueWork l.cid l.trp (.step n.toNat ty.toNat ow (if edge then edgeCount c 0 else 32) (if edge then edgeCount c 8 else 32)
      (ps.map fun t => t.group a 8) (ps.map fun t => t.group b 8) (ps.map fun t => t.getV (b + 8)) (ps.map fun t => t.getV (b + 9)))
/-- `mma` (R267 to R269). -/
def execMma (m ow : Bool) (ty : BitVec 4) (b a : Reg) (n : BitVec 4) (s : State) : Out :=
  s.matrixOp m (mmaSrc false ty b a) (fun _ => []) fun s l ps => s.queueStep false ow ty b a n l ps
/-- `mmae` (R267 to R269). -/
def execMmae (m ow : Bool) (ty : BitVec 4) (b a : Reg) (n : BitVec 4) (s : State) : Out :=
  s.matrixOp m (mmaSrc true ty b a) (fun _ => []) fun s l ps => s.queueStep true ow ty b a n l ps

/-- `mzero`: queued behind earlier work (R275). -/
def execMzero (m : Bool) (n : BitVec 4) (s : State) : Out :=
  s.matrixOp m [] (fun _ => []) fun s l ps =>
    if s.tileCount l.cid ≤ n.toNat then s.raiseAll ps tileTrap else s.queueWork l.cid l.trp (.zero n.toNat)

/-! ### Rows in memory (R276, R279) -/

/-- The checks of the first `n` elements of a row, each an access of `w` bytes: their numbers and what they reach. -/
def State.rowCheck (s : State) (who : Who) (k : Acc) (va : DWord) (w : Nat) (n : Nat) : Except Trap (List (Nat × Checked)) :=
  if va.toNat % w != 0 then .error (faultAt cAlign 1 va.toNat)
  else (List.range n).foldr (fun j r => match s.check who k (va + BitVec.ofNat 64 (j * w)) w false with
    | .error e => .error e
    | .ok c => match r with
      | .error e => .error e
      | .ok cs => .ok ((j, c) :: cs)) (.ok [])
/-- The elements of a row on pages of one kind. -/
def rowKind (k : PKind) (cs : List (Nat × Checked)) : List (Nat × Checked) := cs.filter fun c => c.2.kinds == [k]
/-- An operation of one lane's thread on elements of its row, which starts at `va`. -/
def State.rowOp (s : State) (t : Thread) (va : DWord) (w : Nat) (k : PKind) (cs : List (Nat × Checked)) (op : OpKind) : MemOp :=
  { s.planeOp t [] [] ((cs.flatMap fun c => (List.range w).map fun i => va + BitVec.ofNat 64 (c.1 * w + i)))
      (cs.flatMap fun c => c.2.locs) [k] op 0 w with va := va }
/-- The page kinds. -/
def allKinds : List PKind := [.so, .rc, .uo, .red]
/-- A row's check failed: the lane's cause. -/
def rowCause (r : Except Trap (List (Nat × Checked))) : Option Trap :=
  match r with
  | .error e => some e
  | .ok _ => none
/-- Some element of a row lies on a migrating page. -/
def rowMig (r : Except Trap (List (Nat × Checked))) : Bool :=
  match r with
  | .error _ => false
  | .ok cs => cs.any fun c => c.2.mig
/-- The translations a row used are kept, and the watches see its bytes (R320, R326). -/
def State.rowDone (s : State) (t : Thread) (k : Acc) (va : DWord) (n : Nat) : State :=
  if n == 0 then s
  else (s.fillFor (s.whoIs t) va.toNat n).watch [t] k va ((List.range n).map (va.toNat + ·))

/-! ### `mload` (R276) -/

/-- Bytes of an element and elements of a row by FMT. -/
def loadWidth (fmt : Nat) : Nat :=
  match fmt with
  | 0 => 4
  | 1 => 8
  | _ => 2
/-- The control word is refused, or FMT 1 with an odd N. -/
def loadRefused (c : Word) (n : Nat) : Bool :=
  let fmt := c.toNat % 16
  c.toNat / 2 ^ 14 != 0 || c.toNat / 16 % 16 != 0 || 3 ≤ fmt || 32 < c.toNat / 256 % 64 || (fmt == 1 && n % 2 == 1)
/-- Puts one lane's row of an `mload` in flight. -/
def State.loadRow (s : State) (fmt : Nat) (a : Reg) (t : Thread) (cs : List (Nat × Checked)) : State :=
  let w := loadWidth fmt
  let go (s : State) (k : PKind) : State :=
    let xs := rowKind k cs
    if xs.isEmpty then s else s.pushOp (s.rowOp t (t.base a) w k xs (.mload t.trp t.lane w (xs.map (·.1))))
  (allKinds.foldl go s).rowDone t .load (t.base a) (32 * w)
/-- `mload` once its tile and control word are legal: the checks of its rows, then its work (R276, R304). -/
def State.loadRows (s : State) (n fmt rows : Nat) (a : Reg) (l : Thread) (ps : List Thread) : State :=
  let row (t : Thread) : Except Trap (List (Nat × Checked)) :=
    if t.lane < rows then s.rowCheck (s.whoIs t) .load (t.base a) (loadWidth fmt) 32 else .ok []
  let own (t : Thread) : Option Trap := rowCause (row t)
  if anyCause ps own then s.siblingTraps ps own
  else match ps.find? fun t => rowMig (row t) with
    | some t => s.stallAll ps t.asid (t.base a)
    | none =>
      let put (s : State) (t : Thread) : State :=
        match row t with
        | .ok cs => if cs.isEmpty then s else s.loadRow fmt a t cs
        | .error _ => s
      ps.foldl put (s.queueWork l.cid l.trp (.load n fmt s.fresh [] false))
/-- `mload` (R276). -/
def execMload (m : Bool) (b a : Reg) (n : BitVec 4) (s : State) : Out :=
  s.matrixOp m (baseRegs a ++ [.v b]) (fun _ => []) fun s l ps =>
    let c := l.getV b
    let tc := s.tileCount l.cid
    if tc ≤ n.toNat then s.raiseAll ps tileTrap
    else if loadRefused c n.toNat then s.raiseAll ps (badCmd c)
    else if c.toNat % 16 == 1 && tc ≤ n.toNat + 1 then s.raiseAll ps tileTrap
    else s.loadRows n.toNat (c.toNat % 16) (c.toNat / 256 % 64) a l ps

/-- A free non-empty part of what is left; which part performs next is open (R8). -/
def freePart {α : Type} (fresh id : Nat) (xs : List α) : List α × List α :=
  let ys := xs.mapIdx fun i x => (Config.freeBit fresh id i, x)
  let now := ys.filter fun y => y.1
  if now.isEmpty then (xs, []) else (now.map fun y => y.2, (ys.filter fun y => !y.1).map fun y => y.2)
/-- Changes an operation in flight; one with nothing left is done. -/
def State.setOp (s : State) (id : Nat) (k : Option OpKind) : State :=
  match k with
  | some k => { s with ops := s.ops.map fun o => if o.id == id then { o with kind := k } else o }
  | none => s.dropOp id

/-- Elements read so far join the work of their `mload`. -/
def MWork.take (grp : Nat) (xs : List (Nat × Nat × Nat)) (bad : Bool) (w : MWork) : MWork :=
  match w with
  | .load n fmt g got err => if g == grp then .load n fmt g (got ++ xs) (err || bad) else w
  | w => w
/-- Part of a lane's row is read (R276). [DEDUCED, log 55] -/
def State.loadPart (s : State) (err : Bool) (o : MemOp) : State :=
  match s.readyOp o.id, o.kind with
  | some o, .mload trp lane w left =>
    let (now, rest) := freePart s.fresh o.id left
    let at_ (j : Nat) : List Loc := match left.idxOf? j with
      | some i => (o.locs.drop (i * w)).take w
      | none => []
    let got := now.map fun j => (lane, j, natOf (s.getLocs (at_ j)))
    let o' : MemOp := { o with kind := .mload trp lane w rest, locs := rest.flatMap at_ }
    let s := s.updTroupe o.cid trp fun u => { u with work := u.work.map (MWork.take o.grp got err) }
    if rest.isEmpty then s.dropOp o.id
    else { s with ops := s.ops.map fun x => if x.id == o.id then o' else x }
  | _, _ => s

/-- The loaded rows of a tile: `part` 0 for the tile itself, 1 for the second of a pair (R276). A signalling BF16 NaN is widened as it
stands. [DESIGN CHOICE, log 118] -/
def Tile.load (t : Tile) (fmt part : Nat) (got : List (Nat × Nat × Nat)) : Tile :=
  let t := t.fill fun i j => match got.find? fun g => g.1 == i && g.2.1 == j with
    | some g => BitVec.ofNat 32 (if fmt == 2 then g.2.2 * 65536 else if part == 1 then g.2.2 / 2 ^ 32 else g.2.2)
    | none => t.at i j
  { t with flags := 0, err := false }
/-- All rows of the next work, an `mload`, have arrived. -/
def State.loadLand (s : State) (cid trp : Nat) : State :=
  match s.work? cid trp with
  | some (.load n fmt grp got err) =>
    if s.ops.any fun o => o.cid == cid && o.grp == grp && (match o.kind with | .mload .. => true | _ => false) then s
    else
      let bad (t : Tile) : Tile := if err then t.spoil s.fresh else t
      let s := s.updTile cid trp n fun t => bad (t.load fmt 0 got)
      let s := if fmt == 1 then s.updTile cid trp (n + 1) fun t => bad (t.load fmt 1 got) else s
      let loaded (e : Nat) : Bool := got.any fun g => g.1 * 32 + g.2.1 == e
      ((s.tileWritten cid trp n loaded).tileWritten cid trp (n + 1) fun e => fmt == 1 && loaded e).doneWork cid trp
  | _ => s
/-- MLOAD_DATA_ARRIVE (R276): part of the rows of a troupe's loads is read; when all of the next one have arrived, the
tile takes them and leaves busy. -/
def execMloadDataArrive (cid trp : Nat) (err : Bool) (s : State) : Out :=
  let mine := s.ops.filter fun o => o.cid == cid && (match o.kind with | .mload t .. => t == trp | _ => false)
  .next ({ (mine.foldl (State.loadPart · err ·) s).loadLand cid trp with fresh := s.fresh + 1 })

/-! ### `mstat` (R277) -/

/-- The flags of a tile as `mstat` delivers them: bits 7:3, and SNAN in bit 13. -/
def mstatWord (fl : Flags) : Word := flagBits fl ||| (if fl.getLsbD 5 then 0x2000 else 0)
/-- `mstat` (R277). -/
def execMstat (m : Bool) (n : BitVec 4) (d : Reg) (s : State) : Out :=
  s.matrixOp m [.f] (fun _ => [n.toNat]) fun s l ps =>
    if s.tileCount l.cid ≤ n.toNat then s.raiseAll ps tileTrap
    else if s.tilesErr l.cid l.trp [n.toNat] then s.tileFails ps
    else
      let fl := s.tilesFlags l.cid l.trp [n.toNat]
      match s.matrixFlags ps fl with
      | (s, true) => s
      | (s, false) =>
        let s := s.updTile l.cid l.trp n.toNat fun t => { t with flags := 0 }
        ps.foldl (fun s t => s.writeRegs t.cid t.tid [(.v d, (mstatWord fl).setWidth 64)]) s

/-! ### The drain (R278 to R280) -/

/-- The control word of `mdrain` (R278). -/
structure Drain where
  fmt : Nat
  max : Bool
  zero : Bool
  rows : Nat
  cols : Nat
  scale : Nat
  deriving DecidableEq, Repr
@[inherit_doc Drain] def drainOf (c : Word) : Drain :=
  let x := c.toNat
  ⟨x % 16, x.testBit 5, x.testBit 6, x / 2 ^ 8 % 64, x / 2 ^ 16 % 64, x / 2 ^ 24⟩
/-- The control word is refused, or FMT 6 with an odd N (R278). -/
def drainRefused (c : Word) (n : Nat) : Bool :=
  let d := drainOf c
  c.getLsbD 4 || c.getLsbD 7 || c.toNat / 2 ^ 14 % 4 != 0 || c.toNat / 2 ^ 22 % 4 != 0 || 7 ≤ d.fmt || d.scale == 255 ||
    (5 ≤ d.fmt && d.scale != 127) || (d.max && d.fmt == 6) || 32 < d.rows || 32 < d.cols || (d.fmt == 6 && n % 2 == 1)
/-- Bytes of a drained element. -/
def drainWidth (fmt : Nat) : Nat :=
  match fmt with
  | 1 | 2 => 2
  | 3 | 4 => 1
  | 6 => 8
  | _ => 4
/-- The tiles a drain reads. -/
def Drain.tiles (d : Drain) (n : Nat) : List Nat := if d.fmt == 6 then [n, n + 1] else [n]

/-- An element of formats 0 to 4 scaled and converted (R279 step 3). -/
def drainConvert (f : Fmt) (scale x : Nat) : Res :=
  match fp32.value x with
  | .nan sg => ⟨f.nan, flagIf sg fSNaN⟩
  | .inf _ => convert fp32 f false .rne x
  | .fin n m e => f.round false .rne n m (e + 127 - scale)
/-- A converted element: `hi` is the element of the second tile. -/
def drainElem (fmt scale : Nat) (x hi : Word) : Res :=
  match fmt with
  | 0 => drainConvert fp32 scale x.toNat
  | 1 => drainConvert bf16 scale x.toNat
  | 2 => drainConvert fp16 scale x.toNat
  | 3 => drainConvert e4m3 scale x.toNat
  | 4 => drainConvert e5m2 scale x.toNat
  | 5 => ⟨x.toNat, 0⟩
  | _ => ⟨x.toNat + 2 ^ 32 * hi.toNat, 0⟩
/-- The magnitude key of an element (R280). -/
def drainKey (fmt : Nat) (x : Word) : Word :=
  if fmt == 5 then BitVec.ofNat 32 x.toInt.natAbs
  else if (fp32.value x.toNat).isNan then 0x7FC00000 else x &&& 0x7FFFFFFF
/-- The drained elements of a row, with their flags. -/
def drainRow (d : Drain) (t hi : Tile) (i : Nat) : List Res :=
  (List.range d.cols).map fun j => drainElem d.fmt d.scale (t.at i j) (hi.at i j)

/-- The checks of a lane of a drain: its row, and in lane 0 then the max word (R279 step 2). -/
def State.drainCheck (s : State) (d : Drain) (a b : Reg) (t : Thread) :
    Except Trap (List (Nat × Checked) × Option Checked) :=
  let row := if t.lane < d.rows then s.rowCheck (s.whoIs t) .store (t.base a) (drainWidth d.fmt) d.cols else .ok []
  match row with
  | .error e => .error e
  | .ok cs =>
    if d.max && t.lane == 0 then match s.check (s.whoIs t) .red (t.getPair (b + 2)) 4 true with
      | .error e => .error e
      | .ok c => .ok (cs, some c)
    else .ok (cs, none)
/-- Puts one lane's drained row in flight (R279 step 5). -/
def State.drainStores (s : State) (d : Drain) (a : Reg) (t : Thread) (cs : List (Nat × Checked)) (row : List Res) : State :=
  let w := drainWidth d.fmt
  let go (s : State) (k : PKind) : State :=
    let xs := rowKind k cs
    if xs.isEmpty then s else
    let left := xs.map fun c => (c.1, c.2.locs, bytesOf w (row.getD c.1 ⟨0, 0⟩).bits)
    (s.outAdd t.cid 1).pushOp (s.rowOp t (t.base a) w k xs (.drain t.trp left))
  (allKinds.foldl go s).rowDone t .store (t.base a) (d.cols * w)
/-- Puts the merge into the max word in flight, by lane 0's thread, where an element is drained (R280). [DESIGN CHOICE, log 57] -/
def State.drainMerge (s : State) (l : Thread) (va : DWord) (c : Checked) (keys : List Word) : State :=
  let op : MemOp := s.planeOp l [] [] ((List.range 4).map fun i => va + BitVec.ofNat 64 i) c.locs c.kinds (.drainMax l.trp keys) 0 4
  if keys.isEmpty then s
  else (((s.outAdd l.cid 1).pushOp op).fillFor (s.whoIs l) va.toNat 4).watch [l] .red va ((List.range 4).map (va.toNat + ·))
/-- Steps 3 to 5 of a drain whose checks have passed (R279). -/
def State.drainGo (s : State) (d : Drain) (n : Nat) (a b : Reg) (l : Thread) (ps : List Thread)
    (chk : Thread → Except Trap (List (Nat × Checked) × Option Checked)) : State :=
  let ns := d.tiles n
  if s.tilesErr l.cid l.trp ns then s.tileFails ps
  else match s.tile? l.cid l.trp n, s.tile? l.cid l.trp (n + (if d.fmt == 6 then 1 else 0)) with
  | some t, some hi =>
    let t := s.tileSeen l.cid l.trp n (inBlock d.rows d.cols) t
    let hi := s.tileSeen l.cid l.trp (n + 1) (inBlock d.rows d.cols) hi
    let rows := (List.range d.rows).map (drainRow d t hi)
    let fl := rows.flatten.foldl (fun fl r => fl ||| r.fl) (s.tilesFlags l.cid l.trp ns)
    let keys := (List.range d.rows).flatMap fun i => (List.range d.cols).map fun j => drainKey d.fmt (t.at i j)
    match s.matrixFlags ps fl with
    | (s, true) => s
    | (s, false) =>
      let clear (t : Tile) : Tile := { (if d.zero then t.blank else t) with flags := 0 }
      let s := ns.foldl (fun s k => (s.updTile l.cid l.trp k clear).tileWritten l.cid l.trp k fun _ => d.zero) s
      let s := s.queueWork l.cid l.trp (.drain n s.fresh (d.fmt == 6))
      ps.foldl (fun s t => match chk t with
        | .ok (cs, mx) =>
          let s := if t.lane < d.rows then s.drainStores d a t cs (rows.getD t.lane []) else s
          match mx with
          | some c => s.drainMerge t (t.getPair (b + 2)) c keys
          | none => s
        | .error _ => s) s
  | _, _ => s
/-- A drain with nothing in flight leaves its tiles. -/
def Troupe.endDrains (u : Troupe) (grps : List Nat) : Troupe :=
  { u with work := u.work.filter fun | .drain _ g _ => grps.contains g | _ => true }
@[inherit_doc Troupe.endDrains] def State.endDrains (s : State) (cid trp : Nat) : State :=
  let live := s.ops.filterMap fun o => if o.cid == cid then (match o.kind with | .drain .. | .drainMax .. => some o.grp | _ => none) else none
  (s.updTroupe cid trp fun u => u.endDrains live).wakeTile cid
/-- `mdrain` once its tile and control word are legal: the memory checks (R279 step 2), then the rest. -/
def State.drain1 (s : State) (d : Drain) (n : Nat) (a b : Reg) (l : Thread) (ps : List Thread) : State :=
  let chk (t : Thread) : Except Trap (List (Nat × Checked) × Option Checked) := s.drainCheck d a b t
  let own (t : Thread) : Option Trap := match chk t with
    | .error e => some e
    | .ok _ => none
  let mig (t : Thread) : Bool := match chk t with
    | .error _ => false
    | .ok (cs, mx) => cs.any (fun c => c.2.mig) || (match mx with | some c => c.mig | none => false)
  if anyCause ps own then s.siblingTraps ps own
  else match ps.find? mig with
    | some t => s.stallAll ps t.asid (t.base a)
    | none => (s.drainGo d n a b l ps chk).endDrains l.cid l.trp
/-- The tiles an `mdrain` waits for (R279 step 1). -/
def drainWaits (n : Nat) (c : Word) : List Nat := if drainRefused c n then [n] else (drainOf c).tiles n
/-- `mdrain` (R278, R279). -/
def execMdrain (m : Bool) (b a : Reg) (n : BitVec 4) (s : State) : Out :=
  s.matrixOp m (.f :: baseRegs a ++ [.v b, .v (b + 2), .v (b + 3)])
    (fun ps => match ps with
      | l :: _ => drainWaits n.toNat (l.getV b)
      | [] => [])
    fun s l ps =>
      let c := l.getV b
      let d := drainOf c
      let tc := s.tileCount l.cid
      if tc ≤ n.toNat then s.raiseAll ps tileTrap
      else if drainRefused c n.toNat then s.raiseAll ps (badCmd c)
      else if d.fmt == 6 && tc ≤ n.toNat + 1 then s.raiseAll ps tileTrap
      else s.drain1 d n.toNat a b l ps

/-- Part of a drain's stores, or of the keys of its merge, performs (R279, R280). -/
def State.drainPart (s : State) (fresh : Nat) (o : MemOp) : State :=
  match s.readyOp o.id, o.kind with
  | some o, .drain trp left =>
    let p := freePart fresh o.id left
    let put (s : State) (x : Nat × List Loc × List Byte) : State :=
      match o.kinds, x.2.1.map Loc.plain with
      | [.red], .phys a :: _ => s.updPart (s.partOf o.cid) fun q => q.contribute a x.2.2
      | _, _ => s.perform x.2.1 x.2.2
    let claim (s : State) (x : Nat × List Loc × List Byte) : State := s.claimAt o (o.va.toNat + x.1 * x.2.2.length) x.2.2.length
    let s := p.1.foldl put (p.1.foldl claim s)
    if p.2.isEmpty then (s.outSub o.cid).dropOp o.id else s.setOp o.id (some (.drain trp p.2))
  | some o, .drainMax trp keys =>
    let p := freePart fresh o.id keys
    let top := p.1.foldl (fun m k => max m k.toNat) (natOf (s.getLocs o.locs))
    let s := (s.claimOp o).perform o.locs (bytesOf 4 top)
    if p.2.isEmpty then (s.outSub o.cid).dropOp o.id else s.setOp o.id (some (.drainMax trp p.2))
  | _, _ => s
/-- DRAIN_STORES_PERFORM (R279, R280): part of what a troupe's drains have in flight performs; a drain with nothing left
leaves its tiles. -/
def execDrainStoresPerform (cid trp : Nat) (s : State) : Out :=
  let mine := s.ops.filter fun o => o.cid == cid && (match o.kind with | .drain t _ => t == trp | .drainMax t _ => t == trp | _ => false)
  .next ({ (mine.foldl (State.drainPart · s.fresh ·) s).endDrains cid trp with fresh := s.fresh + 1 })

/-! ### The matrix loop (R281 to R285) -/

/-- Field checks of a parameter block, in order: byte offset and whether the field is legal (R281, R282). -/
def loopChecks (scr : Nat) (w : List Word) : List (Nat × Bool) :=
  let f (i lo n : Nat) : Nat := (w.getD i 0).toNat / 2 ^ lo % 2 ^ n
  let ty := f 0 16 4
  let scaled := 1 ≤ ty && ty ≤ 5
  let a := f 1 0 6
  let b := f 1 8 6
  let apart := a + 8 ≤ b || b + (if scaled then 10 else 8) ≤ a
  let z (i : Nat) : Nat × Bool := (4 * i, scaled || w.getD i 0 == 0)
  [(0, 1 ≤ f 0 0 16 && ty ≤ 7),
   (4, f 1 16 6 ≤ 32 && f 1 24 6 ≤ 32 && a ≤ 56 && b ≤ (if scaled then 54 else 56) && apart),
   z 8, z 9, z 10, z 11,
   (52, f 13 0 3 != 7),
   (56, f 13 6 1 == 0 || (f 14 0 32 % 4 == 0 && f 14 0 32 + 4 ≤ scr))]
/-- The loop that a legal block describes; its `q` registers are those of lane 0 (R281 to R283). -/
def loopOf (n born : Nat) (l : Thread) (w : List Word) : MLoop :=
  let x (i : Nat) : Word := w.getD i 0
  let f (i lo k : Nat) : Nat := (x i).toNat / 2 ^ lo % 2 ^ k
  let lanes (i : Nat) : List Word := (List.range 32).map fun j => x i + BitVec.ofNat 32 j * x (i + 1)
  let bit (i k : Nat) : Bool := (x i).getLsbD k
  { tile := n, steps := f 0 0 16, next := 0, ty := f 0 16 4, ow := bit 0 20, edge := bit 0 21, abase := f 1 0 6, bbase := f 1 8 6,
    rows := f 1 16 6, cols := f 1 24 6, aaddr := lanes 2, astep := x 4, aw := if bit 12 2 then some (l.getQ (f 12 0 2)) else none,
    baddr := lanes 5, bstep := x 7, bw := if bit 12 6 then some (l.getQ (f 12 4 2)) else none, saaddr := x 8, salane := x 9,
    sbaddr := x 10, sblane := x 11, cw := if bit 13 6 then some (f 14 0 32, x 15) else none, acq := bit 13 4, born := born }
/-- Types with scales (R266). -/
def MLoop.scaled (l : MLoop) : Bool := 1 ≤ l.ty && l.ty ≤ 5
/-- The staging registers of a loop (R39, R283). -/
def MLoop.staging (l : MLoop) : List Reg :=
  (List.range 8).map (fun i => BitVec.ofNat 6 (l.abase + i)) ++
    (List.range (if l.scaled then 10 else 8)).map fun i => BitVec.ofNat 6 (l.bbase + i)
/-- A loop starts where its block is legal (R282). Results in flight to its staging registers come before what it writes there. [DEDUCED, log 59] -/
def State.startLoop (s : State) (n : Nat) (w : List Word) (l : Thread) (ps : List Thread) : State :=
  if s.tileCount l.cid ≤ n then s.raiseAll ps tileTrap
  else match (loopChecks (s.whoIs l).scr w).find? fun c => !c.2 with
    | some c => s.raiseAll ps (badCmd (BitVec.ofNat 32 c.1))
    | none =>
      let k := loopOf n s.nextId l w
      let rs : List RegId := k.staging.map .v
      let s := s.queueWork l.cid l.trp (.loop k)
      { s with ops := s.ops.map fun o => ps.foldl (fun o t => o.overtake t.cid t.tid rs) o }
/-- `mloop` (R51, R281). -/
def execMloop (m : Bool) (off : BitVec 12) (n : BitVec 4) (s : State) : Out :=
  let word := s.word
  let ms := s.group
  .next (s.runIssue (markForm m ((List.range 4).map .q)).barred
    (fun s ps => s.withBlock ms off 16 word fun w => s.matrixBody ps fun s l ps => s.startLoop n.toNat w l ps)
    fun s ps => s.matrixStall ms ps fun _ => [])

/-- The reads of one lane in a step of a loop, in order: first register, scratchpad address, words (R283). -/
def MLoop.reads (l : MLoop) (lane : Nat) : List (Nat × Nat × Nat) :=
  let per := if l.ty == 5 then 2 else 4
  let scale (base stride : Word) : Nat := (base + BitVec.ofNat 32 lane * stride + BitVec.ofNat 32 (l.next / per * 4)).toNat
  [(l.abase, (l.aaddr.getD lane 0).toNat, 8), (l.bbase, (l.baddr.getD lane 0).toNat, 8)] ++
    (if l.scaled && l.next % per == 0 then
      [(l.bbase + 8, scale l.saaddr l.salane, 1), (l.bbase + 9, scale l.sbaddr l.sblane, 1)] else [])
/-- All reads of a step, lane by lane. -/
def MLoop.allReads (l : MLoop) : List (Nat × Nat × Nat × Nat) := (List.range 32).flatMap fun i => (l.reads i).map fun r => (i, r)
/-- The trap of a read that fails its check: 4-aligned and inside the allocation (R283). -/
def readBad (scr : Nat) (r : Nat × Nat × Nat × Nat) : Option Trap :=
  if r.2.2.1 % 4 != 0 then some (faultAt cAlign 1 r.2.2.1)
  else if scr < r.2.2.1 + 4 * r.2.2.2 then some (faultAt cAccess aWindow r.2.2.1) else none
/-- The address of the next step (R174, R283). -/
def loopNext (x d : Word) (w : Option Word) : Word :=
  match w with
  | some len => (wrapBase (x.setWidth 64) d.toInt len).setWidth 32
  | none => x + d
/-- The loop after a step. -/
def MLoop.advance (l : MLoop) : MLoop :=
  { l with next := l.next + 1, aaddr := l.aaddr.map fun x => loopNext x l.astep l.aw,
           baddr := l.baddr.map fun x => loopNext x l.bstep l.bw }
/-- What the loop's next reads are ordered after has performed: with ACQ every earlier access of the troupe, else those to
the same bytes (R284). -/
def State.loopReady (s : State) (cid trp : Nat) (l : MLoop) : Bool :=
  let ls := l.allReads.flatMap fun r => (List.range (4 * r.2.2.2)).map fun i => Loc.scratch cid (r.2.2.1 + i)
  !(s.ops.any fun o => o.cid == cid && o.tid / 32 == trp && o.id < l.born && o.isAccess &&
    ((l.acq && !(o.kinds.all (· == .uo))) || o.locs.any ls.contains))
/-- A read fills staging registers of one lane; nobody sees an older value of them (R39). -/
def State.stage (s : State) (cid trp : Nat) (r : Nat × Nat × Nat × Nat) : State :=
  let word (i : Nat) : Word := BitVec.ofNat 32 (natOf (s.getLocs ((List.range 4).map fun k => .scratch cid (r.2.2.1 + 4 * i + k))))
  s.updThread cid (trp * 32 + r.1) fun t =>
    (List.range r.2.2.2).foldl (fun t i => t.writeSeen (.v (BitVec.ofNat 6 (r.2.1 + i))) ((word i).setWidth 64)) t
/-- The fragments of a troupe's lanes. -/
def State.laneGroups (s : State) (cid trp : Nat) (r n : Nat) : List (List Word) :=
  (List.range 32).map fun i => match s.thread? cid (trp * 32 + i) with
    | some t => t.group (BitVec.ofNat 6 r) n
    | none => []
/-- The scale words of a troupe's lanes from the scale cursor on (R266, R283). -/
def State.laneScales (s : State) (cid trp : Nat) (r cursor : Nat) : List Word :=
  (s.laneGroups cid trp r 1).map fun (g : List Word) => (g.headD (0 : Word)) >>> (8 * cursor)
/-- The scale cursor of a step (R283). -/
def MLoop.cursor (l : MLoop) : Nat := if l.ty == 5 then l.next % 2 * 2 else l.next % 4
/-- The completion word of a loop (R251, R284). -/
def State.loopWord (s : State) (cid : Nat) (l : MLoop) : State :=
  match l.cw with
  | some (a, v) => s.perform ((List.range 4).map fun i => .scratch cid (a + i)) (bytesOf 4 v.toNat)
  | none => s
/-- A loop stops before a step: every thread of the troupe is to take ENGINE MLOOP (R285). -/
def State.loopStop (s : State) (cid trp : Nat) (l : MLoop) (tr : Trap) : State :=
  let a : Async := { trap := { cls := cEngine, sub := 4, addr := tr.addr, extra := BitVec.ofNat 32 l.next }, ticket := 0, cmd := none }
  let s := (s.loopWord cid l).updThreads (fun t => t.cid == cid && t.trp == trp && !t.exited) fun t => { t with asyncs := t.asyncs ++ [a] }
  s.doneWork cid trp
/-- One step of a loop whose reads pass their checks (R283). -/
def State.loopGo (s : State) (cid trp : Nat) (l : MLoop) (err : Bool) : State :=
  let s := l.allReads.foldl (fun s r => s.stage cid trp r) s
  let a := s.laneGroups cid trp l.abase 8
  let b := s.laneGroups cid trp l.bbase 8
  let sa := s.laneScales cid trp (l.bbase + 8) l.cursor
  let sb := s.laneScales cid trp (l.bbase + 9) l.cursor
  let rows := if l.edge then l.rows else 32
  let cols := if l.edge then l.cols else 32
  let s := (s.updTile cid trp l.tile fun t =>
    let t := (s.tileSeen cid trp l.tile (inBlock rows cols) t).step l.ty (l.ow && l.next == 0) rows cols a b sa sb
    if err then t.spoil s.fresh else t).tileWritten cid trp l.tile (inBlock rows cols)
  s.updTroupe cid trp fun u => { u with work := changeWork (some (.loop l.advance)) u.work }
/-- MLOOP_STEP (R283, R285): the sequencer refills the staging registers and performs one step, or stops the loop. -/
def execMloopStep (cid trp : Nat) (err : Bool) (s : State) : Out :=
  .next (match s.work? cid trp with
  | some (.loop l) =>
    if l.steps ≤ l.next then s
    else
      let scr := match s.company? cid with
        | some c => c.scrS
        | none => 0
      match l.allReads.findSome? (readBad scr) with
      | some tr => s.loopStop cid trp l tr
      | none => if s.loopReady cid trp l then ({ s with fresh := s.fresh + 1 } : State).loopGo cid trp l err else s
  | _ => s)
/-- MLOOP_COMPLETE (R284): after the last step the completion word is written. -/
def execMloopComplete (cid trp : Nat) (s : State) : Out :=
  .next (match s.work? cid trp with
  | some (.loop l) => if l.steps ≤ l.next then (s.loopWord cid l).doneWork cid trp else s
  | _ => s)

/-- A troupe's running loops refill one of some registers (R39). -/
def State.stages (s : State) (cid trp : Nat) (rs : List Reg) : Bool :=
  match s.troupe? cid trp with
  | some u => u.work.any fun w => match w with
    | .loop l => l.staging.any rs.contains
    | _ => false
  | none => false

/-! ### Emulated double precision (R286 to R289) -/

/-- A lane instruction of DEMU: each lane works on its own values; all trap together (R271, R286). -/
def State.demuOp (s : State) (m : Bool) (src : List RegId) (e : Thread → LaneOut) : Out :=
  s.matrixOp m (.f :: src) (fun _ => []) fun s _ ps =>
    let own (t : Thread) : Option Trap := (fpTrap t.fpcsr (e t).fl).map fun sub => { cls := cFpexc, sub := sub }
    if anyCause ps own then (s.raiseIn (s.owners ps own) fun t => (e t).fl).siblingTraps ps own
    else ps.foldl (fun s t => s.deliver t 0 (e t)) s

/-- `floor(log2 |x|) + 1`. -/
def exponentOf (m : Nat) (e : Int) : Int := e + Nat.log2 m + 1
/-- `dexp` in one lane (R287): a signalling NaN counts only where `SNT` is set. -/
def dexpOf (snt : Bool) (x : Nat) (old : Word) : Word × Flags :=
  match fp64.value x with
  | .nan sg => (0x7FFFFFFF, flagIf (sg && snt) fSNaN)
  | .inf _ => (0x7FFFFFFF, 0)
  | .fin _ m e => if m == 0 then (old, 0) else (imaxW old (BitVec.ofInt 32 (exponentOf m e)), 0)
/-- `dexp` (R287). -/
def execDexp (m : Bool) (d a : Reg) (s : State) : Out :=
  s.demuOp m (.v d :: pairRegs a)
    (fun t => let r := dexpOf (t.fpcsr.getLsbD 13) (t.f64 a) (t.getV d); { vOut d r.1 with fl := r.2 })

/-- An exponent as `dexp` leaves it: `0x8000_0000` acts as 0 (R288, R289). -/
def sliceExp (e : Word) : Int := if e == 0x80000000 then 0 else e.toInt
/-- Digit `t` of `m × 2^e` below 1: seven bits from the top, truncated (R98). -/
def digit (m : Nat) (e : Int) (t : Nat) : Nat :=
  let k := e + 7 * (t + 1)
  (if 0 ≤ k then m <<< k.toNat else m >>> min (-k).toNat 64) % 128
/-- The eight digits of one element and its flags (R288). -/
def splitElem (x : Nat) (e : Word) : List Byte × Flags :=
  let zero : List Byte := List.replicate 8 0
  match fp64.value x with
  | .nan sg => (zero, fNV ||| flagIf sg fSNaN)
  | .inf _ => (zero, fNV)
  | .fin n m ex =>
    if e == 0x7FFFFFFF || m == 0 then (zero, 0)
    else
      let ex := ex - sliceExp e
      if 0 < exponentOf m ex then (zero, fNV)
      else ((List.range 8).map fun t => let v : Byte := BitVec.ofNat 8 (digit m ex t); if n then -v else v, 0)
/-- `dsplit` in one lane (R288). -/
def splitOut (d a b : Reg) (t : Thread) : LaneOut :=
  let es := (List.range 4).map fun n => splitElem (t.f64 (a + BitVec.ofNat 6 (2 * n))) (t.getV b)
  { writes := groupWrites d ((List.range 8).map fun k => BitVec.ofNat 32 (natOf (es.map fun x => x.1.getD k 0))),
    fl := es.foldl (fun fl x => fl ||| x.2) 0 }
/-- `dsplit` (R288). -/
def execDsplit (m : Bool) (d a b : Reg) (s : State) : Out :=
  s.demuOp m (groupRegs a 8 ++ [.v b]) (splitOut d a b)

/-- One element of a merge (R289): the accumulator, the product, its exponents and its order. [DEDUCED, log 42] -/
def mergeElem (acc : Nat) (p : Word) (e f : Word) (m : Nat) : Res :=
  if e == 0x7FFFFFFF || f == 0x7FFFFFFF then ⟨fp64.nan, 0⟩
  else
    let x := clampInt (-8000) 8000 (sliceExp e + sliceExp f - 7 * (m + 2))
    match fp64.value acc with
    | .nan sg => ⟨fp64.nan, flagIf sg fSNaN⟩
    | v => match v.add? .rne (.fin (p.toInt < 0) p.toInt.natAbs x) with
      | some r => fp64.roundV false .rne r
      | none => fp64.invalid
/-- A merge into the pair of tiles `lo`, `hi` from the product tile `p`: both tiles (R289). -/
def mergeTiles (lo hi p : Tile) (e f : List Word) (m : Nat) (init : Bool) : Tile × Tile :=
  let rs := (List.range 1024).map fun k =>
    let i := k / 32
    let j := k % 32
    mergeElem (if init then 0 else (lo.at i j).toNat + 2 ^ 32 * (hi.at i j).toNat) (p.at i j) (e.getD i 0) (f.getD j 0) m
  let at_ (i j : Nat) : Nat := (rs.getD (i * 32 + j) ⟨0, 0⟩).bits
  ((lo.fill fun i j => BitVec.ofNat 32 (at_ i j)).gather (rs.foldl (fun fl r => fl ||| r.fl) 0),
   hi.fill fun i j => BitVec.ofNat 32 (at_ i j / 2 ^ 32))
/-- The tiles that a merge reads: its products, and its accumulators unless it initialises them (R289). -/
def mergeReads (n x : Nat) (init : Bool) : List Nat := x :: if init then [] else [n, n + 1]
/-- A troupe's merge: the pair takes the sums. An error that has struck a tile it reads since it issued passes to the pair (R273).
[DEDUCED, log 106] -/
def State.merge (s : State) (cid trp n x : Nat) (e f : List Word) (m : Nat) (init : Bool) (lo hi p : Tile) : State :=
  let all : Nat → Bool := fun _ => true
  let r := mergeTiles (s.tileSeen cid trp n all lo) (s.tileSeen cid trp (n + 1) all hi) (s.tileSeen cid trp x all p) e f m init
  let keep (t : Tile) : Tile := if s.tilesErr cid trp (mergeReads n x init) then t.spoil s.fresh else t
  let s' := (s.updTile cid trp n fun _ => keep r.1).updTile cid trp (n + 1) fun _ => keep r.2
  (s'.tileWritten cid trp n all).tileWritten cid trp (n + 1) all
/-- `dmerge` (R273, R289): it waits for its tiles, so that an error in one traps here. -/
def execDmerge (m : Bool) (b : Reg) (x n : BitVec 4) (s : State) : Out :=
  s.matrixOp m (groupRegs b 3) (fun _ => [n.toNat, n.toNat + 1, x.toNat]) fun s l ps =>
    let c := l.getV (b + 2)
    let tc := s.tileCount l.cid
    if tc ≤ n.toNat + 1 || tc ≤ x.toNat then s.raiseAll ps tileTrap
    else if s.tilesErr l.cid l.trp (mergeReads n.toNat x.toNat (c.getLsbD 8)) then s.tileFails ps
    else s.queueWork l.cid l.trp (.merge n.toNat x.toNat (ps.map fun t => t.getV b) (ps.map fun t => t.getV (b + 1))
      (c.toNat % 8) (c.getLsbD 8))

/-- An uncorrectable error strikes one tile of a troupe, a free choice (R273). [DEDUCED, log 106] -/
def State.strike (s : State) (cid trp : Nat) : State :=
  { s.updTile cid trp ((Config.freeWord s.fresh 1).toNat % s.tileCount cid) (Tile.spoil s.fresh) with fresh := s.fresh + 1 }
/-- The matrix unit performs a troupe's next step, zero or merge (R264). -/
def State.matrixStep (s : State) (cid trp : Nat) : State :=
  match s.work? cid trp with
  | some (.step n ty ow rows cols a b sa sb) =>
    ((s.updTile cid trp n fun t => (s.tileSeen cid trp n (inBlock rows cols) t).step ty ow rows cols a b sa sb).tileWritten
      cid trp n (inBlock rows cols)).doneWork cid trp
  | some (.zero n) =>
    ((s.updTile cid trp n fun t => { t.blank with flags := 0, err := false }).tileWritten cid trp n fun _ => true).doneWork cid trp
  | some (.merge n x e f m init) =>
    match s.tile? cid trp n, s.tile? cid trp (n + 1), s.tile? cid trp x with
    | some lo, some hi, some p => (s.merge cid trp n x e f m init lo hi p).doneWork cid trp
    | _, _, _ => s.doneWork cid trp
  | _ => s
/-- MATRIX_STEP (R264, R269, R275, R289): the matrix unit performs a troupe's next step, zero or merge; an uncorrectable error may strike
a tile, at rest or in use, then or when there is no work (R273). -/
def execMatrixStep (cid trp : Nat) (err : Bool) (s : State) : Out :=
  .next (let r := ({ s with fresh := s.fresh + 1 } : State).matrixStep cid trp
    if err then r.strike cid trp else r)

end Sys2Proof.Machine
end

