-- ==== Sys2Proof/Machine/Regs.lean ====
section
/-!
DEFINITION. The `v` registers an instruction reads or writes, for what is scoreboarded by register (R39).
-/
namespace Sys2Proof.Machine

/-- A register and the ones after it. -/
def regsFrom (r : Reg) (n : Nat) : List Reg := (List.range n).map fun i => r + BitVec.ofNat 6 i
/-- The registers a base names (R55). -/
def regsOfBase (b : Reg) : List Reg := if Reg.even b then [b, b + 1] else [b]
/-- A register, or a pair where the value has 64 bits. -/
def regsWide (w : Bool) (r : Reg) : List Reg := regsFrom r (if w then 2 else 1)
/-- The registers of an access of `n` bytes. -/
def regsData (n : Nat) (r : Reg) : List Reg := regsFrom r (max 1 (n / 4))

/-- The `v` registers that an instruction names, as sources or destinations. -/
def vregs : Instr → List Reg
  | .iadd _ d a b | .isub _ d a b | .iaddc _ d a b | .isubb _ d a b | .imin _ d a b | .imax _ d a b | .umin _ d a b
  | .umax _ d a b | .and _ d a b | .or _ d a b | .xor _ d a b | .andn _ d a b | .orn _ d a b | .shl _ d a b | .shr _ d a b
  | .sar _ d a b | .rol _ d a b | .ror _ d a b | .lea _ _ d a b | .imul _ d a b | .imulh _ d a b | .umulh _ d a b
  | .imad _ d a b | .bfe _ d a b | .ubfe _ d a b | .bfi _ d a b | .bmix _ d a b | .isel _ _ d a b | .fadd _ _ d a b
  | .fsub _ _ d a b | .fmul _ _ d a b | .fdiv _ _ d a b | .fmin _ d a b | .fmax _ d a b | .ffma _ _ d a b | .fscale _ d a b
  | .hadd2 _ _ d a b | .hsub2 _ _ d a b | .hmul2 _ _ d a b | .hfma2 _ _ d a b | .hmin2 _ _ d a b | .hmax2 _ _ d a b
  | .hcmp2Eq _ _ d a b | .hcmp2Lt _ _ d a b | .hcmp2Le _ _ d a b | .hcmp2Un _ _ d a b | .scx _ d a b | .dp4 _ d a b
  | .dp8 _ d a b | .hdp2F16 _ d a b | .hdp2Bf16 _ d a b | .lget _ _ d a b | .sadd _ d a b | .sincw _ d a b
  | .sexch _ d a b | .smin _ d a b | .smax _ d a b | .tcopy _ d a b | .tcopy2 _ d a b | .tgath _ d a b | .tscat _ d a b
  | .tfill _ d a b | .tnote _ d a b | .tcoll _ d a b | .rflush _ d a b | .gmmask _ d a b => [d, a, b]
  | .ineg _ d a | .iabs _ d a | .not _ d a | .mov _ d a | .iaddImm _ d a _ | .andImm _ d a _ | .orImm _ d a _
  | .xorImm _ d a _ | .shlImm _ d a _ | .shrImm _ d a _ | .sarImm _ d a _ | .rolImm _ d a _ | .popc _ d a | .clz _ d a
  | .ctz _ d a | .brev _ d a | .fabs _ d a | .fneg _ d a | .fclass _ d a | .fsqrt _ _ d a | .frcp _ d a | .frsq _ d a
  | .fex2 _ d a | .flg2 _ d a | .fsin _ d a | .fcos _ d a | .ftanh _ d a | .gumbel _ d a | .rndf _ d a | .bfx _ _ d a
  | .redx _ _ d a | .scanx _ _ d a | .twait _ d a | .gmstep _ d a | .gmforce _ d a => [d, a]
  | .icmp _ _ _ a b | .fcmp _ _ _ a b | .mwait _ a b | .rxput _ a b => [a, b]
  | .movi _ d _ | .lui _ d _ | .movi16 _ d _ => [d.setWidth 6]
  | .iadd16 _ d b | .isub16 _ d b | .and16 _ d b | .or16 _ d b | .xor16 _ d b | .shl16 _ d b | .shr16 _ d b | .mov16 _ d b
  | .imul16 _ d b | .fadd16 _ d b | .fmul16 _ d b | .ffma16 _ d b | .fmin16 _ d b | .fmax16 _ d b
  | .isel16 _ d b => [d.setWidth 6, b.setWidth 6]
  | .dfma _ _ d a b | .dadd _ _ d a b | .dsub _ _ d a b | .dmul _ _ d a b | .ddiv _ _ d a b | .dmin _ d a b | .dmax _ d a b
  | .gen _ d a b => regsFrom d 2 ++ regsFrom a 2 ++ regsFrom b 2
  | .dsqrt _ _ d a | .dabs _ d a | .dneg _ d a => regsFrom d 2 ++ regsFrom a 2
  | .dcmp _ _ _ a b => regsFrom a 2 ++ regsFrom b 2
  | .cvt _ _ dst src d a => regsWide (cvtWide dst) d ++ regsWide (cvtWide src) a
  | .q8 _ _ d a b => d :: b :: regsFrom a 4
  | .q4 _ _ d a b => d :: b :: regsFrom a 8
  | .dq8 _ _ d a b => a :: b :: regsFrom d 4
  | .dq4 _ _ d a b => a :: b :: regsFrom d 8
  | .q8Cs _ _ d a b => a :: b :: regsFrom d 2
  | .q4Cs _ _ d a b => a :: (regsFrom d 2 ++ regsFrom b 2)
  | .fdp4E4m3 _ _ d a b | .fdp4E5m2 _ _ d a b | .fdp8 _ _ d a b => d :: (regsFrom a 2 ++ regsFrom b 2)
  | .pollCnt _ d _ | .pollRank _ d _ | .pollMask _ d _ | .pmovToReg _ d | .mstat _ _ d | .rxbegin _ _ d | .rxprev _ d
  | .lpost _ _ d => [d]
  | .pollSame _ _ a | .pmovToPred _ a | .sets _ _ a | .evs _ a | .btab _ a | .ret _ a | .join _ _ a | .prog _ a => [a]
  | .plop .. | .grd .. | .nop .. | .fence .. | .aliasf .. | .mloop .. | .mzero .. | .bra .. | .exit .. | .leave ..
  | .waitk .. | .trap .. | .brk .. | .rte .. | .yield .. | .rxend .. | .poolGuard .. => []
  | .gets _ r d => regsWide (r.toNat == 0x10) d
  | .ld _ f z m b t | .st _ f z m b t => regsOfBase b ++ regsData (sizeBytes z) t ++ if m.toNat == 3 then [f] else []
  | .ldt _ _ t => [t]
  | .ldp _ f _ m b t | .stp _ f _ m b t => t :: regsFrom b 4 ++ if m.toNat == 3 then [f] else []
  | .ldacq _ _ z b t | .strel _ _ z b t => regsOfBase b ++ regsData (2 ^ z.toNat) t
  | .cctlWb _ b | .cctlWbinv _ b | .cctlPf1 _ b | .cctlPf2 _ b | .cctlZero _ b | .cctlIinv _ _ b | .mon _ b | .esc _ b => regsOfBase b
  | .atom _ o z b t | .red _ o z b t => regsOfBase b ++ regsFrom t ((if o.toNat == 14 then 2 else 1) * (sizeBytes z / 4))
  | .sbadd _ d a b | .scas _ d a b | .acall _ d a b => d :: a :: regsFrom b 2
  | .waita _ d a b => b :: (regsFrom d 4 ++ regsFrom a 4)
  | .mbput _ a b => a :: regsFrom b 2
  | .mbget _ d a => a :: regsFrom d 2
  | .pladd _ _ d a b => d :: b :: regsFrom a 4
  | .mma _ _ ty b a _ => regsFrom a 8 ++ regsFrom b (if 1 ≤ ty.toNat && ty.toNat ≤ 5 then 10 else 8)
  | .mmae _ _ ty b a _ => regsFrom a 9 ++ regsFrom b (if 1 ≤ ty.toNat && ty.toNat ≤ 5 then 10 else 8)
  | .mload _ b a _ => b :: regsOfBase a
  | .mdrain _ b a _ => regsOfBase a ++ regsFrom b 4
  | .dexp _ d a => d :: regsFrom a 2
  | .dsplit _ d a b => b :: (regsFrom d 8 ++ regsFrom a 8)
  | .dmerge _ b _ _ => regsFrom b 4
  | .call .. => [62]
  | .ksave _ _ _ a | .kload _ _ _ a => regsOfBase a
  | .barArrive _ c _ a _ | .barWait _ c _ a _ | .barSync _ c _ a _ => if c then [a] else []
  | .sysr _ r d => regsWide (sysWide r) d
  | .sysw _ r a => regsWide (sysWide r) a
  | .launch _ d a | .tlbinv _ d a | .gmload _ d a => d :: regsFrom a 2
  | .rxstat _ d => regsFrom d 4
  | .lres _ a => regsFrom a 2
  | .lstat _ d a => regsFrom d 4 ++ regsFrom a 2
  | .snap _ d a | .snapsel _ d a | .snapfree _ d a => d :: regsFrom a 4
  | .issueOpportunity .. | .yieldExpiry .. | .loadDataArrive .. | .kloadDataArrive .. | .storePerform ..
  | .atomResultReturn .. | .redDataerrDeferred .. | .syncReply .. | .acallReply .. | .contributionEnter ..
  | .waitaWake .. | .waitaTimeout .. | .mwaitWake .. | .mwaitTimeout .. | .mbputServe .. | .mbgetServe ..
  | .tenderUnit .. | .tenderComplete .. | .tcollComplete .. | .rflushEpochComplete .. | .matrixStep ..
  | .mloadDataArrive .. | .drainStoresPerform .. | .mloopStep .. | .mloopComplete .. | .rxRegionStart ..
  | .rxPassEnd .. | .ladderStarveExpire .. | .escCopyComplete .. | .retireAdvance .. | .snapCopyComplete ..
  | .asyncTrapTake .. | .barrierTimeout .. | .companyRelease .. | .doorbell .. | .queueServe .. | .placeUnit ..
  | .launchComplete .. | .timeSliceExpire .. | .drainTimeout .. | .saveComplete .. | .companyResume ..
  | .pageMigrate .. | .thermalSample .. | .regulatorSample .. | .tsliceWrite .. | .tovrWrite .. | .dbgctlWrite ..
  | .grantcapWrite .. | .bartoWrite .. | .asidWrite .. | .probeEnable .. | .probeDump .. | .probeClear ..
  | .probeDisable .. | .partition .. | .role .. | .roleChangeTimeout .. | .sched .. | .fabric .. | .key ..
  | .resume .. | .attest .. | .move .. | .unknownCommand .. | .diagnosticMailboxRequest .. | .hostAccess ..
  | .portFailure .. | .powerOn .. | .pladdResultReturn .. | .illegalInstructionWord .. => []

end Sys2Proof.Machine
end

