-- ==== Sys2Proof/Machine/Fetch.lean ====
section
/-!
DEFINITION. Fetching the instruction of the pending group (R56, R64, R303, R305), its scoreboarded registers (R39), and the words
that are no instruction (R62, R63).
-/
namespace Sys2Proof.Machine

/-- Reads `n` bytes as an instruction fetch, with the checks of R149. -/
def State.fetchBytes (s : State) (w : Who) (pc : DWord) (n : Nat) : Except Trap Checked := s.check w .fetch pc n false

/-- What a fetch at a counter comes to: a fault, a stall on a migrating page, or the word and its length. -/
structure Fetched where
  fault : Option Trap
  mig : Bool
  word : Word
  len : Nat
  deriving DecidableEq, Repr
/-- The instruction at a counter: the halfword, and the next one where its bit 0 is set (R53, R54, R64). -/
def State.fetchAt (s : State) (w : Who) (pc : DWord) : Fetched :=
  match s.fetchBytes w pc 2 with
  | .error tr => ⟨some tr, false, 0, 0⟩
  | .ok c =>
    let lo := natOf (s.getLocs c.locs)
    if c.mig then ⟨none, true, 0, 0⟩
    else if lo % 2 = 0 then ⟨none, false, BitVec.ofNat 32 lo, 2⟩
    else match s.fetchBytes w (pc + 2) 2 with
      | .error tr => ⟨some tr, false, 0, 0⟩
      | .ok c2 => if c2.mig then ⟨none, true, 0, 0⟩ else ⟨none, false, BitVec.ofNat 32 (lo + 65536 * natOf (s.getLocs c2.locs)), 4⟩
/-- The instruction for the threads of the group. A fault is taken by every one of them, a migrating page stalls them, and an error of the
word is DATAERR FETCH (R303); then nothing executes and the state stands in `.error`. [DEDUCED, log 95] -/
def State.fetch (s : State) (g : Issue) : Except State Issue :=
  let clear : State := { s with issue := none }
  match s.members g with
  | [] => .error clear
  | t :: r =>
    let x := s.fetchAt (s.whoIs t) g.pc
    match x.fault with
    | some tr => .error (clear.raiseAll (t :: r) tr)
    | none =>
      if x.mig then .error ((t :: r).foldl (fun s u => s.waitAt u (.mig u.asid g.pc)) clear)
      else if s.bad == 1 then .error (clear.raiseAll (t :: r) { cls := cDataerr, sub := 2, addr := g.pc })
      else .ok { g with tids := (t :: r).map Thread.tid, word := x.word, len := x.len }

/-! ### Before it executes (R39) -/

/-- An instruction names a register that a running matrix loop refills (R39). -/
def State.waitsForLoop (s : State) (g : Issue) (i : Instr) : Bool :=
  (s.members g).any fun t => s.stages t.cid t.trp (vregs i)
/-- The state in which a decoded instruction executes, or the one after the group was held (R39). -/
def State.ready (s : State) (g : Issue) (i : Instr) : Except State State :=
  if s.waitsForLoop g i then .error ((s.members g).foldl (fun s t => s.waitAt t .tile) { s with issue := none })
  else .ok { s with issue := some g }

/-- Every thread of the pending group takes one trap, whether or not its guard passes (R51, R63). -/
def State.trapGroup (s : State) (tr : Trap) : State :=
  match s.issue with
  | none => s
  | some g => ({ s with issue := none } : State).raiseAll (s.members g) tr

/-- ILLEGAL_INSTRUCTION_WORD (R63): the word of the pending group is no instruction. -/
def execIllegalInstructionWord (sub : BitVec 8) (word : Word) (s : State) : Out :=
  .next (s.trapGroup { cls := cIllegal, sub := sub.toNat, extra := word })
/-- A guard word executes (R62): ILLEGAL with subcause POOL. -/
def execPoolGuard (len : BitVec 17) (s : State) : Out :=
  .next (s.trapGroup { cls := cIllegal, sub := subPool.toNat, extra := 0x1F9 + len.setWidth 32 * 0x8000 })

end Sys2Proof.Machine
end

