-- ==== Sys2Proof/Machine/Relax.lean ====
section
/-!
DEFINITION. Relaxation regions (R328 to R345): the rendezvous, the body's own instructions, the end of a pass with its
tests and its scan, and the end of a region. Loads and stores of a body stand in Access.lean and Mem.lean; deferred traps
in Ops.lean.
-/
namespace Sys2Proof.Machine

/-! ### Exact residuals (R336) -/

/-- The value as an integer multiple of `2^e`, for `e` no larger than its exponent. -/
def Dyadic.at (x : Dyadic) (e : Int) : Int := x.m * 2 ^ (x.e - e).toNat
/-- Exact sum. -/
def Dyadic.add (x y : Dyadic) : Dyadic := let e := min x.e y.e; ⟨x.at e + y.at e, e⟩
/-- Exact product. -/
def Dyadic.mul (x y : Dyadic) : Dyadic := ⟨x.m * y.m, x.e + y.e⟩
/-- Magnitude. -/
def Dyadic.abs (x : Dyadic) : Dyadic := ⟨x.m.natAbs, x.e⟩
/-- Negation. -/
def Dyadic.neg (x : Dyadic) : Dyadic := ⟨-x.m, x.e⟩
/-- Exact comparison. -/
def Dyadic.le (x y : Dyadic) : Bool := let e := min x.e y.e; x.at e ≤ y.at e
/-- A finite FP32 value. -/
def dyadicOf (x : Word) : Option Dyadic :=
  match fp32.value x.toNat with
  | .fin n m e => some ⟨if n then -(m : Int) else m, e⟩
  | _ => none
/-- The encoding is a NaN or an infinity. -/
def notFinite (x : Word) : Bool := (dyadicOf x).isNone

/-- The exact residual |y − g|. [DEDUCED, log 64] -/
def residual (y g : Word) : Option Dyadic :=
  match dyadicOf y, dyadicOf g with
  | some a, some b => some (a.add b.neg).abs
  | _, _ => none
/-- A component passes (R336). -/
def Region.passes1 (r : Region) (y g : Word) : Bool :=
  y == g || ((r.tolabs != 0 || r.tolrel != 0) &&
    match residual y g, dyadicOf y, dyadicOf r.tolabs, dyadicOf r.tolrel with
    | some d, some v, some a, some b => d.le (a.add (b.mul v.abs))
    | _, _, _, _ => false)
/-- The larger of two residuals. -/
def rmaxJoin (x y : Option Dyadic) : Option Dyadic :=
  match x, y with
  | some a, some b => some (if a.le b then b else a)
  | _, _ => none
/-- A residual has not fallen below an earlier one. -/
def notBelow (x y : Option Dyadic) : Bool :=
  match x, y with
  | some a, some b => b.le a
  | _, _ => false

/-! ### The rendezvous (R330, R331) -/

/-- The fields of a parameter block in order: byte offset and whether they are legal (R330). -/
def rxChecks (w : List Word) : List (Nat × Bool) :=
  let f (i lo n : Nat) : Nat := (w.getD i 0).toNat / 2 ^ lo % 2 ^ n
  let tol (i : Nat) : Nat × Bool := (4 * i, f i 31 1 == 0 && f i 23 8 != 255)
  [(0, 1 ≤ f 0 0 11 && f 0 0 11 ≤ 1024 && 1 ≤ f 0 16 7 && f 0 16 7 ≤ 64), tol 1, tol 2, (12, f 3 0 1 == 0),
   (16, f 4 0 1 == 0), (24, f 6 0 2 == 0)]
/-- A region that has not started, from its block. -/
def regionOf (pc : DWord) (d : Reg) (w : List Word) : Region :=
  let f (i lo n : Nat) : Nat := (w.getD i 0).toNat / 2 ^ lo % 2 ^ n
  { pc := pc, d := d, running := false, steps := f 0 0 11, w := f 0 12 2 + 1, passes := f 0 16 7, stall := f 0 24 1 == 1,
    tolabs := w.getD 1 0, tolrel := w.getD 2 0, endoff := w.getD 3 0, failoff := w.getD 4 0, guess := w.getD 7 0 ++ w.getD 6 0,
    init := [], g := [], y := [], j := [], snap := [], pass := 0, rmax := [], settled := 0, reads := [], buf := [], loads := [],
    stores := [], overflow := [], traps := [] }
/-- ENGINE BADCMD at an arrival, or the extra word of R331; a step thread in the body arrives nowhere (R332). -/
def rxRefusal (c : Company) (body : Bool) (t : Thread) (d : Reg) (w : List Word) : Option Word :=
  let r := regionOf t.pc d w
  if !body && c.region.any (fun x => x.pc != t.pc) then some 0xFFFFFFFF
  else match (rxChecks w).find? fun x => !x.2 with
    | some x => some (BitVec.ofNat 32 x.1)
    | none => if 64 < d.toNat + r.w || c.ntr * 32 < r.steps then some 0 else none
/-- A thread arrives at `rxbegin` and waits; the block of the latest arrival before the start counts (R331). -/
def State.rxArrive (s : State) (d : Reg) (w : List Word) (t : Thread) : State :=
  match s.company? t.cid with
  | none => s
  | some c => match rxRefusal c (s.bodyOf t).isSome t d w with
    | some x => s.raise t (badCmd x)
    | none =>
      let s := s.updCompany t.cid fun c => match c.region with
        | some r => if r.running || !r.g.isEmpty then c else { c with region := some (regionOf t.pc d w) }
        | none => { c with region := some (regionOf t.pc d w) }
      s.waitAt t .rxbegin
/-- `rxbegin`: a release at each arrival (R330, R331, R343). -/
def execRxbegin (m : Bool) (off : BitVec 12) (d : Reg) (s : State) : Out :=
  let word := s.word
  let ms := s.group
  .next (s.runIssue (markForm m (groupRegs d 1)).release.barred fun s ps => s.withBlock ms off 8 word fun w =>
    ps.foldl (fun s t => s.rxArrive d w t) s)

/-- The relaxation sequencer of a core serves no other company's region (R328). -/
def State.sequencerFree (s : State) (core cid : Nat) : Bool :=
  !(s.companies.any fun c => c.core == core && c.cid != cid && c.onCore && (match c.region with | some r => !r.g.isEmpty | none => false))
/-- Every thread that has not exited waits at the `rxbegin`. [DEDUCED, log 60] -/
def State.rxMet (s : State) (cid : Nat) : Bool := (s.live cid).all fun t => t.wait == .rxbegin && t.halt.isNone
/-- Some step thread has exited (R330). -/
def State.rxBroken (s : State) (cid : Nat) (r : Region) : Bool :=
  (List.range r.steps).any fun t => match s.thread? cid t with
    | some t => t.exited
    | none => true
/-- Changes a company's region. -/
def State.updRegion (s : State) (cid : Nat) (f : Region → Region) : State :=
  s.updCompany cid fun c => { c with region := c.region.map f }
/-- The sequencer takes a region: initial state from thread 0, snapshots, and the guesses where there is no array (R331). -/
def State.rxTake (s : State) (cid : Nat) (r : Region) : State :=
  let init : List Word := match s.thread? cid 0 with
    | some t => (t.view s.draw).group r.d r.w
    | none => []
  let snap := (List.range r.steps).map fun t => match s.thread? cid t with
    | some t => t.fpcsr
    | none => 0
  { s.updRegion cid fun r =>
      { r with init := init, snap := snap, g := List.replicate r.steps (if r.guess == 0 then some init else none) } with
    fresh := s.fresh + 1 }
/-- A step thread reads its initial guess, `w` words, once its earlier accesses to them have performed (R161, R331); an uncorrectable
error is DATAERR (R303). -/
def State.rxGuess (s : State) (cid : Nat) (r : Region) (tid : Nat) : State :=
  match r.g[tid]?, s.thread? cid tid with
  | some none, some t =>
    let va : DWord := r.guess + BitVec.ofNat 64 (tid * r.w * 4)
    match s.rowCheck (s.whoIs t) .load va 4 r.w with
    | .error e => s.raise t e
    | .ok cs =>
      let all : Checked := ⟨cs.flatMap fun c => c.2.locs, cs.flatMap fun c => c.2.locs.map fun _ => c.2.kinds.headD .rc, false⟩
      if cs.any (fun c => c.2.mig) || !s.mayRead t ((List.range (4 * r.w)).map fun i => va + BitVec.ofNat 64 i) all then s
      else if s.errAt t 0 then s.raise t (loadErr va)
      else
        let words : List Word := cs.map fun c => BitVec.ofNat 32 (natOf (s.getLocs c.2.locs))
        (s.updRegion cid fun r => { r with g := r.g.set tid (some words) }).rowDone t .load va (4 * r.w)
  | _, _ => s
/-- `fpcsr` returns to the snapshot (R332, R340). -/
def Thread.fpBack (r : Region) (t : Thread) : Thread :=
  { t with fpcsr := r.snap.getD t.tid t.fpcsr, old := t.old.filter fun o => o.1 != .f }
/-- A step thread begins a pass at the body start (R331, R335). -/
def Thread.atBody (r : Region) (t : Thread) : Thread := { t.fpBack r with pc := r.pc + 4, guard := none }
/-- RX_REGION_START (R330, R331, R343): a completed rendezvous whose sequencer is free starts its region, reads guesses, or
breaks because a step thread has exited. The start is an acquire in every step thread. -/
def execRxRegionStart (cid : Nat) (s : State) : Out :=
  .next (match s.company? cid with
  | none => s
  | some c => match c.region with
    | none => s
    | some r =>
      if r.running || !s.rxMet cid || (s.live cid).isEmpty then s
      else if s.rxBroken cid r then
        let s := s.updCompany cid fun c => { c with region := none }
        s.raiseAll (s.live cid) (badCmd 0)
      else if !s.sequencerFree c.core cid || !s.runs cid then s
      else
        let s := if r.g.isEmpty then s.rxTake cid r else s
        let r := (((s.company? cid).getD c).region).getD r
        let s := (List.range r.steps).foldl (fun s t => s.rxGuess cid r t) s
        match ((s.company? cid).getD c).region with
        | some r =>
          if r.g.all (·.isSome) then
            let s := s.updCompany cid fun c => { c with
              region := c.region.map fun r => { r with running := true, pass := 1, y := List.replicate r.steps none, j := List.replicate r.steps [] },
              rx := { code := 7, settled := 0, pass := 1, dclass := 0, dsub := 0, dpc := 0 } }
            s.release (fun t => t.cid == cid && !t.exited && t.tid < r.steps) fun t => ((t.past 4).fpBack r).acquire
          else s
        | none => s)

/-! ### The body's instructions (R333 to R335, R345) -/

/-- UNIT REGION. -/
def regionTrap (word : Word) : Trap := { cls := cUnit, sub := 3, extra := word }
/-- An instruction of the body, in a step thread of a running region; elsewhere it traps at once (R332). -/
def State.rxOp (s : State) (f : Form) (act : State → Thread → Region → State) : Out :=
  let word := s.word
  .next (s.runIssue f fun s ps => ps.foldl (fun s t => match s.bodyOf t with
    | some r => act s t r
    | none => s.raise t (regionTrap word)) s)
/-- The guess a step reads: its predecessor's, or the initial state (R333). -/
def Region.before (r : Region) (tid : Nat) : List Word := if tid == 0 then r.init else ((r.g.getD (tid - 1) none)).getD []
/-- Results that no reader misses (R39). -/
def State.writeRegsSeen (s : State) (cid tid : Nat) (ws : List (RegId × DWord)) : State :=
  (s.writeRegs cid tid ws).updThread cid tid fun t => ws.foldl (fun t w => t.writeSeen w.1 w.2) t
/-- `rxprev` (R333). -/
def execRxprev (m : Bool) (d : Reg) (s : State) : Out :=
  let word := s.word
  s.rxOp (markForm m) fun s t r =>
    if 64 < d.toNat + r.w then s.raise t (regionTrap word)
    else
      (s.updRegion t.cid fun r => { r with reads := t.tid :: r.reads }).writeRegsSeen t.cid t.tid (groupWrites d (r.before t.tid))
/-- `rxput` (R334). -/
def execRxput (m : Bool) (a b : Reg) (s : State) : Out :=
  let word := s.word
  s.rxOp (markForm m [.v a, .v b]) fun s t r =>
    if 64 < a.toNat + r.w || 64 < b.toNat + r.w then s.raise t (regionTrap word)
    else s.updRegion t.cid fun r => { r with y := r.y.set t.tid (some (t.group a r.w)), j := r.j.set t.tid (t.group b r.w) }
/-- `rxend` (R334, R335). -/
def execRxend (m : Bool) (s : State) : Out :=
  s.rxOp (markForm m) fun s t r =>
    match r.y.getD t.tid none with
    | some _ => s.waitAt t .rxend
    | none => s.raise t (regionTrap 0)
/-- The four words of `rxstat` (R345). -/
def RxStatus.words (x : RxStatus) : List Word :=
  [BitVec.ofNat 32 (x.code + x.dclass * 2 ^ 8 + x.dsub * 2 ^ 16), BitVec.ofNat 32 x.settled, BitVec.ofNat 32 x.pass, x.dpc]
/-- `rxstat` (R345). -/
def execRxstat (m : Bool) (d : Reg) (s : State) : Out :=
  .next (s.runIssue (markForm m) fun s ps => ps.foldl (fun s t => match s.company? t.cid with
    | some c => s.writeRegs t.cid t.tid (groupWrites d c.rx.words)
    | none => s) s)

/-! ### The end of a pass (R335 to R339) -/

/-- The output of a step in the pass: none where it has a deferred trap (R335, R341). -/
def Region.out (r : Region) (t : Nat) : Option (List Word) := if r.traps.any fun x => x.1 == t then none else r.y.getD t none
/-- The guess of a step. -/
def Region.guessOf (r : Region) (t : Nat) : List Word := (r.g.getD t none).getD []
/-- The settled count (R337): step `t` is settled where its predecessor is, and read what it put out. -/
def Region.settledFrom (r : Region) (t : Nat) : Nat → Nat
  | 0 => t
  | fuel + 1 => match r.out (t - 1) with
    | some y => if !r.reads.contains t || r.guessOf (t - 1) == y then r.settledFrom (t + 1) fuel else t
    | none => t
@[inherit_doc Region.settledFrom] def Region.settledCount (r : Region) : Nat := r.settledFrom 1 (r.steps - 1)

/-- The lowest of some step numbers. -/
def lowestStep (xs : List Nat) : Option Nat := xs.foldl (fun m x => match m with | some y => some (min x y) | none => some x) none
/-- Positions of conflicts (R339). -/
def Region.conflicts (r : Region) : List Nat :=
  r.loads.flatMap fun w => r.stores.filterMap fun v =>
    if v.1 != w.1 && v.2.unit 4 == w.2.unit 4 then some (max v.1 w.1) else none
/-- Steps whose output or derivative is not finite. -/
def Region.nonfinite (r : Region) : List Nat :=
  (List.range r.steps).filter fun t => match r.out t with
    | some y => y.any notFinite || (r.j.getD t []).any notFinite
    | none => false
/-- The events of a pass in the order of R335: status code and position. -/
def Region.events (r : Region) (settled : Nat) : List (Nat × Nat) :=
  let ev (code : Nat) (x : Option Nat) : List (Nat × Nat) := match x with
    | some p => [(code, p)]
    | none => []
  ev 5 ((lowestStep (r.traps.map fun x => x.1)).filter fun u => u < settled) ++ ev 4 (lowestStep r.conflicts) ++
    ev 6 (lowestStep r.overflow) ++ ev 3 (lowestStep r.nonfinite)
/-- The event of lowest position, the first listed among equals. -/
def firstEvent : List (Nat × Nat) → Option (Nat × Nat)
  | [] => none
  | x :: r => match firstEvent r with
    | some y => if y.2 < x.2 then some y else some x
    | none => some x

/-- Every step has an output that passes (R336). -/
def Region.allPass (r : Region) : Bool :=
  (List.range r.steps).all fun t => match r.out t with
    | some y => (y.zip (r.guessOf t)).all fun x => r.passes1 x.1 x.2
    | none => false
/-- The largest residual of the pass (R336). -/
def Region.largest (r : Region) : Option Dyadic :=
  (List.range r.steps).foldl (fun m t => match r.out t with
    | some y => (y.zip (r.guessOf t)).foldl (fun m x => rmaxJoin m (residual x.1 x.2)) m
    | none => m) (some ⟨0, 0⟩)
/-- Stall detection at the end of pass p (R335): `rs` are the residuals of the passes, the latest first. -/
def stalled (rs : List (Option Dyadic)) : Bool :=
  match rs with
  | x :: y :: z :: _ => notBelow x z && notBelow y z
  | _ => false

/-- One component of the scan (R338): the predecessor's new and old guess, and the step's own. -/
def scanComp (pnew pold y j : Word) : Word :=
  if pnew == pold then y
  else
    let d := (fp32.sub false .rne pnew.toNat pold.toNat).bits
    BitVec.ofNat 32 (fp32.fma false .rne j.toNat d y.toNat).bits
/-- The scan in ascending step order (R338). -/
def Region.scanFrom (r : Region) (pnew pold : List Word) : List Nat → List (List Word)
  | [] => []
  | t :: ts =>
    let g := r.guessOf t
    let new : List Word := match r.out t with
      | none => g
      | some y => (List.range r.w).map fun c => scanComp (pnew.getD c 0) (pold.getD c 0) (y.getD c 0) ((r.j.getD t []).getD c 0)
    new :: r.scanFrom new g ts
@[inherit_doc Region.scanFrom] def Region.scan (r : Region) : List (List Word) := r.scanFrom r.init r.init (List.range r.steps)

/-- What the sequencer does at the end of a pass: end the region, or go on with new guesses (R335). -/
inductive PassEnd where
  | stop (code settled : Nat)
  | again (g : List (List Word))
  deriving DecidableEq, Repr
@[inherit_doc PassEnd] def Region.endOfPass (r : Region) : PassEnd :=
  let s := r.settledCount
  match firstEvent (r.events s) with
  | some e => .stop e.1 (min s e.2)
  | none =>
    if r.allPass then .stop 0 r.steps
    else if r.pass == r.passes then .stop 1 s
    else if r.stall && 3 ≤ r.pass && stalled (r.largest :: r.rmax) then .stop 2 s
    else
      let g := r.scan
      if g.any fun x => x.any notFinite then .stop 3 s else .again g

/-! ### The end of a region (R340, R341) -/

/-- The buffered stores of the settled steps, in step order (R340). -/
def Region.commits (r : Region) (settled : Nat) : List RxStore :=
  (List.range settled).flatMap fun t => r.buf.filter fun b => b.step == t
/-- The live-out (R340). -/
def Region.liveOut (r : Region) (code settled : Nat) : List Word :=
  let k := if code == 0 then r.steps else settled
  if k == 0 then r.init else (r.y.getD (k - 1) none).getD []
/-- The deferred trap that a region ends with. -/
def Region.final (r : Region) (code settled : Nat) : Option (Nat × Trap × DWord) :=
  if code == 5 then r.traps.find? fun x => x.1 == settled else none
/-- A thread at the end of a region: `fpcsr`, live-out and continuation. -/
def Thread.leaveRegion (r : Region) (code settled : Nat) (t : Thread) : Thread :=
  let keeps := r.steps ≤ t.tid || t.tid < settled || (code == 5 && t.tid == settled)
  let t := if keeps then t else t.fpBack r
  let t := (groupWrites r.d (r.liveOut code settled)).foldl (fun t w => t.writeSeen w.1 w.2) t
  { t.acquire with pc := r.pc + (if code == 0 then r.endoff else r.failoff).signExtend 64, guard := none }
/-- A buffered store performs (R340). -/
def State.commit (s : State) (cid : Nat) (b : RxStore) : State :=
  let w : Who := { cid := cid, part := s.partOf cid, asid := b.asid, sys := true, scr := 0, tid := some b.step }
  let s := (b.vas.zip b.data).foldl (fun s x => s.claim w x.1 1 [] 1) s
  s.perform b.locs b.data
/-- RX_REGION_END (R340, R341). All threads then see what was written before, as at a barrier of core scope (R343); a `tlbinv` that waited
for the buffer goes on. -/
def State.regionEnd (s : State) (cid : Nat) (r : Region) (code settled : Nat) : State :=
  let s := (r.commits settled).foldl (fun s b => s.commit cid b) s
  let rs : List RegId := (groupWrites r.d (r.liveOut code settled)).map (·.1)
  let s := { s with ops := s.ops.map fun o => (s.live cid).foldl (fun o (t : Thread) => o.overtake cid t.tid rs) o }
  let fin := r.final code settled
  let st : RxStatus := match fin with
    | some x => { code := code, settled := settled, pass := r.pass, dclass := x.2.1.cls, dsub := x.2.1.sub, dpc := x.2.2.setWidth 32 }
    | none => { code := code, settled := settled, pass := r.pass, dclass := 0, dsub := 0, dpc := 0 }
  let s := s.updCompany cid fun c => { c with region := none, rx := st }
  let s := (s.release (fun t => t.cid == cid && !t.exited) (Thread.leaveRegion r code settled)).rewake
  match fin with
  | some x => match s.thread? cid x.1 with
    | some t => s.takeTrap cid x.1 x.2.1 t.pc none
    | none => s
  | none => s

/-- Every step has arrived, and no thread of the company is in a handler or halted (R335, R342). A step thread that has
ended in a handler counts as arrived. [DEDUCED, log 61] -/
def State.passOver (s : State) (cid : Nat) (r : Region) : Bool :=
  (s.live cid).all fun t => t.frames.isEmpty && t.halt.isNone && (r.steps ≤ t.tid || t.wait == .rxend)
/-- The next pass begins (R335). -/
def State.nextPass (s : State) (cid : Nat) (r : Region) (g : List (List Word)) : State :=
  let s := s.updCompany cid fun c => { c with
    region := some { r with
      g := g.map some, pass := r.pass + 1, rmax := r.largest :: r.rmax, settled := r.settledCount, y := List.replicate r.steps none,
      j := List.replicate r.steps [], reads := [], buf := [], loads := [], stores := [], overflow := [], traps := [] },
    rx := { code := 7, settled := r.settledCount, pass := r.pass + 1, dclass := 0, dsub := 0, dpc := 0 } }
  (s.release (fun t => t.cid == cid && !t.exited && t.tid < r.steps) (Thread.atBody r)).rewake
/-- A store that is to be committed waits for an access that its thread's handler has in flight to the same locations (R161). -/
def State.commitWaits (s : State) (cid : Nat) (bs : List RxStore) : Bool :=
  bs.any fun b => s.ops.any fun o => o.cid == cid && o.tid == b.step && o.isAccess &&
    ((o.asid.toNat == b.asid && o.spanVas.any b.vas.contains) || o.spanLocs.any fun l => l.onChip && b.locs.contains l)
/-- RX_PASS_END (R335): when every step has arrived, the sequencer evaluates the pass. -/
def execRxPassEnd (cid : Nat) (s : State) : Out :=
  .next (match s.company? cid with
  | some c => match c.region with
    | some r =>
      if r.running && s.passOver cid r && s.runs cid then
        match r.endOfPass with
        | .stop code settled => if s.commitWaits cid (r.commits settled) then s else s.regionEnd cid r code settled
        | .again g => s.nextPass cid r g
      else s
    | none => s
  | none => s)

end Sys2Proof.Machine
end

