-- ==== Sys2Proof/Machine/Ladder.lean ====
section
/-!
DEFINITION. Ladders (R346 to R359): binding, posting, packing, escalation, results, the retire cursor and the release.
-/
namespace Sys2Proof.Machine

/-! ### The object (R347, R348) -/

/-- A little-endian field of an object. -/
def fieldOf (b : List Byte) (off n : Nat) : Nat := natOf ((b.drop off).take n)
/-- The fields of rung `k` in order: byte offset and whether they are legal. -/
def rungChecks (b : List Byte) (k : Nat) : List (Nat × Bool) :=
  let o := 64 + 32 * k
  let x := fieldOf b (o + 12) 4
  let fs := x / 2 ^ 16 % 2 ^ 9
  [(o, fieldOf b o 8 % 2 == 0), (o + 8, fieldOf b (o + 8) 4 ≤ 393216),
   (o + 12, x % 32 ≤ 16 && fs % 4 == 0 && fs ≤ 256 && (k != 0 || fs == 0))]
/-- The fields of an object in order; `ndecks` is the number of the partition's decks. -/
def ladderChecks (ndecks : Nat) (b : List Byte) : List (Nat × Bool) :=
  let cap := fieldOf b 24 4
  let x := fieldOf b 32 4
  [(0, fieldOf b 0 8 % 16 == 0), (8, fieldOf b 8 8 % 256 == 0), (24, 32 ≤ cap && cap ≤ 65536 && cap == 2 ^ Nat.log2 cap),
   (28, fieldOf b 28 4 % 8 == 0),
   (32, x / 2 ^ 8 % 32 < ndecks)] ++
    (List.range (x % 4 + 1)).flatMap (rungChecks b)
/-- A rung of a legal object. -/
def rungOf (b : List Byte) (k : Nat) : Rung :=
  let o := 64 + 32 * k
  let x := fieldOf b (o + 12) 4
  { entry := BitVec.ofNat 64 (fieldOf b o 8), scratch := fieldOf b (o + 8) 4, tiles := x % 32, fsize := x / 2 ^ 16 % 2 ^ 9,
    idem := x.testBit 31, starve := fieldOf b (o + 16) 4 }
/-- A ladder newly bound by a thread of a launch. -/
def ladderOf (id part deck launch : Nat) (asid : BitVec 12) (obj : DWord) (b : List Byte) : Ladder :=
  let x := fieldOf b 32 4
  { id := id, part := part, deck := deck, launch := launch, asid := asid, obj := obj, res := BitVec.ofNat 64 (fieldOf b 0 8),
    frames := BitVec.ofNat 64 (fieldOf b 8 8), params := BitVec.ofNat 64 (fieldOf b 16 8), cap := fieldOf b 24 4,
    retvar := fieldOf b 28 4, prio := x / 16 % 4, rungs := (List.range (x % 4 + 1)).map (rungOf b),
    posted := BitVec.ofNat 32 (fieldOf b 36 4), retired := BitVec.ofNat 32 (fieldOf b 40 4),
    waiting := List.replicate (x % 4 + 1) [], args := [], done := [], slotloss := 0, packs := [] }

/-- Where an object lies for an agent now. -/
def State.objectLoc (s : State) (w : Who) (obj : DWord) : Option Loc :=
  match s.check w .load obj 1 false with
  | .ok c => c.locs.head?.map s.canon
  | .error _ => none
/-- The bound ladder whose object lies at an address of a thread (R346). [DEDUCED, log 65] -/
def State.ladderFor (s : State) (t : Thread) (va : DWord) : Option Ladder :=
  let p := s.partOf t.cid
  match s.ladders.find? fun l => l.part == p && l.asid == t.asid && l.obj == va with
  | some l => some l
  | none => match s.objectLoc (s.whoIs t) va with
    | none => none
    | some x => s.ladders.find? fun l => l.part == p && s.objectLoc (s.ladderWho l) l.obj == some x

/-! ### Packing (R351) -/

/-- Inserts an arrival: after those that arrived before, and in item order among those of one deck cycle. -/
def insertArrival (retired : Word) (x : Nat × Word × Nat) : List (Nat × Word × Nat) → List (Nat × Word × Nat)
  | [] => [x]
  | y :: r =>
    let late := y.2.2 == x.2.2 && (BitVec.ofNat 32 x.1 - retired).toNat < (BitVec.ofNat 32 y.1 - retired).toNat
    if late then x :: y :: r else y :: insertArrival retired x r
/-- A packed troupe of the `n` oldest waiting items of a rung. -/
def Ladder.pack (l : Ladder) (rung n : Nat) : Ladder :=
  let w := l.waiting.getD rung []
  if w.isEmpty then l
  else { l with waiting := l.waiting.set rung (w.drop n),
                packs := l.packs ++ [{ lad := l.id, rung := rung, items := (w.take n).map fun x => (x.1, x.2.1) }] }
/-- 32 items that wait at rung 0, where posting orders them, form a packed troupe. -/
def Ladder.packFull (l : Ladder) (rung : Nat) : Ladder :=
  if rung == 0 && 32 ≤ (l.waiting.getD rung []).length then l.pack rung 32 else l
/-- The cycle at which the oldest waiting item of a rung has waited STARVE cycles. -/
def Ladder.limit (l : Ladder) (rung : Nat) : Option Nat :=
  match l.waiting.getD rung [], l.rungs[rung]? with
  | x :: _, some k => some (x.2.2 + k.starve)
  | _, _ => none
/-- Items that have arrived by the end of a cycle form a packed troupe, up to 32. -/
def Ladder.packBy (l : Ladder) (rung lim : Nat) : Ladder :=
  l.pack rung (min 32 ((l.waiting.getD rung []).takeWhile fun x => x.2.2 ≤ lim).length)
/-- The cycle in which the 32nd item came to wait at a higher rung: until it ends, one of lower index can still arrive before it. -/
def Ladder.filled (l : Ladder) (rung : Nat) : Option Nat :=
  if rung == 0 then none else ((l.waiting.getD rung [])[31]?).map fun x => x.2.2
/-- The cycle at whose end a rung's next packed troupe forms: 32 items wait, or the oldest has waited STARVE cycles. -/
def Ladder.due (l : Ladder) (rung : Nat) : Option Nat :=
  match l.filled rung, l.limit rung with
  | some a, some b => some (min a b)
  | a, none => a
  | none, b => b
/-- The packed troupes that have formed before a cycle; `fuel` bounds them. -/
def Ladder.packPast (l : Ladder) (rung now : Nat) : Nat → Ladder
  | 0 => l
  | fuel + 1 => match l.due rung with
    | some c => if c < now then (l.packBy rung c).packPast rung now fuel else l
    | none => l
/-- An item arrives at a rung at a cycle of the home deck; at rung 0 in posting order. -/
def Ladder.arrive (l : Ladder) (rung item now : Nat) (arg : Word) : Ladder :=
  let l := l.packPast rung now (l.waiting.getD rung []).length
  let w := l.waiting.getD rung []
  let x := (item, arg, now)
  { l with waiting := l.waiting.set rung (if rung == 0 then w ++ [x] else insertArrival l.retired x w) }.packFull rung
/-- The deck's counter has reached a cycle. -/
def State.deckAdvance (s : State) (deck now : Nat) : State := s.updDeck deck fun d => { d with clk := max d.clk now }
/-- The cycle of the home deck in which an item arrives: a free one from the last that is known on, before the deck's next sample (R4,
R380). [DEDUCED, log 66] -/
def State.deckNow (s : State) (deck : Nat) : Nat :=
  (s.deck deck).clk + (Config.freeWord s.fresh 70).toNat % (65536 - (s.deck deck).clk % 65536)
/-- An item arrives at a rung of a ladder. -/
def State.arriveAt (s : State) (l : Ladder) (rung item : Nat) (arg : Word) : State :=
  let now := s.deckNow l.deck
  ({ s with fresh := s.fresh + 1 } : State).deckAdvance l.deck now |>.updLadder l.id fun l => l.arrive rung item now arg
/-- A cycle of a deck that its counter can reach before its next sample (R380). -/
def Deck.reaches (d : Deck) (now : Nat) : Bool := d.clk ≤ now && now / 65536 == d.clk / 65536
/-- LADDER_STARVE_EXPIRE (R351): the cycle of the home deck has ended in which the oldest item of a rung had waited STARVE cycles, or the
32nd came to wait; the items that had arrived by its end form a packed troupe. -/
def execLadderStarveExpire (lid rung now : Nat) (s : State) : Out :=
  .next (match s.ladder? lid with
  | none => s
  | some l => match l.due rung with
    | some c =>
      if c < now && (s.deck l.deck).reaches now then (s.deckAdvance l.deck now).updLadder lid (·.packBy rung c) else s
    | none => s)

/-! ### `lpost` (R350) -/

/-- What a posting obtains: the index, or a refusal 1 to 3. -/
def postOut (d : Reg) (ok : Bool) (x : Word) : List (RegId × DWord) := [(.v d, x.setWidth 64), (.p 6, if ok then 1 else 0)]
/-- Gives a result to the threads of a posting. -/
def State.postGive (s : State) (rs : List Thread) (d : Reg) (ok : Bool) (x : Word) : State :=
  rs.foldl (fun s t => s.writeRegs t.cid t.tid (postOut d ok x)) s
/-- Posts one item to a bound ladder of the launch. -/
def State.postItem (s : State) (l : Ladder) (arg : Word) (rs : List Thread) (d : Reg) : State :=
  if (l.posted - l.retired).toNat == l.cap then s.postGive rs d false 1
  else
    let s := s.updLadder l.id fun l => { l with posted := l.posted + 1, args := l.args ++ [(l.posted.toNat, arg)] }
    (s.arriveAt l 0 l.posted.toNat arg).postGive rs d true l.posted
/-- Binds the object at an address, read by the posting thread, or traps its threads; `none` where the unit is full
(R346, R348). -/
def State.ladderBind (s : State) (c : Company) (t : Thread) (va : DWord) (k : Checked) : Except Trap (Option Ladder) :=
  let p := s.part c.part
  let b := s.getLocs k.locs
  match (ladderChecks p.ndecks b).find? fun x => !x.2 with
  | some x => .error (badCmd (BitVec.ofNat 32 x.1))
  | none =>
    let deck := p.deckList.getD (fieldOf b 32 4 / 2 ^ 8 % 32) 0
    if 16 ≤ s.ladders.countP fun l => l.deck == deck then .ok none
    else .ok (some (ladderOf s.nextId c.part deck c.launch t.asid va b))
/-- `lpost` by thread `l` for the threads `rs` (R350). -/
def State.post1 (s : State) (va : DWord) (d : Reg) (l : Thread) (rs : List Thread) : State :=
  match s.company? l.cid with
  | none => s
  | some c => match s.ladderFor l va with
    | some x => if x.launch != c.launch then s.postGive rs d false 3 else s.postItem x (l.getV d) rs d
    | none => match s.check (s.whoIs l) .load va 192 false with
      | .error e => s.raiseAll rs e
      | .ok k =>
        if k.mig then s.stallAll rs l.asid va
        else s.readOr l rs ((List.range 192).map fun i => va + BitVec.ofNat 64 i) k fun s =>
          let s := (s.fillFor (s.whoIs l) va.toNat 192).watch rs .load va ((List.range 192).map (va.toNat + ·))
          match s.ladderBind c l va k with
          | .error e => s.raiseAll rs e
          | .ok none => s.postGive rs d false 2
          | .ok (some x) => ({ s with ladders := s.ladders ++ [x], nextId := s.nextId + 1 } : State).postItem x (l.getV d) rs d
/-- A thread that could not act and stands at the instruction again. -/
def State.heldAt (s : State) (t : Thread) : Option Wait :=
  match s.thread? t.cid t.tid with
  | none => none
  | some u => match u.wait with
    | .mig a v => some (.mig a v)
    | .quiet => some .quiet
    | _ => none
/-- Participating threads act in ascending home-lane order; those behind one that has to wait wait with it. -/
def State.laneOrder (s : State) (uni : Bool) (ps : List Thread) (f : State → Thread → List Thread → State) : State :=
  let one (x : State × Option Wait) (t : Thread) : State × Option Wait :=
    match x.2 with
    | some w => (x.1.waitAt t w, some w)
    | none => let s := f x.1 t [t]; (s, s.heldAt t)
  if uni then s.each true ps f else ((byLane ps).foldl one (s, none)).1
/-- `lpost` (R350): a release; each participating thread posts one item in ascending home-lane order. -/
def execLpost (h : Hd) (off : BitVec 12) (d : Reg) (s : State) : Out :=
  let word := s.word
  let ms := s.group
  .next (s.runIssue (hdForm h [.v d]).release.barred fun s ps => s.withBlock ms off 4 word fun w =>
    let va : DWord := w.getD 1 0 ++ w.getD 0 0
    if w.getD 2 0 != 0 || w.getD 3 0 != 0 then s.raiseAll ps (badCmd 8)
    else if va.toNat % 64 != 0 then s.raiseAll ps (faultAt cAlign 1 va.toNat)
    else s.laneOrder h.uni ps fun s l rs => s.post1 va d l rs)

/-! ### `esc` (R353) -/

/-- The rung of a packed troupe's company. -/
def State.rungHere (s : State) (cid : Nat) : Nat :=
  match s.company? cid with
  | some c => match c.packed with
    | some p => p.rung
    | none => 0
  | none => 0
/-- UNIT TOPRUNG and NOITEM (R302). -/
def topRung : Trap := { cls := cUnit, sub := 1 }
@[inherit_doc topRung] def noItem : Trap := { cls := cUnit, sub := 4 }
/-- The copy of an escalation as a command of the tender. -/
def escCommand (c : Company) (t : Thread) (lad item rung n : Nat) (src frame : DWord) : Cmd :=
  { id := 0, core := c.core, cid := t.cid, trp := t.trp, tid := t.tid, launch := c.launch, ticket := 0, kind := .esc lad item rung,
    state := .run, asid := t.asid, sys := t.sys, physAddr := false, cw := false, rel := false, acq := false, blk := 0, src := src,
    dst := frame, cwaddr := 0, cwval := 0, w := (List.replicate 16 (0 : Word)).set 6 (BitVec.ofNat 32 n), cursor := 0, status := 0, fva := 0 }
/-- `esc` in one thread, in the order of its checks. [DEDUCED, log 67] -/
def State.esc1 (s : State) (a : Reg) (t : Thread) : State :=
  match t.item, s.company? t.cid with
  | some (lad, item), some c =>
    let rung := s.rungHere t.cid
    match s.ladder? lad with
    | none => s.raise t noItem
    | some l => match l.rungs[rung + 1]? with
      | none => s.raise t topRung
      | some k =>
        let src := t.base a
        let frame := l.frame item
        let who := s.whoIs t
        if src.toNat % 4 != 0 then s.raise t (faultAt cAlign 1 src.toNat)
        else match s.checkRange who .load src.toNat k.fsize 3, s.checkRange who .engineW frame.toNat k.fsize 3 with
          | .error e, _ => s.raise t e
          | .ok _, .error e => s.raise t e
          | .ok x, .ok y =>
            if x.mig || y.mig then s.waitAt t (.mig t.asid (if x.mig then src else frame))
            else if 64 ≤ s.tenderLoad c.core then s.waitAt t .tender
            else
              let s := s.updThread t.cid t.tid fun u => { u with item := none }
              (s.queueCmd (escCommand c t lad item (rung + 1) k.fsize src frame)).1
  | _, _ => s.raise t noItem
/-- `esc`: a release (R353, R358). -/
def execEsc (m : Bool) (a : Reg) (s : State) : Out :=
  .next (s.runIssue (markForm m (baseRegs a)).release.barred fun s ps => ps.foldl (fun s t => s.esc1 a t) s)
/-- The copy of an escalation ends: its item arrives at the next rung, or retires with FATE DATAERR (R353, R355). [DEDUCED, log 66] -/
def State.escEnd (s : State) (c : Cmd) (lad item rung : Nat) (bad : Bool) : State :=
  let s := s.cmdFinish c
  match s.ladder? lad with
  | none => s
  | some l =>
    if bad then { s.retireItem c.cid c.tid lad item (if Config.freeBit s.fresh item rung then rung else rung - 1) 3 0 with fresh := s.fresh + 1 }
    else
      let arg : Word := match l.args.find? fun x => x.1 == item with
        | some x => x.2
        | none => 0
      s.arriveAt l rung item arg
/-- ESC_COPY_COMPLETE (R353, R355): the copy reads all its bytes, then writes them; with an uncorrectable error in the
source, or ended at a fault, it hands nothing over. -/
def execEscCopyComplete (id : Nat) (err : Bool) (s : State) : Out :=
  .next (match s.cmds.find? fun c => c.id == id with
  | none => s
  | some c => match c.kind with
    | .esc lad item rung =>
      let n := bw c.w 24
      if c.state == .ended then (if s.cmdReady c [] then s.escEnd c lad item rung true else s)
      else if !c.state.live || !s.cmdReady c [(c.src.toNat, n), (c.dst.toNat, n)] then s
      else match s.cmdCheck c .load c.src.toNat n, s.cmdCheck c .engineW c.dst.toNat n with
        | .error e, _ => s.cmdStop c e
        | .ok _, .error e => s.cmdStop c e
        | .ok x, .ok y =>
          if x.mig || y.mig then s
          else if err && n != 0 then s.escEnd { c with status := c.status ||| 1 } lad item rung true
          else (s.cmdStore c c.dst.toNat (s.getLocs x.locs) (n + 1)).escEnd c lad item rung false
    | _ => s)

/-! ### `lres`, the cursor and `lstat` (R354 to R357) -/

/-- `lres` in one thread (R354): the slot is checked, then written by a store of its own. -/
def State.lres1 (s : State) (a : Reg) (t : Thread) : State :=
  match t.item with
  | none => s.raise t noItem
  | some (lad, item) => match s.ladder? lad with
    | none => s.raise t noItem
    | some l =>
      let va := l.slot item
      s.access1 t [t] { va := va, n := 16, acc := .store } (fun _ _ => none) fun s c =>
        let s := s.updThread t.cid t.tid fun u => { u with item := none }
        let bs := slotBytes (t.getPair a) item (s.rungHere t.cid) 1
        let op : OpKind := .slot lad item bs
        s.pushOp { s.mkOp t [] { va := va, n := 16, acc := .store } c op 0 0 with rel := true }
/-- `lres`: a release (R354, R358). -/
def execLres (m : Bool) (a : Reg) (s : State) : Out :=
  .next (s.runIssue (markForm m (pairRegs a)).release.barred fun s ps => ps.foldl (fun s t => s.lres1 a t) s)

/-- The cursor passes the items that have retired; `fuel` bounds them (R356). -/
def Ladder.advance (l : Ladder) : Nat → Ladder
  | 0 => l
  | fuel + 1 =>
    if l.done.contains l.retired.toNat then
      Ladder.advance { l with done := l.done.filter fun i => i != l.retired.toNat, retired := l.retired + 1 } fuel
    else l
/-- The release of a ladder writes POSTED and RETIRED back to its object (R346). -/
def State.ladderRelease (s : State) (l : Ladder) : State :=
  let s := match s.check (s.ladderWho l) .store (l.obj + 36) 8 false with
    | .ok c =>
      (s.claim (s.ladderWho l) (l.obj + 36).toNat 8 [] 2).perform c.locs (bytesOf 4 l.posted.toNat ++ bytesOf 4 l.retired.toNat)
    | .error _ => s
  { s with ladders := s.ladders.filter fun x => x.id != l.id }
/-- A plain store of the device has to wait: its page is migrating (R151). -/
def State.storeStalls (s : State) (w : Who) (va : DWord) (n : Nat) : Bool :=
  match s.check w .store va n false with
  | .ok c => c.mig
  | .error _ => false
/-- RETIRE_ADVANCE (R346, R356): the cursor passes retired items, the retire variable takes it, and a ladder whose items
have all retired is released. -/
def execRetireAdvance (lid : Nat) (s : State) : Out :=
  .next (match s.ladder? lid with
  | none => s
  | some l =>
    let l' := l.advance l.done.length
    if l'.retired == l.retired || (l'.posted == l'.retired && s.storeStalls (s.ladderWho l) (l.obj + 36) 8) then s
    else
      let s := s.updLadder lid fun _ => l'
      let s := if syncIn (s.part l.part) l.retvar then
        s.perform ((List.range 4).map fun i => .sync l.part (l.retvar + i)) (bytesOf 4 l'.retired.toNat) else s
      if l'.posted == l'.retired then s.ladderRelease l' else s)

/-- The four words of `lstat` for a bound ladder (R357). -/
def Ladder.statWords (l : Ladder) : List Word :=
  let wait (k : Nat) : Nat := min (l.waiting.getD k []).length 255
  [l.posted, l.retired, BitVec.ofNat 32 (wait 0 + wait 1 * 2 ^ 8 + wait 2 * 2 ^ 16 + wait 3 * 2 ^ 24),
   BitVec.ofNat 32 (min l.slotloss 0xFFFF * 2 ^ 16 + 1)]
/-- `lstat` by thread `l` for the threads `rs` (R357). -/
def State.lstat1 (s : State) (d a : Reg) (l : Thread) (rs : List Thread) : State :=
  let va := l.getPair a
  if va.toNat % 64 != 0 then s.raiseAll rs (faultAt cAlign 1 va.toNat)
  else match s.check (s.whoIs l) .load va 64 false with
    | .error e => s.raiseAll rs e
    | .ok k =>
      if k.mig then s.stallAll rs l.asid va
      else s.readOr l rs ((List.range 64).map fun i => va + BitVec.ofNat 64 i) k fun s =>
        let b := s.getLocs k.locs
        let ws : List Word := match s.ladderFor l va with
          | some x => x.statWords
          | none => [BitVec.ofNat 32 (fieldOf b 36 4), BitVec.ofNat 32 (fieldOf b 40 4), 0, 0]
        let s := (s.fillFor (s.whoIs l) va.toNat 64).watch rs .load va ((List.range 64).map (va.toNat + ·))
        rs.foldl (fun s t => s.writeRegs t.cid t.tid (groupWrites d ws)) s
/-- `lstat` (R357). -/
def execLstat (h : Hd) (d a : Reg) (s : State) : Out :=
  .next (s.runIssue (hdForm h (pairRegs a)).barred fun s ps => s.each h.uni ps fun s l rs => s.lstat1 d a l rs)

end Sys2Proof.Machine
end

