-- ==== Sys2Proof/Machine/Gen.lean ====
section
/-!
DEFINITION. Token generation (R360 to R372): the grammar-mask engine, the snapshot unit and asynchronous calls.
-/
namespace Sys2Proof.Machine

/-! ### The automaton (R361 to R364) -/

/-- The limits of a header in order: byte offset and whether the field is legal; reserved fields are ignored (R7). -/
def imageChecks (b : List Byte) : List (Nat × Bool) :=
  let ns := fieldOf b 24 4 % 2 ^ 13
  let vocab := fieldOf b 28 4
  let x := fieldOf b 32 4
  let depth := x / 2 ^ 16 % 2 ^ 7
  let nc := fieldOf b 36 4 % 2 ^ 9
  [(0, fieldOf b 0 8 % 4 == 0), (16, fieldOf b 16 8 % 64 == 0), (24, 1 ≤ ns && ns ≤ 4096),
   (28, vocab % 512 == 0 && 512 ≤ vocab && vocab ≤ 262144), (32, x % 2 ^ 12 < ns && 1 ≤ depth && depth ≤ 64),
   (36, 1 ≤ nc && nc ≤ 256)]
/-- The automaton of a legal header. -/
def automatonOf (image : DWord) (b : List Byte) (born : Nat) : Automaton :=
  let x := fieldOf b 32 4
  { image := image, act := BitVec.ofNat 64 (fieldOf b 0 8), cls := BitVec.ofNat 64 (fieldOf b 8 8),
    masks := BitVec.ofNat 64 (fieldOf b 16 8), nstates := fieldOf b 24 4 % 2 ^ 13, vocab := fieldOf b 28 4, start := x % 2 ^ 12,
    depthMax := x / 2 ^ 16 % 2 ^ 7, emptyRow := x.testBit 24, nclass := fieldOf b 36 4 % 2 ^ 9, born := born }

/-- UNIT GRAMMAR (R365). -/
def grammar (a : Word) (extra : Word) : Trap := { cls := cUnit, sub := 2, addr := a.setWidth 64, extra := extra }
/-- A range of the company's scratchpad of a given alignment (R363). -/
def scrRange (c : Company) (a : Word) (n align : Nat) : Except Trap (List Loc) :=
  if a.toNat % align != 0 then .error (faultAt cAlign 1 a.toNat)
  else if c.scrS < a.toNat + n then .error (faultAt cAccess aWindow a.toNat)
  else .ok ((List.range n).map fun i => .scratch c.cid (a.toNat + i))
/-- Virtual addresses of a range. -/
def vaRange (a : DWord) (n : Nat) : List DWord := (List.range n).map fun i => a + BitVec.ofNat 64 i

/-- A byte of an installed image. Where the program has written it since the installation, a read obtains one of those writes, which one
is open (R364). [DEDUCED, log 68] -/
def State.tableByte (s : State) (born : Nat) (l : Loc) : Byte :=
  match l with
  | .phys a =>
    match ((s.writesOf a).takeWhile fun x => born ≤ x.time).dropLast.map Write.old with
    | [] => s.getLoc l
    | bs => (s.getLoc l :: bs).getD ((Config.freeWord s.fresh (a / 2)).toNat % (bs.length + 1)) 0
  | _ => s.getLoc l
/-- A read of a header, a table or a mask row as a load of the thread, the instruction's `i`-th (R364); `born` is the installation of the
image that it belongs to. -/
def State.gmRead (s : State) (l : Thread) (rs : List Thread) (va : DWord) (n i : Nat) (go : State → List Byte → State)
    (born : Option Nat := none) : State :=
  match s.checkRange (s.whoIs l) .load va.toNat n (n / 4096 + 2) with
  | .error e => s.raiseAll rs e
  | .ok k =>
    if k.mig then s.stallAll rs l.asid va
    else s.readOr l rs (vaRange va n) k (i := i) fun s =>
      go ((s.fillFor (s.whoIs l) va.toNat n).watch rs .load va ((vaRange va n).map (·.toNat)))
        (match born with | some b => k.locs.map (s.tableByte b) | none => s.getLocs k.locs)
/-- A read of a context block (R363); where a store to it follows at once (`store`), it too waits for the accesses ordered before it (R162). -/
def State.gmContext (s : State) (l : Thread) (rs : List Thread) (a : Word) (ls : List Loc) (store : Bool) (go : State → List Byte → State) :
    State :=
  let vas := vaRange (a.setWidth 64) ls.length
  if store && !s.mayWrite l vas ⟨ls, [.rc], false⟩ then rs.foldl (fun s t => s.waitAt t .quiet) s else s.readOr l rs vas ⟨ls, [.rc], false⟩ fun s => go (s.watch rs .load (a.setWidth 64) (vas.map (·.toNat))) (s.getLocs ls)
/-- Bytes `off` upward of a context block take a value. -/
def State.gmWrite (s : State) (rs : List Thread) (a : Word) (ls : List Loc) (off : Nat) (bs : List Byte) : State :=
  let va : DWord := (a + BitVec.ofNat 32 off).setWidth 64
  (s.perform ((ls.drop off).take bs.length) bs).watch rs .store va ((vaRange va bs.length).map (·.toNat))
/-- What an instruction obtains, in every thread that receives it. -/
def State.gmGive (s : State) (rs : List Thread) (ws : List (RegId × DWord)) : State :=
  rs.foldl (fun s t => s.writeRegs t.cid t.tid ws) s
/-- A word and `p6`. -/
def wordP6 (d : Reg) (x : Nat) (p : Bool) : List (RegId × DWord) := [(.v d, BitVec.ofNat 64 x), (.p 6, if p then 1 else 0)]

/-- Word 0 of a block with DEPTH and STATE replaced (R363). -/
def contextWord (b : List Byte) (depth state : Nat) : List Byte :=
  let w := fieldOf b 0 4
  bytesOf 4 (w / 2 ^ 23 * 2 ^ 23 + depth * 2 ^ 16 + w / 2 ^ 12 % 2 ^ 4 * 2 ^ 12 + state)

/-- The reset of a block by `gmload`. -/
def State.gmReset (s : State) (l : Thread) (rs : List Thread) (d : Reg) (g : Automaton) (ls : List Loc) : State :=
  let a := l.getV d
  s.gmContext l rs a ls true fun s b =>
    let s := s.updCompany l.cid fun c => { c with automaton := some g }
    (s.gmWrite rs a ls 0 (contextWord b 0 g.start ++ List.replicate 12 0)).gmGive rs [(.v d, BitVec.ofNat 64 g.start)]
/-- `gmload` by thread `l` for the threads `rs` (R364). [DEDUCED, log 68] -/
def State.gmload1 (s : State) (d a : Reg) (l : Thread) (rs : List Thread) : State :=
  match s.company? l.cid with
  | none => s
  | some c =>
    let va := l.getPair a
    let reset (s : State) (g : Automaton) : State :=
      match scrRange c (l.getV d) 80 16 with
      | .error e => s.raiseAll rs e
      | .ok ls => s.gmReset l rs d g ls
    let install (s : State) : State :=
      if va.toNat % 64 != 0 then s.raiseAll rs (faultAt cAlign 1 va.toNat)
      else s.gmRead l rs va 64 1 fun s b => match (imageChecks b).find? fun x => !x.2 with
        | some x => s.raiseAll rs (badCmd (BitVec.ofNat 32 x.1))
        | none => reset s (automatonOf va b s.fresh)
    match c.automaton with
    | some g => if g.image == va then reset s g else install s
    | none => install s
/-- `gmload` (R364). -/
def execGmload (h : Hd) (d a : Reg) (s : State) : Out :=
  .next (s.runIssue (hdForm h (.v d :: pairRegs a)).barred fun s ps => s.laneOrder h.uni ps fun s l rs => s.gmload1 d a l rs)

/-- A context as the engine reads it: the automaton, the block, its bytes, STATE and DEPTH. -/
structure Context where
  g : Automaton
  locs : List Loc
  bytes : List Byte
  state : Nat
  depth : Nat
/-- The context checks of R365, after `more`, a memory check of the same instruction; `store` where it then writes the context. -/
def State.gmWith (s : State) (l : Thread) (rs : List Thread) (a : Word) (store : Bool) (more : Company → Except Trap (List Loc))
    (go : State → Context → List Loc → State) : State :=
  match s.company? l.cid with
  | none => s
  | some c => match c.automaton with
    | none => s.raiseAll rs (grammar a 3)
    | some g => match scrRange c a 80 16, more c with
      | .error e, _ => s.raiseAll rs e
      | .ok _, .error e => s.raiseAll rs e
      | .ok ls, .ok ds => s.gmContext l rs a ls store fun s b =>
        let x : Context := ⟨g, ls, b, fieldOf b 0 4 % 2 ^ 12, fieldOf b 0 4 / 2 ^ 16 % 2 ^ 7⟩
        if g.nstates ≤ x.state || g.depthMax < x.depth then s.raiseAll rs (grammar a 2) else go s x ds

/-! ### `gmstep` (R365) -/

/-- A move: the new STATE and DEPTH, and the symbol pushed. -/
structure Move where
  next : Nat
  depth : Nat
  push : Option Nat
  deriving DecidableEq, Repr
/-- The move of an action entry (R362, R365): an extra word of GRAMMAR, a rejection (`none`), or a move. -/
def Context.move (x : Context) (e : Nat) : Except Word (Option Move) :=
  let next := e % 2 ^ 12
  let sym := e / 2 ^ 16 % 2 ^ 8
  if e / 2 ^ 24 != 0 || e / 2 ^ 14 % 4 != 0 || x.g.nstates ≤ next then .error 2
  else match e / 2 ^ 12 % 4 with
    | 0 => .ok (some ⟨next, x.depth, none⟩)
    | 1 => if x.depth == x.g.depthMax then .error 1 else .ok (some ⟨next, x.depth + 1, some sym⟩)
    | 2 => if x.depth == 0 || fieldOf x.bytes (15 + x.depth) 1 != sym then .ok none else .ok (some ⟨next, x.depth - 1, none⟩)
    | _ => .ok none
/-- An accepted token: the block and `vd` take the move. -/
def State.gmAccept (s : State) (rs : List Thread) (d : Reg) (a : Word) (x : Context) (m : Move) : State :=
  let s := match m.push with
    | some y => s.gmWrite rs a x.locs (16 + x.depth) [BitVec.ofNat 8 y]
    | none => s
  (s.gmWrite rs a x.locs 0 (contextWord x.bytes m.depth m.next)).gmGive rs (wordP6 d m.next true)
/-- `gmstep` by thread `l` for the threads `rs`. -/
def State.gmstep1 (s : State) (d a : Reg) (l : Thread) (rs : List Thread) : State :=
  let ctx := l.getV a
  let tok := (l.getV d).toNat
  s.gmWith l rs ctx true (fun _ => .ok []) fun s x _ =>
    if x.g.vocab ≤ tok then s.gmGive rs (wordP6 d x.state false)
    else s.gmRead l rs (x.g.cls + BitVec.ofNat 64 tok) 1 1 (born := x.g.born) fun s k =>
      if x.g.nclass ≤ fieldOf k 0 1 then s.raiseAll rs (grammar ctx 2)
      else s.gmRead l rs (x.g.act + BitVec.ofNat 64 (4 * (x.state * x.g.nclass + fieldOf k 0 1))) 4 2 (born := x.g.born) fun s e =>
        match x.move (fieldOf e 0 4) with
        | .error n => s.raiseAll rs (grammar ctx n)
        | .ok none => s.gmGive rs (wordP6 d x.state false)
        | .ok (some m) => s.gmAccept rs d ctx x m
/-- `gmstep` (R365). -/
def execGmstep (h : Hd) (d a : Reg) (s : State) : Out :=
  .next (s.runIssue (hdForm h [.v d, .v a]).barred fun s ps => s.laneOrder h.uni ps fun s l rs => s.gmstep1 d a l rs)

/-! ### `gmmask` and `gmforce` (R366, R367) -/

/-- Bits set in bytes, and the index of the first one. -/
def bitsIn (b : List Byte) : Nat := b.foldl (fun n x => n + (List.range 8).countP x.getLsbD) 0
@[inherit_doc bitsIn] def firstBit : Nat → List Byte → Option Nat
  | _, [] => none
  | n, x :: r => match (List.range 8).find? x.getLsbD with
    | some i => some (n + i)
    | none => firstBit (n + 8) r
/-- The address and length of a context's mask row. -/
def Context.row (x : Context) : DWord × Nat :=
  let r := if x.g.emptyRow then 2 * x.state + (if x.depth == 0 then 1 else 0) else x.state
  (x.g.masks + BitVec.ofNat 64 (r * (x.g.vocab / 8)), x.g.vocab / 8)
/-- The slice goes to its destination as plain stores of the thread, one for each word (R366, R368). -/
def State.gmSlice (s : State) (l : Thread) (rs : List Thread) (b : Word) (ds : List Loc) (slice : List Byte) : State :=
  let one (s : State) (i : Nat) : State :=
    let q : Req := { va := (b + BitVec.ofNat 32 (4 * i)).setWidth 64, n := 4, acc := .store }
    (s.outAdd l.cid 1).pushOp (s.mkOp l [] q ⟨(ds.drop (4 * i)).take 4, [.rc], false⟩ (.store ((slice.drop (4 * i)).take 4)) 0 0)
  ((List.range 16).foldl one s).watch rs .store (b.setWidth 64) ((vaRange (b.setWidth 64) 64).map (·.toNat))
/-- `gmmask` by thread `l` for the threads `rs`. -/
def State.gmmask1 (s : State) (d a b : Reg) (l : Thread) (rs : List Thread) : State :=
  let j := (l.getV d).toNat
  s.gmWith l rs (l.getV a) false (fun c => scrRange c (l.getV b) 64 64) fun s x ds =>
    if x.g.vocab / 512 ≤ j then s.gmGive rs (wordP6 d 0 false)
    else s.gmRead l rs x.row.1 x.row.2 1 (born := x.g.born) fun s row =>
      let slice := (row.drop (64 * j)).take 64
      (s.gmSlice l rs (l.getV b) ds slice).gmGive rs (wordP6 d (bitsIn slice) (bitsIn row == 1))
/-- `gmmask` (R366). -/
def execGmmask (h : Hd) (d a b : Reg) (s : State) : Out :=
  .next (s.runIssue (hdForm h [.v d, .v a, .v b]).barred fun s ps => s.laneOrder h.uni ps fun s l rs => s.gmmask1 d a b l rs)
/-- `gmforce` by thread `l` for the threads `rs`. -/
def State.gmforce1 (s : State) (d a : Reg) (l : Thread) (rs : List Thread) : State :=
  s.gmWith l rs (l.getV a) false (fun _ => .ok []) fun s x _ => s.gmRead l rs x.row.1 x.row.2 1 (born := x.g.born) fun s row =>
    s.gmGive rs [(.v d, BitVec.ofNat 64 (if bitsIn row == 1 then (firstBit 0 row).getD 0 else 0xFFFFFFFF))]
/-- `gmforce` (R367). -/
def execGmforce (h : Hd) (d a : Reg) (s : State) : Out :=
  .next (s.runIssue (hdForm h [.v a]).barred fun s ps => s.laneOrder h.uni ps fun s l rs => s.gmforce1 d a l rs)

/-! ### Snapshots (R369 to R371) -/

/-- The fields of a pool object in order; reserved fields are ignored (R7). -/
def poolChecks (ndecks : Nat) (b : List Byte) : List (Nat × Bool) :=
  let slotb := fieldOf b 16 4
  let n := fieldOf b 20 4 % 2 ^ 13
  [(0, fieldOf b 0 8 % 256 == 0), (8, fieldOf b 8 8 % 16 == 0), (16, slotb % 256 == 0 && 256 ≤ slotb && slotb ≤ 1048576),
   (20, 1 ≤ n && n ≤ 4096), (24, fieldOf b 24 4 % 32 < ndecks)]
/-- A pool newly bound by a thread of a launch: every slot is empty. -/
def poolOf (id part deck launch : Nat) (asid : BitVec 12) (obj : DWord) (b : List Byte) (place : Option Loc) : Pool :=
  { id := id, part := part, deck := deck, launch := launch, asid := asid, obj := obj, base := BitVec.ofNat 64 (fieldOf b 0 8),
    live := BitVec.ofNat 64 (fieldOf b 8 8), slotb := fieldOf b 16 4, nslot := fieldOf b 20 4 % 2 ^ 13, slots := [],
    place := place }
/-- The agent that accesses a pool's object for its launch. -/
def State.poolWho (s : State) (p : Pool) : Who :=
  { cid := 0, part := p.part, asid := p.asid.toNat,
    sys := match s.launch? p.launch with | some x => x.sys | none => false, scr := 0 }
/-- The bound pool whose object lies at an address of a thread. -/
def State.poolFor (s : State) (t : Thread) (va : DWord) : Option Pool :=
  let p := s.partOf t.cid
  match s.pools.find? fun x => x.part == p && x.asid == t.asid && x.obj == va with
  | some x => some x
  | none => match s.objectLoc (s.whoIs t) va with
    | none => none
    | some l => s.pools.find? fun x => x.part == p && s.objectLoc (s.poolWho x) x.obj == some l
/-- The object of a pool that is not bound, checked (R348, R369): the pool to bind, or none where the unit is full. -/
def State.poolBind (s : State) (c : Company) (t : Thread) (va : DWord) (k : Checked) : Except Trap (Option Pool) :=
  let p := s.part c.part
  let b := s.getLocs k.locs
  match (poolChecks p.ndecks b).find? fun x => !x.2 with
  | some x => .error (badCmd (BitVec.ofNat 32 x.1))
  | none =>
    let deck := p.deckList.getD (fieldOf b 24 4 % 32) 0
    if 16 ≤ s.pools.countP fun x => x.deck == deck then .ok none
    else .ok (some (poolOf s.nextId c.part deck c.launch t.asid va b (s.objectLoc (s.whoIs t) va)))

/-- What an operation comes to: a trap, a stall at an address, a wait for the thread's accesses, a status with the pool it
leaves, or a copy between two ranges of bytes. -/
inductive SnapRes where
  | trap (tr : Trap)
  | stall (va : DWord)
  | hold
  | give (st : Nat) (p : Option Pool)
  | copy (p : Pool) (size : Nat) (src dst : Checked)
  deriving DecidableEq, Repr

/-- SIZE of a full slot (R369). -/
def Pool.size (p : Pool) (node : Nat) : Option Nat := (p.slots.find? fun x => x.1 == node).map (·.2)
/-- The checks of a copy: R of every source byte, then W of every destination byte (R370); a RED page takes no copy (R168). -/
def State.snapCopy (s : State) (l : Thread) (p : Pool) (size : Nat) (src dst : DWord) : SnapRes :=
  let w := s.whoIs l
  match s.checkRange w .load src.toNat size (size / 4096 + 2), s.checkRange w .zero dst.toNat size (size / 4096 + 2) with
  | .error e, _ => .trap e
  | .ok _, .error e => .trap e
  | .ok x, .ok y => if x.mig then .stall src else if y.mig then .stall dst else .copy p size x y
/-- An operation on a bound pool of the launch, in its turn (R370). -/
def State.snapOn (s : State) (o : SnapOp) (l : Thread) (p : Pool) : SnapRes :=
  let slot := p.base + BitVec.ofNat 64 (o.node * p.slotb)
  match o.kind with
  | .snap =>
    if o.x % 16 != 0 || o.x < 16 || p.slotb < o.x then .trap (badCmd 12)
    else if p.nslot ≤ o.node then .give 1 (some p)
    else s.snapCopy l p o.x p.live slot
  | .sel =>
    if p.nslot ≤ o.node then .give 1 (some p)
    else match p.size o.node with
      | none => .give 2 (some p)
      | some n => s.snapCopy l p n slot p.live
  | .free =>
    if p.nslot ≤ o.node && o.node != 0xFFFFFFFF then .give 1 (some p)
    else if o.x % 2 == 1 then .give 0 (some { p with slots := p.slots.filter fun x => x.1 == o.node })
    else .give 0 (some { p with slots := p.slots.filter fun x => x.1 != o.node && o.node != 0xFFFFFFFF })
/-- An operation of thread `l`, in its turn: which pool it names, and what comes of it. A pool that another launch has bound refuses it
whatever its SIZE, node and slot. [DESIGN CHOICE, log 128] -/
def State.snapEval (s : State) (o : SnapOp) (l : Thread) : SnapRes :=
  match s.company? l.cid with
  | none => .hold
  | some c => match s.poolFor l o.obj with
    | some p => if p.launch != c.launch then .give 3 none else s.snapOn o l p
    | none => match o.kind with
      | .sel => .give 2 none
      | .free => .give 0 none
      | .snap => match s.check (s.whoIs l) .load o.obj 64 false with
        | .error e => .trap e
        | .ok k =>
          if k.mig then .stall o.obj
          else if !s.mayRead l (vaRange o.obj 64) k then .hold
          else if s.errAt l 0 then .trap (loadErr o.obj)
          else match s.poolBind c l o.obj k with
            | .error e => .trap e
            | .ok none => .give 3 none
            | .ok (some p) => s.snapOn o l p

/-- The pool takes its new slots; without a full slot, and with no copy of it begun, it is released (R369). -/
def State.poolPut (s : State) (p : Pool) : State :=
  ({ s with pools := (s.pools.filter fun x => x.id != p.id) ++ [p], nextId := max s.nextId (p.id + 1) } : State).sweepPools
/-- Operations of one pool, under whatever name, perform in order of arrival (R371). -/
def SnapOp.sameLine (o x : SnapOp) : Bool :=
  o.part == x.part && ((o.asid == x.asid && o.obj == x.obj) || (o.place.isSome && o.place == x.place))
/-- An operation waits at the unit, and its threads wait for it. [DEDUCED, log 69] -/
def State.snapWait (s : State) (o : SnapOp) (rs : List Thread) : State :=
  let s := { s with snaps := s.snaps ++ [{ o with id := s.nextId }], nextId := s.nextId + 1 }
  rs.foldl (fun s t => s.waitAt t (.snap (s.nextId - 1))) s
/-- An operation of thread `l` for the threads `rs` arrives at its unit. -/
def State.snap1 (s : State) (kind : SnapKind) (d a : Reg) (l : Thread) (rs : List Thread) : State :=
  let obj := l.getPair a
  let o : SnapOp := { id := 0, kind := kind, part := s.partOf l.cid, asid := l.asid, obj := obj, node := (l.getV (a + 2)).toNat,
                      x := (l.getV (a + 3)).toNat, cid := l.cid, tid := l.tid, lanes := rs.map Thread.tid, d := d,
                      place := s.objectLoc (s.whoIs l) obj, begun := false }
  if obj.toNat % 64 != 0 then s.raiseAll rs (faultAt cAlign 1 obj.toNat)
  else if s.snaps.any o.sameLine then s.snapWait o rs
  else match s.snapEval o l with
    | .trap tr => s.raiseAll rs tr
    | .stall va => s.stallAll rs l.asid va
    | .hold => rs.foldl (fun s t => s.waitAt t .quiet) s
    | .give st none => s.gmGive rs [(.v d, BitVec.ofNat 64 st)]
    | .give st (some p) => (s.poolPut p).gmGive rs [(.v d, BitVec.ofNat 64 st)]
    | .copy p _ _ _ =>
      let s : State := { s with pools := (s.pools.filter fun (x : Pool) => x.id != p.id) ++ [p], nextId := max s.nextId (p.id + 1) }
      s.snapWait { o with begun := true } rs
/-- `snap`: its issue is a release (R370, R371). -/
def execSnap (h : Hd) (d a : Reg) (s : State) : Out :=
  .next (s.runIssue (hdForm h (groupRegs a 4)).release.barred fun s ps => s.laneOrder h.uni ps fun s l rs => s.snap1 .snap d a l rs)
/-- `snapsel`: its issue is a release (R370, R371). -/
def execSnapsel (h : Hd) (d a : Reg) (s : State) : Out :=
  .next (s.runIssue (hdForm h (groupRegs a 3)).release.barred fun s ps => s.laneOrder h.uni ps fun s l rs => s.snap1 .sel d a l rs)
/-- `snapfree` (R370). -/
def execSnapfree (h : Hd) (d a : Reg) (s : State) : Out :=
  .next (s.runIssue (hdForm h (groupRegs a 4)).barred fun s ps => s.laneOrder h.uni ps fun s l rs => s.snap1 .free d a l rs)

/-- The copied bytes of a data error: each is unpredictable (R370). -/
def freeBytes (fresh n : Nat) : List Byte := (List.range n).map (Config.freeByte fresh)
/-- The threads of an operation go on with a status; the return is an acquire (R371). -/
def State.snapDone (s : State) (o : SnapOp) (st : Nat) : State :=
  let s := { s with snaps := s.snaps.filter fun x => x.id != o.id }
  let s := o.lanes.foldl (fun s i => s.writeRegs o.cid i [(.v o.d, BitVec.ofNat 64 st)]) s
  s.release (fun t => t.wait == .snap o.id) fun t => t.acquire.past 4
/-- A slot becomes full, or empty. -/
def Pool.set (p : Pool) (node : Nat) (size : Option Nat) : Pool :=
  let r := p.slots.filter fun x => x.1 != node
  { p with slots := match size with | some n => r ++ [(node, n)] | none => r }
/-- A copy performs (R370); with an uncorrectable error the copied range is unpredictable and a slot is left empty. -/
def State.snapPerform (s : State) (o : SnapOp) (p : Pool) (size : Nat) (src dst : Checked) (err : Bool) : State :=
  let bs := if err then freeBytes s.fresh size else s.getLocs src.locs
  let to_ := match o.kind with
    | .snap => p.base + BitVec.ofNat 64 (o.node * p.slotb)
    | _ => p.live
  let w : Who := { cid := o.cid, part := o.part, asid := o.asid.toNat, sys := true, scr := 0, tid := some o.tid }
  let s := (({ s with fresh := s.fresh + 1 } : State).claim w to_.toNat size [] (size / 4096 + 2)).perform dst.locs bs
  let p := match o.kind with
    | .snap => p.set o.node (if err then none else some size)
    | _ => p
  (s.snapDone o (if err then 4 else 0)).poolPut p
/-- SNAP_COPY_COMPLETE (R370, R371): the oldest operation of a pool has its turn; a copy performs, whole, and its threads
return. -/
def execSnapCopyComplete (id : Nat) (err : Bool) (s : State) : Out :=
  .next (match s.snaps.find? fun o => o.id == id with
  | none => s
  | some o =>
    let first := match s.snaps.find? o.sameLine with | some x => x.id == id | none => false
    match s.thread? o.cid o.tid with
    | none => s
    | some l =>
      let drop : State := { s with snaps := s.snaps.filter fun x => x.id != id }
      if !first then s
      else match s.snapEval o l with
        | .trap tr =>
          let ts := o.lanes.filterMap (s.thread? o.cid)
          ((ts.foldl (fun s t => s.updThread t.cid t.tid fun u => { u with wait := .none }) drop).raiseAll ts tr).sweepPools
        | .stall _ => s
        | .hold => s
        | .give st none => (s.snapDone o st).sweepPools
        | .give st (some p) => (s.snapDone o st).poolPut p
        | .copy p n x y => s.snapPerform o p n x y err)

/-! ### Asynchronous calls (R372) -/

/-- `acall`: a release, without a wait for room or for the reply. -/
def execAcall (h : Hd) (d a b : Reg) (s : State) : Out :=
  .next (s.runIssue (hdForm h (.v a :: pairRegs b)).release.barred fun s ps =>
    s.laneOrder h.uni ps fun s l rs => s.mbArrive .call l rs (l.getV a) (l.getPair b) d)
/-- The reply of a call: status and `p6`, seen by later readers (R38). [DEDUCED, log 70] -/
def State.callDone (s : State) (m : MbOp) (st : Nat) : State :=
  let s := { s with mbox := s.mbox.filter fun x => x.id != m.id }
  let one (s : State) (i : Nat) : State := s.updThread m.cid i fun t =>
    t.arrive ((m.dead.filter fun x => x.1 == i).map (·.2)) (wordP6 m.d st (st == 0))
  let s := m.lanes.foldl one s
  (if m.remote then s.outSub m.cid else s).rewake
/-- ACALL_REPLY (R372): the call is served in its turn: placed where the ring has room, else refused; a saved company's
ring takes nothing. -/
def execAcallReply (id : Nat) (s : State) : Out :=
  .next (match s.mbox.find? fun m => m.id == id with
  | none => s
  | some m =>
    if m.kind != .call then s else
    match s.company? m.ring with
    | none => s.callDone m 2
    | some c => match c.state with
      | .resident | .draining _ | .saving | .flushing =>
        let s := s.spoilRing m
        let r := s.ring m.ring m.hdr
        let first := match s.mbox.find? (MbOp.sameLine m) with | some x => x.id == id | none => false
        if !r.ok c then { s.callDone m (if Config.freeBit s.fresh 0 0 then 0 else 1) with fresh := s.fresh + 1 }
        else if r.used == r.count then s.callDone m 1
        else if first then (s.ringPut m r).callDone m 0
        else s
      | .saved | .flushed | .ended => s.callDone m 2)

end Sys2Proof.Machine
end

