-- ==== Sys2Proof/Machine/Sched.lean ====
section
/-!
DEFINITION. The cores' resources and the companies on them: room (R18), start values (R13, R14, R298, R352), the active set
at placement (R20), and leaving a core by a save or a flush (R323, R324).
-/
namespace Sys2Proof.Machine

/-! ### Where units may go (R1, R18, R376) -/

/-- The roles of a partition's decks under a new block: they change only where its decks do (R376). -/
def Part.rolesAfter (p : Part) (b : List Byte) : Nat :=
  if p.defined && p.decks == fieldOf b 0 4 then p.roles else fieldOf b 4 4 &&& fieldOf b 0 4
/-- Decks whose role or partition a running command changes: nothing is placed on them (R376). -/
def State.quiescing (s : State) : List Nat :=
  let w := s.window
  let p := s.part w.part.toNat
  if w.status != 0 then []
  else if w.op == 1 then
    let decks := fieldOf w.block 0 4
    let roles := p.rolesAfter w.block
    (List.range 24).filter fun d => (p.defined && p.decks.testBit d) != decks.testBit d ||
      (decks.testBit d && p.roles.testBit d != roles.testBit d)
  else if w.op == 2 then
    let roles := fieldOf w.block 0 4
    (p.deckList.mapIdx fun i d => (i, d)).filterMap fun x => if p.roles.testBit x.2 != roles.testBit x.1 then some x.2 else none
  else []
/-- Compute cores of a partition, by identifier. -/
def State.computeCores (s : State) (part : Nat) : List Nat :=
  (List.range 384).filter fun c => (s.part part).defined && (s.part part).computes (deckOf c) && !(s.deck (deckOf c)).fenced
/-- Inserts a core by allowance, largest first; among equals the order stays. -/
def insertCore (s : State) (c : Nat) : List Nat → List Nat
  | [] => [c]
  | x :: r => if (s.core x).allow < (s.core c).allow then c :: x :: r else x :: insertCore s c r
/-- Cores that take new companies, in the order of preference of R297: largest ALLOW, then lowest identifier. -/
def State.ranked (s : State) (part : Nat) : List Nat :=
  let q := s.quiescing
  ((s.computeCores part).filter fun c => !q.contains (deckOf c)).foldl (fun l c => insertCore s c l) []
/-- The instance of a domain that holds a core (R10, R12). -/
def domainOf (d core : Nat) : Nat :=
  match d with
  | 0 | 1 | 2 => core
  | 3 => deckOf core
  | 4 => pierOf core
  | _ => 0

/-- Companies that hold resources of a core. -/
def State.residents (s : State) (core : Nat) : List Company := s.companies.filter fun c => c.core == core && c.onCore
/-- A range of `n` units fits at `x` beside ranges in use. -/
def fitsAt (used : List (Nat × Nat)) (limit x n : Nat) : Bool :=
  x + n ≤ limit && used.all fun u => x + n ≤ u.1 || u.1 + u.2 ≤ x || u.2 == 0
/-- The lowest place for a range: the start of the memory, or the end of a range in use. [DEDUCED, log 72] -/
def firstFit (used : List (Nat × Nat)) (limit n : Nat) : Option Nat :=
  ((0 :: used.map fun u => u.1 + u.2).filter fun x => fitsAt used limit x n).foldl
    (fun m x => match m with | some y => some (min x y) | none => some x) none
/-- Room for a company on a core: its slots, and the starts of its scratchpad and tile ranges (R18). -/
structure Room where
  slots : List Nat
  scrP : Nat
  tileF : Nat
  deriving DecidableEq, Repr
@[inherit_doc Room] def State.room (s : State) (core ntr scr tiles : Nat) : Option Room :=
  let cs := s.residents core
  let taken := (s.troupes.filter fun u => cs.any fun c => c.cid == u.cid).map (·.slot)
  let free := (List.range 32).filter fun i => !taken.contains i
  match firstFit (cs.map fun c => (c.scrP, c.scrS)) 393216 scr, firstFit (cs.map fun c => (c.tileF, c.ntr * c.tileT)) 128 (ntr * tiles) with
  | some p, some f => if ntr ≤ free.length then some ⟨free.take ntr, p, f⟩ else none
  | _, _ => none

/-! ### Start values (R13, R14, R298, R352) -/

/-- How a company of a launch begins. -/
structure Start where
  lau : Launch
  index : Nat
  lvl : List Nat
  insts : List Nat
  ntr : Nat
  scr : Nat
  tiles : Nat
  entry : DWord
  params : DWord
  prio : Nat
  idem : Bool
  packed : Option Packed
  deriving DecidableEq, Repr

/-- A thread at the launch entry (R13). -/
def Start.thread (b : Start) (cid tid coh opps : Nat) : Thread :=
  let v : Vector Word 64 := (Vector.replicate 64 (0 : Word)).set 0 (b.params.setWidth 32) |>.set 1 ((b.params >>> 32).setWidth 32)
  { cid := cid, tid := tid, pc := b.entry &&& ~~~1, v := v, p := 0, q := Vector.replicate 4 0, fpcsr := 0, guard := none,
    asid := b.lau.asid, sys := b.lau.sys, frames := [], step := false, exited := false, halt := none, wait := .none,
    waita := none, mon := none, watched := none, bars := [], asyncs := [], item := none, coh := coh, last := opps, ready := opps, seq := 0,
    old := [], far := [], farTiles := [], chain := [], fence := 0 }
/-- The registers of a thread of a packed troupe; a lane without an item starts exited (R351, R352). -/
def State.packThread (s : State) (p : Packed) (t : Thread) : Thread :=
  match s.ladder? p.lad, p.items[t.tid]? with
  | some l, some (i, arg) =>
    let f := l.frame i
    let v : Vector Word 64 := t.v.set 2 (BitVec.ofNat 32 i) |>.set 3 arg |>.set 4 (f.setWidth 32) |>.set 5 ((f >>> 32).setWidth 32)
      |>.set 6 (BitVec.ofNat 32 p.rung) |>.set 7 (BitVec.ofNat 32 p.items.length)
    { t with v := v, item := some (p.lad, i) }
  | _, _ => { t with exited := true }
/-- The threads of a company at their entry; cohorts are troupes. -/
def State.startThreads (s : State) (b : Start) (cid core : Nat) : List Thread :=
  (List.range (32 * b.ntr)).map fun tid =>
    let t := b.thread cid tid (cohNumber false s.nextId (tid / 32)) (s.core core).opps
    match b.packed with
    | some p => s.packThread p t
    | none => t
/-- A troupe at its start: masks 0, tiles unpredictable (R14). [DESIGN CHOICE, log 3] -/
def newTroupe (cid idx tiles fresh : Nat) : Troupe :=
  let blank : Tile := { data := Vector.replicate 1024 0, flags := 0, err := false }
  { cid := cid, idx := idx, slot := 0, k := Vector.replicate 12 0, arr := Vector.replicate 12 0, active := false, since := 0,
    tiles := (List.range tiles).map fun n => blank.scramble (fresh + n), work := [], ticket := 0, status := 0 }
/-- A company's record at its start (R298): its scratchpad is unpredictable (R394), and the export is entered when the company is placed.
[DESIGN CHOICE, log 2] -/
def State.startCompany (s : State) (b : Start) (cid part : Nat) : Company :=
  let num := (b.lau.exnum + b.index) % 4096
  let taken := s.companies.any fun c => c.part == part && c.cid != cid && c.exportNum == some num && c.state != .ended
  { cid := cid, part := part, launch := b.lau.id, index := b.index, lvl := b.lvl, insts := b.insts, ntr := b.ntr, core := 0,
    state := .saved, scrP := 0, scrS := b.scr, tileF := 0, tileT := b.tiles, scratch := [], seed := s.fresh, progress := 0,
    trapUsr := b.lau.hbase &&& ~~~0x3FE, deleg := (b.lau.deleg ||| (s.part part).fdeleg) &&& 0x3FFF, barto := 0,
    exportNum := if b.lau.exv && b.packed.isNone && !taken then some num else none, exportHdr := b.lau.exhdr, placed := 0,
    start := 0, prio := b.prio, idem := b.idem, region := none,
    rx := { code := 0xFF, settled := 0, pass := 0, dclass := 0, dsub := 0, dpc := 0 }, automaton := none, packed := b.packed }

/-! ### Taking a place (R18, R20, R238, R298) -/

/-- Troupes of a core in the active set. -/
def State.activeCount (s : State) (core : Nat) : Nat :=
  s.troupes.countP fun u => u.active && s.companies.any fun c => c.cid == u.cid && c.core == core && c.onCore
/-- The lowest free mailbox control word takes an export. -/
def Core.export (k : Core) (num hdr : Nat) : Core :=
  match (List.range 256).find? fun i => !(k.exports.any fun e => e.1 == i) with
  | some i => { k with exports := k.exports ++ [(i, num, hdr)] }
  | none => k
/-- The storage of a core that a company takes: its slots, its scratchpad and its tiles (R155). -/
def Core.give (k : Core) (r : Room) (c : Company) : Core :=
  let k := (r.slots.take c.ntr).foldl (fun k i => k.taken (i * 8192) 8192) k
  (k.taken (0x40000 + r.scrP) c.scrS).taken (0xA0000 + r.tileF * 4096) (c.ntr * c.tileT * 4096)
/-- A company takes its room on a core. At its first placement its troupes enter the active set while it has places; a
resumed company's troupes are all pending (R20). -/
def State.install (s : State) (cid core : Nat) (r : Room) (first : Bool) : State :=
  let n := s.activeCount core
  let opps := (s.core core).opps
  let s := s.updCompany cid fun c =>
    { c with core := core, state := .resident, scrP := r.scrP, tileF := r.tileF, placed := s.nextId, start := (s.core core).clk }
  let place (u : Troupe) : Troupe :=
    if u.cid == cid then { u with slot := r.slots.getD u.idx 0, active := first && n + u.idx < 8, since := opps } else u
  let s := { s with troupes := s.troupes.map place, nextId := s.nextId + 1 }
  match s.company? cid with
  | some c =>
    let s := s.updCore core fun k => k.give r c
    match c.exportNum with
    | some num => s.updCore core fun k => k.export num (r.scrP + c.exportHdr)
    | none => s
  | none => s
/-- A company of a launch starts on a core, where there is room. -/
def State.placeStart (s : State) (b : Start) (core : Nat) : Option State :=
  match s.room core b.ntr b.scr b.tiles with
  | none => none
  | some r =>
    let cid := s.nextId
    let s1 : State := { s with
      threads := s.threads ++ s.startThreads b cid core,
      troupes := s.troupes ++ (List.range b.ntr).map fun i => newTroupe cid i b.tiles (s.fresh + 16 * i),
      companies := s.companies ++ [s.startCompany b cid b.lau.part], fresh := s.fresh + 16 * b.ntr, nextId := s.nextId + 1 }
    some (s1.install cid core r true)

/-! ### Leaving a core (R323, R324) -/

/-- QFLOOR follows the longest save and restore; a nonzero LEN below it is raised (R321). -/
def Core.measure (k : Core) (save rest : Nat) : Core :=
  let ts := max k.tsave save
  let tr := max k.trest rest
  let floor := max 64 ((ts + tr + 1023) / 1024 + 16)
  let len := k.tslice.toNat % 2 ^ 24
  { k with tsave := ts, trest := tr, qfloor := floor,
           tslice := if len != 0 && len < floor then BitVec.ofNat 32 (floor + 2 ^ 31) else k.tslice }
/-- The company's control words go with it. -/
def State.dropExport (s : State) (c : Company) : State :=
  match c.exportNum with
  | some num => s.updCore c.core fun k => { k with exports := k.exports.filter fun e => e.2.1 != num }
  | none => s
/-- Its troupes leave the active set. -/
def State.deactivate (s : State) (cid : Nat) : State :=
  { s with troupes := s.troupes.map fun u => if u.cid == cid then { u with active := false } else u }

/-- The operation counts as outstanding (R261). -/
def MemOp.counted (o : MemOp) : Bool :=
  match o.kind with
  | .store _ | .contrib .. | .atom false .. | .half false .. | .drain .. | .drainMax .. => true
  | .load _ | .kload .. | .ldp .. | .atom true .. | .half true .. | .sync .. | .pladd .. | .unit .. | .fence .. | .mload .. | .slot .. => false
/-- The operation acts on the company's own scratchpad. -/
def MemOp.inScratch (o : MemOp) : Bool := o.locs.any fun | .scratch c _ => c == o.cid | _ => false
/-- What a flush leaves of an operation: stores and atomics perform in their order, without a result for anyone; what would reach the scratchpad is
discarded with it. -/
def MemOp.flush (cid : Nat) (o : MemOp) : Option MemOp :=
  if o.cid != cid then some o
  else if (!o.stores && !o.isFence) || o.inScratch then none else some { o with lanes := [] }
/-- What a flush leaves of a mailbox operation: a call goes on, without a result for anyone. -/
def MbOp.flush (cid : Nat) (m : MbOp) : Option MbOp :=
  if m.cid != cid then some m else if m.kind == .call then some { m with lanes := [] } else none
/-- A flush waits for fabric commands, hand-over copies and snapshot copies (R260, R359, R371). -/
def State.flushReady (s : State) (cid : Nat) : Bool :=
  !(s.cmds.any fun c => c.cid == cid && c.runsOn) && !(s.snaps.any fun o => o.cid == cid)
/-- FLUSH_RESTART (R323), once engine commands are cancelled: barrier arrivals are withdrawn, and the company's scratchpad, tiles and
registers are discarded. -/
def State.flush (s : State) (c : Company) : State :=
  let puts := s.mbox.filter fun (m : MbOp) => m.cid == c.cid && m.remote && m.kind == .put
  let gone := s.ops.filter fun (o : MemOp) => o.cid == c.cid && o.counted && o.inScratch
  let s := puts.foldl (fun s m => s.outSub m.cid) s
  let s := gone.foldl (fun s o => s.outSub o.cid) s
  let keep (b : Barrier) : Barrier :=
    let r := b.arrived.filter fun a => a.1 != c.cid
    if r.length == b.arrived.length then b else { b with arrived := r, form := if r.isEmpty then none else b.form }
  let s : State := { s with
    ops := s.ops.filterMap (MemOp.flush c.cid),
    mbox := s.mbox.filterMap (MbOp.flush c.cid),
    barriers := (s.barriers.filter fun b => !(b.key.level ≤ 2 && b.key.owner == c.cid)).map keep }
  let s := ((s.dropExport c).deactivate c.cid).updThreads (fun t => t.cid == c.cid) fun t => { t with wait := .none, asyncs := [], frames := [], bars := [] }
  s.updCompany c.cid fun c => { c with state := .flushed, region := none, scratch := [] }

/-- The mode of a pre-emption (R323): 0 drain, 1 flush-and-restart, 2 save. [DEDUCED, log 73] -/
def State.modeOf (s : State) (c : Company) : Nat :=
  let n := 32 * c.ntr
  let x := s.threads.countP fun t => t.cid == c.cid && t.exited
  let hint := match s.launch? c.launch with | some l => l.phint | none => 0
  let e0 := x * 256 / n
  let e := if hint == 0 then e0 else max e0 (min (c.progress.toNat * 256 / hint) 256)
  if 192 ≤ e then 0 else if c.idem && e < 32 then 1 else 2
/-- PREEMPT_BEGIN (R323): a pre-emption begins, in the mode the device chooses; a flush cancels the engine commands first. -/
def State.preempt (s : State) (c : Company) : State :=
  match s.modeOf c with
  | 0 => s.updCompany c.cid fun c => { c with state := .draining (s.core c.core).clk }
  | 1 =>
    let s := s.cancelEngines c.cid
    if s.flushReady c.cid then s.flush c else s.updCompany c.cid fun c => { c with state := .flushing }
  | _ => s.updCompany c.cid fun c => { c with state := .saving }

/-- A save may complete (R324): nothing of the company is in flight, and no queued matrix work but loops is left. -/
def State.saveReady (s : State) (c : Company) : Bool :=
  !(s.ops.any fun o => o.cid == c.cid) && !(s.mbox.any fun m => m.cid == c.cid && m.kind == .call) &&
    !(s.snaps.any fun o => o.cid == c.cid) && !(s.cmds.any fun x => x.cid == c.cid && x.kind.isEsc) &&
    s.troupes.all fun u => u.cid != c.cid || !(u.work.any MWork.mustEnd)
/-- The record of one nesting level of a thread (R307). -/
def State.recordVa (s : State) (t : Thread) (level : Nat) : DWord :=
  (s.sideEntry t.cid t.tid + BitVec.ofNat 32 (level * 32) : Word).setWidth 64
/-- A record of a company's threads lies on a migrating page: what saves or restores it has to wait (R151). [DEDUCED, log 84] -/
def State.recordsStall (s : State) (k : Acc) (cid : Nat) : Bool :=
  s.threads.any fun t => t.cid == cid && !t.exited && (List.range t.frames.length).any fun i =>
    match s.check (s.whoIs t true) k (s.recordVa t i) 32 false with
    | .ok c => c.mig
    | .error _ => false
/-- The records of a handler-mode thread travel with the saved company (R309, R324); one that cannot be read is not kept, and so not
written at the resumption. [DESIGN CHOICE, log 121] -/
def State.keepRecords (s : State) (t : Thread) : Thread :=
  let n := t.frames.length
  { t with frames := t.frames.mapIdx fun i f =>
      match s.check (s.whoIs t true) .load (s.recordVa t (n - 1 - i)) 32 false with
      | .ok k => { f with record := s.getLocs k.locs }
      | .error _ => f }
/-- What a save does to a thread: its monitor is lost, and what is left of a `yield` is kept (R241). -/
def Thread.saved (opps : Nat) (t : Thread) : Thread :=
  let lose (m : Monitor) : Monitor := { m with lost := true }
  { t with mon := t.mon.map lose, watched := t.watched.map lose, old := [],
           wait := match t.wait with | .yield due => .yield (due - opps) | w => w }
/-- The company leaves its core with all its state (R324). [DEDUCED, log 74] -/
def State.save (s : State) (c : Company) : State :=
  let one (t : Thread) : Thread :=
    if t.cid == c.cid && !t.exited then (s.keepRecords t).saved (s.core c.core).opps else t
  let s : State := { s with threads := s.threads.map one }
  (((s.dropExport c).deactivate c.cid).updCompany c.cid fun c => { c with state := .saved }).wakeTender c.core

end Sys2Proof.Machine
end

