-- ==== Sys2Proof/Machine/Launch.lean ====
section
/-!
DEFINITION. Launch queues and records (R292 to R296), placement (R297, R298, R351), completion (R299, R300), pre-emption and
resumption (R322 to R324, R41), and asynchronous traps (R304).
-/
namespace Sys2Proof.Machine

/-! ### Asynchronous traps (R304) -/

/-- The pending trap that is taken first: ascending class, then ticket. -/
def firstAsync : List Async → Option Async
  | [] => none
  | a :: r => match firstAsync r with
    | some b => if b.trap.cls < a.trap.cls || (b.trap.cls == a.trap.cls && b.ticket < a.ticket) then some b else some a
    | none => some a
/-- The company's threads may issue: it is on its core and not being saved. -/
def Company.runs (c : Company) : Bool :=
  match c.state with
  | .resident | .draining _ => true
  | _ => false
/-- One pending trap of a thread is taken, or deferred in a relaxation body; the command it stands for then goes on as
after its handler (R253, R341, R342). -/
def State.takeAsync (s : State) (t : Thread) (a : Async) : State :=
  let s := s.updThread t.cid t.tid fun u => { u with asyncs := u.asyncs.erase a }
  if (s.bodyOf t).isSome && a.trap.cls != cPage && a.trap.cls != cDebug then
    let s := s.deferTrap t.cid t.tid a.trap t.pc
    match a.cmd with
    | some id => s.cmdReturn id
    | none => s
  else s.takeTrap t.cid t.tid a.trap t.pc t.guard a.cmd a.ticket
/-- ASYNC_TRAP_TAKE (R304): before the thread's next instruction issues, one pending trap is taken. -/
def execAsyncTrapTake (cid tid : Nat) (s : State) : Out :=
  .next (match s.thread? cid tid, s.company? cid with
  | some t, some c => match firstAsync t.asyncs with
    | some a => if c.runs && !t.exited && t.halt.isNone then s.takeAsync t a else s
    | none => s
  | _, _ => s)

/-! ### The end of a company (R16, R201) -/

/-- Nothing that the company issued is left to perform. -/
def State.quietCompany (s : State) (cid : Nat) : Bool :=
  !(s.ops.any fun o => o.cid == cid) && !(s.cmds.any fun x => x.cid == cid) && !(s.mbox.any fun m => m.cid == cid) &&
    !(s.snaps.any fun o => o.cid == cid) && s.troupes.all fun u => u.cid != cid || u.work.isEmpty
/-- COMPANY_RELEASE (R16, R201): after the last thread has exited and its operations have performed, the slots, the
scratchpad, the tiles and the barriers are free again. -/
def execCompanyRelease (cid : Nat) (s : State) : Out :=
  .next (match s.company? cid with
  | none => s
  | some c =>
    if (c.onCore || c.state == .flushed) && (s.live cid).isEmpty && s.quietCompany cid then
      let s := s.dropExport c
      let s := s.updLaunch c.launch fun l => { l with ended := l.ended + 1 }
      let s : State := { s with
        threads := s.threads.filter fun t => t.cid != cid, troupes := s.troupes.filter fun u => u.cid != cid,
        barriers := s.barriers.filter fun b => !(b.key.level ≤ 2 && b.key.owner == cid) }
      s.updCompany cid fun c => { c with state := .ended, scratch := [], region := none }
    else s)

/-! ### Doorbells and records (R292 to R296) -/

/-- The module runs (R390). -/
def State.running (s : State) : Bool := s.status.getD 0 0 == 1
/-- A queue's bell is rung. -/
def Part.ring (p : Part) (q : Nat) : Part := { p with bells := if p.bells.contains q then p.bells else q :: p.bells }
/-- DOORBELL (R293): the host has placed entries. -/
def execDoorbell (part q : Nat) (s : State) : Out :=
  .next (if s.running && (s.part part).defined && q < 64 then (s.updPart part fun p => p.ring q).produce part q true else s)

/-- The device reads queue entries and records under the queue's ASID with system privilege. [DEDUCED, log 71] -/
def deviceWho (part asid : Nat) : Who := { cid := 0, part := part, asid := asid, sys := true, scr := 0 }
/-- A level-table entry (R294). -/
def levelOf (b : List Byte) (n : Nat) : Level :=
  let x := fieldOf b (64 + 8 * n) 4
  ⟨x % 2 ^ 16, x / 2 ^ 16 % 8, x / 2 ^ 20 % 8⟩
/-- A record as a launch (R294); its identifier is given later. -/
def launchOf (part q : Nat) (d : Queue) (va : DWord) (b : List Byte) : Launch :=
  let x := fieldOf b 36 4
  let e := fieldOf b 44 4
  let y := fieldOf b 48 4
  let n := x / 2 ^ 8 % 16
  { id := 0, part := part, queue := q, asid := BitVec.ofNat 12 d.asid, sys := d.sys, prio := d.prio, record := va,
    entry := BitVec.ofNat 64 (fieldOf b 0 8), params := BitVec.ofNat 64 (fieldOf b 8 8), hbase := BitVec.ofNat 64 (fieldOf b 24 8),
    scratch := fieldOf b 32 4, tiles := x % 32, levels := (List.range (min n 8)).map (levelOf b), deps := [], idem := x.testBit 15,
    pin := x.testBit 16, cvar := fieldOf b 40 4, exv := e.testBit 31, exhdr := e / 2 ^ 12 % 2 ^ 19, exnum := e % 2 ^ 12,
    deleg := BitVec.ofNat 32 (y % 2 ^ 14), phint := y / 2 ^ 16, instances := max 1 (fieldOf b 52 4), units := 0, ended := 0, reason := 0,
    refused := none }

/-- A level keeps the rules of R9 to R11; `below` is the domain of the level under it. -/
def Level.legal (n below : Nat) (l : Level) : Bool :=
  let base := l.domain ≤ 6 && l.scope ≤ 6 && l.domain ≤ l.scope && 1 ≤ l.size
  match n with
  | 0 => true
  | 1 => base && l.size == 32 && l.domain == 1
  | 2 => base && l.domain == 2 && l.size ≤ 32
  | _ => base && 3 ≤ l.domain && below ≤ l.domain
/-- The first offending field of a record, by byte offset (R295). `b` is the record with its level table. -/
def recordBad (p : Part) (l : Launch) (b : List Byte) : Option Nat :=
  let x := fieldOf b 36 4
  let n := x / 2 ^ 8 % 16
  let ndep := x / 2 ^ 12 % 8
  let lv (k : Nat) : Nat × Bool :=
    (64 + 8 * k, if k == 0 then fieldOf b 64 8 == 1 else (levelOf b k).legal k (levelOf b (k - 1)).domain)
  let fields : List (Nat × Bool) :=
    [(0, !(l.entry.getLsbD 0)), (16, ndep == 0 || fieldOf b 16 8 % 64 == 0), (32, l.scratch ≤ 393216),
     (36, l.tiles ≤ 16 && 2 ≤ n && n ≤ 8 && ndep ≤ 4), (40, l.cvar % 8 == 0 && syncIn p l.cvar), (44, !l.exv || l.exhdr < l.scratch)] ++
    (List.range (min n 8)).map lv
  (fields.find? fun f => !f.2).map (·.1)

/-- Sizes of levels 3 and above, lowest first. -/
def Launch.upper (l : Launch) : List Level := l.levels.drop 3
/-- Companies of a placement unit (R297). -/
def Launch.unitSize (l : Launch) : Nat := l.upper.foldl (fun n v => n * v.size) 1
/-- Troupes of a company, and its rounded scratchpad (R16, R294). -/
def Launch.ntr (l : Launch) : Nat := match l.levels[2]? with | some v => v.size | none => 1
@[inherit_doc Launch.ntr] def Launch.scr (l : Launch) : Nat := (l.scratch + 255) / 256 * 256
/-- Companies of a launch that an empty core holds (R18). -/
def Launch.perCore (l : Launch) : Nat :=
  min (32 / l.ntr) (min (if l.scr == 0 then 32 else 393216 / l.scr) (if l.tiles == 0 then 32 else 128 / (l.ntr * l.tiles)))
/-- Instances of one level that each domain instance of the next holds: by a core of it, from those of the level below. -/
def holds (v : Level) (have_ : List (Nat × Nat)) : List (Nat × Nat) :=
  (have_.map fun x => domainOf v.domain x.1).eraseDups.filterMap fun d =>
    let r := have_.filter fun x => domainOf v.domain x.1 == d
    match r with
    | [] => none
    | x :: _ => some (x.1, (r.foldl (fun n y => n + y.2) 0) / v.size)
/-- Every level's instance fits in some instance of its domain (R295). -/
def allHold : List Level → List (Nat × Nat) → Bool
  | [], h => h.any fun x => 1 ≤ x.2
  | v :: r, h => (h.any fun x => 1 ≤ x.2) && allHold r (holds v h)
/-- The record is too big (R295). -/
def State.tooBig (s : State) (l : Launch) : Bool := !(allHold l.upper ((s.computeCores l.part).map fun c => (c, l.perCore)))

/-- The dependence block of a record lies on a migrating page (R151). -/
def State.depsStall (s : State) (w : Who) (b : List Byte) : Bool :=
  let n := fieldOf b 36 4 / 2 ^ 12 % 8
  n != 0 && match s.check w .load (BitVec.ofNat 64 (fieldOf b 16 8)) (16 * n) false with
    | .ok k => k.mig
    | .error _ => false
/-- The dependences of a record, each tested (R296); none where the block cannot be read or an OFFSET is bad. -/
def State.readDeps (s : State) (l : Launch) (b : List Byte) : Option (List Dep) :=
  let n := fieldOf b 36 4 / 2 ^ 12 % 8
  if n == 0 then some []
  else match s.check (deviceWho l.part l.asid.toNat) .load (BitVec.ofNat 64 (fieldOf b 16 8)) (16 * n) false with
    | .error _ => none
    | .ok k =>
      let bs := s.getLocs k.locs
      let ds := (List.range n).map fun i =>
        let o := fieldOf bs (16 * i) 8
        let x : Word := BitVec.ofNat 32 (fieldOf bs (16 * i + 8) 4)
        let op := fieldOf bs (16 * i + 12) 4 % 4
        (⟨o, x, op, depHolds op (s.syncValue l.part o) x⟩ : Dep)
      if ds.all fun d => d.o < 2 ^ 32 && d.o % 8 == 0 && syncIn (s.part l.part) d.o then some ds else none

/-- A launch ends, or a record is refused (R299): STATUS is written, then 1 is added to CVAR where it is usable. A STATUS store that fails
its checks is left out. [DESIGN CHOICE, log 120] -/
def State.finish (s : State) (l : Launch) (status : Nat) : State :=
  let s := match s.check (deviceWho l.part l.asid.toNat) .store (l.record + 56) 4 false with
    | .ok k => (s.claim (deviceWho l.part l.asid.toNat) (l.record + 56).toNat 4 [] 2).perform k.locs (bytesOf 4 status)
    | .error _ => s
  if l.cvar % 8 == 0 && syncIn (s.part l.part) l.cvar then
    s.perform ((List.range 4).map fun i => .sync l.part (l.cvar + i)) (bytesOf 4 (s.syncValue l.part l.cvar + 1).toNat)
  else s
/-- Why a record is refused (R295, R296, R299): CODE and OFFSET, or its dependences; TOOBIG comes before DEPFAULT. [DESIGN CHOICE, log 108] -/
def State.judge (s : State) (l : Launch) (b : List Byte) : Except Nat (List Dep) :=
  match recordBad (s.part l.part) l b with
  | some off => .error (1 + off % 256 * 256)
  | none => if s.tooBig l then .error 2 else match s.readDeps l b with
    | none => .error 4
    | some ds => .ok ds
/-- The device takes a record that it has read: it is refused, or waits at the head of its queue. -/
def State.takeRecord (s : State) (part q : Nat) (d : Queue) (va : DWord) (b : List Byte) : State :=
  let l := launchOf part q d va b
  match s.judge l b with
  | .error st => (s.setQueue part q 12 (d.head + 1)).finish l st
  | .ok ds => { s with launches := s.launches ++ [{ l with id := s.nextId, deps := ds }], nextId := s.nextId + 1 }
/-- An entry whose record cannot be read is skipped (R293). -/
def State.skipRecord (s : State) (part q : Nat) (d : Queue) : State :=
  (s.setQueue part q 24 (d.errs + 1)).setQueue part q 12 (d.head + 1)
/-- QUEUE_SERVE (R293): the device reads the entry at HEAD and its record, unless an earlier record stands there. An entry that cannot be
read itself is skipped in the same way. [DESIGN CHOICE, log 119] -/
def execQueueServe (part q : Nat) (s : State) : Out :=
  let d := s.queue part q
  let w := deviceWho part d.asid
  .next (if !((s.part part).defined && (s.part part).bells.contains q && d.en && d.countOk) then s
    else if s.launches.any fun l => l.part == part && l.queue == q && l.units == 0 then s
    else if d.head == d.tail then s.updPart part fun p => { p with bells := p.bells.erase q }
    else match s.check w .load (BitVec.ofNat 64 (d.base + d.head % d.count * 8)) 8 false with
      | .error _ => s.skipRecord part q d
      | .ok k =>
        let va : DWord := BitVec.ofNat 64 (natOf (s.getLocs k.locs))
        if k.mig then s
        else if va.toNat % 64 != 0 then s.skipRecord part q d
        else match s.check w .load va 128 false with
          | .error _ => s.skipRecord part q d
          | .ok r =>
            if r.mig || s.depsStall w (s.getLocs r.locs) then s else s.takeRecord part q d va (s.getLocs r.locs))

/-! ### Placement (R12, R17, R297, R298, R351) -/

/-- Indices of a company by levels 2 and up, and of its instances, from its index in the launch (R17). -/
def levelIndices : List Level → Nat → List Nat
  | [], x => [x]
  | v :: r, x => x % v.size :: levelIndices r (x / v.size)
@[inherit_doc levelIndices] def levelInstances : List Level → Nat → List Nat
  | [], _ => []
  | v :: r, x => x / v.size :: levelInstances r (x / v.size)
/-- Company `index` of a launch (R17, R298). -/
def Launch.start (l : Launch) (index : Nat) : Start :=
  let lvl := if l.upper.isEmpty then [] else levelIndices l.upper index
  { lau := l, index := index, lvl := (lvl ++ List.replicate 6 0).take 6,
    insts := (levelInstances l.upper index ++ List.replicate 5 0).take 5, ntr := l.ntr, scr := l.scr, tiles := l.tiles,
    entry := l.entry, params := l.params, prio := l.prio, idem := l.idem, packed := none }
/-- A packed troupe as a company of the owning launch (R351, R352). -/
def packStart (l : Launch) (x : Ladder) (p : Packed) (r : Rung) : Start :=
  { lau := l, index := 0xFFFFFFFF, lvl := List.replicate 6 0, insts := List.replicate 5 0, ntr := 1,
    scr := (r.scratch + 255) / 256 * 256, tiles := r.tiles, entry := r.entry, params := x.params, prio := x.prio, idem := r.idem,
    packed := some p }

/-- Repeats a placement. -/
def times : Nat → (State × Nat → Option (State × Nat)) → State × Nat → Option (State × Nat)
  | 0, _, x => some x
  | n + 1, f, x => match f x with
    | some y => times n f y
    | none => none
/-- Places an instance of a level, whole, on cores given in order of preference: its companies lie in one instance of its
domain, and so do those of every instance within it (R12, R297). `levels` are the levels from this one down to 3; the
number counts the companies placed. -/
def placeTree (mk : Nat → Start) : List Level → List Nat → State × Nat → Option (State × Nat)
  | [], cores, x => cores.findSome? fun c => (x.1.placeStart (mk x.2) c).map fun s => (s, x.2 + 1)
  | v :: r, cores, x => (cores.map (domainOf v.domain)).eraseDups.findSome? fun d =>
      times v.size (placeTree mk r (cores.filter fun c => domainOf v.domain c == d)) x

/-- What a turn of one queue comes to (R297). -/
inductive Turn where
  /-- it has no ready unit -/
  | idle
  | placed (s : State)
  /-- its unit finds no room on these cores -/
  | blocked (cores : List Nat)
  deriving DecidableEq, Repr

/-- The launch of a queue that places its next unit: records start in ring order (R297), a later one once every unit of the one before it
is placed. [DESIGN CHOICE, log 105] -/
def State.nextLaunch (s : State) (part q prio : Nat) : Option Launch :=
  match s.launches.find? fun l => l.part == part && l.queue == q && l.units < l.instances with
  | some l => if l.prio == prio && (l.units != 0 || l.deps.all (·.sat)) then some l else none
  | none => none
/-- One more unit of a launch is placed; with the first one HEAD passes the record (R293). -/
def State.unitPlaced (s : State) (l : Launch) : State :=
  let s := s.updLaunch l.id fun l => { l with units := l.units + 1 }
  if l.units == 0 then s.setQueue l.part l.queue 12 ((s.queue l.part l.queue).head + 1) else s
/-- A turn of a launch queue. -/
def State.queueTurn (s : State) (part q prio : Nat) : Turn :=
  match s.nextLaunch part q prio with
  | none => .idle
  | some l =>
    let cores := s.ranked part
    match placeTree (fun k => l.start (l.units * l.unitSize + k)) l.upper.reverse cores (s, 0) with
    | some x => .placed (x.1.unitPlaced l)
    | none => .blocked cores
/-- Packed troupes that wait for a place, in the order in which they were formed (R351). -/
def State.nextPack (s : State) (part prio : Nat) : Option (Ladder × Packed) :=
  s.ladders.findSome? fun l => if l.part == part && l.prio == prio then (l.packs.head?).map fun p => (l, p) else none
/-- A turn of the packed troupes of a priority, as one more queue of it. -/
def State.packTurn (s : State) (part prio : Nat) : Turn :=
  match s.nextPack part prio with
  | none => .idle
  | some (x, p) => match s.launch? x.launch, x.rungs[p.rung]? with
    | some l, some r =>
      let cores := (s.ranked part).filter fun c => pierOf c == x.deck / 6
      match cores.findSome? fun c => s.placeStart (packStart l x p r) c with
      | some s => .placed (s.updLadder x.id fun y => { y with packs := y.packs.drop 1 })
      | none => .blocked cores
    | _, _ => .idle
/-- A turn of queue 0 to 63, or of the packed troupes. -/
def State.turn (s : State) (part prio q : Nat) : Turn := if q < 64 then s.queueTurn part q prio else s.packTurn part prio

/-- The most recently placed company of the lowest priority among some. -/
def victim : List Company → Option Company
  | [] => none
  | c :: r => match victim r with
    | some d => if d.prio < c.prio || (d.prio == c.prio && c.placed < d.placed) then some d else some c
    | none => some c
/-- Room for a unit of a priority is made on some cores (R297): none where no company of lower priority stands there, the
same state while a pre-emption of one is under way on any of them. [DESIGN CHOICE, log 109] -/
def State.makeRoom (s : State) (prio : Nat) (cores : List Nat) : Option State :=
  let low := s.companies.filter fun c => c.onCore && c.prio < prio && cores.contains c.core
  if low.isEmpty then none
  else if low.any fun c => c.state != .resident then some s
  else (victim low).map s.preempt
/-- The queues of one priority, round-robin from the one after the last served. -/
def State.serveQueues (s : State) (part prio : Nat) : List Nat → Option State
  | [] => none
  | q :: r => match s.turn part prio q with
    | .idle => s.serveQueues part prio r
    | .placed s => some (s.updPart part fun p => { p with turns := p.turns.set prio q })
    | .blocked cores => match s.makeRoom prio cores with
      | some s => some s
      | none => s.serveQueues part prio r
/-- Queue numbers in the order of their turns. -/
def turnOrder (last : Nat) : List Nat := (List.range 65).map fun i => (last + 1 + i) % 65
/-- The priorities from 3 down. -/
def State.serve (s : State) (part : Nat) : List Nat → State
  | [] => s
  | p :: r => match s.serveQueues part p (turnOrder ((s.part part).turns.getD p 64)) with
    | some s => s
    | none => s.serve part r
/-- PLACE_UNIT (R297): the scheduler of a partition places one unit whole, or begins to make room for one. -/
def execPlaceUnit (part : Nat) (s : State) : Out :=
  .next (if (s.part part).defined then s.serve part [3, 2, 1, 0] else s)

/-! ### Completion (R299) -/

/-- The STATUS of a launch that has run. -/
def Launch.status (l : Launch) : Nat := if l.reason == 0 then 0 else 3 + l.reason * 2 ^ 16
/-- LAUNCH_COMPLETE (R299, R369): every company has ended and nothing is outstanding; STATUS and CVAR are written, and the
launch's snapshot pools are released. -/
def execLaunchComplete (lid : Nat) (s : State) : Out :=
  .next (match s.launch? lid with
  | none => s
  | some l =>
    if l.units == l.instances && s.outZero lid && !(s.companies.any fun c => c.launch == lid && c.state != .ended) &&
        !(s.ladders.any fun x => x.launch == lid) && !s.storeStalls (deviceWho l.part l.asid.toNat) (l.record + 56) 4 then
      let s := s.finish l l.status
      { s with
        launches := s.launches.filter fun x => x.id != lid, pools := s.pools.filter fun p => p.launch != lid,
        companies := s.companies.filter fun c => c.launch != lid,
        barriers := s.barriers.filter fun b => !(3 ≤ b.key.level && b.key.owner == lid) }
    else s)

/-! ### Pre-emption and resumption (R41, R322 to R325) -/

/-- LEN of a core's slice in cycles. -/
def Core.slice (k : Core) : Nat := k.tslice.toNat % 2 ^ 24 * 1024
/-- Cores on which a company may resume: in the domain instances of its instances of level 3 and above that have another
resident company (R324), on a free sequencer where it holds a region (R344), a packed troupe on its home deck's pier
(R351). -/
def State.resumeCores (s : State) (c : Company) : List Nat :=
  let l := s.launch? c.launch
  let near (core : Nat) : Bool := match l with
    | none => false
    | some l => (l.upper.zip (List.range 5)).all fun x =>
        s.companies.all fun d => d.cid == c.cid || d.launch != c.launch || d.packed.isSome || c.packed.isSome || !d.onCore ||
          d.insts.getD x.2 0 != c.insts.getD x.2 0 || domainOf x.1.domain d.core == domainOf x.1.domain core
  let free (core : Nat) : Bool := match c.region with
    | some r => r.g.isEmpty || s.sequencerFree core c.cid
    | none => true
  let home (core : Nat) : Bool := match c.packed with
    | some p => match s.ladder? p.lad with
      | some x => pierOf core == x.deck / 6
      | none => true
    | none => true
  (s.ranked c.part).filter fun k => near k && free k && home k
/-- The room that a saved or flushed company would take. -/
def State.resumeRoom (s : State) (c : Company) : Option (Nat × Room) :=
  (s.resumeCores c).findSome? fun k => (s.room k c.ntr c.scrS c.tileT).map fun r => (k, r)

/-- A ready unit of a priority, or a company that waits to be placed again, finds no room (R322). -/
def State.waitsForRoom (s : State) (part prio : Nat) : Bool :=
  ((List.range 65).any fun q => match s.turn part prio q with | .blocked _ => true | _ => false) ||
    s.companies.any fun c => c.part == part && c.prio == prio && (c.state == .saved || c.state == .flushed) && (s.resumeRoom c).isNone
/-- TIME_SLICE_EXPIRE (R322): at cycle `now` of its core the company's slice count has reached LEN while a unit of equal
priority waits. -/
def execTimeSliceExpire (cid now : Nat) (s : State) : Out :=
  .next (match s.company? cid with
  | none => s
  | some c =>
    let k := s.core c.core
    let pin := match s.launch? c.launch with | some l => l.pin | none => false
    if c.state == .resident && !pin && k.slice != 0 && c.start + k.slice ≤ now && k.clk ≤ now && s.waitsForRoom c.part c.prio then
      (s.advance c.core now).preempt c
    else s)
/-- DRAIN_TIMEOUT (R323): a drain overruns LEN, or 65,536 cycles; the remaining threads are saved. -/
def execDrainTimeout (cid now : Nat) (s : State) : Out :=
  .next (match s.company? cid with
  | none => s
  | some c => match c.state with
    | .draining start =>
      let k := s.core c.core
      let limit := if k.slice == 0 then 65536 else k.slice
      if start + limit < now && k.clk ≤ now && !(s.live cid).isEmpty then
        (s.advance c.core now).updCompany cid fun c => { c with state := .saving }
      else s
    | _ => s)
/-- SAVE_COMPLETE (R323, R324): in-flight work has ended, and the company leaves its core, `cycles` after the save began;
or a flush that waited is made. -/
def execSaveComplete (cid cycles : Nat) (s : State) : Out :=
  .next (match s.company? cid with
  | none => s
  | some c => match c.state with
    | .saving => if s.saveReady c && !s.recordsStall .load cid then (s.save c).updCore c.core fun k => k.measure cycles 0 else s
    | .flushing => if s.flushReady cid then s.flush c else s
    | _ => s)

/-- Restoration is an acquire (R173), and waits begin again (R41, R213, R241): time-outs and the cycles of a halt count from 0, a `waita` compares its words anew, and a stall at the old
core's tender ends. -/
def State.resumeThread (s : State) (c : Company) (t : Thread) : Thread :=
  let k := s.core c.core
  let arm (w : Waita) (a : Armed) : Armed :=
    let x : Word := BitVec.ofNat 32 (natOf (s.getLocs a.locs))
    { a with value := x, hit := x != w.expect.getD a.i 0 }
  let again (w : Waita) : Waita := { w with start := k.clk, words := w.words.map (arm w) }
  let t : Thread := { t.acquire with last := k.opps, ready := k.opps, waita := t.waita.map again, halt := t.halt.map fun h => (h.1, k.clk) }
  match t.wait with
  | .bar key n count _ limit => { t with wait := .bar key n count k.clk limit }
  | .mwait d src grp _ tmo => { t with wait := .mwait d src grp k.clk tmo }
  | .yield left => { t with wait := .yield (k.opps + left) }
  | .tender => { t with wait := .none }
  | _ => t
/-- The records of handler-mode threads are written into the new core's area; where such a store faults, the company ends
with REASON AREA (R309, R310). -/
def State.putRecords (s : State) (t : Thread) : State :=
  let n := t.frames.length
  let one (s : State) (x : Nat × TrapFrame) : State :=
    if x.2.record.isEmpty then s
    else match s.check (s.whoIs t true) .store (s.recordVa t (n - 1 - x.1)) 32 false with
      | .ok k => (s.claim (s.whoIs t true) (s.recordVa t (n - 1 - x.1)).toNat 32 [] 2).perform k.locs x.2.record
      | .error _ => s.terminate t.cid reasonArea
  (t.frames.mapIdx fun i f => (i, f)).foldl one s
/-- The company's share of its launch's outstanding counter moves with it (R261). -/
def State.moveCounts (s : State) (c : Company) (core : Nat) : State :=
  let n := (s.cmds.countP fun x => x.cid == c.cid) + (s.mbox.countP fun m => m.cid == c.cid && m.remote && m.kind != .get) +
    s.ops.countP fun o => o.cid == c.cid && o.counted
  let get (k : Core) : Nat := ((k.outst.find? fun x => x.1 == c.launch).map (·.2)).getD 0
  let put (k : Core) (m : Nat) : Core :=
    let r := k.outst.filter fun x => x.1 != c.launch
    { k with outst := if m == 0 then r else (c.launch, m) :: r }
  (s.updCore c.core fun k => put k (get k - n)).updCore core fun k => put k (get k + n)
/-- A saved company goes on, on another core or the same (R41). -/
def State.resume (s : State) (c : Company) (core : Nat) (r : Room) : State :=
  let s := (s.moveCounts c core).install c.cid core r false
  let s : State := { s with
    cmds := s.cmds.map fun x => if x.cid == c.cid then { x with core := core } else x, nextId := s.nextId + 1 }
  match s.company? c.cid with
  | none => s
  | some c =>
    let one (t : Thread) : Thread := if t.cid == c.cid && !t.exited then s.resumeThread c t else t
    let s : State := { s with threads := s.threads.map one }
    let s := (s.threads.filter fun t => t.cid == c.cid && !t.exited).foldl State.putRecords s
    (List.range c.ntr).foldl (fun s i => s.maskTests c.cid i) s
/-- A flushed company begins again at its entry (R323, R359): lanes of a packed troupe whose items are gone start exited. Its troupes
enter the sets as at a first placement (R20), and what it still has in flight counts on the new core (R261). [DESIGN CHOICE, log 103] -/
def State.restart (s : State) (c : Company) (core : Nat) (r : Room) : State :=
  match s.launch? c.launch with
  | none => s
  | some l =>
    let start : Option Start := match c.packed with
      | none => some (l.start c.index)
      | some p => match s.ladder? p.lad with
        | some x => (x.rungs[p.rung]?).map fun g => packStart l x p g
        | none => none
    match start with
    | none => s.updThreads (fun t => t.cid == c.cid) fun t => { t with exited := true }
    | some b =>
      let held (tid : Nat) : Bool := s.threads.any fun t => t.cid == c.cid && t.tid == tid && t.item.isSome
      let fresh := (s.startThreads b c.cid core).map fun t =>
        if c.packed.isSome && !held t.tid then { t with exited := true, item := none } else t
      let s : State := { s.moveCounts c core with
        threads := s.threads.filter (fun t => t.cid != c.cid) ++ fresh,
        troupes := s.troupes.filter (fun u => u.cid != c.cid) ++ (List.range b.ntr).map fun i => newTroupe c.cid i b.tiles (s.fresh + 16 * i),
        companies := s.companies.map fun d => if d.cid == c.cid then { s.startCompany b c.cid c.part with state := .flushed } else d,
        fresh := s.fresh + 16 * b.ntr, nextId := s.nextId + 1 }
      s.install c.cid core r true
/-- COMPANY_RESUME (R41, R324): a saved or flushed company finds room; `cycles` is what the restore took. -/
def execCompanyResume (cid cycles : Nat) (s : State) : Out :=
  .next (match s.company? cid with
  | none => s
  | some c =>
    if c.state == .saved || c.state == .flushed then
      match s.resumeRoom c with
      | none => s
      | some (k, r) =>
        let t := s.resume c k r
        if c.state != .saved then s.restart c k r
        else if t.recordsStall .store cid then s
        else t.updCore k fun x => x.measure 0 cycles
    else s)

end Sys2Proof.Machine
end

