-- ==== Sys2Proof/Machine/Picker.lean ====
section
/-!
DEFINITION. The picker of a core (R19 to R24): readiness, the active set, cohorts, the choice of a counter and of a group;
the passing of cycles with rationed register reads (R379) and barred cycles (R381).
-/
namespace Sys2Proof.Machine

/-! ### Readiness and the active set (R19, R20) -/

/-- A thread that can be issued, active or not (R19): one with a pending trap takes that first (R304). [DESIGN CHOICE, log 39] -/
def Thread.isReady (t : Thread) : Bool := !t.exited && t.wait == .none && t.halt.isNone && t.asyncs.isEmpty
/-- Troupes of a core whose company runs. -/
def State.troupesOn (s : State) (core : Nat) : List Troupe :=
  s.troupes.filter fun u => s.companies.any fun c => c.cid == u.cid && c.core == core && c.runs
/-- Threads of a troupe that have not exited. -/
def State.threadsOf (s : State) (u : Troupe) : List Thread := s.threads.filter fun t => t.cid == u.cid && t.trp == u.idx && !t.exited
/-- The opportunity since which the longest-ready thread of a troupe is ready. -/
def State.readySince (s : State) (u : Troupe) : Option Nat :=
  ((s.threadsOf u).filter Thread.isReady).foldl (fun m t => match m with | some x => some (min x t.ready) | none => some t.ready) none
/-- The result of an operation comes from beyond L1: a load's by a free choice, and one from another unit than the core's memories; what
lies in scratchpad never does (R19, R152). -/
def MemOp.fromFar (o : MemOp) : Bool :=
  !(o.locs.all fun l => match l with | .scratch .. => true | _ => false) &&
    (match o.kind with | .load _ | .kload .. | .ldp .. => Config.beyondL1 o.id | _ => true)
/-- The thread is in a wait, or parked on a long-latency dependence (R19, R151, R245, R272). -/
def State.waitsLong (s : State) (t : Thread) : Bool :=
  match t.wait with
  | .bar .. | .waitk _ | .waita | .mwait .. | .mbox _ | .twait .. | .rxbegin | .rxend | .rxfull | .snap _ | .mig .. | .hold | .tender => true
  | .marker => (s.ops.any fun o => o.feeds t.cid t.tid && o.fromFar) ||
      s.mbox.any fun m => m.cid == t.cid && m.kind == .call && m.remote && m.lanes.contains t.tid
  | .none | .quiet | .tile | .yield _ => false
/-- Every live thread of a troupe is in a wait or parked on a long-latency dependence (R20). -/
def State.blockedTroupe (s : State) (u : Troupe) : Bool := (s.threadsOf u).all s.waitsLong
/-- The first troupe of a list in an order. -/
def firstBy (lt : Troupe → Troupe → Bool) : List Troupe → Option Troupe
  | [] => none
  | u :: r => match firstBy lt r with
    | some w => if lt w u then some w else some u
    | none => some u
/-- The pending troupe that enters next: its thread ready longest, then in the pending set longest, then the lowest slot. -/
def State.entering (s : State) (core : Nat) : Option Troupe :=
  let key (u : Troupe) : Nat × Nat × Nat := ((s.readySince u).getD 0, u.since, u.slot)
  let lt (u w : Troupe) : Bool :=
    let a := key u
    let b := key w
    a.1 < b.1 || (a.1 == b.1 && (a.2.1 < b.2.1 || (a.2.1 == b.2.1 && a.2.2 < b.2.2)))
  firstBy lt ((s.troupesOn core).filter fun u => !u.active && (s.readySince u).isSome)
/-- The earliest troupe of the active set among some. -/
def earliest : List Troupe → Option Troupe := firstBy fun u w => u.since < w.since || (u.since == w.since && u.slot < w.slot)
/-- A troupe changes sets. -/
def State.moveTroupe (s : State) (u : Troupe) (active : Bool) (opps : Nat) : State :=
  s.updTroupe u.cid u.idx fun w => { w with active := active, since := opps }
/-- ACTIVE_SET_MOVE (R20): at most one move, by the first rule that fits. Troupes of a company that is being saved or flushed fill no place
here. [DESIGN CHOICE, log 102] -/
def State.moveActive (s : State) (core : Nat) : State :=
  let opps := (s.core core).opps
  match s.entering core with
  | none => s
  | some u =>
    let act := (s.troupesOn core).filter (·.active)
    if act.length < 8 then s.moveTroupe u true opps
    else match earliest (act.filter s.blockedTroupe) with
      | some w => (s.moveTroupe w false opps).moveTroupe u true opps
      | none => match s.readySince u, earliest act with
        | some x, some w => if x + 32 ≤ opps then (s.moveTroupe w false opps).moveTroupe u true opps else s
        | _, _ => s

/-! ### Cohorts and groups (R21 to R23) -/

/-- A ready cohort of active threads. -/
structure Cohort where
  cid : Nat
  pc : DWord
  ts : List Thread
  deriving DecidableEq, Repr
/-- A thread joins its cohort. [DESIGN CHOICE, log 31] -/
def joinCohort (t : Thread) : List Cohort → List Cohort
  | [] => [⟨t.cid, t.pc, [t]⟩]
  | c :: r => if c.ts.any t.sameCohort then { c with ts := c.ts ++ [t] } :: r else c :: joinCohort t r
/-- The ready cohorts of a core; `not` are threads that cannot be taken in this cycle (R23). -/
def State.cohorts (s : State) (core : Nat) (not : List (Nat × Nat)) : List Cohort :=
  let us := (s.troupesOn core).filter (·.active)
  let ts := s.threads.filter fun t => t.isReady && us.any fun u => u.cid == t.cid && u.idx == t.trp
  (ts.foldl (fun l t => joinCohort t l) []).filter fun c => !(c.ts.any fun t => not.contains (t.cid, t.tid))
/-- Age: opportunities since a member last issued, the largest of them (R21). -/
def Cohort.age (opps : Nat) (c : Cohort) : Nat := c.ts.foldl (fun m t => max m (opps - t.last)) 0
/-- A company and a counter. -/
structure Spot where
  cid : Nat
  pc : DWord
  deriving DecidableEq, Repr
/-- Index of a company within its launch. -/
def State.indexOf (s : State) (cid : Nat) : Nat := match s.company? cid with | some c => c.index | none => 0
/-- Lowest counter, then lowest company index, then the company placed first. -/
def State.spotLt (s : State) (a b : Spot) : Bool :=
  a.pc.toNat < b.pc.toNat || (a.pc == b.pc && (s.indexOf a.cid < s.indexOf b.cid || (s.indexOf a.cid == s.indexOf b.cid && a.cid < b.cid)))
/-- The first of some spots in an order. -/
def firstSpot (lt : Spot → Spot → Bool) : List Spot → Option Spot
  | [] => none
  | x :: r => match firstSpot lt r with
    | some y => if lt y x then some y else some x
    | none => some x
/-- Memory operations that the ready threads at a spot have outstanding (R23). -/
def State.spotLoad (s : State) (cs : List Cohort) (x : Spot) : Nat :=
  let ts := (cs.filter fun c => c.cid == x.cid && c.pc == x.pc).flatMap (·.ts)
  s.ops.countP fun o => o.isAccess && ts.any fun t => o.owned t.cid t.tid
/-- The counter a pipe takes (R23): a cohort of age 48 or more first, then the running path, then the spot with the fewest
outstanding operations. -/
def State.chooseSpot (s : State) (opps : Nat) (path : Option Path) (cs : List Cohort) : Option Spot :=
  let spots := (cs.map fun c => (⟨c.cid, c.pc⟩ : Spot)).eraseDups
  let top := cs.foldl (fun m c => max m (c.age opps)) 0
  let keep : Option Spot := match path with
    | some p => match p.pc with
      | some pc => if spots.contains ⟨p.cid, pc⟩ then some ⟨p.cid, pc⟩ else none
      | none => none
    | none => none
  if 48 ≤ top then firstSpot s.spotLt ((cs.filter fun c => c.age opps == top).map fun c => ⟨c.cid, c.pc⟩)
  else match keep with
    | some x => some x
    | none =>
      let lt (a b : Spot) : Bool :=
        s.spotLoad cs a < s.spotLoad cs b || (s.spotLoad cs a == s.spotLoad cs b && s.spotLt a b)
      firstSpot lt spots

/-- Instructions whose groups hold threads of one troupe only (R29). -/
def troupeBound : Instr → Bool
  | .bfx .. | .lget .. | .pollCnt .. | .pollRank .. | .pollMask .. | .pollSame .. | .redx .. | .scanx .. | .join .. | .leave .. | .waitk .. | .ksave .. | .kload ..
  | .mma .. | .mmae .. | .mloop .. | .mzero .. | .mload .. | .mdrain .. | .mstat .. | .dexp .. | .dsplit .. | .dmerge .. => true
  | _ => false
/-- The instruction at a thread's counter, where it can be fetched. -/
def State.instrAt (s : State) (t : Thread) : Option Instr :=
  match s.fetchBytes (s.whoIs t) t.pc 2, s.fetchBytes (s.whoIs t) (t.pc + 2) 2 with
  | .ok a, .ok b => (decode (BitVec.ofNat 32 (natOf (s.getLocs (a.locs ++ b.locs))))).toOption
  | _, _ => none
/-- The instruction at a thread's counter is troupe-bound. -/
def State.boundAt (s : State) (t : Thread) : Bool :=
  match s.instrAt t with
  | some i => troupeBound i
  | none => false
/-- The threads of a cohort by troupe (R22). -/
def splitTroupes (c : Cohort) : List Cohort :=
  (c.ts.map Thread.trp).eraseDups.map fun u => { c with ts := c.ts.filter fun t => t.trp == u }
/-- Order of cohorts at one counter: oldest, then lowest troupe, then lowest home lane (R22). -/
def Cohort.before (opps : Nat) (a b : Cohort) : Bool :=
  let least (f : Thread → Nat) (c : Cohort) : Nat := c.ts.foldl (fun m t => min m (f t)) 1024
  let ka := (least Thread.trp a, least Thread.lane a)
  let kb := (least Thread.trp b, least Thread.lane b)
  b.age opps < a.age opps || (a.age opps == b.age opps && (ka.1 < kb.1 || (ka.1 == kb.1 && ka.2 < kb.2)))
@[inherit_doc Cohort.before] def insertCohort (opps : Nat) (x : Cohort) : List Cohort → List Cohort
  | [] => [x]
  | y :: r => if x.before opps y then x :: y :: r else y :: insertCohort opps x r
/-- Each cohort is added whole where its lane slots are free (R22). -/
def fillSlots : List Thread → List Cohort → List Thread
  | g, [] => g
  | g, c :: r => if c.ts.any fun t => g.any fun x => x.lane == t.lane then fillSlots g r else fillSlots (g ++ c.ts) r
/-- A thread fetches at its counter what another one does. -/
def State.fetchesLike (s : State) (t u : Thread) : Bool := s.fetchAt (s.whoIs t) t.pc == s.fetchAt (s.whoIs u) u.pc
/-- Threads of a group that fetch something else than its first one are not taken. [DEDUCED, log 28] -/
def State.oneWord (s : State) : List Thread → List Thread
  | [] => []
  | t :: r => t :: r.filter (s.fetchesLike t)
/-- The group at a spot (R22). -/
def State.groupAt (s : State) (opps : Nat) (cs : List Cohort) (x : Spot) : List Thread :=
  let at_ := cs.filter fun c => c.cid == x.cid && c.pc == x.pc
  let bound := match at_ with
    | c :: _ => c.ts.any s.boundAt
    | [] => false
  let order (l : List Cohort) : List Cohort := l.foldl (fun r c => insertCohort opps c r) []
  s.oneWord (if bound then
    match order (at_.flatMap splitTroupes) with
    | c :: r => fillSlots [] (c :: r.filter fun d => d.ts.all fun t => c.ts.all fun y => y.trp == t.trp)
    | [] => []
  else fillSlots [] (order at_))

/-! ### What holds a cohort before it issues (R37, R39) -/

/-- The instruction at a thread's counter has a switch marker, or acts as one (R37, R144, R215, R217). -/
def State.markedAt (s : State) (t : Thread) : Bool :=
  match s.fetchBytes (s.whoIs t) t.pc 2 with
  | .ok a => !a.mig && ((natOf (s.getLocs a.locs)).testBit 1 || match s.instrAt t with
    | some (.sets _ r _) => r == 0x11
    | some (.sysw ..) | some (.rte ..) => true
    | _ => false)
  | .error _ => false
/-- What holds a ready cohort at its counter: a switch marker while results of its threads are in flight (R37), or registers
that a running matrix loop refills (R39). -/
def State.holdOf (s : State) (c : Cohort) : Option Wait :=
  match c.ts with
  | [] => none
  | t :: _ =>
    if c.ts.any (fun u => s.resultsOut u.cid u.tid) && s.markedAt t then some .marker
    else match s.instrAt t with
      | some i => if c.ts.any fun u => s.stages u.cid u.trp (vregs i) then some .tile else none
      | none => none
/-- The tiles that a matrix instruction waits for (R264, R279, R289). -/
def waitTiles (ts : List Thread) : Instr → List Nat
  | .mstat _ n _ => [n.toNat]
  | .mdrain _ b _ n => match fullTroupe (ts.filter Thread.passes) with
    | some (l :: _) => drainWaits n.toNat (l.getV b)
    | _ => []
  | .dmerge _ _ x n => [n.toNat, n.toNat + 1, x.toNat]
  | _ => []
/-- A matrix instruction (R31). -/
def matrixInstr : Instr → Bool
  | .mma .. | .mmae .. | .mloop .. | .mzero .. | .mload .. | .mdrain .. | .mstat .. | .dexp .. | .dsplit .. | .dmerge .. => true
  | _ => false
/-- What holds the threads of one troupe of a cohort at a matrix instruction: a sibling in a handler or halted (R272), or work on a tile
that the instruction waits for (R39, R264). `c` holds all ready threads of the troupe at that counter. -/
def State.holdPiece (s : State) (c : Cohort) : Option Wait :=
  match c.ts with
  | [] => none
  | t :: _ => match s.instrAt t with
    | none => none
    | some i =>
      if !matrixInstr i then none
      else if s.heldBack c.ts then some .hold
      else if (fullTroupe (c.ts.filter Thread.passes)).isSome && s.tileBusy t.cid t.trp (waitTiles c.ts i) then some .tile
      else none
/-- The threads of a cohort wait. -/
def State.park (s : State) (c : Cohort) (w : Option Wait) : State :=
  match w with
  | some w => s.updThreads (fun t => t.cid == c.cid && c.ts.any fun u => u.tid == t.tid) fun t => { t with wait := w }
  | none => s
/-- MARKER_PARK (R37): held cohorts of a core leave the ready ones before a group is chosen; at a matrix instruction, troupe by troupe
(R29). -/
def State.parkHeld (s : State) (core : Nat) : State :=
  let us := s.troupesOn core
  let ts := s.threads.filter fun t => t.isReady && us.any fun u => u.cid == t.cid && u.idx == t.trp
  let cs := ts.foldl (fun l t => joinCohort t l) []
  let r := cs.foldl (fun r c => r.park c (s.holdOf c)) s
  let free := (cs.filter fun c => (s.holdOf c).isNone).flatMap (·.ts)
  let place (t : Thread) : Nat × Nat × DWord := (t.cid, t.trp, t.pc)
  (free.map place).eraseDups.foldl (fun r x =>
    let d : Cohort := ⟨x.1, x.2.2, free.filter fun t => place t == x⟩
    r.park d (s.holdPiece d)) r

/-! ### Cycles (R379, R381) -/

/-- One cycle of a core ends: up to EFF register reads are granted, and a cycle with a denial is sampled (R379, R387). -/
def State.tick (s : State) (core : Nat) : State :=
  let k := s.core core
  let left := k.need - min k.need k.eff
  let s := if left == 0 then s else s.sample core 2 left
  s.updCore core fun c => { c with clk := c.clk + 1, need := left, first := [] }
@[inherit_doc State.tick] def State.ticks (s : State) (core : Nat) : Nat → State
  | 0 => s
  | n + 1 => (s.tick core).ticks core n

/-- MIG_STALL_RELEASE (R151): threads whose page is no longer marked are released to make their access again. -/
def State.wakeMig (s : State) : State :=
  let due (t : Thread) : Bool := match t.wait with
    | .mig asid va => match s.company? t.cid with
      | some c => match s.translate c.part asid.toNat va.toNat with
        | .ok l => !pteMig l.entry
        | .error _ => true
      | none => false
    | _ => false
  if s.threads.any due then s.release due id else s
/-- The counter of a path once its group has executed (R23). -/
def State.settlePath (s : State) (p : Path) : Path :=
  if p.fresh then
    let ts := (p.tids.filterMap fun i => s.thread? p.cid i).filter fun t => !t.exited
    let pc : Option DWord := match ts with
      | t :: r => if r.all fun u => u.pc == t.pc then some t.pc else none
      | [] => none
    { p with pc := pc, fresh := false }
  else p
/-- The pipes' paths are brought up to date. -/
def State.settlePaths (s : State) (core : Nat) : State :=
  s.updCore core fun c => { c with path0 := c.path0.map s.settlePath, path1 := c.path1.map s.settlePath }

/-- An error that the group's instruction meets, if any: a free choice (R303). -/
def freeError (fresh : Nat) : Nat := if Config.freeBit fresh 3 0 then 1 + (Config.freeWord fresh 3).toNat % 3 else 0
/-- The chosen group is issued: its threads form one cohort, the pipe's path follows it, and the opportunity counts. [DEDUCED, log 29] -/
def State.issueGroup (s : State) (core pipe : Nat) (x : Spot) (ts : List Thread) : State :=
  let ids := (byLane ts).map Thread.tid
  let opps := (s.core core).opps + 1
  let path : Path := { cid := x.cid, tids := ids, pc := none, fresh := true }
  let s := s.updThreads (fun t => t.cid == x.cid && ids.contains t.tid) fun t =>
    { t with coh := cohNumber false s.nextId 0, last := opps, ready := opps }
  let s := s.updCore core fun c =>
    if pipe == 0 then { c with opps := opps, path0 := some path, first := ids.map fun i => (x.cid, i) }
    else { c with opps := opps, path1 := some path }
  { s with issue := some { core := core, cid := x.cid, pc := x.pc, tids := ids, word := 0, len := 0 },
           bad := freeError s.fresh, fresh := s.fresh + 1, nextId := s.nextId + 1 }
/-- Pipe 1 has had its turn in this cycle. -/
def State.endCycle (s : State) (core pipe : Nat) : State :=
  if pipe == 0 then s else s.updCore core fun c => { c with first := [] }
/-- ISSUE_OPPORTUNITY (R20, R22, R23): pipe 0 after `cycles` more cycles of the core, or pipe 1 once in the cycle that pipe 0
has just used, chooses and issues a group. -/
def execIssueOpportunity (core pipe cycles : Nat) (s : State) : Out :=
  .next (if !s.powered core then s else
    let s := (if pipe == 0 then s.ticks core (max 1 cycles) else s).settlePaths core
    let k := s.core core
    if k.need != 0 && pipe == 0 then s
    else if pipe != 0 && k.first.isEmpty then s
    else if k.allow ≤ k.clk % 256 then s
    else
      let s := (s.wakeMig.parkHeld core).moveActive core
      let m := s.endCycle core pipe
      let cs := s.cohorts core (if pipe == 0 then [] else k.first)
      match m.chooseSpot k.opps (if pipe == 0 then k.path0 else k.path1) cs with
      | none => m
      | some x => m.issueGroup core pipe x (m.groupAt k.opps cs x))

end Sys2Proof.Machine
end

