-- ==== Sys2Proof/Machine/Host.lean ====
section
/-!
DEFINITION. What reaches the device from outside: the control interface (R373 to R377), power and heat (R378 to R382), page
migration (R383, R384), the host link and the ports (R388, R389), bring-up and trust (R390 to R394), and the resumption of
debug-halted threads (R319).
-/
namespace Sys2Proof.Machine

/-! ### The command window (R373, R374) -/

/-- A command ends with a status. [DESIGN CHOICE, log 82] -/
def State.endCommand (s : State) (status : Nat) : State := { s with window := { s.window with status := status } }
/-- A command begins: GO starts what the window holds; the argument block is read from host memory. -/
def State.openWindow (s : State) (op part : Nat) (arg : DWord) (n : Nat) : State :=
  { s with window := { op := BitVec.ofNat 32 op, part := BitVec.ofNat 32 part, arg := arg, status := 0, since := 0, begun := false,
                       block := s.physBytes (Config.hostBase + arg.toNat) n } }
/-- One command with an argument block of `n` bytes. `go` runs when it starts and, while it waits, again: its flag tells
which. A GO while another command runs is ignored; a module that does not run ends every command with BERTHED. [DEDUCED, log 75] -/
def State.hostCommand (s : State) (op n part : Nat) (arg : DWord) (go : Bool → State → State) : State :=
  let w := s.window
  if w.status == 0 then
    if w.op.toNat == op && w.part.toNat == part && w.arg == arg then go false s else s
  else
    let s := s.openWindow op part arg n
    if !s.running then s.endCommand 4
    else if 4 ≤ part || Config.hostSize < arg.toNat + n then s.endCommand 2
    else go true s

/-! ### Migration of pages (R376, R383, R384) -/

/-- A byte of device-physical memory. -/
def State.byteAt (s : State) (a : Nat) : Byte := s.getLoc (.phys a)
/-- The deck in whose DRAM a frame lies, if any: host lines and on-chip windows lie in none. -/
def frameSite (f : Nat) : Option Nat :=
  if Config.hostBase ≤ f then none else if Config.frameDeck f < 24 then some (Config.frameDeck f) else none
/-- A leaf of the partition's page tables: ASID, address of its page, and the entry in force. -/
structure PageLeaf where
  asid : Nat
  va : Nat
  leaf : Leaf
  deriving DecidableEq, Repr
/-- The device-physical base of a page. -/
def PageLeaf.base (l : PageLeaf) : Nat := ptePa l.leaf.entry / l.leaf.size * l.leaf.size
/-- The page's frames. -/
def PageLeaf.frames (l : PageLeaf) : List Nat := (List.range (l.leaf.size / 4096)).map fun i => l.base + 4096 * i
/-- The page holds a frame. -/
def PageLeaf.has (l : PageLeaf) (f : Nat) : Bool := l.base ≤ f && f < l.base + l.leaf.size
/-- The leaves of an L0 table; one of 64 KiB stands once for each entry that reaches it (R147). -/
def State.leaves0 (s : State) (asid va base : Nat) : List PageLeaf :=
  (List.range 512).filterMap fun i =>
    let e := s.physNat (base + 8 * i) 8
    let b := base + i / 16 * 128
    if !pteV e then none
    else if pteSz64 e then
      let x := s.physNat b 8
      if pteV x then some ⟨asid, va + i / 16 * 2 ^ 16, ⟨x, 2 ^ 16, b⟩⟩ else none
    else some ⟨asid, va + i * 2 ^ 12, ⟨e, 2 ^ 12, base + 8 * i⟩⟩
/-- The leaves under a table of `count` entries that map `size` bytes each. -/
def State.leavesOf (s : State) (count size : Nat) (root : Bool) (next : Nat → Nat → List PageLeaf) (asid va base : Nat) : List PageLeaf :=
  (List.range count).flatMap fun i =>
    let e := s.physNat (base + 8 * i) 8
    if !pteV e then []
    else if pteLeaf e then (if root then [] else [⟨asid, va + i * size, ⟨e, size, base + 8 * i⟩⟩])
    else next (va + i * size) (ptePa e)
/-- Every leaf of a partition (R147, R375). -/
def State.leaves (s : State) (part : Nat) : List PageLeaf :=
  (List.range 4096).flatMap fun asid =>
    let root := s.physNat ((s.part part).asidtab.toNat + 8 * asid) 8
    if !pteV root then []
    else s.leavesOf 1024 (2 ^ 39) true
      (s.leavesOf 512 (2 ^ 30) false (s.leavesOf 512 (2 ^ 21) false (s.leaves0 asid) asid) asid) asid 0 (ptePa root)
/-- Frames of a partition's pages that lie in some decks. -/
def State.framesIn (s : State) (part : Nat) (decks : List Nat) : List Nat :=
  (((s.leaves part).flatMap PageLeaf.frames).filter fun f => match frameSite f with
    | some d => decks.contains d
    | none => false).eraseDups

/-- An entry with another frame. -/
def pteWithPa (e pa : Nat) : Nat := e - ptePa e + pa / 4096 % 2 ^ 36 * 4096
/-- An entry with MIG, V or SZ64 set or cleared. -/
def pteSetMig (e : Nat) : Nat := if pteMig e then e else e + 32
@[inherit_doc pteSetMig] def pteClearMig (e : Nat) : Nat := if pteMig e then e - 32 else e
@[inherit_doc pteSetMig] def pteClearV (e : Nat) : Nat := if pteV e then e - 1 else e
@[inherit_doc pteSetMig] def pteClearSz64 (e : Nat) : Nat := if pteSz64 e then e - 128 else e
/-- Writes a table entry. -/
def State.setPte (s : State) (a e : Nat) : State := s.perform ((List.range 8).map fun i => .phys (a + i)) (bytesOf 8 e)
/-- Writes a table of entries. -/
def State.setTable (s : State) (a : Nat) (es : List Nat) : State :=
  (es.mapIdx fun i e => (i, e)).foldl (fun s x => s.setPte (a + 8 * x.1) x.2) s
/-- A leaf of 2 MiB as 512 leaves of 4 KiB in a new table (R383). -/
def State.split2m (s : State) (at_ e k : Nat) : State :=
  let t := Config.tableFrame s.fresh k * 4096
  let base := ptePa e / 2 ^ 21 * 2 ^ 21
  let leaf (i : Nat) : Nat := pteClearSz64 (pteWithPa (if pteLeaf e then e - 64 else e) (base + 4096 * i))
  (s.setTable t ((List.range 512).map leaf)).setPte at_ (pteWithPa 1 t)
/-- A larger page as leaves of 4 KiB with the same attributes (R383). [DEDUCED, log 78] -/
def State.splitPage (s : State) (l : Leaf) : State :=
  let s : State := { s with fresh := s.fresh + 1 }
  if l.size == 2 ^ 16 then
    let base := ptePa l.entry / 2 ^ 16 * 2 ^ 16
    let old := (List.range 16).map fun i => s.physNat (l.at_ + 8 * i) 8
    let one (i e : Nat) : Nat := if pteV e && pteSz64 e then pteClearSz64 (pteWithPa l.entry (base + 4096 * i)) else e
    s.setTable l.at_ (old.mapIdx one)
  else if l.size == 2 ^ 21 then s.split2m l.at_ l.entry 0
  else if l.size == 2 ^ 30 then
    let t := Config.tableFrame s.fresh 0 * 4096
    let base := ptePa l.entry / 2 ^ 30 * 2 ^ 30
    let s := (s.setTable t ((List.range 512).map fun i => pteWithPa l.entry (base + 2 ^ 21 * i))).setPte l.at_ (pteWithPa 1 t)
    (List.range 512).foldl (fun s i => s.split2m (t + 8 * i) (pteWithPa l.entry (base + 2 ^ 21 * i)) (i + 1)) s
  else s
/-- Splits every larger page that holds a frame. -/
def State.splitFor (s : State) (part f : Nat) : State :=
  ((s.leaves part).filter fun l => l.has f && l.leaf.size != 4096).eraseDups.foldl (fun s l => s.splitPage l.leaf) s
/-- Rewrites every leaf of a frame and removes the translations, as `tlbinv` would. -/
def State.setLeaves (s : State) (part f : Nat) (g : Nat → Nat) : State :=
  ((s.leaves part).filter fun l => l.has f).foldl (fun s l =>
    (s.setPte l.leaf.at_ (g l.leaf.entry)).invalidate { part := part, global := false, all := false, asid := l.asid, va := l.va }) s

/-- Step 1: the frame's leaves are marked; `to` is where its page goes. -/
def State.markFrame (s : State) (part f to_ : Nat) (spill : Bool) : State :=
  let s := (s.splitFor part f).setLeaves part f pteSetMig
  s.updPart part fun p => { p with moving := p.moving ++ [(f, to_, spill)], taken := to_ :: p.taken }
/-- A location in a frame. -/
def inFrame (f : Nat) : Loc → Bool
  | .phys a | .foreign a | .view a _ _ => f ≤ a && a < f + 4096
  | _ => false
/-- Bytes an operation in flight reaches. -/
def MemOp.reach (o : MemOp) : List Loc :=
  o.locs ++ match o.kind with
    | .drain _ left => left.flatMap fun x => x.2.1
    | _ => []
/-- An access that used the old translation has not performed (step 2): an operation in flight, or a buffered store of a
relaxation pass (R339). -/
def State.frameBusy (s : State) (f : Nat) : Bool :=
  (s.ops.any fun o => o.reach.any (inFrame f)) ||
    s.companies.any fun c => match c.region with
      | some r => r.buf.any fun b => b.locs.any (inFrame f)
      | none => false
/-- Nothing is remembered of writes in frames that satisfy a test, or of their lines. -/
def State.forget (s : State) (p : Nat → Bool) : State :=
  { s with marks := s.marks.filter fun m => !p (m.addr / 4096 * 4096), lines := s.lines.filter fun l => !p (l.line / 64 * 4096) }
/-- The writes and lines of one frame are those of another, whose contents it takes. -/
def State.copyMarks (s : State) (from_ to_ : Nat) : State :=
  let marks := (s.marks.filter fun m => m.addr / 4096 * 4096 == from_).map fun m => { m with addr := m.addr - from_ + to_ }
  let lines := (s.lines.filter fun l => l.line / 64 * 4096 == from_).map fun l => { l with line := l.line - from_ / 64 + to_ / 64 }
  let s := s.forget (· == to_)
  { s with marks := marks.foldl markSet s.marks, lines := lines.foldl lineSet s.lines }
/-- A byte of one frame is that of another. -/
def moveLoc (from_ to_ : Nat) : Loc → Loc
  | .phys a => if a / 4096 * 4096 == from_ then .phys (a - from_ + to_) else .phys a
  | l => l
/-- Bound pools and waiting operations find their object in the frame that it has moved to (R371). -/
def State.movePools (s : State) (from_ to_ : Nat) : State :=
  { s with pools := s.pools.map fun p => { p with place := p.place.map (moveLoc from_ to_) },
           snaps := s.snaps.map fun o => { o with place := o.place.map (moveLoc from_ to_) } }
/-- Steps 3 and 4: the frame is copied, and its leaves name the new one; a spilled page's leaf is made not valid. -/
def State.moveFrame (s : State) (part : Nat) (m : Nat × Nat × Bool) : State :=
  let s := ((s.copyMarks m.1 m.2.1).movePools m.1 m.2.1).perform ((List.range 4096).map fun i => .phys (m.2.1 + i)) (s.physBytes m.1 4096)
  let leaf (e : Nat) : Nat := if m.2.2 then pteClearV (pteClearMig e) else pteWithPa (pteClearMig e) m.2.1
  let s := s.setLeaves part m.1 leaf
  (s.updPart part fun p => { p with moving := p.moving.filter (· != m) }).wakeMig
/-- Every marked frame that no access uses any more is moved. -/
def State.moveFrames (s : State) (part : Nat) : State :=
  ((s.part part).moving.filter fun m => !s.frameBusy m.1).foldl (fun s m => s.moveFrame part m) s

/-- Free frames of a list. -/
def State.freeFrames (s : State) (p : Part) (list : DWord) : List Nat :=
  ((Config.frameList s.byteAt list.toNat).map (· * 4096)).filter fun f => !p.taken.contains f
/-- The coolest deck among some, the first of them on ties. -/
def State.coolest (s : State) : List Nat → Option Nat
  | [] => none
  | d :: r => match s.coolest r with
    | some e => if (s.deck e).temp < (s.deck d).temp then some e else some d
    | none => some d
/-- The frames of MIGPOOL on the coolest deck of the partition, apart from some decks (R383). -/
def State.coolFrames (s : State) (p : Part) (avoid : List Nat) : List Nat :=
  match s.coolest (p.deckList.filter fun d => !avoid.contains d) with
  | some d => (s.freeFrames p p.migpool).filter fun f => frameSite f == some d
  | none => []
/-- A frame of MIGPOOL that lies on none of some decks. -/
def State.poolFrames (s : State) (p : Part) (avoid : List Nat) : List Nat :=
  (s.freeFrames p p.migpool).filter fun f => match frameSite f with
    | some d => !avoid.contains d
    | none => true
/-- Frames of SPILL; address 0 is no list (R375). -/
def State.spillFrames (s : State) (p : Part) : List Nat := if p.spill == 0 then [] else s.freeFrames p p.spill
/-- Where a page goes whose deck leaves the partition: MIGPOOL first, then SPILL (R376). -/
def State.newFrame (s : State) (p : Part) (avoid : List Nat) : Option (Nat × Bool) :=
  match s.coolFrames p avoid with
  | f :: _ => some (f, false)
  | [] => match s.poolFrames p avoid with
    | f :: _ => some (f, false)
    | [] => match s.spillFrames p with
      | f :: _ => some (f, true)
      | [] => none
/-- Frames are marked, each with its new place; the pages of one that has none, mapped since the frames were counted, are made not valid
(R376). [DESIGN CHOICE, log 127] -/
def State.markFrames (s : State) (part : Nat) (place : State → Option (Nat × Bool)) : List Nat → State
  | [] => s
  | f :: r => match place s with
    | some x => (s.markFrame part f x.1 x.2).markFrames part place r
    | none => ((s.splitFor part f).setLeaves part f pteClearV).markFrames part place r
/-- Where a page goes that firmware moves within the partition (R383). -/
def State.coolFrame (s : State) (part : Nat) : Option (Nat × Bool) := (s.coolFrames (s.part part) []).head?.map fun f => (f, false)

/-- PAGE_MIGRATE (R383): what firmware has marked and nobody uses is moved; then a page of a hot deck is marked where the
partition lets firmware migrate, its class is not keep, and MIGPOOL has a frame. -/
def execPageMigrate (part asid : Nat) (va : DWord) (s : State) : Out :=
  .next (if !(s.part part).defined then s else
    let s := s.moveFrames part
    let p := s.part part
    match s.walk p asid va.toNat with
    | .error _ => s
    | .ok l =>
      let f := l.phys va.toNat / 4096 * 4096
      let hot := match frameSite f with | some d => 85 < (s.deck d).temp | none => false
      if p.migok && hot && l.entry / 2 ^ 48 % 4 != 1 && !(p.moving.any fun m => m.1 == f) then
        match s.coolFrame part with
        | some x => s.markFrame part f x.1 x.2
        | none => s
      else s)
/-- MOVE (R374, R383): the same for listed pages; CONFLICT where MIGOK is clear or MIGPOOL holds too few frames on the coolest deck. -/
def State.moveGo (part : Nat) (first : Bool) (s : State) : State :=
  let p := s.part part
  if first then
    let pages := Config.pageList s.byteAt (Config.hostBase + s.window.arg.toNat)
    let leaves := pages.map fun x => (x, s.walk p x.1 x.2)
    if leaves.any fun x => match x.2 with | .error _ => true | .ok _ => false then s.endCommand 2
    else
      let fs := (leaves.filterMap fun x => match x.2 with
        | .ok l => if l.entry / 2 ^ 48 % 4 == 1 then none else some (l.phys x.1.2 / 4096 * 4096)
        | .error _ => none).eraseDups.filter fun f => !(p.moving.any fun m => m.1 == f)
      if !p.defined || !p.migok || (s.coolFrames p []).length < fs.length then s.endCommand 3
      else
        let s := s.markFrames part (·.coolFrame part) fs
        if (s.part part).moving.isEmpty then s.endCommand 1 else s
  else
    let s := s.moveFrames part
    if (s.part part).moving.isEmpty then s.endCommand 1 else s
/-- MOVE. -/
def execMove (part : Nat) (arg : DWord) (s : State) : Out := .next (s.hostCommand 8 0 part arg (State.moveGo part))

/-! ### Partitions and deck roles (R375, R376) -/

/-- Compute decks a pier would have, with one partition's masks replaced (R1). -/
def State.rolesOk (s : State) (part decks roles : Nat) : Bool :=
  let on (d : Nat) : Bool := (decks.testBit d && roles.testBit d) ||
    (List.range 4).any fun p => p != part && (s.part p).defined && (s.part p).computes d
  (List.range 4).all fun p => ((List.range 6).countP fun d => on (6 * p + d)) ≤ 5
/-- Whether a block is refused: the cases of R375 and the ranges of its fields. -/
def State.partitionRefused (s : State) (part : Nat) (b : List Byte) : Bool :=
  let f := fieldOf b
  let decks := f 0 4
  let others := ((List.range 4).filter fun p => p != part && (s.part p).defined).map s.part
  let fenced := (List.range 24).any fun d => decks.testBit d && (s.deck d).fenced
  2 ^ 24 ≤ decks || fenced || others.any (fun p => decks &&& p.decks != 0) || !s.rolesOk part decks ((s.part part).rolesAfter b) ||
    f 8 4 == 0 || 16 ≤ f 8 4 || others.any (fun p => f 8 4 &&& p.regs != 0) ||
    (f 12 8).testBit 0 || others.any (fun p => f 12 8 &&& p.keys.toNat != 0) ||
    1024 < f 40 2 || 256 < f 42 2 || 256 < others.foldl (fun n p => n + p.pcshare) (f 42 2)
/-- The ranges of offsets in a partition's sync-variable window that SRAM and the overflow areas hold (R153). -/
def Part.syncRanges (p : Part) : List (Nat × Nat) :=
  let size := 2 ^ 22 + p.syncovf * 2 ^ 20
  (0, p.ndecks * (size / 2 ^ 22 * 2 ^ 22)) :: (List.range p.ndecks).map fun i => ((size / 2 ^ 22 * p.ndecks + i) * 2 ^ 22, size % 2 ^ 22)
/-- The parts of some ranges that lie in others. -/
def keepRanges (in_ rs : List (Nat × Nat)) : List (Nat × Nat) :=
  in_.flatMap fun w => rs.filterMap fun r =>
    let lo := max w.1 r.1
    let hi := min (w.1 + w.2) (r.1 + r.2)
    if lo < hi then some (lo, hi - lo) else none
/-- The block takes effect; what the host installed by other commands stays. Every sync variable keeps its value, and one that enters the
window with an SRAM finds it washed (R376, R394). -/
def Part.define (p : Part) (b : List Byte) : Part :=
  let f := fieldOf b
  let keys := f 12 8
  let q : Part := { p with
    defined := true, decks := f 0 4, roles := p.rolesAfter b, regs := f 8 4, keys := BitVec.ofNat 64 keys,
    asidtab := BitVec.ofNat 64 (f 20 8), qtab := BitVec.ofNat 64 (f 28 8), sbarea := BitVec.ofNat 32 (f 36 4),
    syncovf := f 40 2, pcshare := f 42 2, fdeleg := f 44 2 % 2 ^ 14, migok := (f 46 1).testBit 0,
    migpool := BitVec.ofNat 64 (f 64 8), spill := BitVec.ofNat 64 (f 72 8), block := b, taken := [],
    loaded := p.loaded.filter fun k => keys.testBit k.1 }
  let washed := p.syncRanges.foldl (fun rs r => cutRange r.1 r.2 rs) [(0, q.ndecks * 2 ^ 22)]
  { q with sync := p.sync.filter fun c => syncIn q c.1 && !inRanges washed c.1,
           zeroed := keepRanges q.syncRanges p.zeroed ++ washed }
/-- The storage of a core that leaves a partition: nothing of the owner stays (R394); clocks, heat and measured times do. -/
def Core.wash (k : Core) : Core :=
  { Core.reset with known := [(0, 0x121000)], clk := k.clk, opps := k.opps, allow := k.allow, qfloor := k.qfloor, tsave := k.tsave, trest := k.trest }
/-- What the frames of some decks hold stays enciphered under keys that no new owner has (R393, R394); of lines that go with any key
nothing is known. -/
def State.veil (s : State) (decks : List Nat) : State :=
  let open_ (a : Nat) : Bool := (match frameSite (a / 4096 * 4096) with
    | some d => decks.contains d
    | none => false) && match s.lineOf (a / 64) with
      | some l => l.key.isNone
      | none => true
  { s with mem := s.mem.filter fun c => !open_ c.1, marks := s.marks.filter fun m => !open_ m.addr,
           lines := s.lines.filter fun l => !open_ (l.line * 64) }
@[inherit_doc Core.wash] def State.washDecks (s : State) (decks : List Nat) : State :=
  { s.veil decks with cores := vmapIdx (fun i k => if decks.contains (deckOf i) then k.wash else k) s.cores }
/-- Decks that leave a partition under a new block. -/
def Part.leaving (p : Part) (b : List Byte) : List Nat := p.deckList.filter fun d => !(fieldOf b 0 4).testBit d

/-- A company holds a core of some decks. -/
def Company.onDecks (c : Company) (decks : List Nat) : Bool := c.onCore && decks.contains (deckOf c.core)
/-- Step 1 of R376: resident companies are pre-empted, but for one with a debug-halted thread, which the command waits for. -/
def State.quiesce (s : State) : State :=
  let q := s.quiescing
  (s.companies.filter fun c => c.onDecks q && c.state == .resident &&
    !(s.threads.any fun t => t.cid == c.cid && t.halt.isSome)).foldl State.preempt s
/-- No company, ladder or pool holds the decks any more. -/
def State.quiet (s : State) (decks : List Nat) : Bool :=
  !(s.companies.any fun c => c.onDecks decks) && !(s.ladders.any fun l => decks.contains l.deck) &&
    !(s.pools.any fun p => decks.contains p.deck)
/-- The cycle of the first quiescing deck at which a command began. -/
def State.stamp (s : State) : State :=
  match s.quiescing with
  | d :: _ => { s with window := { s.window with since := (s.deck d).clk } }
  | [] => s
/-- Steps 4 and 5 of R376 with the new block. -/
def State.installPart (s : State) (part : Nat) (b : List Byte) : State :=
  let gone := (s.part part).leaving b
  let s := ((s.updPart part fun p => p.define b).washDecks gone).invalidate
    { part := part, global := true, all := true, asid := 0, va := 0 }
  s.endCommand 1
/-- Frames of pages still to be marked that lie on decks which leave under a new block. -/
def State.framesLeft (s : State) (part : Nat) (b : List Byte) : List Nat :=
  let p := s.part part
  let gone := if p.defined then p.leaving b else []
  if gone.isEmpty then [] else (s.framesIn part gone).filter fun f => !(p.moving.any fun m => m.1 == f)
/-- Frames that MIGPOOL and SPILL have for them. -/
def State.frameRoom (s : State) (part : Nat) (b : List Byte) : Nat :=
  let p := s.part part
  (s.poolFrames p (p.leaving b)).length + (s.spillFrames p).length
/-- PARTITION (R375, R376): the block is checked, the decks that change are quiesced, pages leave the decks that leave, and
the block takes effect whole. Before the first page is marked the frames are counted once more; from then on the command runs to its end.
[DESIGN CHOICE, log 127] -/
def State.partitionGo (part : Nat) (first : Bool) (s : State) : State :=
  let b := s.window.block
  let p := s.part part
  let gone := if p.defined then p.leaving b else []
  let fs := s.framesLeft part b
  let room := s.frameRoom part b
  if first && s.partitionRefused part b then s.endCommand 2
  else if first && room < fs.length then s.endCommand 3
  else
    let s := (if first then s.stamp else s).quiesce
    if !s.quiet s.quiescing then s
    else if !s.window.begun && room < fs.length then s.endCommand 3
    else if !fs.isEmpty then
      ({ s with window := { s.window with begun := true } } : State).markFrames part (fun s => s.newFrame (s.part part) gone) fs
    else
      let s := if gone.isEmpty then s else s.moveFrames part
      if !gone.isEmpty && !(s.part part).moving.isEmpty then s else s.installPart part b
/-- PARTITION. -/
def execPartition (part : Nat) (arg : DWord) (s : State) : Out := .next (s.hostCommand 1 80 part arg (State.partitionGo part))

/-- The role mask that a ROLE argument makes, bit 6p + d (R374). -/
def Part.newRoles (p : Part) (x : Nat) : Nat :=
  (p.deckList.mapIdx fun i d => if x.testBit i then 2 ^ d else 0).foldl (· + ·) 0
/-- ROLE (R374, R376). [DEDUCED, log 77] -/
def State.roleGo (part : Nat) (first : Bool) (s : State) : State :=
  let p := s.part part
  let roles := p.newRoles (fieldOf s.window.block 0 4)
  if first && !p.defined then s.endCommand 3
  else if first && !s.rolesOk part p.decks roles then s.endCommand 2
  else
    let s := (if first then s.stamp else s).quiesce
    if !s.quiet s.quiescing then s
    else
      let s := s.updPart part fun p => { p with roles := roles }
      (s.invalidate { part := part, global := true, all := true, asid := 0, va := 0 }).endCommand 1
/-- ROLE. -/
def execRole (part : Nat) (arg : DWord) (s : State) : Out := .next (s.hostCommand 2 4 part arg (State.roleGo part))

/-- ROLE_CHANGE_TIMEOUT (R376): at cycle `now` of the deck a precondition has failed for 2^24 cycles: CONFLICT. Nothing has been changed:
no page is marked before the preconditions are met. -/
def execRoleChangeTimeout (now : Nat) (s : State) : Out :=
  .next (match s.quiescing with
  | [] => s
  | d :: _ =>
    if s.window.since + 2 ^ 24 ≤ now && (s.deck d).reaches now && !s.window.begun && !s.quiet s.quiescing then
      (s.updDeck d fun k => { k with clk := now }).endCommand 3
    else s)

/-! ### Schedules, fabric tables, keys (R158, R389, R393) -/

/-- A range of a schedule image (R158). -/
def evRange (b : List Byte) : EvRange :=
  let x := fieldOf b 8 8
  { start := BitVec.ofNat 64 (fieldOf b 0 8), pages := x % 2 ^ 32, first := x / 2 ^ 32 % 2 ^ 8, last := x / 2 ^ 40 % 2 ^ 8,
    cls := x / 2 ^ 48 % 4, asid := x / 2 ^ 50 % 2 ^ 12 }
/-- A range keeps the limits of R158. -/
def evRangeOk (b : List Byte) : Bool := fieldOf b 0 8 % 4096 == 0 && fieldOf b 8 4 != 0 && fieldOf b 8 8 / 2 ^ 62 == 0
/-- An image as phase count and ranges; none where it breaks a limit (R158). -/
def evImage (get : Nat → Nat → List Byte) : Option (Nat × List EvRange) :=
  let h := natOf (get 0 8)
  let n := h % 2 ^ 13
  let ps := h / 2 ^ 16 % 2 ^ 8
  let rs := (List.range n).map fun i => get (8 + 16 * i) 16
  if 1 ≤ n && n ≤ 4096 && 1 ≤ ps && h == n + ps * 2 ^ 16 && rs.all evRangeOk then some (ps, rs.map evRange) else none
/-- SCHED (R158): installation sets the phase to 0; a refused image changes nothing. -/
def State.schedGo (part : Nat) (s : State) : State :=
  match evImage fun o n => s.physBytes (Config.hostBase + s.window.arg.toNat + o) n with
  | some x => (s.updPart part fun p => { p with sched := some x, phase := 0 }).endCommand 1
  | none => s.endCommand 2
/-- SCHED. -/
def execSched (part : Nat) (arg : DWord) (s : State) : Out := .next (s.hostCommand 3 8 part arg fun _ s => s.schedGo part)

/-- A RED region as FABRIC gives it; one that stands unchanged keeps its open epoch. -/
def Part.region (p : Part) (x : Nat × Nat × Nat × Nat) : RedRegion :=
  let r : RedRegion := { base := x.1, len := x.2.1, group := x.2.2.1, landing := x.2.2.2, entered := [] }
  match p.reds.find? fun y => ({ y with entered := [] } : RedRegion) == r with
  | some y => y
  | none => r
/-- FABRIC (R389): up to 64 groups and 16 RED regions. -/
def State.fabricGo (part : Nat) (s : State) : State :=
  let a := Config.hostBase + s.window.arg.toNat
  let gs := Config.groupTable s.byteAt a
  let rs := Config.redTable s.byteAt a
  if 64 < gs.length || 16 < rs.length then s.endCommand 2
  else (s.updPart part fun p =>
    { p with groups := gs.map fun g => ⟨g.1, g.2⟩, reds := rs.map p.region }).endCommand 1
/-- FABRIC. -/
def execFabric (part : Nat) (arg : DWord) (s : State) : Out := .next (s.hostCommand 4 0 part arg fun _ s => s.fabricGo part)

/-- KEY (R393): key material for an identifier of the partition. -/
def State.keyGo (part : Nat) (s : State) : State :=
  let id := fieldOf s.window.block 0 1
  if (s.part part).keys.toNat.testBit id then
    let mat := (s.window.block.drop 8).take 64
    (s.updPart part fun p => { p with loaded := (id, mat) :: p.loaded.filter fun k => k.1 != id }).endCommand 1
  else s.endCommand 2
/-- KEY. -/
def execKey (part : Nat) (arg : DWord) (s : State) : Out := .next (s.hostCommand 5 72 part arg fun _ s => s.keyGo part)
/-- UNKNOWN_COMMAND (R374): REFUSED. -/
def execUnknownCommand (op : Word) (part : Nat) (arg : DWord) (s : State) : Out :=
  .next (if 1 ≤ op.toNat && op.toNat ≤ 8 then s else s.hostCommand op.toNat 0 part arg fun _ s => s.endCommand 2)

/-! ### Debug-halted threads go on (R212, R319) -/

/-- Cycles for which a thread has been halted. -/
def State.haltedFor (s : State) (t : Thread) : Nat :=
  match t.halt with
  | some (_, since) => s.clkOf t.cid - since
  | none => 0
/-- A time-out count that began at `start` leaves out `n` cycles. -/
def pauseStart (clk start n : Nat) : Nat := start + min n (clk - start)
/-- Time-out counts leave out the halts up to now: a thread's own, and those of its barrier's instance. -/
def State.bookPause (s : State) : State :=
  let halted := s.threads.filter fun t => t.halt.isSome
  let most (k : BarKey) : Nat := halted.foldl (fun n t => if s.barMember k t then max n (s.haltedFor t) else n) 0
  let one (t : Thread) : Thread :=
    let clk := s.clkOf t.cid
    let own := s.haltedFor t
    let w : Wait := match t.wait with
      | .bar k n c start l => .bar k n c (pauseStart clk start (most k)) l
      | .mwait d src grp start tmo => .mwait d src grp (pauseStart clk start own) tmo
      | w => w
    { t with wait := w, waita := t.waita.map fun x => { x with start := pauseStart clk x.start own },
             halt := t.halt.map fun h => (h.1, clk) }
  { s with threads := s.threads.map one }
/-- One halted thread goes on: as if by `rte` where it trapped, where it stood where it was frozen. -/
def State.unhalt (s : State) (t : Thread) : State :=
  match t.halt with
  | some (.trapped, _) => s.trapReturn t.cid t.tid
  | _ => s.updThread t.cid t.tid fun u => { u with halt := none }
/-- An arrival that was due while the thread was halted is made now (R210, R319). -/
def State.lateArrival (s : State) (t : Thread) : State :=
  match s.thread? t.cid t.tid with
  | none => s
  | some t => match t.wait with
    | .bar k .arrive c _ _ | .bar k .sync c _ _ =>
      if t.barState k == some true then
        ((s.barEnter k [t]).barArrive k t.cid t.tid c).barTest k (s.threads.length + 1)
      else s
    | _ => s
/-- The halted threads of a core go on together. -/
def State.resumeHalted (s : State) (core : Nat) : State :=
  let s := s.bookPause
  let ts := s.threads.filter fun t => t.halt.isSome && s.companies.any fun c => c.cid == t.cid && c.core == core && c.onCore
  let s := ts.foldl State.unhalt s
  let back (u : Thread) : Bool := u.wait == .none && !u.exited && ts.any fun t => t.cid == u.cid && t.tid == u.tid
  let s := s.release back id
  let s := ts.foldl State.lateArrival s
  (ts.map fun t => (t.cid, t.trp)).eraseDups.foldl (fun s x => s.holdTest x.1 x.2) s
/-- The record of a thread that would return lies on a migrating page (R151). [DEDUCED, log 84] -/
def State.haltStalls (s : State) (core : Nat) : Bool :=
  s.threads.any fun t => (match t.halt with | some (.trapped, _) => true | _ => false) &&
    (s.companies.any fun c => c.cid == t.cid && c.core == core && c.onCore) && !t.frames.isEmpty &&
    s.accessStalls (s.whoIs t true) .load (s.recordAddr t) 32
/-- RESUME (R319, R374): the core whose identifier the argument block holds. -/
def State.resumeGo (part : Nat) (s : State) : State :=
  let core := fieldOf s.window.block 0 4
  if core < 384 && (s.part part).decks.testBit (deckOf core) then
    if s.haltStalls core then s else (s.resumeHalted core).endCommand 1
  else s.endCommand 2
/-- RESUME. -/
def execResume (part : Nat) (arg : DWord) (s : State) : Out :=
  .next (s.hostCommand 6 4 part arg fun _ s => s.resumeGo part)

/-! ### Attestation (R392) -/

/-- Round constants and initial values of SHA-256. -/
def shaK : List Word :=
  [0x428A2F98, 0x71374491, 0xB5C0FBCF, 0xE9B5DBA5, 0x3956C25B, 0x59F111F1, 0x923F82A4, 0xAB1C5ED5] ++
  [0xD807AA98, 0x12835B01, 0x243185BE, 0x550C7DC3, 0x72BE5D74, 0x80DEB1FE, 0x9BDC06A7, 0xC19BF174] ++
  [0xE49B69C1, 0xEFBE4786, 0x0FC19DC6, 0x240CA1CC, 0x2DE92C6F, 0x4A7484AA, 0x5CB0A9DC, 0x76F988DA] ++
  [0x983E5152, 0xA831C66D, 0xB00327C8, 0xBF597FC7, 0xC6E00BF3, 0xD5A79147, 0x06CA6351, 0x14292967] ++
  [0x27B70A85, 0x2E1B2138, 0x4D2C6DFC, 0x53380D13, 0x650A7354, 0x766A0ABB, 0x81C2C92E, 0x92722C85] ++
  [0xA2BFE8A1, 0xA81A664B, 0xC24B8B70, 0xC76C51A3, 0xD192E819, 0xD6990624, 0xF40E3585, 0x106AA070] ++
  [0x19A4C116, 0x1E376C08, 0x2748774C, 0x34B0BCB5, 0x391C0CB3, 0x4ED8AA4A, 0x5B9CCA4F, 0x682E6FF3] ++
  [0x748F82EE, 0x78A5636F, 0x84C87814, 0x8CC70208, 0x90BEFFFA, 0xA4506CEB, 0xBEF9A3F7, 0xC67178F2]
@[inherit_doc shaK] def shaH : List Word := [0x6A09E667, 0xBB67AE85, 0x3C6EF372, 0xA54FF53A, 0x510E527F, 0x9B05688C, 0x1F83D9AB, 0x5BE0CD19]
/-- The padded message as words of 32 bits, most significant byte first. -/
def shaWords : List Byte → List Word
  | a :: b :: c :: d :: r => (a ++ b ++ c ++ d) :: shaWords r
  | _ => []
@[inherit_doc shaWords] def shaPad (m : List Byte) : List Byte :=
  m ++ [0x80] ++ List.replicate ((119 - m.length % 64) % 64) 0 ++ (bytesOf 8 (8 * m.length)).reverse
/-- The message schedule, latest word first. -/
def shaSchedule : Nat → List Word → List Word
  | 0, w => w
  | n + 1, w =>
    let x := w.getD 1 0
    let y := w.getD 14 0
    let s1 := x.rotateRight 17 ^^^ x.rotateRight 19 ^^^ (x >>> 10)
    let s0 := y.rotateRight 7 ^^^ y.rotateRight 18 ^^^ (y >>> 3)
    shaSchedule n ((s1 + w.getD 6 0 + s0 + w.getD 15 0) :: w)
/-- The eight working words. -/
structure ShaRegs where
  a : Word
  b : Word
  c : Word
  d : Word
  e : Word
  f : Word
  g : Word
  h : Word
  deriving DecidableEq, Repr
/-- One round with a constant and a schedule word. -/
def ShaRegs.round (r : ShaRegs) (kw : Word × Word) : ShaRegs :=
  let s1 := r.e.rotateRight 6 ^^^ r.e.rotateRight 11 ^^^ r.e.rotateRight 25
  let t1 := r.h + s1 + ((r.e &&& r.f) ^^^ (~~~r.e &&& r.g)) + kw.1 + kw.2
  let s0 := r.a.rotateRight 2 ^^^ r.a.rotateRight 13 ^^^ r.a.rotateRight 22
  let t2 := s0 + ((r.a &&& r.b) ^^^ (r.a &&& r.c) ^^^ (r.b &&& r.c))
  ⟨t1 + t2, r.a, r.b, r.c, r.d + t1, r.e, r.f, r.g⟩
/-- The compression of one block. -/
def ShaRegs.block (r : ShaRegs) (w : List Word) : ShaRegs :=
  let x := (shaK.zip (shaSchedule 48 w.reverse).reverse).foldl ShaRegs.round r
  ⟨r.a + x.a, r.b + x.b, r.c + x.c, r.d + x.d, r.e + x.e, r.f + x.f, r.g + x.g, r.h + x.h⟩
/-- The blocks of a message. -/
def shaBlocks : Nat → ShaRegs → List Word → ShaRegs
  | 0, r, _ => r
  | n + 1, r, w => if w.length < 16 then r else shaBlocks n (r.block (w.take 16)) (w.drop 16)
/-- SHA-256 of a byte string. -/
def sha256 (m : List Byte) : List Byte :=
  let w := shaWords (shaPad m)
  let i (n : Nat) : Word := shaH.getD n 0
  let r := shaBlocks (w.length / 16) ⟨i 0, i 1, i 2, i 3, i 4, i 5, i 6, i 7⟩ w
  [r.a, r.b, r.c, r.d, r.e, r.f, r.g, r.h].flatMap fun x => (bytesOf 4 x.toNat).reverse

/-- Deck roles of the module, bit 6p + d (R392). -/
def State.roleMask (s : State) : Nat :=
  ((List.range 24).filter fun d => s.parts.toList.any fun p => p.defined && p.computes d).foldl (fun n d => n + 2 ^ d) 0
/-- The report (R392); what only the root of trust can form is free, the same for the whole boot, and the signature is one of the report.
[DESIGN CHOICE, log 79] -/
def State.report (s : State) (part : Nat) (nonce : List Byte) : List Byte :=
  let fixed (i n : Nat) : List Byte := (List.range n).map fun k => Config.attestByte (i + k)
  let body := nonce ++ fixed 32 64 ++ sha256 (s.part part).block ++ bytesOf 4 s.roleMask ++ fixed 132 64
  body ++ (List.range 64).map (Config.signByte body)
/-- ATTEST (R374, R392): the nonce, then the report's address. -/
def State.attestGo (part : Nat) (s : State) : State :=
  let to_ := fieldOf s.window.block 32 8
  if Config.hostSize < to_ + 260 then s.endCommand 2
  else
    let s := s.perform ((List.range 260).map fun i => .phys (Config.hostBase + to_ + i)) (s.report part (s.window.block.take 32))
    s.endCommand 1
/-- ATTEST. -/
def execAttest (part : Nat) (arg : DWord) (s : State) : Out :=
  .next (s.hostCommand 7 40 part arg fun _ s => s.attestGo part)

/-! ### Heat and power (R378 to R382, R385, R387) -/

/-- The penalty of a temperature (R381). -/
def penalty (t : Nat) : Nat := 32 * (t - 80)
/-- ALLOW of the cores of deck site `d` of a pier (R381). -/
def State.allowOf (s : State) (pier d : Nat) : Nat :=
  let worst := ((List.range 6).drop d).foldl (fun m e => max m (penalty (s.deck (6 * pier + e)).temp >>> (e - d))) 0
  max 16 (256 - worst)
/-- The cores of a pier receive their allowances. -/
def State.setAllow (s : State) (pier : Nat) : State :=
  let f (i : Nat) (k : Core) : Core := if pierOf i == pier then { k with allow := s.allowOf pier (deckOf i % 6) } else k
  { s with cores := vmapIdx f s.cores }
/-- The next sample of a deck: T, and the refresh rate, which doubles at the sample after one above 85 °C (R380, R382). -/
def Deck.sampled (k : Deck) (reading : Nat) : Deck :=
  let t := k.ovr.getD reading
  { k with clk := (k.clk / 65536 + 1) * 65536, temp := t, double := !(t ≤ 82) && (85 < k.temp || k.double) }
/-- THERMAL_SAMPLE (R380 to R382, R385): `reading` is the largest sensor reading of the deck in whole °C. [DEDUCED, log 80] -/
def execThermalSample (deck : Nat) (reading : Nat) (s : State) : Out :=
  .next (if 24 ≤ deck then s else
    let s := (s.updDeck deck fun k => k.sampled (min reading 255)).setAllow (deck / 6)
    (List.range 16).foldl (fun s i => s.sample (16 * deck + i) 3 (s.deck deck).temp) s)

/-- The regulator that feeds each deck of a partition: its regulators round-robin by enumeration (R378). -/
def Part.feeds (p : Part) (reg : Nat) : List Nat :=
  let regs := (List.range 4).filter fun r => p.regs.testBit r
  (p.deckList.mapIdx fun i d => (i, d)).filterMap fun x => if regs[x.1 % regs.length]? == some reg then some x.2 else none
/-- The limiter at one core (R379). -/
def Core.limit (k : Core) (current limit : Nat) : Core :=
  if !k.auto then k
  else if limit < current then { k with eff := max (k.eff - 1) 4 }
  else if current * 10 < limit * 9 then { k with eff := min (k.eff + 1) k.cap }
  else k
/-- REGULATOR_SAMPLE (R379, R387): the current of a regulator and its limit, in units of 0.25 A. -/
def execRegulatorSample (reg : Nat) (current limit : Nat) (s : State) : Out :=
  .next (if 4 ≤ reg then s else
    let decks := s.parts.toList.flatMap fun p => if p.defined then p.feeds reg else []
    let f (i : Nat) (k : Core) : Core := if decks.contains (deckOf i) then k.limit current limit else k
    let s : State := { s with
      regulators := s.regulators.setIfInBounds reg { current := current, limit := limit }, cores := vmapIdx f s.cores }
    (decks.flatMap fun d => (List.range 16).map fun i => 16 * d + i).foldl (fun s c => s.sample c 4 current) s)

/-! ### Bring-up, the mailbox, the link and the ports (R172, R388 to R390) -/

/-- POWER_ON (R390): the outcome of self-test. A cause, or a failed GDDR device, berths the module; failing decks are fenced. -/
def execPowerOn (fenced gddr : Nat) (ports : Nat) (cause : Nat) (s : State) : Out :=
  .next (if s.status.getD 0 0 != 0 then s else
    let why := if cause == 0 && gddr % 2 ^ 32 != 0 then 2 else min cause 5
    let word : Nat := ports % 256 + why * 2 ^ 24
    let f (i : Nat) (k : Deck) : Deck := { k with fenced := fenced.testBit i }
    { s with
      decks := vmapIdx f s.decks,
      status := ⟨#[if why == 0 then 1 else 2, BitVec.ofNat 32 (fenced % 2 ^ 24), BitVec.ofNat 32 gddr, BitVec.ofNat 32 word], rfl⟩ })
/-- DIAGNOSTIC_MAILBOX_REQUEST (R390): the mailbox holds the next 256 bytes of the self-test log. -/
def execDiagnosticMailboxRequest (_word : Word) (s : State) : Out := .next { s with diag := s.diag + 1 }
/-- Byte `i` of the diagnostic mailbox. -/
def State.diagByte (s : State) (i : Nat) : Byte := Config.diagByte s.diag i
/-- Memory that the host reaches: the module's 224 GiB once it runs, and its own (R388, R390). -/
def State.hostReaches (s : State) (addr n : Nat) : Bool :=
  (s.running && addr + n ≤ 224 * 2 ^ 30) || (Config.hostBase ≤ addr && addr + n ≤ Config.hostBase + Config.hostSize)
/-- The command window as the host reads it (R374). -/
def Window.bytes (w : Window) : List Byte :=
  bytesOf 4 w.op.toNat ++ bytesOf 4 w.part.toNat ++ bytesOf 8 w.arg.toNat ++ bytesOf 4 w.status ++ List.replicate 44 0
/-- A byte of BAR0 (R373). A module that does not run answers with its status and the mailbox alone (R390). -/
def State.bar0Byte (s : State) (off : Nat) : Byte :=
  if off < 0x10 then (bytesOf 4 (s.status.getD (off / 4) 0).toNat).getD (off % 4) 0
  else if 0x100 ≤ off && off < 0x200 then s.diagByte (off - 0x100)
  else if 0x1000 ≤ off && off < 0x1040 then s.window.bytes.getD (off - 0x1000) 0
  else 0
/-- The command in the window starts (R374). -/
def State.goCommand (s : State) : Out :=
  let part := s.window.part.toNat
  let arg := s.window.arg
  match s.window.op.toNat with
  | 1 => execPartition part arg s
  | 2 => execRole part arg s
  | 3 => execSched part arg s
  | 4 => execFabric part arg s
  | 5 => execKey part arg s
  | 6 => execResume part arg s
  | 7 => execAttest part arg s
  | 8 => execMove part arg s
  | _ => execUnknownCommand s.window.op part arg s
/-- Bytes `off` upward of a window that the host writes; STATUS and the reserved bytes take nothing, and neither does any while a command
runs. [DESIGN CHOICE, log 107] -/
def Window.put (w : Window) (off : Nat) (bs : List Byte) : Window :=
  if w.status == 0 then w else
  let b := (w.bytes.mapIdx fun i x => if off ≤ i then bs.getD (i - off) x else x)
  { w with op := BitVec.ofNat 32 (natOf (b.take 4)), part := BitVec.ofNat 32 (natOf ((b.drop 4).take 4)),
           arg := BitVec.ofNat 64 (natOf ((b.drop 8).take 8)) }
/-- A write of the host to BAR0 (R373): the mailbox's word, the window, GO, a doorbell; any other offset ignores it. -/
def State.bar0Write (s : State) (off : Nat) (bs : List Byte) : Out :=
  if off == 0x100 then execDiagnosticMailboxRequest (BitVec.ofNat 32 (natOf bs)) s
  else if 0x1000 ≤ off && off < 0x1040 then .next { s with window := s.window.put (off - 0x1000) bs }
  else if off == 0x1040 && natOf bs == 1 then s.goCommand
  else if 0x2000 ≤ off && off < 0x2800 then execDoorbell ((off - 0x2000) / 0x200) ((off - 0x2000) % 0x200 / 8) s
  else .next s
/-- HOST_ACCESS (R172, R373): a store of the host performs as a plain access, or acts on BAR0; a load, with no bytes, changes nothing.
[DESIGN CHOICE, log 20] [DESIGN CHOICE, log 107] -/
def execHostAccess (addr : Nat) (store : List Byte) (s : State) : Out :=
  if Config.bar0Base ≤ addr then (if store.isEmpty then .next s else s.bar0Write (addr - Config.bar0Base) store)
  else .next (if s.hostReaches addr store.length then s.perform ((List.range store.length).map fun i => .phys (addr + i)) store else s)
/-- PORT_FAILURE (R389): the port is down, and the commands that need it, a free choice, end with FABRIC, those that cannot yet when
they can. -/
def execPortFailure (port : Nat) (s : State) : Out :=
  .next (if 8 ≤ port then s else
    let s := { s with status := s.status.setIfInBounds 3 (s.status.getD 3 0 &&& ~~~(1#32 <<< port)) }
    let hit (c : Cmd) : Bool := (c.kind == .coll || c.kind == .rflush) && Config.usesPort c.id port
    let fail (s : State) (c : Cmd) : State := match s.fabricReady c.id with
      | some x => if x.kind == .coll then s.collDo x false else s.rflushDo x false
      | none => s
    (s.cmds.filter hit).foldl fail s)

end Sys2Proof.Machine
end

