-- ==== Sys2Proof/Machine/Dispatch.lean ====
section
/-!
DEFINITION. `exec`: one arm for each row of the opcode table, each a direct call of that row's meaning.
-/
namespace Sys2Proof.Machine

/-- What one instruction or step does (the meanings stand in the family files). -/
def exec (i : Instr) (s : State) : Host.Outcome State Fault Refusal :=
  match i with
  | .iadd h d a b => Sys2Proof.Machine.execIadd h d a b s
  | .isub h d a b => Sys2Proof.Machine.execIsub h d a b s
  | .iaddc h d a b => Sys2Proof.Machine.execIaddc h d a b s
  | .isubb h d a b => Sys2Proof.Machine.execIsubb h d a b s
  | .ineg h d a => Sys2Proof.Machine.execIneg h d a s
  | .iabs h d a => Sys2Proof.Machine.execIabs h d a s
  | .imin h d a b => Sys2Proof.Machine.execImin h d a b s
  | .imax h d a b => Sys2Proof.Machine.execImax h d a b s
  | .umin h d a b => Sys2Proof.Machine.execUmin h d a b s
  | .umax h d a b => Sys2Proof.Machine.execUmax h d a b s
  | .and h d a b => Sys2Proof.Machine.execAnd h d a b s
  | .or h d a b => Sys2Proof.Machine.execOr h d a b s
  | .xor h d a b => Sys2Proof.Machine.execXor h d a b s
  | .andn h d a b => Sys2Proof.Machine.execAndn h d a b s
  | .orn h d a b => Sys2Proof.Machine.execOrn h d a b s
  | .not h d a => Sys2Proof.Machine.execNot h d a s
  | .shl h d a b => Sys2Proof.Machine.execShl h d a b s
  | .shr h d a b => Sys2Proof.Machine.execShr h d a b s
  | .sar h d a b => Sys2Proof.Machine.execSar h d a b s
  | .rol h d a b => Sys2Proof.Machine.execRol h d a b s
  | .ror h d a b => Sys2Proof.Machine.execRor h d a b s
  | .lea h sh d a b => Sys2Proof.Machine.execLea h sh d a b s
  | .mov h d a => Sys2Proof.Machine.execMov h d a s
  | .iaddImm h d a imm => Sys2Proof.Machine.execIaddImm h d a imm s
  | .andImm h d a imm => Sys2Proof.Machine.execAndImm h d a imm s
  | .orImm h d a imm => Sys2Proof.Machine.execOrImm h d a imm s
  | .xorImm h d a imm => Sys2Proof.Machine.execXorImm h d a imm s
  | .shlImm h d a imm => Sys2Proof.Machine.execShlImm h d a imm s
  | .shrImm h d a imm => Sys2Proof.Machine.execShrImm h d a imm s
  | .sarImm h d a imm => Sys2Proof.Machine.execSarImm h d a imm s
  | .rolImm h d a imm => Sys2Proof.Machine.execRolImm h d a imm s
  | .imul h d a b => Sys2Proof.Machine.execImul h d a b s
  | .imulh h d a b => Sys2Proof.Machine.execImulh h d a b s
  | .umulh h d a b => Sys2Proof.Machine.execUmulh h d a b s
  | .imad h d a b => Sys2Proof.Machine.execImad h d a b s
  | .popc h d a => Sys2Proof.Machine.execPopc h d a s
  | .clz h d a => Sys2Proof.Machine.execClz h d a s
  | .ctz h d a => Sys2Proof.Machine.execCtz h d a s
  | .brev h d a => Sys2Proof.Machine.execBrev h d a s
  | .bfe h d a b => Sys2Proof.Machine.execBfe h d a b s
  | .ubfe h d a b => Sys2Proof.Machine.execUbfe h d a b s
  | .bfi h d a b => Sys2Proof.Machine.execBfi h d a b s
  | .bmix h d a b => Sys2Proof.Machine.execBmix h d a b s
  | .icmp h cond p a b => Sys2Proof.Machine.execIcmp h cond p a b s
  | .isel h p d a b => Sys2Proof.Machine.execIsel h p d a b s
  | .movi m d imm => Sys2Proof.Machine.execMovi m d imm s
  | .lui m d imm => Sys2Proof.Machine.execLui m d imm s
  | .fadd h rnd d a b => Sys2Proof.Machine.execFadd h rnd d a b s
  | .fsub h rnd d a b => Sys2Proof.Machine.execFsub h rnd d a b s
  | .fmul h rnd d a b => Sys2Proof.Machine.execFmul h rnd d a b s
  | .fdiv h rnd d a b => Sys2Proof.Machine.execFdiv h rnd d a b s
  | .fmin h d a b => Sys2Proof.Machine.execFmin h d a b s
  | .fmax h d a b => Sys2Proof.Machine.execFmax h d a b s
  | .fabs h d a => Sys2Proof.Machine.execFabs h d a s
  | .fneg h d a => Sys2Proof.Machine.execFneg h d a s
  | .fcmp h cond p a b => Sys2Proof.Machine.execFcmp h cond p a b s
  | .fclass h d a => Sys2Proof.Machine.execFclass h d a s
  | .ffma h rnd d a b => Sys2Proof.Machine.execFfma h rnd d a b s
  | .fsqrt h rnd d a => Sys2Proof.Machine.execFsqrt h rnd d a s
  | .dfma h rnd d a b => Sys2Proof.Machine.execDfma h rnd d a b s
  | .dsqrt h rnd d a => Sys2Proof.Machine.execDsqrt h rnd d a s
  | .fscale h d a b => Sys2Proof.Machine.execFscale h d a b s
  | .frcp h d a => Sys2Proof.Machine.execFrcp h d a s
  | .frsq h d a => Sys2Proof.Machine.execFrsq h d a s
  | .fex2 h d a => Sys2Proof.Machine.execFex2 h d a s
  | .flg2 h d a => Sys2Proof.Machine.execFlg2 h d a s
  | .fsin h d a => Sys2Proof.Machine.execFsin h d a s
  | .fcos h d a => Sys2Proof.Machine.execFcos h d a s
  | .ftanh h d a => Sys2Proof.Machine.execFtanh h d a s
  | .dadd h rnd d a b => Sys2Proof.Machine.execDadd h rnd d a b s
  | .dsub h rnd d a b => Sys2Proof.Machine.execDsub h rnd d a b s
  | .dmul h rnd d a b => Sys2Proof.Machine.execDmul h rnd d a b s
  | .ddiv h rnd d a b => Sys2Proof.Machine.execDdiv h rnd d a b s
  | .dmin h d a b => Sys2Proof.Machine.execDmin h d a b s
  | .dmax h d a b => Sys2Proof.Machine.execDmax h d a b s
  | .dabs h d a => Sys2Proof.Machine.execDabs h d a s
  | .dneg h d a => Sys2Proof.Machine.execDneg h d a s
  | .dcmp h cond p a b => Sys2Proof.Machine.execDcmp h cond p a b s
  | .hadd2 h bf d a b => Sys2Proof.Machine.execHadd2 h bf d a b s
  | .hsub2 h bf d a b => Sys2Proof.Machine.execHsub2 h bf d a b s
  | .hmul2 h bf d a b => Sys2Proof.Machine.execHmul2 h bf d a b s
  | .hfma2 h bf d a b => Sys2Proof.Machine.execHfma2 h bf d a b s
  | .hmin2 h bf d a b => Sys2Proof.Machine.execHmin2 h bf d a b s
  | .hmax2 h bf d a b => Sys2Proof.Machine.execHmax2 h bf d a b s
  | .hcmp2Eq h bf d a b => Sys2Proof.Machine.execHcmp2Eq h bf d a b s
  | .hcmp2Lt h bf d a b => Sys2Proof.Machine.execHcmp2Lt h bf d a b s
  | .hcmp2Le h bf d a b => Sys2Proof.Machine.execHcmp2Le h bf d a b s
  | .hcmp2Un h bf d a b => Sys2Proof.Machine.execHcmp2Un h bf d a b s
  | .cvt h rnd dst src d a => Sys2Proof.Machine.execCvt h rnd dst src d a s
  | .scx h d a b => Sys2Proof.Machine.execScx h d a b s
  | .q8 h fmt d a b => Sys2Proof.Machine.execQ8 h fmt d a b s
  | .q4 h fmt d a b => Sys2Proof.Machine.execQ4 h fmt d a b s
  | .dq8 h fmt d a b => Sys2Proof.Machine.execDq8 h fmt d a b s
  | .dq4 h fmt d a b => Sys2Proof.Machine.execDq4 h fmt d a b s
  | .q8Cs h fmt d a b => Sys2Proof.Machine.execQ8Cs h fmt d a b s
  | .q4Cs h fmt d a b => Sys2Proof.Machine.execQ4Cs h fmt d a b s
  | .dp4 h d a b => Sys2Proof.Machine.execDp4 h d a b s
  | .dp8 h d a b => Sys2Proof.Machine.execDp8 h d a b s
  | .fdp4E4m3 h sel d a b => Sys2Proof.Machine.execFdp4E4m3 h sel d a b s
  | .fdp4E5m2 h sel d a b => Sys2Proof.Machine.execFdp4E5m2 h sel d a b s
  | .fdp8 h sel d a b => Sys2Proof.Machine.execFdp8 h sel d a b s
  | .hdp2F16 h d a b => Sys2Proof.Machine.execHdp2F16 h d a b s
  | .hdp2Bf16 h d a b => Sys2Proof.Machine.execHdp2Bf16 h d a b s
  | .gen h d a b => Sys2Proof.Machine.execGen h d a b s
  | .gumbel h d a => Sys2Proof.Machine.execGumbel h d a s
  | .rndf h d a => Sys2Proof.Machine.execRndf h d a s
  | .bfx m stage d a => Sys2Proof.Machine.execBfx m stage d a s
  | .lget m mode d a b => Sys2Proof.Machine.execLget m mode d a b s
  | .pollCnt m d p => Sys2Proof.Machine.execPollCnt m d p s
  | .pollRank m d p => Sys2Proof.Machine.execPollRank m d p s
  | .pollMask m d p => Sys2Proof.Machine.execPollMask m d p s
  | .pollSame m p a => Sys2Proof.Machine.execPollSame m p a s
  | .redx m op d a => Sys2Proof.Machine.execRedx m op d a s
  | .scanx m op d a => Sys2Proof.Machine.execScanx m op d a s
  | .plop h op d a b => Sys2Proof.Machine.execPlop h op d a b s
  | .pmovToReg h d => Sys2Proof.Machine.execPmovToReg h d s
  | .pmovToPred h a => Sys2Proof.Machine.execPmovToPred h a s
  | .grd h p n1 => Sys2Proof.Machine.execGrd h p n1 s
  | .gets h r d => Sys2Proof.Machine.execGets h r d s
  | .sets h r a => Sys2Proof.Machine.execSets h r a s
  | .nop m => Sys2Proof.Machine.execNop m s
  | .ld h field size mode base t => Sys2Proof.Machine.execLd h field size mode base t s
  | .ldt h off t => Sys2Proof.Machine.execLdt h off t s
  | .st h field size mode base t => Sys2Proof.Machine.execSt h field size mode base t s
  | .ldp h field k mode base t => Sys2Proof.Machine.execLdp h field k mode base t s
  | .stp h field k mode base t => Sys2Proof.Machine.execStp h field k mode base t s
  | .ldacq h scope size base t => Sys2Proof.Machine.execLdacq h scope size base t s
  | .strel h scope size base t => Sys2Proof.Machine.execStrel h scope size base t s
  | .cctlWb h base => Sys2Proof.Machine.execCctlWb h base s
  | .cctlWbinv h base => Sys2Proof.Machine.execCctlWbinv h base s
  | .cctlPf1 h base => Sys2Proof.Machine.execCctlPf1 h base s
  | .cctlPf2 h base => Sys2Proof.Machine.execCctlPf2 h base s
  | .cctlZero h base => Sys2Proof.Machine.execCctlZero h base s
  | .cctlIinv h scope base => Sys2Proof.Machine.execCctlIinv h scope base s
  | .fence m scope acq rel uo => Sys2Proof.Machine.execFence m scope acq rel uo s
  | .aliasf m scope => Sys2Proof.Machine.execAliasf m scope s
  | .evs m a => Sys2Proof.Machine.execEvs m a s
  | .atom h op size base t => Sys2Proof.Machine.execAtom h op size base t s
  | .red h op size base t => Sys2Proof.Machine.execRed h op size base t s
  | .sadd h d a b => Sys2Proof.Machine.execSadd h d a b s
  | .sbadd h d a b => Sys2Proof.Machine.execSbadd h d a b s
  | .sincw h d a b => Sys2Proof.Machine.execSincw h d a b s
  | .scas h d a b => Sys2Proof.Machine.execScas h d a b s
  | .sexch h d a b => Sys2Proof.Machine.execSexch h d a b s
  | .smin h d a b => Sys2Proof.Machine.execSmin h d a b s
  | .smax h d a b => Sys2Proof.Machine.execSmax h d a b s
  | .waita h d a b => Sys2Proof.Machine.execWaita h d a b s
  | .mon h a => Sys2Proof.Machine.execMon h a s
  | .mwait h d b => Sys2Proof.Machine.execMwait h d b s
  | .mbput h a b => Sys2Proof.Machine.execMbput h a b s
  | .mbget h d a => Sys2Proof.Machine.execMbget h d a s
  | .pladd h k d a b => Sys2Proof.Machine.execPladd h k d a b s
  | .mma m ow ty b a n => Sys2Proof.Machine.execMma m ow ty b a n s
  | .mmae m ow ty b a n => Sys2Proof.Machine.execMmae m ow ty b a n s
  | .mloop m off n => Sys2Proof.Machine.execMloop m off n s
  | .mzero m n => Sys2Proof.Machine.execMzero m n s
  | .mload m b a n => Sys2Proof.Machine.execMload m b a n s
  | .mdrain m b a n => Sys2Proof.Machine.execMdrain m b a n s
  | .mstat m n d => Sys2Proof.Machine.execMstat m n d s
  | .dexp m d a => Sys2Proof.Machine.execDexp m d a s
  | .dsplit m d a b => Sys2Proof.Machine.execDsplit m d a b s
  | .dmerge m b x n => Sys2Proof.Machine.execDmerge m b x n s
  | .tcopy h d a b => Sys2Proof.Machine.execTcopy h d a b s
  | .tcopy2 h d a b => Sys2Proof.Machine.execTcopy2 h d a b s
  | .tgath h d a b => Sys2Proof.Machine.execTgath h d a b s
  | .tscat h d a b => Sys2Proof.Machine.execTscat h d a b s
  | .tfill h d a b => Sys2Proof.Machine.execTfill h d a b s
  | .tnote h d a b => Sys2Proof.Machine.execTnote h d a b s
  | .twait h d a => Sys2Proof.Machine.execTwait h d a s
  | .tcoll h d a b => Sys2Proof.Machine.execTcoll h d a b s
  | .rflush h d a b => Sys2Proof.Machine.execRflush h d a b s
  | .bra m off g => Sys2Proof.Machine.execBra m off g s
  | .call m off g => Sys2Proof.Machine.execCall m off g s
  | .btab m a => Sys2Proof.Machine.execBtab m a s
  | .ret m a => Sys2Proof.Machine.execRet m a s
  | .exit m => Sys2Proof.Machine.execExit m s
  | .join m k a => Sys2Proof.Machine.execJoin m k a s
  | .leave m k => Sys2Proof.Machine.execLeave m k s
  | .waitk m k => Sys2Proof.Machine.execWaitk m k s
  | .ksave m e k a => Sys2Proof.Machine.execKsave m e k a s
  | .kload m e k a => Sys2Proof.Machine.execKload m e k a s
  | .barArrive m c l a n => Sys2Proof.Machine.execBarArrive m c l a n s
  | .barWait m c l a n => Sys2Proof.Machine.execBarWait m c l a n s
  | .barSync m c l a n => Sys2Proof.Machine.execBarSync m c l a n s
  | .sysr h r d => Sys2Proof.Machine.execSysr h r d s
  | .sysw h r a => Sys2Proof.Machine.execSysw h r a s
  | .trap m code => Sys2Proof.Machine.execTrap m code s
  | .brk m code => Sys2Proof.Machine.execBrk m code s
  | .rte m => Sys2Proof.Machine.execRte m s
  | .yield m => Sys2Proof.Machine.execYield m s
  | .prog h a => Sys2Proof.Machine.execProg h a s
  | .launch h d a => Sys2Proof.Machine.execLaunch h d a s
  | .tlbinv m d a => Sys2Proof.Machine.execTlbinv m d a s
  | .rxbegin m off d => Sys2Proof.Machine.execRxbegin m off d s
  | .rxprev m d => Sys2Proof.Machine.execRxprev m d s
  | .rxput m a b => Sys2Proof.Machine.execRxput m a b s
  | .rxend m => Sys2Proof.Machine.execRxend m s
  | .rxstat m d => Sys2Proof.Machine.execRxstat m d s
  | .lpost h off d => Sys2Proof.Machine.execLpost h off d s
  | .esc m a => Sys2Proof.Machine.execEsc m a s
  | .lres m a => Sys2Proof.Machine.execLres m a s
  | .lstat h d a => Sys2Proof.Machine.execLstat h d a s
  | .gmload h d a => Sys2Proof.Machine.execGmload h d a s
  | .gmstep h d a => Sys2Proof.Machine.execGmstep h d a s
  | .gmmask h d a b => Sys2Proof.Machine.execGmmask h d a b s
  | .gmforce h d a => Sys2Proof.Machine.execGmforce h d a s
  | .snap h d a => Sys2Proof.Machine.execSnap h d a s
  | .snapsel h d a => Sys2Proof.Machine.execSnapsel h d a s
  | .snapfree h d a => Sys2Proof.Machine.execSnapfree h d a s
  | .acall h d a b => Sys2Proof.Machine.execAcall h d a b s
  | .poolGuard len => Sys2Proof.Machine.execPoolGuard len s
  | .iadd16 m d b => Sys2Proof.Machine.execIadd16 m d b s
  | .isub16 m d b => Sys2Proof.Machine.execIsub16 m d b s
  | .and16 m d b => Sys2Proof.Machine.execAnd16 m d b s
  | .or16 m d b => Sys2Proof.Machine.execOr16 m d b s
  | .xor16 m d b => Sys2Proof.Machine.execXor16 m d b s
  | .shl16 m d b => Sys2Proof.Machine.execShl16 m d b s
  | .shr16 m d b => Sys2Proof.Machine.execShr16 m d b s
  | .mov16 m d b => Sys2Proof.Machine.execMov16 m d b s
  | .movi16 m d imm => Sys2Proof.Machine.execMovi16 m d imm s
  | .imul16 m d b => Sys2Proof.Machine.execImul16 m d b s
  | .fadd16 m d b => Sys2Proof.Machine.execFadd16 m d b s
  | .fmul16 m d b => Sys2Proof.Machine.execFmul16 m d b s
  | .ffma16 m d b => Sys2Proof.Machine.execFfma16 m d b s
  | .fmin16 m d b => Sys2Proof.Machine.execFmin16 m d b s
  | .fmax16 m d b => Sys2Proof.Machine.execFmax16 m d b s
  | .isel16 m d b => Sys2Proof.Machine.execIsel16 m d b s
  | .issueOpportunity core pipe cycles => Sys2Proof.Machine.execIssueOpportunity core pipe cycles s
  | .hostAccess addr store => Sys2Proof.Machine.execHostAccess addr store s
  | .doorbell part q => Sys2Proof.Machine.execDoorbell part q s
  | .powerOn fenced gddr ports cause => Sys2Proof.Machine.execPowerOn fenced gddr ports cause s
  | .partition part arg => Sys2Proof.Machine.execPartition part arg s
  | .role part arg => Sys2Proof.Machine.execRole part arg s
  | .sched part arg => Sys2Proof.Machine.execSched part arg s
  | .fabric part arg => Sys2Proof.Machine.execFabric part arg s
  | .key part arg => Sys2Proof.Machine.execKey part arg s
  | .resume part arg => Sys2Proof.Machine.execResume part arg s
  | .attest part arg => Sys2Proof.Machine.execAttest part arg s
  | .move part arg => Sys2Proof.Machine.execMove part arg s
  | .unknownCommand op part arg => Sys2Proof.Machine.execUnknownCommand op part arg s
  | .diagnosticMailboxRequest word => Sys2Proof.Machine.execDiagnosticMailboxRequest word s
  | .portFailure port => Sys2Proof.Machine.execPortFailure port s
  | .thermalSample deck reading => Sys2Proof.Machine.execThermalSample deck reading s
  | .regulatorSample reg current limit => Sys2Proof.Machine.execRegulatorSample reg current limit s
  | .pageMigrate part asid va => Sys2Proof.Machine.execPageMigrate part asid va s
  | .yieldExpiry core => Sys2Proof.Machine.execYieldExpiry core s
  | .loadDataArrive id err => Sys2Proof.Machine.execLoadDataArrive id err s
  | .kloadDataArrive id err => Sys2Proof.Machine.execKloadDataArrive id err s
  | .storePerform id => Sys2Proof.Machine.execStorePerform id s
  | .atomResultReturn id err => Sys2Proof.Machine.execAtomResultReturn id err s
  | .redDataerrDeferred id => Sys2Proof.Machine.execRedDataerrDeferred id s
  | .syncReply id err => Sys2Proof.Machine.execSyncReply id err s
  | .acallReply id => Sys2Proof.Machine.execAcallReply id s
  | .contributionEnter id => Sys2Proof.Machine.execContributionEnter id s
  | .waitaWake cid tid => Sys2Proof.Machine.execWaitaWake cid tid s
  | .waitaTimeout cid tid now => Sys2Proof.Machine.execWaitaTimeout cid tid now s
  | .mwaitWake cid tid => Sys2Proof.Machine.execMwaitWake cid tid s
  | .mwaitTimeout cid tid now => Sys2Proof.Machine.execMwaitTimeout cid tid now s
  | .mbputServe id => Sys2Proof.Machine.execMbputServe id s
  | .mbgetServe id => Sys2Proof.Machine.execMbgetServe id s
  | .tenderUnit id err => Sys2Proof.Machine.execTenderUnit id err s
  | .tenderComplete id => Sys2Proof.Machine.execTenderComplete id s
  | .tcollComplete id agree => Sys2Proof.Machine.execTcollComplete id agree s
  | .rflushEpochComplete id agree => Sys2Proof.Machine.execRflushEpochComplete id agree s
  | .matrixStep cid trp err => Sys2Proof.Machine.execMatrixStep cid trp err s
  | .mloadDataArrive cid trp err => Sys2Proof.Machine.execMloadDataArrive cid trp err s
  | .drainStoresPerform cid trp => Sys2Proof.Machine.execDrainStoresPerform cid trp s
  | .mloopStep cid trp err => Sys2Proof.Machine.execMloopStep cid trp err s
  | .mloopComplete cid trp => Sys2Proof.Machine.execMloopComplete cid trp s
  | .rxRegionStart cid => Sys2Proof.Machine.execRxRegionStart cid s
  | .rxPassEnd cid => Sys2Proof.Machine.execRxPassEnd cid s
  | .ladderStarveExpire lid rung now => Sys2Proof.Machine.execLadderStarveExpire lid rung now s
  | .escCopyComplete id err => Sys2Proof.Machine.execEscCopyComplete id err s
  | .retireAdvance lid => Sys2Proof.Machine.execRetireAdvance lid s
  | .snapCopyComplete id err => Sys2Proof.Machine.execSnapCopyComplete id err s
  | .asyncTrapTake cid tid => Sys2Proof.Machine.execAsyncTrapTake cid tid s
  | .barrierTimeout cid tid now => Sys2Proof.Machine.execBarrierTimeout cid tid now s
  | .companyRelease cid => Sys2Proof.Machine.execCompanyRelease cid s
  | .queueServe part q => Sys2Proof.Machine.execQueueServe part q s
  | .placeUnit part => Sys2Proof.Machine.execPlaceUnit part s
  | .launchComplete lid => Sys2Proof.Machine.execLaunchComplete lid s
  | .timeSliceExpire cid now => Sys2Proof.Machine.execTimeSliceExpire cid now s
  | .drainTimeout cid now => Sys2Proof.Machine.execDrainTimeout cid now s
  | .saveComplete cid cycles => Sys2Proof.Machine.execSaveComplete cid cycles s
  | .companyResume cid cycles => Sys2Proof.Machine.execCompanyResume cid cycles s
  | .tsliceWrite cid tid x => Sys2Proof.Machine.execTsliceWrite cid tid x s
  | .tovrWrite cid tid x => Sys2Proof.Machine.execTovrWrite cid tid x s
  | .dbgctlWrite cid tid x => Sys2Proof.Machine.execDbgctlWrite cid tid x s
  | .grantcapWrite cid tid x => Sys2Proof.Machine.execGrantcapWrite cid tid x s
  | .bartoWrite cid tid x => Sys2Proof.Machine.execBartoWrite cid tid x s
  | .asidWrite cid tid x => Sys2Proof.Machine.execAsidWrite cid tid x s
  | .probeEnable cid tid n x => Sys2Proof.Machine.execProbeEnable cid tid n x s
  | .probeDump cid tid n x => Sys2Proof.Machine.execProbeDump cid tid n x s
  | .probeClear cid tid n x => Sys2Proof.Machine.execProbeClear cid tid n x s
  | .probeDisable cid tid n x => Sys2Proof.Machine.execProbeDisable cid tid n x s
  | .roleChangeTimeout now => Sys2Proof.Machine.execRoleChangeTimeout now s
  | .pladdResultReturn id err => Sys2Proof.Machine.execPladdResultReturn id err s
  | .illegalInstructionWord sub word => Sys2Proof.Machine.execIllegalInstructionWord sub word s

end Sys2Proof.Machine
end

