-- ==== Sys2Proof/Machine/Policy.lean ====
section
/-!
DEFINITION. What moves next when the agenda names nothing. The manual leaves the order of the agents open; the agenda can
name any order, and this is only the model's filler: the first of the agents, in a fixed order, that can move.
-/
namespace Sys2Proof.Machine

/-- An operation in flight performs without an error. -/
def State.performOp (s : State) (o : MemOp) : Out :=
  match o.kind with
  | .load _ | .ldp .. => execLoadDataArrive o.id false s
  | .kload .. => execKloadDataArrive o.id false s
  | .store _ | .atom false .. | .half false .. | .unit .. | .slot .. => execStorePerform o.id s
  | .atom true .. | .half true .. => execAtomResultReturn o.id false s
  | .sync .. => execSyncReply o.id false s
  | .pladd .. => execPladdResultReturn o.id false s
  | .contrib .. => execContributionEnter o.id s
  | .mload trp .. => execMloadDataArrive o.cid trp false s
  | .drain trp _ | .drainMax trp _ => execDrainStoresPerform o.cid trp s
  | .fence .. => .next s

/-- The next state, or the same one where there is none. -/
def outState (s : State) (o : Out) : State :=
  match o with
  | .next t => t
  | _ => s
/-- The first move that changes anything. -/
def firstMove (s : State) : List Out → Option State
  | [] => none
  | o :: r => if outState s o = s then firstMove s r else some (outState s o)

/-- Moves of the memory system, in the order of issue. -/
def State.memMoves (s : State) : List Out := s.ops.map s.performOp
/-- Moves of a thread: pending traps, and waits that end. -/
def State.threadMoves (s : State) (t : Thread) : List Out :=
  let now := s.clkOf t.cid
  match t.wait, t.asyncs with
  | .none, [] => []
  | .waita, _ => [execAsyncTrapTake t.cid t.tid s, execWaitaWake t.cid t.tid s, execWaitaTimeout t.cid t.tid now s]
  | .mwait .., _ => [execAsyncTrapTake t.cid t.tid s, execMwaitWake t.cid t.tid s, execMwaitTimeout t.cid t.tid now s]
  | .bar .., _ => [execAsyncTrapTake t.cid t.tid s, execBarrierTimeout t.cid t.tid now s]
  | _, _ => [execAsyncTrapTake t.cid t.tid s]
/-- Moves of the tender and the fabric engine. -/
def State.cmdMoves (s : State) (c : Cmd) : List Out :=
  match c.kind with
  | .coll => [execTcollComplete c.id true s]
  | .rflush => [execRflushEpochComplete c.id true s]
  | .esc .. => [execEscCopyComplete c.id false s]
  | _ => [execTenderUnit c.id false s, execTenderComplete c.id s]
/-- Moves of the mailboxes. -/
def State.mboxMoves (s : State) (m : MbOp) : List Out :=
  match m.kind with
  | .put => [execMbputServe m.id s]
  | .get => [execMbgetServe m.id s]
  | .call => [execAcallReply m.id s]
/-- Moves of a troupe's matrix work. -/
def State.matrixMoves (s : State) (u : Troupe) : List Out :=
  if u.work.isEmpty then []
  else [execMatrixStep u.cid u.idx false s, execMloadDataArrive u.cid u.idx false s, execDrainStoresPerform u.cid u.idx s,
        execMloopStep u.cid u.idx false s, execMloopComplete u.cid u.idx s]
/-- Moves of a company: its relaxation sequencer, its end, its save, its return. -/
def State.companyMoves (s : State) (c : Company) : List Out :=
  let now := (s.core c.core).clk
  [execRxRegionStart c.cid s, execRxPassEnd c.cid s, execCompanyRelease c.cid s, execSaveComplete c.cid 0 s,
   execDrainTimeout c.cid now s, execTimeSliceExpire c.cid now s]
/-- Moves of the launch queues and the scheduler. -/
def State.launchMoves (s : State) : List Out :=
  ((List.range 4).flatMap fun p => (s.part p).bells.map fun q => execQueueServe p q s) ++
    (List.range 4).map (fun p => execPlaceUnit p s) ++ s.companies.map (fun c => execCompanyResume c.cid 0 s) ++
    s.launches.map (fun l => execLaunchComplete l.id s) ++ s.ladders.map fun l => execRetireAdvance l.id s
/-- Cores that hold a running company, by cycles. -/
def State.busyCores (s : State) : List Nat := ((s.companies.filter Company.runs).map Company.core).eraseDups
/-- The core that is furthest behind. -/
def State.slowest (s : State) : List Nat → Option Nat
  | [] => none
  | c :: r => match s.slowest r with
    | some d => if (s.core d).clk < (s.core c).clk then some d else some c
    | none => some c
/-- Moves of the cores. -/
def State.coreMoves (s : State) : List Out :=
  s.busyCores.map (fun c => execYieldExpiry c s) ++
    (s.busyCores.filter fun c => !(s.core c).first.isEmpty).map (fun c => execIssueOpportunity c 1 0 s) ++
    match s.slowest s.busyCores with
    | some c => [execIssueOpportunity c 0 1 s]
    | none => []

/-- With an empty agenda the first agent that can move does. [DESIGN CHOICE, log 10] -/
def State.filler (s : State) : Out :=
  let moves := s.memMoves ++ s.threads.flatMap s.threadMoves ++ s.cmds.flatMap s.cmdMoves ++ s.mbox.flatMap s.mboxMoves ++
    s.troupes.flatMap s.matrixMoves ++ s.companies.flatMap s.companyMoves ++ s.snaps.map (fun o => execSnapCopyComplete o.id false s) ++
    s.launchMoves ++ s.coreMoves
  match firstMove s moves with
  | some t => .next t
  | none => .next s

end Sys2Proof.Machine
end

