-- ==== Sys2Proof/Machine/Step.lean ====
section
/-!
DEFINITION. One step: the pending issue group fetches, decodes and executes its instruction; without one, the next event
of the agenda happens, or what the model's filler names. And where an instruction has to stand to be the next one.
-/
namespace Sys2Proof.Machine

/-- One step of the machine. [DESIGN CHOICE, log 9] -/
def step (s : State) : Host.Outcome State Fault Refusal :=
  match s.issue with
  | some g => match s.fetch g with
    | .error s' => .next s'
    | .ok g' => match decode g'.word with
      | .ok i => match s.ready g' i with
        | .ok s' => exec i s'
        | .error s' => .next s'
      | .error sub => execIllegalInstructionWord sub g'.word { s with issue := some g' }
  | none => match s.agenda with
    | e :: r => match encode e with
      | none => exec e { s with agenda := r }
      | some _ => .next { s with agenda := r }
    | [] => s.filler

/-- Where the placed word stands: virtual and device-physical. -/
def placedAt : Nat := 0x100000

/-- A thread of the loaded company: the start values of R13 at the placed word. -/
def placedThread (cid tid : Nat) : Thread :=
  { cid := cid, tid := tid, pc := BitVec.ofNat 64 placedAt, v := Vector.replicate 64 0, p := 0, q := Vector.replicate 4 0,
    fpcsr := 0, guard := none, asid := 1, sys := false, frames := [], step := false, exited := false, halt := none,
    wait := .none, waita := none, mon := none, watched := none, bars := [], asyncs := [], item := none, coh := 0, last := 0, ready := 0,
    seq := 0, old := [], far := [], farTiles := [], chain := [], fence := 0 }
/-- Its troupe. -/
def placedTroupe (cid : Nat) : Troupe :=
  { cid := cid, idx := 0, slot := 0, k := Vector.replicate 12 0, arr := Vector.replicate 12 0, active := true, since := 0,
    tiles := [], work := [], ticket := 0, status := 0 }
/-- Its company. -/
def placedCompany (cid : Nat) : Company :=
  { cid := cid, part := 0, launch := cid, index := 0, lvl := List.replicate 6 0, insts := List.replicate 5 0, ntr := 1,
    core := 0, state := .resident, scrP := 0, scrS := 0, tileF := 0, tileT := 0, scratch := [], seed := 0, progress := 0, trapUsr := 0,
    deleg := 0, barto := 0, exportNum := none, exportHdr := 0, placed := 0, start := 0, prio := 0, idem := false, region := none,
    rx := { code := 0xFF, settled := 0, pass := 0, dclass := 0, dsub := 0, dpc := 0 }, automaton := none, packed := none }
/-- Its launch. -/
def placedLaunch (cid : Nat) : Launch :=
  { id := cid, part := 0, queue := 0, asid := 1, sys := false, prio := 0, record := 0, entry := BitVec.ofNat 64 placedAt,
    params := 0, hbase := 0, scratch := 0, tiles := 0, levels := [⟨1, 0, 0⟩, ⟨32, 1, 1⟩, ⟨1, 2, 2⟩], deps := [],
    idem := false, pin := false, cvar := 0, exv := false, exhdr := 0, exnum := 0, deleg := 0, phint := 0, instances := 1,
    units := 1, ended := 0, reason := 0, refused := none }
/-- The tables that map the placed word: the ASID's entry, two table entries and a 1 GiB leaf at device address 0 with
every permission, RC (R147, R148). -/
def placedTables : List (Nat × Nat) :=
  [(0x40000008, 0x40001001), (0x40001000, 0x40002001), (0x40002000, 0x1400000000005F)]

/-- The machine with an instruction where the next step fetches it: a partition, a company of one troupe at its launch
entry, the tables that map it, the word, and the group of its threads. This stands for the load of a program by the host
and its placement. [DESIGN CHOICE, log 8] -/
def State.withFetchWord (s : State) (nbits w : Nat) : State :=
  let cid := s.nextId
  let s := s.updPart 0 fun p =>
    { p with defined := true, decks := 1, roles := 1, keys := 2, asidtab := 0x40000000 }
  let mem := placedTables.foldl (fun m e =>
    ((List.range 8).zip (bytesOf 8 e.2)).foldl (fun m x => cellPut m (e.1 + x.1) x.2) m) s.mem
  let mem := ((List.range 4).zip (bytesOf 4 (w % 2 ^ nbits))).foldl (fun m x => cellPut m (placedAt + x.1) x.2) mem
  let placed (a : Nat) : Bool := (placedAt ≤ a && a < placedAt + 4) || placedTables.any fun e => e.1 ≤ a && a < e.1 + 8
  { s with
    mem := mem, marks := s.marks.filter fun m => !placed m.addr, lines := s.lines.filter fun l => !((List.range 64).any fun i => placed (l.line * 64 + i)), bad := 0, tlb := s.tlb.filter fun e => e.part != 0, nextId := cid + 1,
    threads := (List.range 32).map (placedThread cid) ++ s.threads, troupes := placedTroupe cid :: s.troupes,
    companies := placedCompany cid :: s.companies, launches := placedLaunch cid :: s.launches,
    issue := some { core := 0, cid := cid, pc := BitVec.ofNat 64 placedAt, tids := List.range 32, word := 0, len := 0 } }

end Sys2Proof.Machine
end

