-- ==== Sys2Proof/Safety.lean ====
section
/-!
DEFINITION. What counts as a safe run, and the terms claims use: no step faults or is refused (the manual stops no
instruction: every bad case is a trap or has no effect); when a group issues an instruction and what the group has then
become (R22, R33, R37); what a lane instruction leaves (R101, R102).
-/
namespace Sys2Proof

/-- The machine takes a next step from a state. -/
def StepsOn (s : Machine.State) : Prop := ∃ t, Machine.step s = .next t

/-- A run of `n` steps reaches a state. -/
def RunsOn (n : Nat) (s : Machine.State) : Prop := ∃ t, core.run n s = .next t

end Sys2Proof

namespace Sys2Proof.Machine

/-! ### Issue -/

/-- The state in which the instruction of the pending group acts: every member has moved past it (R22, R30), the core
owes the register reads of the group (R379), and the group is no longer pending. -/
def State.moved (s : State) (f : Form) (g : Issue) : State :=
  (s.members g).foldl (fun s t => s.updThread t.cid t.tid (Thread.issued f))
    (({ s with issue := none, fresh := s.fresh + 1, rivals := [] } : State).updCore g.core fun c => { c with need := c.need + f.grants })

/-- The pending group issues an instruction of form `f`: no member appears twice; a marked form finds no result of a
member in flight (R37) and a release no access (R240); `ps` are the participating threads as the instruction reads them
(R33, R38); `s1` is the state in which it acts; a checked uniform form finds equal sources (R35); a form that a relaxation
body may not execute meets no step thread of a running region (R332); and no register of a participating thread holds an
uncorrectable error (R303). -/
structure State.Issues (s : State) (f : Form) (ps : List Thread) (s1 : State) : Prop where
  pending : ∃ g, s.issue = some g ∧ g.tids.Nodup ∧
    (f.mark = true → ∀ t ∈ s.members g, s.resultsOut t.cid t.tid = false) ∧
    (f.quiet = true → ∀ t ∈ s.members g, s.releaseOut t.cid t.tid = false) ∧
    ps = ((s.members g).filter Thread.passes).map (Thread.reads f s.fresh) ∧ s1 = s.moved f g
  agree : f.uni = true → s1.uniDiffers f ps = false
  allowed : f.forbid = true → ∀ t ∈ ps, s1.bodyOf t = none
  sound : s.bad ≠ 2

/-- The thread whose sources a participating thread's result comes from: itself, or the lowest one of a uniform
instruction (R33). -/
def sourceOf (uni : Bool) (ps : List Thread) (t : Thread) : Thread := if uni then (lowest ps).getD t else t

/-! ### Registers -/

/-- What a register holds once `x` has been written to it: a `v` or `q` register 32 bits, a predicate one bit, `p7` what it
held (R13), `fpcsr` its writable bits (R71). -/
def RegId.holds (r : RegId) (old x : DWord) : DWord :=
  match r with
  | .v _ => (x.setWidth 32).setWidth 64
  | .p n => if n < 7 then x &&& 1 else old
  | .q n => if n < 4 then (x.setWidth 32).setWidth 64 else old
  | .k _ => old
  | .f => (x.setWidth 32 &&& fpcsrMask).setWidth 64
/-- What it holds after writes in order. -/
def RegId.after (r : RegId) (old : DWord) : List (RegId × DWord) → DWord
  | [] => old
  | (w, x) :: ws => r.after (if w = r then r.holds old x else old) ws

/-- What a register holds once an instruction has raised flags: they are set in `fpcsr`, and none is cleared (R78). -/
def Thread.raised (t : Thread) (fl : Flags) (r : RegId) : DWord :=
  if r = .f ∧ fl &&& 31 ≠ 0 then ((t.fpcsr ||| flagBits fl) &&& fpcsrMask).setWidth 64 else t.reg r

/-- Everything of a thread but its registers, and what other agents have written to them and to its troupe's tiles that it need not see
yet (R155). -/
def Thread.bare (t : Thread) : Thread :=
  { t with v := Vector.replicate 64 0, p := 0, q := Vector.replicate 4 0, fpcsr := 0, old := [], far := [], farTiles := [] }
/-- An operation in flight, whichever of its destinations have been written over (R38). -/
def MemOp.plain (o : MemOp) : MemOp := { o with lanes := o.lanes.map fun l => { l with dead := [] } }
@[inherit_doc MemOp.plain] def MbOp.plain (m : MbOp) : MbOp := { m with dead := [] }
/-- Everything of a state but the registers of threads. -/
def State.bare (s : State) : State :=
  { s with threads := s.threads.map Thread.bare, ops := s.ops.map MemOp.plain, mbox := s.mbox.map MbOp.plain }

/-- A byte of plain storage as it stands: not of a core's on-chip window (R154), through which the registers of threads can be seen, nor
seen in a way that leaves open what an access obtains (R148, R170, R180). -/
def Loc.offChip : Loc → Bool
  | .phys a => (chipCore a).isNone
  | .foreign _ | .view .. => false
  | _ => true

/-- A lane instruction has acted from `s` to `s'`: each participating thread holds the results `out` gives for it, with its
flags raised and no other register changed (R78, R101, R102); every other thread, everything else in the machine and every byte of
memory is as before. -/
structure LaneDone (s s' : State) (ps : List Thread) (out : Thread → LaneOut) : Prop where
  result : ∀ t ∈ ps, ∀ u, s.thread? t.cid t.tid = some u → ∃ u', s'.thread? t.cid t.tid = some u' ∧ u'.bare = u.bare ∧
    ∀ r, u'.reg r = r.after (u.raised (out t).fl r) (out t).writes
  others : ∀ c i, (∀ t ∈ ps, ¬(t.cid = c ∧ t.tid = i)) → s'.thread? c i = s.thread? c i
  rest : s'.bare = s.bare
  memory : ∀ l, l.offChip = true → s'.getLoc l = s.getLoc l

/-- The instruction completes where its group issues from `s` and no enabled floating-point exception is raised: each
participating thread gets what `out` computes from the state, the participating threads and itself (R79, R101). -/
def GivesAt (s : State) (i : Instr) (f : Form) (out : State → List Thread → Thread → LaneOut) : Prop :=
  ∀ ps s1, s.Issues f ps s1 → (∀ t ∈ ps, fpTrap (sourceOf f.uni ps t).fpcsr (out s1 ps t).fl = none) →
    ∃ s', exec i s = .next s' ∧ LaneDone s1 s' ps (out s1 ps)
/-- The same in every state, for an instruction whose result depends on its source thread alone (R33). -/
def Gives (i : Instr) (f : Form) (e : Thread → LaneOut) : Prop :=
  ∀ s, GivesAt s i f fun _ ps t => e (sourceOf f.uni ps t)

/-- An instruction has acted from `s` to `s'` on threads alone: each participating thread `t` has become `g t` of what it was; every
other thread, everything else in the machine but cached translations, and every byte of memory is as before. -/
structure ThreadsDone (s s' : State) (ps : List Thread) (g : Thread → Thread → Thread) : Prop where
  result : ∀ t ∈ ps, ∀ u, s.thread? t.cid t.tid = some u → s'.thread? t.cid t.tid = some (g t u)
  others : ∀ c i, (∀ t ∈ ps, ¬(t.cid = c ∧ t.tid = i)) → s'.thread? c i = s.thread? c i
  rest : { s' with threads := [], tlb := [] } = { s with threads := [], tlb := [] }
  memory : ∀ l, l.offChip = true → s'.getLoc l = s.getLoc l

/-- Every list of bytes in the machine is in canonical form: device memory, each company's scratchpad, each partition's
sync-variable window, and each core's storage that no company holds. -/
def State.Canon (s : State) : Prop :=
  Memory.wf s.mem = true ∧ (∀ c ∈ s.companies, Memory.wf c.scratch = true) ∧
    (∀ p ∈ s.parts.toList, Memory.wf p.sync (inRanges p.zeroed) = true) ∧ ∀ k ∈ s.cores.toList, Memory.wf k.spare (inRanges k.known) = true

/-- A store of `n` bytes at an address takes a line of device memory, under the key of its page (R148, R393). -/
def State.Takes (s : State) (w : Who) (va n line : Nat) (key : ByteKey) : Prop :=
  ∃ v l i, (v = va ∨ (va < v ∧ v % 4096 = 0)) ∧ v % 4096 + i < 4096 ∧ v + i < va + n ∧ Config.scratchEnd ≤ v ∧
    ¬(Config.syncBase ≤ v ∧ v < Config.syncEnd) ∧ s.translate w.part w.asid v = .ok l ∧
    line = (l.phys v + i) / 64 ∧ key = (s.part w.part).keyOf w.part (pteKey l.entry)
/-- It takes no line that is enciphered under another key. -/
def State.OwnLines (s : State) (w : Who) (va n : Nat) : Prop :=
  ∀ line key, s.Takes w va n line key → ∀ m, s.lineOf line = some m → m.key = none ∨ m.key = some key
/-- The same of several stores, which take no line under two keys. -/
def State.OwnAll (s : State) (xs : List (Who × Nat × Nat)) : Prop :=
  ∀ x ∈ xs, s.OwnLines x.1 x.2.1 x.2.2 ∧ ∀ y ∈ xs, ∀ line k k', s.Takes x.1 x.2.1 x.2.2 line k → s.Takes y.1 y.2.1 y.2.2 line k' → k = k'
/-- No byte of `ls` decides what an address of device memory translates to. -/
def State.Steady (s : State) (w : Who) (va : Nat) (ls : List Loc) : Prop :=
  Config.scratchEnd ≤ va → ∀ m, (∀ a, .phys a ∉ ls → ({ s with mem := m } : State).memByte a = s.memByte a) →
    ({ s with mem := m } : State).translate w.part w.asid va = s.translate w.part w.asid va
/-- A store of `n` bytes at a device-physical address meets no line that another partition has left (R394). -/
def State.PartLines (s : State) (part a n : Nat) : Prop :=
  ∀ i < n, ∀ m k, s.lineOf ((a + i) / 64) = some m → m.key = some k → k.part = part
/-- The same for what a command stores (R393, R394). -/
def State.OwnFor (s : State) (c : Cmd) (va n : Nat) : Prop :=
  if c.physAddr then s.PartLines (s.partOf c.cid) va n else s.OwnLines (s.cmdWho c) va n

/-- No two threads of the machine bear one name. -/
def State.Named (s : State) : Prop := (s.threads.map fun t => (t.cid, t.tid)).Nodup

/-! ### Traps -/

/-- Where thread `u` goes with a trap (R303, R312): its company handles the trap, with system privilege or without, at a valid
vector base; no debug halt stands in the way; its side-buffer entry passes its checks, its page is not migrating (R151), and it lies in
plain memory in lines of its key (R393), and no access of its own in flight must perform before the store to it (R161, R162). -/
structure TrapPlace (s : State) (u : Thread) (tr : Trap) (base : DWord) (sys : Bool) (k : Checked) : Prop where
  thread : s.thread? u.cid u.tid = some u
  live : u.exited = false
  depth : u.frames.length < 2
  company : ∃ c, s.company? u.cid = some c ∧
    sys = (u.sys || u.frames.length == 1 || c.deleg.getLsbD tr.cls || !c.trapUsr.getLsbD 0) ∧
    base = if sys then (s.core c.core).trapSys else c.trapUsr
  handler : base.getLsbD 0 = true
  noHalt : tr.cls = cDebug → tr.sub ≠ 4 → (s.dbgctl u.cid).getLsbD 3 = false
  area : s.check (s.whoIs u true) .store
    ((s.sideEntry u.cid u.tid + BitVec.ofNat 32 (u.frames.length * 32)).setWidth 64) 32 false = .ok k
  settled : k.mig = false
  plain : k.locs.Nodup ∧ ∀ l ∈ k.locs, l.offChip = true
  own : s.OwnLines (s.whoIs u true) (s.sideEntry u.cid u.tid + BitVec.ofNat 32 (u.frames.length * 32)).toNat 32
  quiet : ∀ bs, opFree (s.deviceStore u (s.sideEntry u.cid u.tid + BitVec.ofNat 32 (u.frames.length * 32)).toNat k bs) s.ops = true
  canon : s.Canon

/-- The thread has taken the trap (R308, R312): its counter, mode and window are saved in a new frame, it stands at the vector of
the trap's class in the handler's mode with no window and no armed step, its registers are as before; the record stands
in its side-buffer entry and every other byte is as before; and no other thread's registers, counter or mode have changed. -/
structure TrapTaken (s s' : State) (u : Thread) (tr : Trap) (base : DWord) (sys : Bool) (k : Checked) (pc : DWord)
    (g : Option GuardWin) : Prop where
  thread : ∃ u', s'.thread? u.cid u.tid = some u' ∧ u'.pc = (base &&& ~~~0x3FF) + BitVec.ofNat 64 (tr.cls * 0x40) ∧
    u'.sys = sys ∧ u'.guard = none ∧ u'.step = false ∧ (∀ r, u'.reg r = u.reg r) ∧
    ∃ ms cmd, u'.frames = ⟨pc, u.sys, g, ms, cmd, []⟩ :: u.frames
  record : s'.getLocs k.locs = recordBytes u tr pc g
  memory : ∀ l, l.offChip = true → l ∉ k.locs → s'.getLoc l = s.getLoc l
  others : ∀ c i w, ¬(c = u.cid ∧ i = u.tid) → s.thread? c i = some w → ∃ w', s'.thread? c i = some w' ∧
    w'.pc = w.pc ∧ w'.sys = w.sys ∧ w'.frames = w.frames ∧ ∀ r, w'.reg r = w.reg r

/-- The thread stands again at the instruction it has moved past, as it was when it read it (R305). -/
def State.backAt (s : State) (t : Thread) : State :=
  s.updThread t.cid t.tid fun u => { u with pc := t.pc, guard := t.guard, step := t.step, asyncs := t.asyncs }

/-- Outside a relaxation body a thread that issues the instruction alone takes a precise trap where a condition holds: it takes
it from the instruction, of which nothing else has happened (R305, R312); its record may name the instruction's word. -/
def Traps (i : Instr) (f : Form) (cond : State → Thread → Prop) (tr : Word → State → Thread → Trap) : Prop :=
  ∀ s t s1, s.Issues f [t] s1 → cond s1 t → (s1.backAt t).bodyOf t = none →
    ∀ u base sys k, u.cid = t.cid → u.tid = t.tid → TrapPlace (s1.backAt t) u (tr s.word s1 t) base sys k →
      ∃ s', exec i s = .next s' ∧ TrapTaken (s1.backAt t) s' u (tr s.word s1 t) base sys k t.pc t.guard

/-- The level of a barrier instruction is declared, its count is in range, and its thread is outside handler mode. -/
def BarReady (s1 : State) (t : Thread) (co : Company) (counted : Bool) (l : BitVec 3) (a : Reg) (n : BitVec 4) (k : BarKey) : Prop :=
  s1.company? t.cid = some co ∧ t.frames = [] ∧ s1.barKey co t.tid l.toNat n.toNat = some k ∧
    (counted = true → 0 < (t.getV a).toNat ∧ (t.getV a).toNat ≤ s1.barSize co l.toNat)

/-! ### Memory operations -/

/-- The operation that thread `l` has put in flight for the threads `rs` (R23): what it does, where, and what it writes. -/
structure MemOp.Is (o : MemOp) (l : Thread) (rs : List Thread) (k : OpKind) (va : DWord) (c : Checked) (d : Reg) (n : Nat)
    (acq rel : Bool) : Prop where
  who : o.cid = l.cid ∧ o.tid = l.tid ∧ o.asid = l.asid ∧ o.pc = l.pc ∧ o.lanes.map (·.tid) = rs.map Thread.tid
  does : o.kind = k ∧ o.va = va ∧ o.locs = c.locs ∧ o.kinds = c.kinds
  out : o.d = d ∧ o.n = n ∧ o.acq = acq ∧ o.rel = rel

/-- An instruction has put the operations `os` in flight, raised `fl` and written `ws` in the threads `rs`, from `s` to `s'`: no byte
of memory, no other register, no other thread and nothing else but cached translations has changed (R23, R174). -/
structure OpsDone (s s' : State) (rs : List Thread) (fl : Flags) (ws : List (RegId × DWord)) (os : List MemOp) : Prop where
  result : ∀ t ∈ rs, ∀ u, s.thread? t.cid t.tid = some u → ∃ u', s'.thread? t.cid t.tid = some u' ∧ u'.bare = u.bare ∧
    ∀ r, u'.reg r = r.after (u.raised fl r) ws
  others : ∀ c i, (∀ t ∈ rs, ¬(t.cid = c ∧ t.tid = i)) → s'.thread? c i = s.thread? c i
  ops : s'.ops.map MemOp.plain = (s.ops ++ os).map MemOp.plain
  rest : { s'.bare with ops := [], tlb := [], nextId := 0 } = { s.bare with ops := [], tlb := [], nextId := 0 }
  memory : ∀ l, l.offChip = true → s'.getLoc l = s.getLoc l

/-- An access that nothing holds back: it passes its checks (R149), its page is not migrating (R151), and its thread is outside a
relaxation body (R339), its threads' cores watch nothing (R320), and what it reads holds no uncorrectable error (R303). -/
structure Granted (s : State) (l : Thread) (rs : List Thread) (acc : Acc) (va : DWord) (n : Nat) (natural : Bool) (c : Checked) : Prop where
  checks : s.check (s.whoIs l) acc va n natural = .ok c
  settled : c.mig = false
  outside : s.bodyOf l = none
  unwatched : ∀ t ∈ rs, (s.dbgctl t.cid).getLsbD 4 = false
  sound : s.bad ≠ 3

/-- The result `ws` of operation `o` has arrived: each thread that waits for it holds it, but for registers that a later instruction
has written (R38); no other register of any thread has changed, and the operation is over. -/
structure ResultDone (s s' : State) (o : MemOp) (ws : List (RegId × DWord)) : Prop where
  result : ∀ l ∈ o.lanes, ∀ u, s.thread? o.cid l.tid = some u → ∃ u', s'.thread? o.cid l.tid = some u' ∧ u'.pc = u.pc ∧
    ∀ r, u'.reg r = if r ∈ l.dead then u.reg r else r.after (u.reg r) ws
  others : ∀ c i u, s.thread? c i = some u → (∀ l ∈ o.lanes, ¬(o.cid = c ∧ l.tid = i)) →
    ∃ u', s'.thread? c i = some u' ∧ u'.pc = u.pc ∧ ∀ r, u'.reg r = u.reg r
  gone : ∀ x ∈ s'.ops, x.id ≠ o.id

/-- Plain storage that is there: a byte of device memory, of a company's scratchpad or of a partition's sync variables. -/
def State.holds (s : State) : Loc → Prop
  | .phys a => chipCore a = none
  | .foreign _ | .view .. => False
  | .scratch c _ => s.company? c ≠ none
  | .sync p _ => p < 4
/-- Different bytes of plain storage. -/
def State.Plain (s : State) (ls : List Loc) : Prop := ls.Nodup ∧ (∀ l ∈ ls, s.holds l) ∧ s.Canon
/-- The bytes `ls` hold `bs`, and every other byte is as before. -/
def Wrote (s s' : State) (ls : List Loc) (bs : List Byte) : Prop :=
  s'.getLocs ls = bs ∧ ∀ l, l.offChip = true → l ∉ ls → s'.getLoc l = s.getLoc l
/-- No register and no counter of a thread has changed. -/
def SameRegs (s s' : State) : Prop :=
  ∀ c i u, s.thread? c i = some u → ∃ u', s'.thread? c i = some u' ∧ u'.pc = u.pc ∧ ∀ r, u'.reg r = u.reg r

/-- Each of the threads `rs` has received `ws` and stands where it stood; no other thread's registers and counter have changed. -/
def Gave (s s' : State) (rs : List Thread) (ws : List (RegId × DWord)) : Prop :=
  (∀ t ∈ rs, ∀ u, s.thread? t.cid t.tid = some u → ∃ u', s'.thread? t.cid t.tid = some u' ∧ u'.pc = u.pc ∧ ∀ r, u'.reg r = r.after (u.reg r) ws) ∧
  ∀ c i u, (∀ t ∈ rs, ¬(t.cid = c ∧ t.tid = i)) → s.thread? c i = some u →
    ∃ u', s'.thread? c i = some u' ∧ u'.pc = u.pc ∧ ∀ r, u'.reg r = u.reg r
/-- Each of the threads `rs` waits with `w` at the instruction it has moved past; its registers, every other thread and every byte of
memory are as before. -/
def Waits (s s' : State) (rs : List Thread) (w : Wait) : Prop :=
  (∀ t ∈ rs, ∀ u, s.thread? t.cid t.tid = some u → s'.thread? t.cid t.tid =
    some { u with pc := t.pc, guard := t.guard, step := t.step, asyncs := t.asyncs, wait := w }) ∧
  (∀ c i, (∀ t ∈ rs, ¬(t.cid = c ∧ t.tid = i)) → s'.thread? c i = s.thread? c i) ∧
  ∀ l, l.offChip = true → s'.getLoc l = s.getLoc l
/-- Every byte of memory is as before. -/
def SameMem (s s' : State) : Prop := ∀ l, l.offChip = true → s'.getLoc l = s.getLoc l

/-- The source of an instruction's one action and the threads it acts for: the lowest one and all of a uniform instruction, or one
thread that issues alone (R33). -/
def Acts (f : Form) (ps : List Thread) (l : Thread) (rs : List Thread) : Prop :=
  (f.uni = true ∧ lowest ps = some l ∧ rs = ps) ∨ (f.uni = false ∧ ps = [l] ∧ rs = [l])

/-! ### Matrix engine -/

/-- A matrix instruction issues to a whole troupe that nothing holds back (R31, R264, R272): `ls` are its 32 threads by home lane, `l`
the first of them; no thread of it is in a handler or halted, the tiles `ns` are not busy, and no region runs its threads. -/
structure State.Whole (s : State) (f : Form) (ps : List Thread) (s1 : State) (ns : List Nat) (l : Thread) (ls : List Thread) : Prop where
  issues : s.Issues f ps s1
  full : fullTroupe ps = some ls
  head : ls.head? = some l
  free : s.heldBack s.group = false
  idle : s.tileBusy l.cid l.trp ns = false
  outside : ∀ t ∈ ls, s1.bodyOf t = none

/-! ### System registers -/

/-- What a permitted write of a register leaves, by number (R150, R215, R311, R316, R318, R321, R379, R385). -/
def State.sysWritten (s : State) (l : Thread) (rs : List Thread) (c : Company) (n : Nat) (x : DWord) : State :=
  let w : Word := x.setWidth 32
  if n = 0 then s.updCompany l.cid fun c => { c with trapUsr := x &&& 0xFFFFFFFFFFFFFC01 }
  else if n = 1 then s.updCore c.core fun k => { k with trapSys := x &&& 0xFFFFFFFFFFFFFC01 }
  else if n = 2 then s.updCompany l.cid fun c => { c with deleg := w &&& 0x3FFF }
  else if n = 0x10 then s.updCore c.core fun k => { k with tslice :=
    if w &&& 0xFFFFFF ≠ 0 ∧ (w &&& 0xFFFFFF).toNat < k.qfloor then BitVec.ofNat 32 (k.qfloor + 2 ^ 31) else w &&& 0xFFFFFF }
  else if n = 0x12 then s.updCompany l.cid fun c => { c with barto := w }
  else if n = 0x20 then
    let cap := max 4 (min 32 (w.toNat % 64))
    s.updCore c.core fun k => { k with cap := cap, auto := w.getLsbD 6, eff := if w.getLsbD 6 then min k.eff cap else cap }
  else if n = 0x23 then
    let s : State := { s with tovr := s.tovr.setIfInBounds (pierOf c.core) (w &&& 0x870000FF) }
    let site := w.toNat / 2 ^ 24 % 8
    if site < 6 then s.updDeck (6 * pierOf c.core + site) fun d => { d with ovr := if w.getLsbD 31 then some (w.toNat % 256) else none }
    else s
  else if n = 0x40 then s.updCore c.core fun k => { k with dbgctl := w &&& 0xF8, watches := if w.getLsbD 4 then s.readWatches l c else [] }
  else if n = 0x41 then rs.foldl (fun s t => s.updThread t.cid t.tid fun u => { u with asid := w.setWidth 12 }) s
  else s

/-! ### Results -/

/-- A result of words in consecutive registers, with flags. -/
def groupOut (d : Reg) (ws : List Word) (fl : Flags) : LaneOut := { writes := groupWrites d ws, fl := fl }
/-- A 64-bit result with flags. -/
def pairFl (d : Reg) (r : Res) : LaneOut := { writes := pairWrites d (BitVec.ofNat 64 r.bits), fl := r.fl }
/-- An FP32 result with flags. -/
def fpRes (d : Reg) (r : Res) : LaneOut := fpOut d r.bits r.fl

/-- The exact value of a finite number, as a rational. -/
def FV.rat : FV → ℚ
  | .fin n m e => (if n then -1 else 1) * m * (2 : ℚ) ^ e
  | _ => 0
/-- The value is finite; it is an infinity. -/
def FV.isFin : FV → Bool
  | .fin .. => true
  | _ => false
@[inherit_doc FV.isFin] def FV.isInf : FV → Bool
  | .inf _ => true
  | _ => false

/-- The value of a nested planar element under a scale of code `E`: sign, and micro-exponent and fraction in `f` bits as one number
(R91). -/
def nfReal (E f : Nat) (neg : Bool) (mag : Nat) : ℚ :=
  let m := mag / 2 ^ f
  let g : ℚ := ((mag % 2 ^ f : Nat) : ℚ) / 2 ^ f
  (if neg then -1 else 1) * (2 : ℚ) ^ (E - 127 : ℤ) * if m = 0 then (2 : ℚ) ^ (-6 : ℤ) * g else (2 : ℚ) ^ (m - 7 : ℤ) * (1 + g)

/-- A number made an integer by a mode (R72). -/
def Mode.Makes (m : Mode) (x : ℝ) (w : ℤ) : Prop :=
  match m with
  | .rne => 2 * |x - w| ≤ 1 ∧ (2 * |x - w| = 1 → Even w)
  | .rtz => (0 ≤ x → w = ⌊x⌋) ∧ (x < 0 → w = ⌈x⌉)
  | .rdn => w = ⌊x⌋
  | .rup => w = ⌈x⌉

/-- `Round` of a number to a format, under FTZ or not (R72, R77, R82); `neg` is the sign of the result. The number is brought to a
whole multiple of the spacing of the format at it, which has no upper limit; beyond the largest finite magnitude the mode decides
between it and an infinity. -/
def Fmt.Rounds (F : Fmt) (ftz : Bool) (m : Mode) (neg : Bool) (v : ℝ) (r : Res) : Prop :=
  (v = 0 → r = ⟨F.make neg 0, 0⟩) ∧
  (v ≠ 0 → ∃ e w : ℤ, F.emin ≤ e ∧ |v| < (2 : ℝ) ^ (e + 1) ∧ (e = F.emin ∨ (2 : ℝ) ^ e ≤ |v|) ∧
    m.Makes (v / (2 : ℝ) ^ (e - F.fb)) w ∧
    let x : ℝ := w * (2 : ℝ) ^ (e - F.fb)
    let beyond : Prop := ((F.value F.top).rat : ℝ) < |x|
    let flushed : Prop := ftz = true ∧ F.lane = true ∧ w ≠ 0 ∧ |x| < (2 : ℝ) ^ F.emin
    let toInf : Prop := F.ieee = true ∧ (m = .rne ∨ (m = .rdn ∧ neg = true) ∨ (m = .rup ∧ neg = false))
    (beyond → toInf → r = ⟨F.make neg F.infinity, fOF ||| fNX⟩) ∧ (beyond → ¬toInf → r = ⟨F.make neg F.top, fOF ||| fNX⟩) ∧
    (¬beyond → flushed → r = ⟨F.make neg 0, fUF ||| fNX⟩) ∧
    (¬beyond → ¬flushed → (∃ k e', F.value r.bits = .fin neg k e') ∧ r.bits < 2 ^ (F.sp + 1) ∧ ((F.value r.bits).rat : ℝ) = x ∧
      (x = v → r.fl = 0) ∧ (x ≠ v → |v| < (2 : ℝ) ^ F.emin → r.fl = fUF ||| fNX) ∧
      (x ≠ v → (2 : ℝ) ^ F.emin ≤ |v| → r.fl = fNX)))

/-- `NFEncode` of a value under a scale of code `E`, with a fraction of `f` bits (R94): the block's maximum beyond it; else the value
brought by the mode to the spacing of the block's grid at it, with tininess judged before rounding. -/
def NfEncodes (m : Mode) (E f : Nat) (neg : Bool) (v : ℚ) (r : Nat × Flags) : Prop :=
  let top := 2 ^ (f + 3) - 1
  let low : ℤ := E - 133
  (v = 0 → r = (0, 0)) ∧ (nfReal E f false top < |v| → r = (top, fOF ||| fNX)) ∧
  (v ≠ 0 → |v| ≤ nfReal E f false top → ∃ e w : ℤ, low ≤ e ∧ |v| < (2 : ℚ) ^ (e + 1) ∧ (e = low ∨ (2 : ℚ) ^ e ≤ |v|) ∧
    m.Makes ((v / (2 : ℚ) ^ (e - f) : ℚ) : ℝ) w ∧ r.1 ≤ top ∧ nfReal E f neg r.1 = w * (2 : ℚ) ^ (e - f) ∧
    (nfReal E f neg r.1 = v → r.2 = 0) ∧
    (nfReal E f neg r.1 ≠ v → r.2 = if |v| < (2 : ℚ) ^ low then fUF ||| fNX else fNX))

end Sys2Proof.Machine
end

