-- ==== Sys2Proof/Certificates/Slice0/Obligations.lean ====
section
/-!
DEFINITION. The statements about the LX-320 model that the provers settle: what each instruction and each step does, from
the numbered rules of the manual, and what every step keeps.
-/
open Sys2Proof Sys2Proof.Machine

/-! ### Lane instructions -/

/-- Integer arithmetic and logic of IALU and IALUI (R106, R107, R109). Shifts and rotations by the whole of an unsigned amount
(R108), and by an immediate in range (R109). The model's own choices in it: log 22. -/
def Obligations.IntegerArithmeticResults : Prop :=
  (∀ (h : Hd) (d a b : Reg) (sh : BitVec 2) (n : BitVec 8),
     (Gives (.iadd h d a b) (hdForm h [.v a, .v b]) (fun t => vOut d (t.getV a + t.getV b)) ∧
      Gives (.isub h d a b) (hdForm h [.v a, .v b]) (fun t => vOut d (t.getV a - t.getV b)) ∧
      Gives (.iaddc h d a b) (hdForm h [.v a, .v b, .p 6]) (fun t =>
        let sum := (t.getV a).toNat + (t.getV b).toNat + (if t.getP 6 then 1 else 0)
        { writes := [(.v d, BitVec.ofNat 64 (sum % 2 ^ 32)), (.p 6, BitVec.ofNat 64 (sum / 2 ^ 32))] }) ∧
      Gives (.isubb h d a b) (hdForm h [.v a, .v b, .p 6]) (fun t =>
        let c := if t.getP 6 then 1 else 0
        { writes := [(.v d, (BitVec.ofInt 32 ((t.getV a).toNat - (t.getV b).toNat - c)).setWidth 64),
            (.p 6, if (t.getV a).toNat < (t.getV b).toNat + c then 1 else 0)] })) ∧
     (Gives (.ineg h d a) (hdForm h [.v a]) (fun t => vOut d (-(t.getV a))) ∧
      Gives (.iabs h d a) (hdForm h [.v a]) (fun t => vOut d (if 0 ≤ (t.getV a).toInt then t.getV a else 0 - t.getV a)) ∧
      Gives (.imin h d a b) (hdForm h [.v a, .v b]) (fun t => vOut d (BitVec.ofInt 32 (min (t.getV a).toInt (t.getV b).toInt))) ∧
      Gives (.imax h d a b) (hdForm h [.v a, .v b]) (fun t => vOut d (BitVec.ofInt 32 (max (t.getV a).toInt (t.getV b).toInt))) ∧
      Gives (.umin h d a b) (hdForm h [.v a, .v b]) (fun t => vOut d (BitVec.ofNat 32 (min (t.getV a).toNat (t.getV b).toNat))) ∧
      Gives (.umax h d a b) (hdForm h [.v a, .v b]) (fun t => vOut d (BitVec.ofNat 32 (max (t.getV a).toNat (t.getV b).toNat)))) ∧
     (Gives (.and h d a b) (hdForm h [.v a, .v b]) (fun t => vOut d (t.getV a &&& t.getV b)) ∧
      Gives (.or h d a b) (hdForm h [.v a, .v b]) (fun t => vOut d (t.getV a ||| t.getV b)) ∧
      Gives (.xor h d a b) (hdForm h [.v a, .v b]) (fun t => vOut d (t.getV a ^^^ t.getV b)) ∧
      Gives (.andn h d a b) (hdForm h [.v a, .v b]) (fun t => vOut d (t.getV a &&& ~~~(t.getV b))) ∧
      Gives (.orn h d a b) (hdForm h [.v a, .v b]) (fun t => vOut d (t.getV a ||| ~~~(t.getV b))) ∧
      Gives (.not h d a) (hdForm h [.v a]) (fun t => vOut d (~~~(t.getV a)))) ∧
     (Gives (.lea h sh d a b) (hdForm h [.v a, .v b]) (fun t => vOut d (t.getV a + t.getV b * 2 ^ (sh.toNat + 1))) ∧
      Gives (.mov h d a) (hdForm h [.v a]) (fun t => vOut d (t.getV a)) ∧
      Gives (.iaddImm h d a n) (hdForm h [.v a]) (fun t => vOut d (t.getV a + n.signExtend 32)) ∧
      Gives (.andImm h d a n) (hdForm h [.v a]) (fun t => vOut d (t.getV a &&& n.signExtend 32)) ∧
      Gives (.orImm h d a n) (hdForm h [.v a]) (fun t => vOut d (t.getV a ||| n.signExtend 32)) ∧
      Gives (.xorImm h d a n) (hdForm h [.v a]) (fun t => vOut d (t.getV a ^^^ n.signExtend 32)))) ∧
  (let shl (x : Word) (n : Nat) : Word := if n < 32 then x <<< n else 0
   let shr (x : Word) (n : Nat) : Word := if n < 32 then x >>> n else 0
   let sar (x : Word) (n : Nat) : Word := if n < 32 then x.sshiftRight n else if x.msb then 0xFFFFFFFF else 0
   let rol (x : Word) (n : Nat) : Word := BitVec.ofNat 32 (x.toNat * 2 ^ (n % 32) + x.toNat / 2 ^ (32 - n % 32))
   let ror (x : Word) (n : Nat) : Word := BitVec.ofNat 32 (x.toNat / 2 ^ (n % 32) + x.toNat * 2 ^ (32 - n % 32))
   ∀ (h : Hd) (d a b : Reg) (n : BitVec 8),
     Gives (.shl h d a b) (hdForm h [.v a, .v b]) (fun t => vOut d (shl (t.getV a) (t.getV b).toNat)) ∧
     Gives (.shr h d a b) (hdForm h [.v a, .v b]) (fun t => vOut d (shr (t.getV a) (t.getV b).toNat)) ∧
     Gives (.sar h d a b) (hdForm h [.v a, .v b]) (fun t => vOut d (sar (t.getV a) (t.getV b).toNat)) ∧
     Gives (.rol h d a b) (hdForm h [.v a, .v b]) (fun t => vOut d (rol (t.getV a) (t.getV b).toNat)) ∧
     Gives (.ror h d a b) (hdForm h [.v a, .v b]) (fun t => vOut d (ror (t.getV a) (t.getV b).toNat)) ∧
     (n.toNat < 32 →
       Gives (.shlImm h d a n) (hdForm h [.v a]) (fun t => vOut d (shl (t.getV a) n.toNat)) ∧
       Gives (.shrImm h d a n) (hdForm h [.v a]) (fun t => vOut d (shr (t.getV a) n.toNat)) ∧
       Gives (.sarImm h d a n) (hdForm h [.v a]) (fun t => vOut d (sar (t.getV a) n.toNat)) ∧
       Gives (.rolImm h d a n) (hdForm h [.v a]) (fun t => vOut d (rol (t.getV a) n.toNat))))

/-- The products of IMUL (R110). Bit counts, fields and the byte mixer of BITS (R111 to R113): each result by its bits. The model's
own choices in it: log 22. -/
def Obligations.ProductAndBitFieldResults : Prop :=
  (∀ (h : Hd) (d a b : Reg),
     Gives (.imul h d a b) (hdForm h [.v a, .v b]) (fun t => vOut d (BitVec.ofNat 32 ((t.getV a).toNat * (t.getV b).toNat))) ∧
     Gives (.imulh h d a b) (hdForm h [.v a, .v b]) (fun t => vOut d (BitVec.ofInt 32 ((t.getV a).toInt * (t.getV b).toInt / 2 ^ 32))) ∧
     Gives (.umulh h d a b) (hdForm h [.v a, .v b]) (fun t => vOut d (BitVec.ofNat 32 ((t.getV a).toNat * (t.getV b).toNat / 2 ^ 32))) ∧
     Gives (.imad h d a b) (hdForm h [.v a, .v b, .v d]) (fun t =>
       vOut d (BitVec.ofNat 32 ((t.getV a).toNat * (t.getV b).toNat + (t.getV d).toNat)))) ∧
  ((∀ (h : Hd) (d a b : Reg),
     Gives (.popc h d a) (hdForm h [.v a]) (fun t => vOut d (popcW (t.getV a))) ∧
     Gives (.clz h d a) (hdForm h [.v a]) (fun t => vOut d (clzW (t.getV a))) ∧
     Gives (.ctz h d a) (hdForm h [.v a]) (fun t => vOut d (ctzW (t.getV a))) ∧
     Gives (.brev h d a) (hdForm h [.v a]) (fun t => vOut d (brevW (t.getV a))) ∧
     Gives (.bfe h d a b) (hdForm h [.v a, .v b]) (fun t => vOut d (bfeW (t.getV a) (t.getV b))) ∧
     Gives (.ubfe h d a b) (hdForm h [.v a, .v b]) (fun t => vOut d (ubfeW (t.getV a) (t.getV b))) ∧
     Gives (.bfi h d a b) (hdForm h [.v a, .v b, .v d]) (fun t => vOut d (bfiW (t.getV a) (t.getV b) (t.getV d))) ∧
     Gives (.bmix h d a b) (hdForm h [.v a, .v b, .v d]) (fun t => vOut d (bmixW (t.getV a) (t.getV b) (t.getV d)))) ∧
   (∀ x : Word,
     (popcW x).toNat = ((Finset.range 32).filter fun i => x.getLsbD i = true).card ∧
     (x = 0 → clzW x = 32 ∧ ctzW x = 32) ∧
     (x ≠ 0 → (clzW x).toNat < 32 ∧ x.getLsbD (31 - (clzW x).toNat) = true ∧
       (∀ i, 31 - (clzW x).toNat < i → x.getLsbD i = false) ∧
       (ctzW x).toNat < 32 ∧ x.getLsbD (ctzW x).toNat = true ∧ ∀ i, i < (ctzW x).toNat → x.getLsbD i = false) ∧
     ∀ i, i < 32 → (brevW x).getLsbD i = x.getLsbD (31 - i)) ∧
   (∀ (x c z : Word) (i : Nat), i < 32 →
     let p := c.toNat % 256
     let l := c.toNat / 256 % 256
     let w := min l (32 - p)
     if l = 0 ∨ 32 ≤ p then (ubfeW x c).getLsbD i = false ∧ (bfeW x c).getLsbD i = false ∧ (bfiW x c z).getLsbD i = z.getLsbD i
     else (ubfeW x c).getLsbD i = (decide (i < w) && x.getLsbD (p + i)) ∧
       (bfeW x c).getLsbD i = x.getLsbD (p + min i (w - 1)) ∧
       (bfiW x c z).getLsbD i = if p ≤ i ∧ i < p + w then x.getLsbD (i - p) else z.getLsbD i) ∧
   ∀ (x c z : Word) (i : Nat), i < 4 →
     let src (k : Nat) : Byte := if k < 4 then byteOf x k else byteOf z (k - 4)
     byteOf (bmixW x c z) i =
       if c.getLsbD (12 + i) then 0
       else if 1 ≤ i ∧ c.getLsbD (16 + i) then (if (byteOf (bmixW x c z) (i - 1)).msb then 0xFF else 0)
       else src (c.toNat / 2 ^ (3 * i) % 8))

/-- Compares, selection, immediates and predicates (R60, R115, R116, R194). The model's own choices in it: log 22. -/
def Obligations.ComparesAndPredicates : Prop :=
  ∀ (h : Hd) (m : Bool) (c : BitVec 5) (p : BitVec 3) (d a b : Reg) (e : BitVec 5) (k : BitVec 17) (o : BitVec 2) (x y : PredOp),
    (c.toNat ≤ 9 → Gives (.icmp h c p a b) (hdForm h [.v a, .v b]) (fun t =>
      let u := t.getV a
      let w := t.getV b
      pOut p (match c.toNat with
        | 0 => u = w
        | 1 => u ≠ w
        | 2 => u.toInt < w.toInt
        | 3 => u.toInt ≤ w.toInt
        | 4 => w.toInt < u.toInt
        | 5 => w.toInt ≤ u.toInt
        | 6 => u.toNat < w.toNat
        | 7 => u.toNat ≤ w.toNat
        | 8 => w.toNat < u.toNat
        | _ => w.toNat ≤ u.toNat))) ∧
    Gives (.isel h p d a b) (hdForm h [.v a, .v b, .p p.toNat]) (fun t => vOut d (if t.getP p.toNat then t.getV a else t.getV b)) ∧
    Gives (.movi m e k) (markForm m) (fun _ => vOut (e.setWidth 6) (k.signExtend 32)) ∧
    Gives (.lui m e k) (markForm m [.v (e.setWidth 6)]) (fun t => vOut (e.setWidth 6) (k ++ (t.getV (e.setWidth 6)).extractLsb' 0 15)) ∧
    Gives (.plop h o p x y) (hdForm h [.p x.p.toNat, .p y.p.toNat]) (fun t =>
      let u := t.getP x.p.toNat ^^ x.neg
      let w := t.getP y.p.toNat ^^ y.neg
      pOut p (if o = 0 then u && w else if o = 1 then u || w else if o = 2 then u ^^ w else u && !w)) ∧
    Gives (.pmovToReg h d) (hdForm h [.p 0, .p 1, .p 2, .p 3, .p 4, .p 5, .p 6]) (fun t =>
      vOut d (BitVec.ofNat 32 ((List.range 8).foldl (fun n i => n + if t.getP i then 2 ^ i else 0) 0))) ∧
    Gives (.pmovToPred h a) (hdForm h [.v a]) (fun t =>
      { writes := (List.range 7).map fun n => (.p n, if (t.getV a).getLsbD n then 1 else 0) })

/-- The 16-bit forms (R53): operand and destination are the same register. The model's own choices in it: log 22. -/
def Obligations.ShortFormResults : Prop :=
  ∀ (m : Bool) (d b : BitVec 5),
    let D : Reg := d.setWidth 6
    let B : Reg := b.setWidth 6
    let f := shortForm m [.v D, .v B]
    let g := shortForm m [.f, .v D, .v B]
    let int (i : Instr) (e : Word → Word → Word) : Prop := Gives i f fun t => vOut D (e (t.getV D) (t.getV B))
    let fp (i : Instr) (e : Bool → Mode → Nat → Nat → Res) : Prop :=
      Gives i g fun t => fpRes D (e (ftzOf t.fpcsr) (rmOf t.fpcsr) (t.f32 D) (t.f32 B))
    int (.iadd16 m d b) (· + ·) ∧ int (.isub16 m d b) (· - ·) ∧ int (.and16 m d b) (· &&& ·) ∧ int (.or16 m d b) (· ||| ·) ∧
    int (.xor16 m d b) (· ^^^ ·) ∧ int (.shl16 m d b) (fun x y => if y.toNat < 32 then x <<< y.toNat else 0) ∧
    int (.shr16 m d b) (fun x y => if y.toNat < 32 then x >>> y.toNat else 0) ∧
    Gives (.mov16 m d b) (shortForm m [.v B]) (fun t => vOut D (t.getV B)) ∧
    Gives (.movi16 m d b) (shortForm m) (fun _ => vOut D (b.signExtend 32)) ∧
    int (.imul16 m d b) (fun x y => BitVec.ofNat 32 (x.toNat * y.toNat)) ∧
    fp (.fadd16 m d b) fp32.add ∧ fp (.fmul16 m d b) fp32.mul ∧ fp (.ffma16 m d b) (fun z r x y => fp32.fma z r x y x) ∧
    fp (.fmin16 m d b) (fun z _ x y => fp32.minmax z false x y) ∧ fp (.fmax16 m d b) (fun z _ x y => fp32.minmax z true x y) ∧
    Gives (.isel16 m d b) f (fun t => vOut D (if t.getP 0 then t.getV D else t.getV B))

/-- FP32 and FP64 arithmetic (R117 to R124): operands, rounding mode and destination of each form. The values, for the packed and the
16-bit forms too: a minimum or maximum passes over one NaN and keeps an encoding, with −0 below +0 (R121); a compare is unordered
with a NaN, and −0 = +0 (R123); `fscale` rounds the exact product by the power of two (R120); and a class for each kind of FP32
encoding (R124). The model's own choices in it: log 22. -/
def Obligations.FloatingArithmeticResults : Prop :=
  (∀ (h : Hd) (r : BitVec 3) (c : BitVec 2) (p : BitVec 3) (d a b : Reg), r.toNat ≤ 4 →
    let m (t : Thread) : Mode := if r = 0 then rmOf t.fpcsr else if r = 1 then .rne else if r = 2 then .rtz else if r = 3 then .rdn else .rup
    let z (t : Thread) : Bool := ftzOf t.fpcsr
    let f2 := hdForm h [.f, .v a, .v b]
    let g2 := hdForm h [.f, .v a, .v (a + 1), .v b, .v (b + 1)]
    let g1 := hdForm h [.v a, .v (a + 1)]
    (Gives (.fadd h r d a b) f2 (fun t => fpRes d (fp32.add (z t) (m t) (t.f32 a) (t.f32 b))) ∧
     Gives (.fsub h r d a b) f2 (fun t => fpRes d (fp32.sub (z t) (m t) (t.f32 a) (t.f32 b))) ∧
     Gives (.fmul h r d a b) f2 (fun t => fpRes d (fp32.mul (z t) (m t) (t.f32 a) (t.f32 b))) ∧
     Gives (.fdiv h r d a b) f2 (fun t => fpRes d (fp32.div (z t) (m t) (t.f32 a) (t.f32 b))) ∧
     Gives (.ffma h r d a b) (hdForm h [.f, .v a, .v b, .v d]) (fun t => fpRes d (fp32.fma (z t) (m t) (t.f32 a) (t.f32 b) (t.f32 d))) ∧
     Gives (.fsqrt h r d a) (hdForm h [.f, .v a]) (fun t => fpRes d (fp32.sqrt (z t) (m t) (t.f32 a)))) ∧
    (Gives (.dadd h r d a b) g2 (fun t => pairFl d (fp64.add (z t) (m t) (t.f64 a) (t.f64 b))) ∧
     Gives (.dsub h r d a b) g2 (fun t => pairFl d (fp64.sub (z t) (m t) (t.f64 a) (t.f64 b))) ∧
     Gives (.dmul h r d a b) g2 (fun t => pairFl d (fp64.mul (z t) (m t) (t.f64 a) (t.f64 b))) ∧
     Gives (.ddiv h r d a b) g2 (fun t => pairFl d (fp64.div (z t) (m t) (t.f64 a) (t.f64 b))) ∧
     Gives (.dfma h r d a b) (hdForm h [.f, .v a, .v (a + 1), .v b, .v (b + 1), .v d, .v (d + 1)])
       (fun t => pairFl d (fp64.fma (z t) (m t) (t.f64 a) (t.f64 b) (t.f64 d))) ∧
     Gives (.dsqrt h r d a) (hdForm h [.f, .v a, .v (a + 1)]) (fun t => pairFl d (fp64.sqrt (z t) (m t) (t.f64 a)))) ∧
    (Gives (.fmin h d a b) f2 (fun t => fpRes d (fp32.minmax (z t) false (t.f32 a) (t.f32 b))) ∧
     Gives (.fmax h d a b) f2 (fun t => fpRes d (fp32.minmax (z t) true (t.f32 a) (t.f32 b))) ∧
     Gives (.dmin h d a b) g2 (fun t => pairFl d (fp64.minmax (z t) false (t.f64 a) (t.f64 b))) ∧
     Gives (.dmax h d a b) g2 (fun t => pairFl d (fp64.minmax (z t) true (t.f64 a) (t.f64 b))) ∧
     Gives (.fabs h d a) (hdForm h [.v a]) (fun t => vOut d ((t.getV a).extractLsb' 0 31 |>.setWidth 32)) ∧
     Gives (.fneg h d a) (hdForm h [.v a]) (fun t => vOut d (!(t.getV a).msb |> BitVec.ofBool |> (· ++ (t.getV a).extractLsb' 0 31))) ∧
     Gives (.dabs h d a) g1 (fun t => pairOut d ((t.getPair a).extractLsb' 0 63 |>.setWidth 64)) ∧
     Gives (.dneg h d a) g1 (fun t => pairOut d (!(t.getPair a).msb |> BitVec.ofBool |> (· ++ (t.getPair a).extractLsb' 0 63)))) ∧
    (Gives (.fcmp h c p a b) f2 (fun t => let x := fp32.compare (z t) c.toNat (t.f32 a) (t.f32 b); { pOut p x.1 with fl := x.2 }) ∧
     Gives (.dcmp h c p a b) g2 (fun t => let x := fp64.compare (z t) c.toNat (t.f64 a) (t.f64 b); { pOut p x.1 with fl := x.2 }) ∧
     Gives (.fclass h d a) (hdForm h [.v a]) (fun t => vOut d (BitVec.ofNat 32 (fp32.classify (t.f32 a)))) ∧
     Gives (.fscale h d a b) f2 (fun t => fpRes d (fp32.scale (z t) (rmOf t.fpcsr) (t.f32 a) (t.getV b).toInt)))) ∧
  (∀ F : Fmt, F ∈ [fp64, fp32, fp16, bf16] → ∀ (z : Bool) (a b : Nat), a < 2 ^ (F.sp + 1) → b < 2 ^ (F.sp + 1) →
     let A := F.input z a
     let B := F.input z b
     let kept (x : Nat) : Nat := if z = true ∧ (F.value x).isFin = true ∧ |(F.value x).rat| < (2 : ℚ) ^ F.emin then F.make (F.sign x) 0 else x
     let less (x y : FV) : Prop := (x = .inf true ∧ y ≠ .inf true) ∨ (y = .inf false ∧ x ≠ .inf false) ∨
       (x.isFin = true ∧ y.isFin = true ∧ x.rat < y.rat)
     let same (x y : FV) : Prop := (x.isFin = true ∧ y.isFin = true ∧ x.rat = y.rat) ∨ ∃ n, x = .inf n ∧ y = .inf n
     let below (x y : FV) : Prop := less x y ∨ (x.isZero = true ∧ y.isZero = true ∧ x.neg = true ∧ y.neg = false)
     let signals : Bool := A.isSig || B.isSig
     (A.isNan = true → B.isNan = true → ∀ mx, F.minmax z mx a b = ⟨F.quiet a, if signals then fSNaN else 0⟩) ∧
     (A.isNan = true → B.isNan = false → ∀ mx, F.minmax z mx a b = ⟨kept b, if signals then fSNaN else 0⟩) ∧
     (A.isNan = false → B.isNan = true → ∀ mx, F.minmax z mx a b = ⟨kept a, if signals then fSNaN else 0⟩) ∧
     (A.isNan = false → B.isNan = false →
       (below A B → F.minmax z false a b = ⟨kept a, 0⟩ ∧ F.minmax z true a b = ⟨kept b, 0⟩) ∧
       (below B A → F.minmax z false a b = ⟨kept b, 0⟩ ∧ F.minmax z true a b = ⟨kept a, 0⟩) ∧
       (¬below A B → ¬below B A → ∀ mx, F.minmax z mx a b = ⟨kept a, 0⟩)) ∧
     (A.isNan = true ∨ B.isNan = true → F.compare z 0 a b = (false, if signals then fSNaN else 0) ∧
       F.compare z 1 a b = (false, if signals then fSNaN else fNV) ∧ F.compare z 2 a b = (false, if signals then fSNaN else fNV) ∧
       F.compare z 3 a b = (true, if signals then fSNaN else 0)) ∧
     (A.isNan = false → B.isNan = false → (∀ c, c < 4 → (F.compare z c a b).2 = 0) ∧ ((F.compare z 0 a b).1 = true ↔ same A B) ∧
       ((F.compare z 1 a b).1 = true ↔ less A B) ∧ ((F.compare z 2 a b).1 = true ↔ less A B ∨ same A B) ∧ (F.compare z 3 a b).1 = false)) ∧
  (∀ (z : Bool) (m : Mode) (a : Nat) (n : Int), a < 2 ^ 32 →
     let A := fp32.input z a
     let r := fp32.scale z m a n
     (A.isNan = true → r = ⟨a ||| 2 ^ 22, if A.isSig then fSNaN else 0⟩) ∧ (A.isInf = true → r = ⟨a, 0⟩) ∧
     (A.isZero = true → r = ⟨if A.neg then 2 ^ 31 else 0, 0⟩) ∧
     (A.isFin = true → A.isZero = false → fp32.Rounds z m A.neg ((A.rat : ℝ) * (2 : ℝ) ^ n) r)) ∧
  ∀ x : Nat, x < 2 ^ 32 →
    let v := fp32.value x
    let class_ (n p : Nat) : Prop := fp32.classify x = 2 ^ if v.neg then n else p
    (v.isInf = true → class_ 0 7) ∧ (v.isFin = true → (2 : ℚ) ^ (-126 : ℤ) ≤ |v.rat| → class_ 1 6) ∧
    (v.isFin = true → v.isZero = false → |v.rat| < (2 : ℚ) ^ (-126 : ℤ) → class_ 2 5) ∧ (v.isZero = true → class_ 3 4) ∧
    (v.isNan = true → fp32.classify x = if v.isSig then 2 ^ 8 else 2 ^ 9)

/-- The invalid cases of the rounding operations (R119): each gives the default NaN and raises NV, where no operand is a NaN.
Otherwise an operation computes the exact value and rounds it once (R118): NaN operands first, then infinities and zero divisors,
then the exact sum, difference, product, quotient, fused product-sum or root of finite operands, with the sign of a zero by R72.
`Round` is that of R72 with the overflow of R82, for every format; to nearest even it gives a value than which no encodable value
is nearer, where it does not overflow: FP32, with subnormals kept. -/
def Obligations.ExactThenRoundedOnce : Prop :=
  (∀ (F : Fmt), F = fp64 ∨ F = fp32 → ∀ (z : Bool) (m : Mode) (a b c : Nat),
     let A := F.input z a
     let B := F.input z b
     let C := F.input z c
     let nan3 := (F.value a).isNan || (F.value b).isNan || (F.value c).isNan
     let nan2 := (F.value a).isNan || (F.value b).isNan
     let fin (v : FV) : Prop := ∃ n k e, v = .fin n k e
     let inv : Res := ⟨F.nan, fNV⟩
     let infty (n : Bool) : Res := ⟨F.make n F.infinity, 0⟩
     let zero (n : Bool) : Res := ⟨F.make n 0, 0⟩
     let p := A.neg ^^ B.neg
     let infProd : Prop := (A.isInf = true ∧ B.isNan = false ∧ B.isZero = false) ∨ (B.isInf = true ∧ A.isNan = false ∧ A.isZero = false)
     let zeroInf : Prop := (A.isZero = true ∧ B.isInf = true) ∨ (A.isInf = true ∧ B.isZero = true)
     (nan2 = true →
       let r : Res := ⟨F.quiet (if (F.value a).isNan then a else b), if (F.value a).isSig || (F.value b).isSig then fSNaN else 0⟩
       F.add z m a b = r ∧ F.sub z m a b = r ∧ F.mul z m a b = r ∧ F.div z m a b = r) ∧
     (nan3 = true → F.fma z m a b c =
       ⟨F.quiet (if (F.value a).isNan then a else if (F.value b).isNan then b else c),
        if (F.value a).isSig || (F.value b).isSig || (F.value c).isSig then fSNaN else 0⟩) ∧
     (A.isNan = true → F.sqrt z m a = ⟨F.quiet a, if A.isSig then fSNaN else 0⟩) ∧
     ((∀ n, A = .inf n ∧ B = .inf (!n) → F.add z m a b = inv ∧ F.sub z m a b = infty n) ∧
      (∀ n, A = .inf n ∧ B = .inf n → F.sub z m a b = inv ∧ F.add z m a b = infty n) ∧
      (zeroInf → F.mul z m a b = inv ∧ (nan3 = false → F.fma z m a b c = inv)) ∧
      (infProd ∧ C = .inf (!p) → F.fma z m a b c = inv) ∧
      ((A.isZero = true ∧ B.isZero = true) ∨ (A.isInf = true ∧ B.isInf = true) → F.div z m a b = inv) ∧
      (A.isNan = false ∧ A.isZero = false ∧ A.neg = true → F.sqrt z m a = inv)) ∧
     ((∀ n, A = .inf n ∧ fin B → F.add z m a b = infty n ∧ F.sub z m a b = infty n ∧ F.div z m a b = infty p) ∧
      (∀ n, fin A ∧ B = .inf n → F.add z m a b = infty n ∧ F.sub z m a b = infty (!n) ∧ F.div z m a b = zero p) ∧
      (infProd → F.mul z m a b = infty p ∧ ((fin C ∨ C = .inf p) → F.fma z m a b c = infty p)) ∧
      (∀ n, fin A ∧ fin B ∧ C = .inf n → F.fma z m a b c = infty n) ∧
      (A = .inf false → F.sqrt z m a = infty false) ∧ (A.isZero = true → F.sqrt z m a = zero A.neg) ∧
      (fin A ∧ A.isZero = false ∧ B.isZero = true → F.div z m a b = ⟨F.make p F.infinity, fDZ⟩)) ∧
     (fin A ∧ fin B →
       (∃ v, fin v ∧ v.rat = A.rat + B.rat ∧ F.add z m a b = F.roundV z m v) ∧
       (∃ v, fin v ∧ v.rat = A.rat - B.rat ∧ F.sub z m a b = F.roundV z m v) ∧
       (∃ v, fin v ∧ v.rat = A.rat * B.rat ∧ F.mul z m a b = F.roundV z m v) ∧
       (fin C → ∃ v, fin v ∧ v.rat = A.rat * B.rat + C.rat ∧ F.fma z m a b c = F.roundV z m v)) ∧
     (fin A ∧ fin B →
       let opp (x y : Bool) : Bool := if x = y then x else m == .rdn
       (A.rat + B.rat = 0 → F.add z m a b = zero (opp A.neg B.neg)) ∧ (A.rat - B.rat = 0 → F.sub z m a b = zero (opp A.neg (!B.neg))) ∧
       (A.rat * B.rat = 0 → F.mul z m a b = zero p) ∧
       (fin C → A.rat * B.rat + C.rat = 0 → F.fma z m a b c = zero (opp p C.neg)) ∧
       (B.isZero = false → F.Rounds z m p ((A.rat : ℝ) / (B.rat : ℝ)) (F.div z m a b))) ∧
     (fin A ∧ A.isZero = false ∧ A.neg = false → F.Rounds z m false (√(A.rat : ℝ)) (F.sqrt z m a))) ∧
  (∀ (F : Fmt), F ∈ [fp64, fp32, fp16, bf16, e4m3, e5m2, e2m1] → ∀ (z : Bool) (m : Mode) (n : Bool) (k : Nat) (e : Int),
     F.roundV z m (.fin n k e) = F.round z m n k e ∧ F.Rounds z m n ((FV.fin n k e).rat : ℝ) (F.round z m n k e)) ∧
  (∀ (n : Bool) (m : Nat) (e : Int),
     let r := fp32.round false .rne n m e
     r.fl.getLsbD 2 = false →
       (∃ n' m' e', fp32.value r.bits = .fin n' m' e') ∧
       ∀ y n' m' e', y < 2 ^ 32 → fp32.value y = .fin n' m' e' →
         |(fp32.value r.bits).rat - (FV.fin n m e).rat| ≤ |(fp32.value y).rat - (FV.fin n m e).rat|)

/-- The floating-point formats are laid out as in the table of R73: sign, exponent and fraction by their places; the value of an
encoding by its exponent field; infinities and NaNs; the largest finite, smallest normal and smallest subnormal values; and an E8M0
code E as the factor 2^(E − 127), 0xFF as a NaN. -/
def Obligations.FormatsReadAsTheirTables : Prop :=
  (∀ F width eb fb bias, (F, width, eb, fb, bias) ∈ ([(fp64, 64, 11, 52, 1023), (fp32, 32, 8, 23, 127), (fp16, 16, 5, 10, 15),
       (bf16, 16, 8, 7, 127), (e4m3, 8, 4, 3, 7), (e5m2, 8, 5, 2, 15), (e2m1, 4, 2, 1, 1)] : List (Fmt × Nat × Nat × Nat × Nat)) → ∀ x : Nat, x < 2 ^ width →
     let E := x / 2 ^ fb % 2 ^ eb
     let f := x % 2 ^ fb
     let S := x.testBit (width - 1)
     let sign : ℚ := if S then -1 else 1
     let two (i : Int) : ℚ := (2 : ℚ) ^ i
     let is (v : ℚ) : Prop := (F.value x).isFin = true ∧ (F.value x).neg = S ∧ (F.value x).rat = sign * v
     let special : Prop := E = 2 ^ eb - 1 ∧ F ≠ e2m1 ∧ (F = e4m3 → f = 7)
     (E = 0 → is (two (1 - (bias : Int)) * ((f : ℚ) / 2 ^ fb))) ∧
     (E ≠ 0 → ¬special → is (two ((E : Int) - bias) * (1 + (f : ℚ) / 2 ^ fb))) ∧
     (special → F = e4m3 ∨ f ≠ 0 → (F.value x).isNan = true ∧ (F.value x).isSig = (decide (F ≠ e4m3) && !f.testBit (fb - 1))) ∧
     (special → F ≠ e4m3 → f = 0 → F.value x = .inf S)) ∧
  (∀ F top min sub, (F, top, min, sub) ∈ ([(fp64, (2 - (2 : ℚ) ^ (-52 : ℤ)) * 2 ^ 1023, -1022, -1074),
       (fp32, (2 - (2 : ℚ) ^ (-23 : ℤ)) * 2 ^ 127, -126, -149), (fp16, 65504, -14, -24), (bf16, (2 - (2 : ℚ) ^ (-7 : ℤ)) * 2 ^ 127, -126, -133),
       (e4m3, 448, -6, -9), (e5m2, 57344, -14, -16), (e2m1, 6, 0, -1)] : List (Fmt × ℚ × ℤ × ℤ)) →
     (F.value F.top).rat = top ∧ (F.value (2 ^ F.fb)).rat = (2 : ℚ) ^ min ∧ (F.value 1).rat = (2 : ℚ) ^ sub ∧
     ∀ x, x < 2 ^ (F.sp + 1) → |(F.value x).rat| ≤ top) ∧
  (e4m3.value 0x7E).rat = 448 ∧
  ((List.range 8).map fun x => (e2m1.value x).rat) = [0, 1 / 2, 1, 3 / 2, 2, 3, 4, 6] ∧
  (∀ E : Nat, E < 255 →
     let r := (QFmt.fl e2m1).dequantise false E 2
     r.fl = 0 ∧ r.bits < 2 ^ 31 ∧ (fp32.value r.bits).rat = (2 : ℚ) ^ (E - 127 : ℤ)) ∧
  (fp32.value ((QFmt.fl e2m1).dequantise false 255 2).bits).isNan = true

/-- Special functions, packed 16-bit arithmetic and packed compares (R125 to R127): each element on its own, with the union of the
flags. The special functions (R97): what NaN, infinite, zero and negative operands give; the reciprocal and the reciprocal square
root are the exact value rounded once to nearest even; powers of two and their logarithms are exact; the sine, the cosine and the
hyperbolic tangent are odd, even and odd, and near zero and far from it they are as the exact value rounds; and sample values of
each. The model's own choices in it: log 22, 40. -/
def Obligations.PackedAndSpecialResults : Prop :=
  ∀ (h : Hd) (bf : Bool) (d a b : Reg),
    let F : Fmt := if bf then bf16 else fp16
    let lo (x : Word) : Nat := x.toNat % 65536
    let hi (x : Word) : Nat := x.toNat / 65536
    let two (t : Thread) (e : Nat → Nat → Nat → Res) : LaneOut :=
      let p := e (lo (t.getV a)) (lo (t.getV b)) (lo (t.getV d))
      let q := e (hi (t.getV a)) (hi (t.getV b)) (hi (t.getV d))
      fpOut d (p.bits + 65536 * q.bits) (p.fl ||| q.fl)
    let z (t : Thread) : Bool := ftzOf t.fpcsr
    let m (t : Thread) : Mode := rmOf t.fpcsr
    let cmp (k : Nat) (t : Thread) (x y : Nat) : Res := let r := F.compare (z t) k x y; ⟨if r.1 then 0xFFFF else 0, r.2⟩
    let f2 := hdForm h [.f, .v a, .v b]
    let f1 := hdForm h [.f, .v a]
    (Gives (.hadd2 h bf d a b) f2 (fun t => two t fun x y _ => F.add (z t) (m t) x y) ∧
     Gives (.hsub2 h bf d a b) f2 (fun t => two t fun x y _ => F.sub (z t) (m t) x y) ∧
     Gives (.hmul2 h bf d a b) f2 (fun t => two t fun x y _ => F.mul (z t) (m t) x y) ∧
     Gives (.hfma2 h bf d a b) (hdForm h [.f, .v a, .v b, .v d]) (fun t => two t fun x y w => F.fma (z t) (m t) x y w) ∧
     Gives (.hmin2 h bf d a b) f2 (fun t => two t fun x y _ => F.minmax (z t) false x y) ∧
     Gives (.hmax2 h bf d a b) f2 (fun t => two t fun x y _ => F.minmax (z t) true x y)) ∧
    (Gives (.hcmp2Eq h bf d a b) f2 (fun t => two t fun x y _ => cmp 0 t x y) ∧
     Gives (.hcmp2Lt h bf d a b) f2 (fun t => two t fun x y _ => cmp 1 t x y) ∧
     Gives (.hcmp2Le h bf d a b) f2 (fun t => two t fun x y _ => cmp 2 t x y) ∧
     Gives (.hcmp2Un h bf d a b) f2 (fun t => two t fun x y _ => cmp 3 t x y)) ∧
    (Gives (.frcp h d a) f1 (fun t => fpRes d (specialFn 0 (z t) (t.f32 a))) ∧
     Gives (.frsq h d a) f1 (fun t => fpRes d (specialFn 1 (z t) (t.f32 a))) ∧
     Gives (.fex2 h d a) f1 (fun t => fpRes d (specialFn 2 (z t) (t.f32 a))) ∧
     Gives (.flg2 h d a) f1 (fun t => fpRes d (specialFn 3 (z t) (t.f32 a))) ∧
     Gives (.fsin h d a) f1 (fun t => fpRes d (specialFn 4 (z t) (t.f32 a))) ∧
     Gives (.fcos h d a) f1 (fun t => fpRes d (specialFn 5 (z t) (t.f32 a))) ∧
     Gives (.ftanh h d a) f1 (fun t => fpRes d (specialFn 6 (z t) (t.f32 a)))) ∧
    (∀ (z : Bool) (x : Nat), x < 2 ^ 32 →
      let X := fp32.input z x
      let v : ℝ := (X.rat : ℝ)
      let sf (fn : Nat) : Res := specialFn fn z x
      let inv : Res := ⟨0x7FC00000, fNV⟩
      let one (fl : Flags) : Res := ⟨0x3F800000, fl⟩
      let pow (i : ℤ) : Prop := v = (2 : ℝ) ^ i
      (X.isNan = true → ∀ fn < 7, sf fn = ⟨0x7FC00000, if X.isSig then fSNaN else 0⟩) ∧
      (∀ n, X = .inf n → sf 0 = ⟨fp32.make n 0, 0⟩ ∧ sf 1 = (if n then inv else ⟨0, 0⟩) ∧ sf 2 = ⟨if n then 0 else 0x7F800000, 0⟩ ∧
        sf 3 = (if n then inv else ⟨0x7F800000, 0⟩) ∧ sf 4 = inv ∧ sf 5 = inv ∧ sf 6 = ⟨if n then 0xBF800000 else 0x3F800000, 0⟩) ∧
      (∀ n e, X = .fin n 0 e → sf 0 = ⟨fp32.make n 0x7F800000, fDZ⟩ ∧ sf 1 = ⟨fp32.make n 0x7F800000, fDZ⟩ ∧ sf 2 = one 0 ∧
        sf 3 = ⟨0xFF800000, fDZ⟩ ∧ sf 4 = ⟨fp32.make n 0, 0⟩ ∧ sf 5 = one 0 ∧ sf 6 = ⟨fp32.make n 0, 0⟩) ∧
      (∀ n k e, X = .fin n k e → k ≠ 0 →
        let y := if n then x - 2 ^ 31 else x + 2 ^ 31
        let neg (r : Res) : Res := ⟨if 2 ^ 31 ≤ r.bits then r.bits - 2 ^ 31 else r.bits + 2 ^ 31, r.fl⟩
        (fp32.Rounds z .rne n (1 / v) (sf 0) ∧ (n = true → sf 1 = inv ∧ sf 3 = inv) ∧
         (n = false → fp32.Rounds z .rne false (1 / √v) (sf 1))) ∧
        (∀ i : ℤ, v = i →
          (-126 ≤ i → i ≤ 127 → sf 2 = ⟨((i + 127) * 2 ^ 23).toNat, 0⟩) ∧ (128 ≤ i → sf 2 = ⟨0x7F800000, fOF ||| fNX⟩) ∧
          (-149 ≤ i → i < -126 → sf 2 = if z then ⟨0, fUF ||| fNX⟩ else ⟨2 ^ (i + 149).toNat, 0⟩) ∧ (i < -149 → sf 2 = ⟨0, fUF ||| fNX⟩)) ∧
        (∀ i : ℤ, pow i → (sf 3).fl = 0 ∧ (sf 3).bits < 2 ^ 32 ∧ (fp32.value (sf 3).bits).rat = i ∧ (i = 0 → (sf 3).bits = 0)) ∧
        (specialFn 4 z y = neg (sf 4) ∧ specialFn 5 z y = sf 5 ∧ specialFn 6 z y = neg (sf 6)) ∧
        (|v| < (2 : ℝ) ^ (-40 : ℤ) → sf 5 = one fNX ∧ ((2 : ℝ) ^ (-126 : ℤ) < |v| → sf 4 = ⟨x, fNX⟩ ∧ sf 6 = ⟨x, fNX⟩)) ∧
        (32 ≤ |v| → sf 6 = ⟨if n then 0xBF800000 else 0x3F800000, fNX⟩))) ∧
    (∀ z : Bool, specialFn 1 z 0x40000000 = ⟨0x3F3504F3, fNX⟩ ∧ specialFn 2 z 0x3F000000 = ⟨0x3FB504F3, fNX⟩ ∧
      specialFn 3 z 0x40400000 = ⟨0x3FCAE00D, fNX⟩ ∧ specialFn 4 z 0x3F800000 = ⟨0x3F576AA4, fNX⟩ ∧ specialFn 4 z 0x42C80000 = ⟨0xBF01A12E, fNX⟩ ∧
      specialFn 5 z 0x3F800000 = ⟨0x3F0A5140, fNX⟩ ∧ specialFn 5 z 0x42C80000 = ⟨0x3F5CC0EE, fNX⟩ ∧
      specialFn 6 z 0x3F800000 = ⟨0x3F42F7D6, fNX⟩)

/-- Conversions, quantisation and block scales (R128 to R135). The values of a conversion (R81 to R83): a NaN carries its sign and
leading payload bits into a wider or narrower format, an infinity gives an infinity, or what the format has for it, a finite value
is rounded once, and an integer is rounded or saturated. The scale that `scx` chooses (R132), and the value of an element under a
scale: quantised (R133), read as FP32 (R135), and brought under a common scale (R134). The model's own choices in it: log 22, 93,
104. -/
def Obligations.ConversionAndQuantisationResults : Prop :=
  ∀ (h : Hd) (r : BitVec 3) (u v : BitVec 4) (k : BitVec 2) (d a b : Reg),
    let z (t : Thread) : Bool := ftzOf t.fpcsr
    let f2 := hdForm h [.f, .v a, .v b]
    let el (w x i : Nat) : Nat := x / 2 ^ (w * i) % 2 ^ w
    let pack (w : Nat) (rs : List Res) : Nat := (rs.mapIdx fun i x => x.bits * 2 ^ (w * i)).sum
    let all (rs : List Res) : Flags := rs.foldl (fun x y => x ||| y.fl) 0
    let quant (i : Instr) (q : QFmt) (w n : Nat) : Prop :=
      Gives i (hdForm h (.f :: (groupRegs a n ++ [.v b]))) fun t =>
        let rs := (t.group a n).map fun x => q.quantise (z t) ((t.getV b).toNat % 256) x.toNat
        fpOut d (pack w rs) (all rs)
    let deq (i : Instr) (q : QFmt) (w n : Nat) : Prop :=
      Gives i f2 fun t =>
        let rs := (List.range n).map fun j => q.dequantise (z t) ((t.getV b).toNat % 256) (el w (t.getV a).toNat j)
        groupOut d (rs.map fun x => BitVec.ofNat 32 x.bits) (all rs)
    let common (i : Instr) (f : Form) (q : QFmt) (w n : Nat) (sc : Thread → Nat) : Prop :=
      Gives i f fun t =>
        let es := (List.range n).map fun j => (sc t / 2 ^ (8 * j) % 256, el w (t.getV a).toNat j)
        let top := (es.map (·.1)).foldl max 0
        let rs : List Res := if top = 255 then es.map fun _ => ⟨q.nan, 0⟩ else es.map fun e => q.rescale e.1 top e.2
        let fl := if top = 255 then fNV ||| (if es.any fun e => (q.value e.2).isSig then fSNaN else 0) else all rs
        groupOut d [BitVec.ofNat 32 (pack w rs), BitVec.ofNat 32 top] fl
    (r.toNat ≤ 4 → cvtLegal u v = true →
      let word : Bool := v.toNat ≠ 2 ∧ v.toNat ≠ 3 ∧ v.toNat ≠ 4
      let unrounded : Bool := v.toNat ≤ 3 ∧ (u.toNat ≤ 3 ∨ (u.toNat = 4 ∧ word = true))
      Gives (.cvt h r u v d a) (hdForm h ((if unrounded then [] else [.f]) ++ if word then [.v a] else [.v a, .v (a + 1)])) fun t =>
        let x := cvtValue u v (z t) (modeOf r t.fpcsr) (if cvtWide v then t.getPair a else (t.getV a).setWidth 64)
        { writes := if cvtWide u then pairWrites d x.1 else [(.v d, (x.1.setWidth 32).setWidth 64)], fl := x.2 }) ∧
    Gives (.scx h d a b) f2 (fun t => fpRes d (Machine.scx (t.f32 a) (t.getV b).toInt)) ∧
    (k.toNat ≤ 2 → quant (.q8 h k d a b) (q8Fmt k) 8 4 ∧ deq (.dq8 h k d a b) (q8Fmt k) 8 4 ∧
      common (.q8Cs h k d a b) f2 (q8Fmt k) 8 4 fun t => (t.getV b).toNat) ∧
    (k.toNat ≤ 1 → quant (.q4 h k d a b) (q4Fmt k) 4 8 ∧ deq (.dq4 h k d a b) (q4Fmt k) 4 8 ∧
      common (.q4Cs h k d a b) (hdForm h [.f, .v a, .v b, .v (b + 1)]) (q4Fmt k) 4 8 fun t => (t.getPair b).toNat) ∧
    (let fmts : List (Nat × Fmt) := [(4, fp64), (5, fp32), (6, fp16), (7, bf16), (8, e4m3), (9, e5m2), (10, e2m1)]
     let ints : List (Nat × Int × Int) := [(0, -2 ^ 31, 2 ^ 31 - 1), (1, 0, 2 ^ 32 - 1), (2, -2 ^ 63, 2 ^ 63 - 1), (3, 0, 2 ^ 64 - 1)]
     let int (w : Nat) (x : DWord) : Int :=
       if w = 0 then (x.setWidth 32).toInt else if w = 1 then (x.setWidth 32).toNat else if w = 2 then x.toInt else x.toNat
     ∀ (z : Bool) (m : Mode) (x : DWord), cvtLegal u v = true →
       let c := cvtValue u v z m x
       (∀ D S, (u.toNat, D) ∈ fmts → (v.toNat, S) ∈ fmts →
         let b := x.toNat % 2 ^ (S.sp + 1)
         let sig := (S.value b).isSig
         ((S.value b).isNan = true →
           (D.ieee = true → c.2 = (if sig then fSNaN else 0) ∧ c.1.toNat < 2 ^ (D.sp + 1) ∧ c.1.getLsbD D.sp = x.getLsbD S.sp ∧
             (∀ i, D.fb ≤ i → i < D.sp → c.1.getLsbD i = true) ∧ c.1.getLsbD (D.fb - 1) = true ∧
             ∀ j, 1 ≤ j → j < D.fb → c.1.getLsbD (D.fb - 1 - j) = (S.ieee && decide (j < S.fb) && x.getLsbD (S.fb - 1 - j))) ∧
           (D = e4m3 → c = (BitVec.ofNat 64 (if x.getLsbD S.sp then 0xFF else 0x7F), if sig then fSNaN else 0)) ∧
           (D = e2m1 → c = (0, if sig then fSNaN else fNV))) ∧
         (∀ n, S.value b = .inf n →
           (D.ieee = true → c = (BitVec.ofNat 64 (D.make n D.infinity), 0)) ∧
           (D = e4m3 → c = (if n then 0xFF else 0x7F, fNV)) ∧ (D = e2m1 → c = (if n then 0xF else 7, fNV))) ∧
         ∀ n k e, S.input z b = .fin n k e →
           ∃ r, D.Rounds z m n ((S.input z b).rat : ℝ) r ∧ c = (BitVec.ofNat 64 r.bits, r.fl)) ∧
       (∀ lo hi S, (u.toNat, lo, hi) ∈ ints → (v.toNat, S) ∈ fmts →
         let b := x.toNat % 2 ^ (S.sp + 1)
         ((S.value b).isNan = true → c = (0, if (S.value b).isSig then fSNaN else fNV)) ∧
         (∀ n, S.value b = .inf n → c = (BitVec.ofInt 64 (if n then lo else hi), fNV)) ∧
         ∀ n k e, S.input z b = .fin n k e → ∃ w : ℤ, m.Makes ((S.input z b).rat : ℝ) w ∧
           (w < lo → c = (BitVec.ofInt 64 lo, fNV)) ∧ (hi < w → c = (BitVec.ofInt 64 hi, fNV)) ∧
           (lo ≤ w → w ≤ hi → c = (BitVec.ofInt 64 w, if (w : ℚ) = (S.input z b).rat then 0 else fNX))) ∧
       (∀ D lo hi, (u.toNat, D) ∈ fmts → (v.toNat, lo, hi) ∈ ints →
         ∃ r, D.Rounds z m (decide (int v.toNat x < 0)) ((int v.toNat x : ℤ) : ℝ) r ∧ c = (BitVec.ofNat 64 r.bits, r.fl)) ∧
       ∀ lo hi lo' hi', (u.toNat, lo, hi) ∈ ints → (v.toNat, lo', hi') ∈ ints →
         c = (BitVec.ofInt 64 (max lo (min hi (int v.toNat x))), 0)) ∧
    (∀ (x : Nat) (emax : Int),
      ((fp32.value x).isNan = true → Machine.scx x emax = ⟨255, if (fp32.value x).isSig then fSNaN else fNV⟩) ∧
      ((fp32.value x).isInf = true → Machine.scx x emax = ⟨254, fNV⟩) ∧ ((fp32.value x).isZero = true → Machine.scx x emax = ⟨0, 0⟩) ∧
      ∀ i : ℤ, (2 : ℚ) ^ i ≤ |(fp32.value x).rat| → |(fp32.value x).rat| < (2 : ℚ) ^ (i + 1) →
        Machine.scx x emax = ⟨(max 0 (min 254 (i - emax + 127))).toNat, 0⟩) ∧
    ∀ (q : QFmt) (top : ℚ) (E T : Nat) (z : Bool) (x : Nat),
      (q, top) ∈ [(.fl e4m3, 448), (.fl e5m2, 57344), (.fl e2m1, 6), (.int 8, 127), (.int 4, 7)] → E < 255 →
      let X := fp32.input z x
      let y : ℝ := (X.rat : ℝ) * (2 : ℝ) ^ (127 - E : ℤ)
      let nan : Nat := if q = .fl e4m3 then 0x7F else if q = .fl e5m2 then 0x7E else 0
      let noNan : Bool := nan = 0
      (let r := q.quantise z E x
       q.quantise z 255 x = ⟨nan, if X.isSig then fSNaN else fNV⟩ ∧
       (X.isNan = true → r = ⟨nan, if X.isSig then fSNaN else if noNan then fNV else 0⟩) ∧
       (∀ n, X = .inf n → (q.value r.bits).rat = (if n then -top else top) ∧ r.fl = fNV) ∧
       (∀ n k e F, X = .fin n k e → q = .fl F → ∃ r', F.Rounds false .rne n y r' ∧
         (r'.fl &&& fOF = 0 → r = r') ∧ (r'.fl &&& fOF ≠ 0 → (q.value r.bits).rat = (if n then -top else top) ∧ r.fl = fOF ||| fNX)) ∧
       (∀ n k e b, X = .fin n k e → q = .int b → ∃ w : ℤ, Mode.rne.Makes y w ∧
         (|(w : ℚ)| ≤ top → r.bits = (BitVec.ofInt b w).toNat ∧ ((w : ℝ) = y → r.fl = 0) ∧ ((w : ℝ) ≠ y → r.fl = fNX)) ∧
         (top < |(w : ℚ)| → (q.value r.bits).rat = (if n then -top else top) ∧ r.fl = fOF ||| fNX))) ∧
      (x < 2 ^ q.width →
        let V := q.value x
        (∀ b, q = .int b → V.rat = ((BitVec.ofNat b x).toInt : ℚ)) ∧
        q.dequantise z 255 x = ⟨0x7FC00000, if V.isSig then fSNaN else fNV⟩ ∧
        (V.isNan = true → q.dequantise z E x = ⟨0x7FC00000, if V.isSig then fSNaN else 0⟩) ∧
        (∀ n k e, V = .fin n k e → fp32.Rounds z .rne n ((V.rat : ℝ) * (2 : ℝ) ^ (E - 127 : ℤ)) (q.dequantise z E x)) ∧
        (E ≤ T →
          let r := q.rescale E T x
          (∀ F, q = .fl F → V.isNan = true → r = ⟨F.quiet x, if V.isSig then fSNaN else 0⟩) ∧
          (∀ F n k e, q = .fl F → V = .fin n k e → F.Rounds false .rne n ((V.rat : ℝ) * (2 : ℝ) ^ (E - T : ℤ)) r) ∧
          ∀ b, q = .int b → ∃ w : ℤ, Mode.rne.Makes ((V.rat : ℝ) * (2 : ℝ) ^ (E - T : ℤ)) w ∧ r.bits = (BitVec.ofInt b w).toNat ∧
            ((w : ℚ) = V.rat * (2 : ℚ) ^ (E - T : ℤ) → r.fl = 0) ∧ ((w : ℚ) ≠ V.rat * (2 : ℚ) ^ (E - T : ℤ) → r.fl = fNX)))

/-- Dot products and random numbers (R136 to R142). The nodes of a floating dot product (R87, R138): exact products, a tree of sums of
neighbours, each rounded once to FP32, and the block sum scaled by both scales (R84), which is added to the accumulator (R88); NaNs
and infinities of each. `gumbel` (R142): sample values. The model's own choices in it: log 22, 40, 93. -/
def Obligations.DotProductsAndRandomNumbers : Prop :=
  ∀ (h : Hd) (k : BitVec 2) (d a b : Reg),
    let sx (w x i : Nat) : Int := (BitVec.ofNat w (x / 2 ^ (w * i))).toInt
    let idot (w n : Nat) (t : Thread) : Word :=
      BitVec.ofInt 32 ((t.getV d).toInt + ((List.range n).map fun i => sx w (t.getV a).toNat i * sx w (t.getV b).toNat i).sum)
    let el (w x i : Nat) : Nat := x / 2 ^ (w * i) % 2 ^ w
    let dot (F : Fmt) (w n x y ea eb acc : Nat) : Res :=
      accumulate acc (blockSum n ((List.range (2 ^ n)).map fun i => product (F.value (el w x i)) (F.value (el w y i))) ea eb)
    let scaled (i : Instr) (F : Fmt) (w n : Nat) : Prop :=
      Gives i (hdForm h [.f, .v a, .v (a + 1), .v b, .v (b + 1), .v d]) fun t =>
        fpRes d (dot F w n (t.getV a).toNat (t.getV b).toNat (el 8 (t.getV (a + 1)).toNat k.toNat) (el 8 (t.getV (b + 1)).toNat k.toNat)
          (t.f32 d))
    let g3 := hdForm h [.v a, .v b, .v d]
    let f3 := hdForm h [.f, .v a, .v b, .v d]
    let round (x w : DWord) : DWord :=
      let x := x ^^^ w
      let x := (x ^^^ (x >>> 31)) * 0xC3A59E714B2D6F0B
      let x := (x ^^^ (x >>> 29)) * 0x8F13D2C75A69E4B5
      x ^^^ (x >>> 32)
    let G2 : DWord := 0xA7E13C95D08B4F27
    Gives (.dp4 h d a b) g3 (fun t => vOut d (idot 8 4 t)) ∧
    Gives (.dp8 h d a b) g3 (fun t => vOut d (idot 4 8 t)) ∧
    scaled (.fdp4E4m3 h k d a b) e4m3 8 2 ∧ scaled (.fdp4E5m2 h k d a b) e5m2 8 2 ∧ scaled (.fdp8 h k d a b) e2m1 4 3 ∧
    Gives (.hdp2F16 h d a b) f3 (fun t => fpRes d (dot fp16 16 1 (t.f32 a) (t.f32 b) 127 127 (t.f32 d))) ∧
    Gives (.hdp2Bf16 h d a b) f3 (fun t => fpRes d (dot bf16 16 1 (t.f32 a) (t.f32 b) 127 127 (t.f32 d))) ∧
    Gives (.gen h d a b) (hdForm h [.v a, .v (a + 1), .v b, .v (b + 1)]) (fun t =>
      let key := t.getPair a
      pairOut d (round (round (round (round (t.getPair b) key) (key + G2)) (key + 2 * G2)) (key + 3 * G2))) ∧
    Gives (.gumbel h d a) (hdForm h [.f, .v a]) (fun t => fpOut d (Machine.gumbel (t.getV a)).bits fNX) ∧
    Gives (.rndf h d a) (hdForm h [.v a]) (fun t => vOut d (BitVec.ofNat 32 (Machine.rndf (t.getV a)))) ∧
    (∀ x : Word, (fp32.value (Machine.rndf x)).rat = ((x >>> 8).toNat : ℚ) * (2 : ℚ) ^ (-24 : ℤ)) ∧
    (∀ x y : FV,
      (x.isNan = true ∨ y.isNan = true → product x y = ⟨.nan false, if x.isSig || y.isSig then fSNaN else 0⟩) ∧
      ((x.isInf = true ∧ y.isZero = true) ∨ (x.isZero = true ∧ y.isInf = true) → product x y = ⟨.nan false, fNV⟩) ∧
      ((x.isInf = true ∧ y.isNan = false ∧ y.isZero = false) ∨ (y.isInf = true ∧ x.isNan = false ∧ x.isZero = false) →
        product x y = ⟨.inf (x.neg ^^ y.neg), 0⟩) ∧
      (x.isFin = true → y.isFin = true → ∃ m e, product x y = ⟨.fin (x.neg ^^ y.neg) m e, 0⟩ ∧
        (FV.fin (x.neg ^^ y.neg) m e).rat = x.rat * y.rat) ∧
      (x.isNan = true ∨ y.isNan = true → addNode x y = ⟨.nan false, 0⟩) ∧
      (∀ n, x = .inf n → y = .inf (!n) → addNode x y = ⟨.nan false, fNV⟩) ∧
      (∀ n, x = .inf n → y.isFin = true ∨ y = .inf n → addNode x y = ⟨.inf n, 0⟩ ∧ addNode y x = ⟨.inf n, 0⟩) ∧
      (x.isFin = true → y.isFin = true →
        let v : ℝ := ((x.rat + y.rat : ℚ) : ℝ)
        ∃ n r, fp32.Rounds false .rne n v r ∧ addNode x y = ⟨fp32.value r.bits, r.fl⟩ ∧ (v < 0 → n = true) ∧ (0 < v → n = false) ∧
          (v = 0 → n = (x.neg && y.neg)))) ∧
    (∀ (j : Nat) (ps : List Node), tree 0 ps = ps ∧
      (ps.length = 2 ^ (j + 1) → tree (j + 1) ps = tree j ((List.range (2 ^ j)).map fun i =>
        let x := ps.getD (2 * i) ⟨.nan false, 0⟩
        let y := ps.getD (2 * i + 1) ⟨.nan false, 0⟩
        ⟨(addNode x.v y.v).v, (addNode x.v y.v).fl ||| x.fl ||| y.fl⟩)) ∧
      ∀ (n : Node) (ea eb : Nat), tree j ps = [n] →
        (ea = 255 ∨ eb = 255 → blockSum j ps ea eb = ⟨.nan false, n.fl ||| fNV⟩) ∧
        (ea ≠ 255 → eb ≠ 255 → (n.v.isFin = false → blockSum j ps ea eb = n) ∧
          (n.v.isFin = true → ∃ r, fp32.Rounds false .rne n.v.neg ((n.v.rat : ℝ) * (2 : ℝ) ^ (ea - 127 : ℤ) * (2 : ℝ) ^ (eb - 127 : ℤ)) r ∧
            blockSum j ps ea eb = ⟨fp32.value r.bits, r.fl ||| n.fl⟩))) ∧
    (∀ (acc : Nat) (s : Node),
      let x := addNode (fp32.value acc) s.v
      let fl := x.fl ||| s.fl ||| if (fp32.value acc).isSig then fSNaN else 0
      (x.v.isNan = true → accumulate acc s = ⟨0x7FC00000, fl⟩) ∧
      (x.v.isNan = false → fp32.value (accumulate acc s).bits = x.v ∧ (accumulate acc s).bits < 2 ^ 32 ∧ (accumulate acc s).fl = fl)) ∧
    ([0, 1, 0x5E2D58D8, 0x80000000, 0x12345678, 0xFFFFFFFF].map (fun x : Word => (Machine.gumbel x).bits)) =
      [0xC04851D5, 0xC0452B66, 0xAF0CA34B, 0x3EBBA795, 0xBF78DC16, 0x41B6FDA9]

/-- `gets` reads the table of R17 by the numbers of R66; `sets` writes `fpcsr` after every earlier result, or a modulo register
(R143, R144); `nop` writes nothing (R145). The model's own choices in it: log 22. -/
def Obligations.SpecialRegisterAccess : Prop :=
  ∀ (h : Hd) (d a : Reg),
    let own (s : State) (t : Thread) (e : Company → Nat) : Nat := (s.company? t.cid).elim 0 e
    let read (n : BitVec 9) (src : List RegId) (e : State → Thread → Word) : Prop :=
      ∀ s, GivesAt s (.gets h n d) (hdForm h src) fun s ps t => vOut d (e s (sourceOf h.uni ps t))
    (read 0x00 [] (fun _ t => BitVec.ofNat 32 (t.tid % 32)) ∧ read 0x01 [] (fun _ t => BitVec.ofNat 32 t.tid) ∧
     read 0x02 [] (fun _ t => BitVec.ofNat 32 (t.tid / 32)) ∧
     read 0x03 [] (fun s t => BitVec.ofNat 32 (own s t Company.index)) ∧
     read 0x04 [] (fun s t => BitVec.ofNat 32 (own s t Company.core)) ∧
     read 0x05 [] (fun s t => BitVec.ofNat 32 (deckOf (own s t Company.core) % 6)) ∧
     read 0x06 [] (fun s t => BitVec.ofNat 32 (pierOf (own s t Company.core))) ∧
     (∀ n : Fin 6, read (BitVec.ofNat 9 (0x08 + n)) [] fun s t => BitVec.ofNat 32 (own s t fun c => c.lvl.getD n 0)) ∧
     read 0x11 [.f] (fun _ t => t.fpcsr) ∧
     (∀ n : Fin 4, read (BitVec.ofNat 9 (0x18 + n)) [.q n] fun _ t => t.getQ n)) ∧
    (∀ s, GivesAt s (.gets h 0x10 d) (hdForm h []) fun s ps t =>
      pairOut d (BitVec.ofNat 64 (s.core (own s (sourceOf h.uni ps t) Company.core)).clk)) ∧
    Gives (.sets h 0x11 a) { hdForm h [.v a] with mark := true } (fun t => { writes := [(.f, (t.getV a).setWidth 64)] }) ∧
    (∀ n : Fin 4, Gives (.sets h (BitVec.ofNat 9 (0x18 + n)) a) (hdForm h [.v a]) fun t =>
      { writes := [(.q n, (t.getV a).setWidth 64)] }) ∧
    ∀ m, Gives (.nop m) (markForm m) fun _ => { writes := [] }

/-- Exchanges and votes among the lanes of a troupe (R188 to R190): the value of home lane `l` is what its participating thread
reads. Reductions and scans (R191, R192): integer forms give the sum, maximum or minimum of the participating threads' values,
up to the thread's own home lane in a scan; the FP32 form gives the value of the fixed tree. The model's own choices in it: log
22, 23. -/
def Obligations.CrossLaneResults : Prop :=
  (∀ (m : Bool) (st : BitVec 3) (mode : BitVec 2) (d a b : Reg) (p : PredOp) (q : BitVec 3) (s : State),
     let val (s : State) (ps : List Thread) (l : Nat) (r : Reg) : Word := s.laneValue ps r l
     (st.toNat < 5 → GivesAt s (.bfx m st d a) (markForm m [.v d, .v a]) fun s ps t =>
       let l := t.lane
       let o := if l.testBit st.toNat then l - 2 ^ st.toNat else l + 2 ^ st.toNat
       if l.testBit st.toNat then vOut d (val s ps o a) else vOut a (val s ps o d)) ∧
     GivesAt s (.lget m mode d a b) (markForm m [.v a, .v b]) (fun s ps t =>
       let c := (t.getV b).toNat
       let w := 2 ^ min (c / 256 % 8) 5
       let l := if mode = 0 then c % 32 else if mode = 1 then (t.lane + c) % 32
         else if mode = 2 then t.lane / w * w + c % 32 % w else t.lane / w * w + (w - 1 - t.lane % w)
       vOut d (val s ps l a)) ∧
     GivesAt s (.pollCnt m d p) (markForm m [.p p.p.toNat]) (fun _ ps _ =>
       vOut d (BitVec.ofNat 32 (ps.filter fun u => u.getP p.p.toNat ^^ p.neg).length)) ∧
     GivesAt s (.pollRank m d p) (markForm m [.p p.p.toNat]) (fun _ ps t =>
       vOut d (BitVec.ofNat 32 (ps.filter fun u => (u.getP p.p.toNat ^^ p.neg) && u.lane < t.lane).length)) ∧
     GivesAt s (.pollMask m d p) (markForm m [.p p.p.toNat]) (fun _ ps _ =>
       vOut d ((List.range 32).foldl (fun x l =>
         if ps.any fun u => u.lane == l && (u.getP p.p.toNat ^^ p.neg) then x + (1#32 <<< l) else x) 0)) ∧
     GivesAt s (.pollSame m q a) (markForm m [.v a]) (fun _ ps t => pOut q (ps.all fun u => u.getV a == t.getV a)) ∧
     ∀ (ps : List Thread) (t : Thread) (r : Reg), t ∈ ps → (ps.map Thread.lane).Nodup → val s ps t.lane r = t.getV r) ∧
  (∀ (m : Bool) (op : BitVec 2) (d a : Reg) (s : State) (ps : List Thread) (s1 : State), s.Issues (markForm m [.v a]) ps s1 →
     (ps.map Thread.lane).Nodup →
     let of (qs : List Thread) : Word :=
       if op = 0 then (qs.map fun u => u.getV a).sum
       else
         let xs := qs.map fun u => (u.getV a).toInt
         BitVec.ofInt 32 (if op = 2 then xs.foldl max (xs.headD 0) else xs.foldl min (xs.headD 0))
     (op ≠ 1 →
       (∃ s', exec (.redx m op d a) s = .next s' ∧ LaneDone s1 s' ps fun _ => vOut d (of ps)) ∧
       ∃ s', exec (.scanx m op d a) s = .next s' ∧ LaneDone s1 s' ps fun t => vOut d (of (ps.filter fun u => u.lane ≤ t.lane))) ∧
     (op = 1 →
       ((∀ t ∈ ps, fpTrap t.fpcsr (redxOf 1 a ps).2 = none) → ∃ s', exec (.redx m op d a) s = .next s' ∧
         LaneDone s1 s' ps fun _ => { vOut d (redxOf 1 a ps).1 with fl := (redxOf 1 a ps).2 }) ∧
       ((∀ t ∈ ps, fpTrap t.fpcsr (scanxOf 1 a ps).2 = none) → ∃ s', exec (.scanx m op d a) s = .next s' ∧
         LaneDone s1 s' ps fun t => { vOut d (((scanxOf 1 a ps).1.getD t.lane none).getD 0) with fl := (scanxOf 1 a ps).2 })))

/-- Every member of the group moves past the instruction, and the guard window of each counts it (R30, R195); its registers are as
before, unless a marked instruction brings in what other agents wrote to them (R155); other threads and memory are as before. `grd`
opens a window over the next n instructions of each participating thread, with the predicate it read (R195). -/
def Obligations.GroupMovesPastAndGuards : Prop :=
  (∀ (s s1 : State) (f : Form) (ps : List Thread) (g : Issue), s.issue = some g → s.Issues f ps s1 →
     (∀ t ∈ s.members g, s1.thread? t.cid t.tid = some (Thread.issued f t)) ∧
     (∀ c i, (∀ t ∈ s.members g, ¬(t.cid = c ∧ t.tid = i)) → s1.thread? c i = s.thread? c i) ∧
     (∀ l, l.offChip = true → s1.getLoc l = s.getLoc l) ∧
     ∀ t : Thread, (Thread.issued f t).pc = t.pc + BitVec.ofNat 64 f.len ∧
       (f.mark = false ∨ t.far = [] → ∀ r, (Thread.issued f t).reg r = t.reg r) ∧
       (Thread.issued f t).guard = (match t.guard with
         | some w => if 2 ≤ w.left then some ⟨w.pass, w.left - 1⟩ else none
         | none => none)) ∧
  (∀ (h : Hd) (p : PredOp) (n1 : BitVec 3) (s s1 : State) (ps : List Thread), s.Issues (hdForm h [.p p.p.toNat]) ps s1 →
     ∃ s', exec (.grd h p n1) s = .next s' ∧ ThreadsDone s1 s' ps fun t u =>
       { u with guard := some ⟨(sourceOf h.uni ps t).getP p.p.toNat ^^ p.neg, n1.toNat + 1⟩ })

/-! ### Traps and control flow -/

/-- Taking a trap (R303, R305, R308, R312). Where no handler can be entered the company is terminated: REASON DOUBLE at the third
nesting level, NOHANDLER where the vector base is not valid, AREA where the side-buffer entry fails its checks (R299, R300, R312,
R313). Accesses that meet a migrating page, which wait (R151), are left out. The model's own choices in it: log 33, 38, 84. -/
def Obligations.TrapEntryOrTermination : Prop :=
  (∀ (s : State) (u : Thread) (tr : Trap) (base : DWord) (sys : Bool) (k : Checked) (pc : DWord) (g : Option GuardWin) (cmd : Option Nat),
     TrapPlace s u tr base sys k → TrapTaken s (s.takeTrap u.cid u.tid tr pc g cmd) u tr base sys k pc g) ∧
  (∀ (s : State) (u : Thread) (c : Company) (tr : Trap) (pc : DWord) (g : Option GuardWin) (cmd : Option Nat),
     s.Named → s.thread? u.cid u.tid = some u → s.company? u.cid = some c → u.exited = false →
     let sys := u.sys || u.frames.length == 1 || c.deleg.getLsbD tr.cls || !c.trapUsr.getLsbD 0
     let base := if sys then (s.core c.core).trapSys else c.trapUsr
     let entry : Word := s.sideEntry u.cid u.tid + BitVec.ofNat 32 (u.frames.length * 32)
     (2 ≤ u.frames.length → s.takeTrap u.cid u.tid tr pc g cmd = s.terminate u.cid 1) ∧
     (u.frames.length < 2 → ¬(tr.cls = cDebug ∧ tr.sub ≠ 4 ∧ (s.core c.core).dbgctl.getLsbD 3 = true) → base.getLsbD 0 = false →
       s.takeTrap u.cid u.tid tr pc g cmd = s.terminate u.cid 2) ∧
     (u.frames.length < 2 → base.getLsbD 0 = true → (∀ k, s.check (s.whoIs u true) .store (entry.setWidth 64) 32 false ≠ .ok k) →
       s.takeTrap u.cid u.tid tr pc g cmd = s.terminate u.cid 3) ∧
     ∀ r, (∀ t ∈ (s.terminate u.cid r).threads, t.cid = u.cid → t.exited = true) ∧
       ∀ l, s.launch? c.launch = some l → ∃ l', (s.terminate u.cid r).launch? c.launch = some l' ∧
         l'.reason = if l.reason = 0 then r else l.reason)

/-- `trap` takes SOFTWARE and resumes after itself; `brk`, a guard word and a word that is no instruction trap at themselves (R62,
R63, R216, R305). Every thread of a group traps in turn by `trap`, `brk`, a guard word and a word that is no instruction (R36,
R62, R63). A lane instruction that raises an enabled exception sets the flags and traps with FPEXC; it writes no result (R78,
R79, R80). The model's own choices in it: log 27, 95. -/
def Obligations.InstructionsThatTrap : Prop :=
  ((∀ (m : Bool) (code : BitVec 8) (s s1 : State) (t u : Thread) (base : DWord) (sys : Bool) (k : Checked),
     let tr : Trap := { cls := 12, sub := code.toNat }
     s.Issues (markForm m) [t] s1 → (s1.backAt t).bodyOf t = none → u.cid = t.cid → u.tid = t.tid →
     TrapPlace (s1.backAt t) u tr base sys k →
     ∃ s', exec (.trap m code) s = .next s' ∧ TrapTaken (s1.backAt t) s' u tr base sys k (t.pc + 4) (nextGuard t.guard)) ∧
   (∀ (m : Bool) (code : BitVec 8), Traps (.brk m code) (markForm m) (fun _ _ => True) fun _ _ _ =>
     { cls := 13, sub := 1, extra := code.setWidth 32 }) ∧
   ∀ (s : State) (g : Issue) (t u : Thread) (base : DWord) (sys : Bool) (k : Checked) (len : BitVec 17) (sub : BitVec 8) (w : Word),
     let s0 : State := { s with issue := none }
     s.issue = some g → s.members g = [t] → (s0.backAt t).bodyOf t = none → u.cid = t.cid → u.tid = t.tid →
     (let tr : Trap := { cls := 0, sub := 5, extra := len ++ 0x1F9#15 }
      TrapPlace (s0.backAt t) u tr base sys k →
        ∃ s', exec (.poolGuard len) s = .next s' ∧ TrapTaken (s0.backAt t) s' u tr base sys k t.pc t.guard) ∧
     (let tr : Trap := { cls := 0, sub := sub.toNat, extra := w }
      TrapPlace (s0.backAt t) u tr base sys k →
        ∃ s', exec (.illegalInstructionWord sub w) s = .next s' ∧ TrapTaken (s0.backAt t) s' u tr base sys k t.pc t.guard)) ∧
  ((∀ (m : Bool) (code : BitVec 8) (s s1 : State) (ps : List Thread), s.Issues (markForm m) ps s1 →
     exec (.trap m code) s = .next (ps.foldl (fun s t =>
       s.raiseAt t { cls := 12, sub := code.toNat } (t.pc + 4) (nextGuard t.guard)) s1) ∧
     exec (.brk m code) s = .next (ps.foldl (fun s t => s.raise t { cls := 13, sub := 1, extra := code.setWidth 32 }) s1)) ∧
   ∀ (s : State) (g : Issue) (len : BitVec 17) (sub : BitVec 8) (w : Word), s.issue = some g →
     exec (.poolGuard len) s = .next ((s.members g).foldl (fun s t => s.raise t { cls := 0, sub := 5, extra := len ++ 0x1F9#15 })
       { s with issue := none }) ∧
     exec (.illegalInstructionWord sub w) s = .next ((s.members g).foldl (fun s t =>
       s.raise t { cls := 0, sub := sub.toNat, extra := w }) { s with issue := none })) ∧
  (∀ (i : Instr) (f : Form) (e : Thread → LaneOut), (∀ s, exec i s = .next (s.laneOp f e)) →
     ∀ (s s1 : State) (t u : Thread) (sub : Nat) (base : DWord) (sys : Bool) (k : Checked), s.Issues f [t] s1 →
       fpTrap t.fpcsr (e t).fl = some sub →
       let s2 := (s1.updThread t.cid t.tid fun u => u.raiseFlags (e t).fl).backAt t
       let tr : Trap := { cls := 6, sub := sub }
       s2.bodyOf t = none → u.cid = t.cid → u.tid = t.tid → TrapPlace s2 u tr base sys k →
       ∃ s', exec i s = .next s' ∧ TrapTaken s2 s' u tr base sys k t.pc t.guard)

/-- `rte` (R217, R314): counter and single step come from the record, the window comes back at the saved counter only, mode and
nesting take their saved values; no register and no byte of memory changes. The model's own choices in it: log 35, 88. -/
def Obligations.TrapReturn : Prop :=
  ∀ (m : Bool) (s s1 : State) (t u : Thread) (fr : TrapFrame) (fs : List TrapFrame) (k : Checked),
    let f : Form := { markForm m with mark := true }
    let entry : Word := s1.sideEntry t.cid t.tid + BitVec.ofNat 32 (fs.length * 32)
    s.Issues f [t] s1 → rteHold { s with issue := none } [t] = none → t.frames = fr :: fs →
    s1.thread? t.cid t.tid = some u → u.frames = fr :: fs → u.wait = .none → u.exited = false →
    s1.check (s1.whoIs u true) .load (entry.setWidth 64) 32 false = .ok k → (∀ l ∈ k.locs, l.offChip = true) →
    let bs := s1.getLocs k.locs
    let counter : DWord := BitVec.ofNat 64 (natOf (bs.take 8) / 2 * 2)
    ∃ s', exec (.rte m) s = .next s' ∧
      (∃ u', s'.thread? t.cid t.tid = some u' ∧ u'.pc = counter ∧ u'.sys = fr.sys ∧ u'.frames.length = fs.length ∧
        u'.guard = (if counter = fr.pc then fr.guard else none) ∧
        u'.step = (BitVec.ofNat 32 (natOf ((bs.drop 20).take 4))).getLsbD 17 ∧ u'.halt = none ∧ ∀ r, u'.reg r = u.reg r) ∧
      (∀ c i w, s1.thread? c i = some w → ∃ w', s'.thread? c i = some w' ∧ ∀ r, w'.reg r = w.reg r) ∧
      ∀ l, l.offChip = true → s'.getLoc l = s1.getLoc l

/-- `bra`, `ret` and `btab` set the counter and close the window (R56, R195, R197, R199, R200). `call` links the address of the
next instruction in `v62` and branches (R198). Control-flow traps (R199, R200, R217): an odd target of `ret` or of a table's entry,
an index outside the table, a table without its guard word, and `rte` outside a handler. `exit` (R201): the thread has ended and is
in no mask of its troupe; no register changes, and no byte of memory where it holds no ladder item. Accesses that meet a migrating
page, which wait (R151), are left out. The model's own choices in it: log 44, 84. -/
def Obligations.BranchesCallsAndExits : Prop :=
  (∀ (m : Bool) (off : BitVec 19) (p : PredOp) (a : Reg) (s s1 : State) (ps : List Thread),
     (s.Issues (markForm m) ps s1 → ∃ s', exec (.bra m off p) s = .next s' ∧ ThreadsDone s1 s' ps fun t u =>
       if t.getP p.p.toNat ^^ p.neg then { u with pc := t.pc + off.signExtend 64 * 2, guard := none } else u) ∧
     (s.Issues (markForm m [.v a]) ps s1 → (∀ t ∈ ps, (t.getV a).getLsbD 0 = false) →
       ∃ s', exec (.ret m a) s = .next s' ∧ ThreadsDone s1 s' ps fun t u =>
         { u with pc := t.pc >>> 32 <<< 32 ||| (t.getV a).setWidth 64, guard := none }) ∧
     ∀ t n x, ps = [t] → s.Issues (markForm m [.v a]) ps s1 →
       s1.fetchWord (s1.whoIs t) (t.pc + 4) = .ok (BitVec.ofNat 17 n ++ 0x1F9#15) → n < 2 ^ 17 → (t.getV a).toNat < n →
       s1.fetchWord (s1.whoIs t) (t.pc + 8 + (t.getV a).setWidth 64 * 4) = .ok x → s1.tableStall (s1.whoIs t) t.pc (t.getV a) = none → x.getLsbD 0 = t.pc.getLsbD 0 →
       ∃ s', exec (.btab m a) s = .next s' ∧ ThreadsDone s1 s' ps fun t u =>
         { u with pc := t.pc + x.signExtend 64, guard := none }) ∧
  (∀ (m : Bool) (off : BitVec 19) (p : PredOp) (s s1 : State) (ps : List Thread), s.Issues (markForm m) ps s1 →
     ∃ s', exec (.call m off p) s = .next s' ∧
       (∀ t ∈ ps, ∀ u, s1.thread? t.cid t.tid = some u → ∃ u', s'.thread? t.cid t.tid = some u' ∧
         if t.getP p.p.toNat ^^ p.neg then
           u'.pc = t.pc + off.signExtend 64 * 2 ∧ u'.guard = none ∧ u'.getV 62 = (t.pc + 4).setWidth 32 ∧
             (∀ r, r ≠ .v 62 → u'.reg r = u.reg r) ∧ u'.sys = u.sys ∧ u'.frames = u.frames ∧ u'.wait = u.wait
         else u' = u) ∧
       (∀ c i, (∀ t ∈ ps, ¬(t.cid = c ∧ t.tid = i)) → s'.thread? c i = s1.thread? c i) ∧
       { s'.bare with threads := [] } = { s1.bare with threads := [] } ∧
       ∀ l, l.offChip = true → s'.getLoc l = s1.getLoc l) ∧
  (∀ (m : Bool) (a : Reg),
     Traps (.rte m) { markForm m with mark := true } (fun _ t => t.frames = []) (fun w _ _ => { cls := 9, sub := 5, extra := w }) ∧
     Traps (.ret m a) (markForm m [.v a]) (fun _ t => (t.getV a).getLsbD 0 = true) (fun _ _ t => { cls := 9, sub := 3, extra := t.getV a }) ∧
     (∀ n, n < 2 ^ 17 → Traps (.btab m a) (markForm m [.v a])
       (fun s t => s.fetchWord (s.whoIs t) (t.pc + 4) = .ok (BitVec.ofNat 17 n ++ 0x1F9#15) ∧ n ≤ (t.getV a).toNat ∧
         s.tableStall (s.whoIs t) t.pc (t.getV a) = none)
       fun _ _ t => { cls := 9, sub := 1, extra := t.getV a }) ∧
     (∀ n (x : Word), n < 2 ^ 17 → Traps (.btab m a) (markForm m [.v a])
       (fun s t => s.fetchWord (s.whoIs t) (t.pc + 4) = .ok (BitVec.ofNat 17 n ++ 0x1F9#15) ∧ (t.getV a).toNat < n ∧
         s.fetchWord (s.whoIs t) (t.pc + 8 + (t.getV a).setWidth 64 * 4) = .ok x ∧ (t.pc + x.signExtend 64).getLsbD 0 = true ∧
         s.tableStall (s.whoIs t) t.pc (t.getV a) = none)
       fun _ _ t => { cls := 9, sub := 3, extra := (t.pc + x.signExtend 64).setWidth 32 }) ∧
     ∀ g : Word, g.extractLsb' 0 15 ≠ 0x1F9#15 → Traps (.btab m a) (markForm m [.v a])
       (fun s t => s.fetchWord (s.whoIs t) (t.pc + 4) = .ok g ∧ s.tableStall (s.whoIs t) t.pc (t.getV a) = none) fun _ _ _ => { cls := 9, sub := 2, extra := g }) ∧
  (∀ (m : Bool) (s s1 : State) (t u : Thread), s.Issues (markForm m).barred [t] s1 → s1.thread? t.cid t.tid = some u → u.exited = false →
     ∃ s', exec (.exit m) s = .next s' ∧ (∃ u', s'.thread? t.cid t.tid = some u' ∧ u'.exited = true) ∧
       (∀ x ∈ s'.troupes, x.cid = t.cid → x.idx = t.tid / 32 → ∀ n, n < 12 → (x.k.getD n 0).getLsbD (t.tid % 32) = false) ∧
       (u.item = none → (∀ c i w, s1.thread? c i = some w → ∃ w', s'.thread? c i = some w' ∧ ∀ r, w'.reg r = w.reg r) ∧
         ∀ l, l.offChip = true → s'.getLoc l = s1.getLoc l))

/-! ### Masks and barriers -/

/-- `join` writes the lowest participating thread's value, less the exited threads, and `leave` takes the participating threads out
(R203, R204); no register and no byte of memory changes. In handler mode `join` and `leave` change the handler's own copy only,
which a `kload` in flight no longer changes (R38, R206). `waitk` arrives; the thread goes on at once where all of E have arrived,
and waits otherwise (R204). The test of a mask (R204): when every thread of E has arrived, the waiting threads go on past their
`waitk` as one cohort and A is 0; E stays. The model's own choices in it: log 24, 31. -/
def Obligations.ExpectedSetsOfMasks : Prop :=
  (∀ (m : Bool) (k a : Reg) (s s1 : State) (ps : List Thread) (l u : Thread) (tr : Troupe), k.toNat < 12 →
     lowest ps = some l → (∀ t ∈ ps, t.frames = [] ∧ t.cid = l.cid ∧ t.tid / 32 = l.tid / 32) →
     s1.thread? l.cid l.tid = some u → u.frames = [] → s1.troupe? l.cid (l.tid / 32) = some tr →
     let exited (i : Nat) : Bool := s1.threads.any fun t => t.cid == l.cid && t.tid / 32 == l.tid / 32 && t.tid % 32 == i && t.exited
     let done (s' : State) (e : Nat → Bool) : Prop :=
       (∃ tr', s'.troupe? l.cid (l.tid / 32) = some tr' ∧ (∀ i, i < 32 → (tr'.k.getD k.toNat 0).getLsbD i = e i) ∧
         ∀ n, n ≠ k.toNat → tr'.k.getD n 0 = tr.k.getD n 0) ∧
       (∀ c i w, s1.thread? c i = some w → ∃ w', s'.thread? c i = some w' ∧ ∀ r, w'.reg r = w.reg r) ∧
       ∀ x, x.offChip = true → s'.getLoc x = s1.getLoc x
     (s.Issues (markForm m [.v a]).barred ps s1 →
       ∃ s', exec (.join m k a) s = .next s' ∧ done s' fun i => (l.getV a).getLsbD i && !exited i) ∧
     (s.Issues (markForm m).barred ps s1 →
       ∃ s', exec (.leave m k) s = .next s' ∧ done s' fun i =>
         (s1.maskRead l k.toNat).getLsbD i && !ps.any fun t => t.tid % 32 == i) ∧
     ((∀ w ∈ l.old, w.1 ≠ .k k.toNat) → s1.maskRead l k.toNat = tr.k.getD k.toNat 0)) ∧
  (∀ (m : Bool) (k a : Reg) (s s1 : State) (t u : Thread) (f : TrapFrame) (fs : List TrapFrame) (c : MaskCopy), s1.Named →
     t.frames = f :: fs → s1.thread? t.cid t.tid = some u → u.frames = f :: fs → f.masks[k.toNat]? = some c →
     let seen : State := { s1 with ops := s1.ops.map (MemOp.overtakeMask t.cid [t.tid] k.toNat) }
     let own (e : Word) (_ w : Thread) : Thread :=
       { w with frames := { f with masks := f.masks.set k.toNat ⟨e, true⟩ } :: fs }
     (s.Issues (markForm m [.v a]).barred [t] s1 →
       ∃ s', exec (.join m k a) s = .next s' ∧
         ThreadsDone seen s' [t] (own (t.getV a &&& ~~~(s1.exitedMask t.cid (t.tid / 32))))) ∧
     (s.Issues (markForm m).barred [t] s1 →
       ∃ s', exec (.leave m k) s = .next s' ∧ ThreadsDone seen s' [t] (own (c.e &&& ~~~(1#32 <<< (t.tid % 32))))) ∧
     Traps (.waitk m k) (markForm m).barred (fun _ t => t.frames ≠ []) fun w _ _ => { cls := 9, sub := 4, extra := w }) ∧
  (∀ (m : Bool) (k : Reg) (s s1 : State) (t u : Thread) (tr : Troupe), k.toNat < 12 → s.Issues (markForm m).barred [t] s1 →
     s1.thread? t.cid t.tid = some u → s1.troupe? t.cid (t.tid / 32) = some tr → t.frames = [] →
     (∀ w ∈ t.old, w.1 ≠ .k k.toNat) →
     let a : Word := tr.arr.getD k.toNat 0 ||| (1#32 <<< (t.tid % 32))
     let go := tr.k.getD k.toNat 0 &&& ~~~a = 0
     ∃ s', exec (.waitk m k) s = .next s' ∧
       (∃ u', s'.thread? t.cid t.tid = some u' ∧ (∀ r, u'.reg r = u.reg r) ∧
         if go then u'.wait = .none ∧ u'.pc = t.pc + 4 else u'.wait = .waitk k.toNat ∧ u'.pc = t.pc) ∧
       (∀ c i w, s1.thread? c i = some w → ¬(c = t.cid ∧ i = t.tid) → ∃ w', s'.thread? c i = some w' ∧
         if go ∧ c = t.cid ∧ i / 32 = t.tid / 32 ∧ w.wait = .waitk k.toNat then
           w'.wait = .none ∧ w'.pc = w.pc + 4 ∧ ∀ r, w'.reg r = w.reg r
         else w' = w) ∧
       (∃ tr', s'.troupe? t.cid (t.tid / 32) = some tr' ∧ tr'.k = tr.k ∧
         ∀ n, tr'.arr.getD n 0 = if n = k.toNat then (if go then 0 else a) else tr.arr.getD n 0) ∧
       ∀ l, l.offChip = true → s'.getLoc l = s1.getLoc l) ∧
  (∀ (s : State) (cid trp k : Nat) (u : Troupe), s.troupe? cid trp = some u →
     let e := u.k.getD k 0
     let a := u.arr.getD k 0
     (e &&& ~~~a ≠ 0 ∨ a = 0 → s.maskTest cid trp k = s) ∧
     (e &&& ~~~a = 0 → a ≠ 0 →
       (∃ n, ∀ c i w, s.thread? c i = some w → ∃ w', (s.maskTest cid trp k).thread? c i = some w' ∧
         if c = cid ∧ i / 32 = trp ∧ w.wait = .waitk k then
           w'.wait = .none ∧ w'.pc = w.pc + 4 ∧ w'.coh = n ∧ ∀ r, w'.reg r = w.reg r
         else w' = w) ∧
       (∃ u', (s.maskTest cid trp k).troupe? cid trp = some u' ∧ u'.k = u.k ∧
         ∀ n, u'.arr.getD n 0 = if n = k then 0 else u.arr.getD n 0) ∧
       ∀ l, l.offChip = true → (s.maskTest cid trp k).getLoc l = s.getLoc l))

/-- Barrier instructions of one thread by its state at the barrier (R210): an arrival is counted under the form of the phase's first
one, a thread that is PENDING waits, and one that is DONE returns at once. Traps of barrier instructions: INHANDLER, an
undeclared LEVEL, COUNT and NOARRIVE (R209, R210). The model's own choices in it: log 37, 85. -/
def Obligations.BarrierActionsAndTraps : Prop :=
  (∀ (m c : Bool) (l : BitVec 3) (a : Reg) (n : BitVec 4) (s s1 : State) (t u : Thread) (co : Company) (k : BarKey),
     let src : List RegId := if c then [.v a] else []
     let form : Option Nat := if c then some (t.getV a).toNat else none
     let b := s1.barrier k
     let fixed : Option Nat := b.form.getD form
     let here : List (Nat × Nat × Nat) := b.arrived ++ [(t.cid, t.tid, s1.clkOf t.cid)]
     BarReady s1 t co c l a n k → s1.thread? t.cid t.tid = some u →
     let wait (s' : State) (x : BarNext) (st : Option Bool) : Prop := ∃ u', s'.thread? t.cid t.tid = some u' ∧
       u'.wait = .bar k x form (s1.clkOf t.cid) co.barto.toNat ∧ u'.pc = t.pc ∧ u'.barState k = st ∧ ∀ r, u'.reg r = u.reg r
     (s.Issues (markForm m src).release.barred [t] s1 →
       (u.barState k ≠ some false → here.length ≠ s1.barExpected k fixed →
         ∃ s', exec (.barArrive m c l a n) s = .next s' ∧ (s'.barrier k).arrived = here ∧ (s'.barrier k).form = some fixed ∧
           ∃ u', s'.thread? t.cid t.tid = some u' ∧ u'.pc = u.pc ∧ u'.wait = u.wait ∧ u'.barState k = some false ∧
             ∀ r, u'.reg r = u.reg r) ∧
       (u.barState k = some false → ∃ s', exec (.barArrive m c l a n) s = .next s' ∧ wait s' .arrive (some false) ∧
         s'.barrier k = b) ∧
       (u.barState k ≠ some false → here.length ≠ s1.barExpected k fixed →
         ∃ s', exec (.barSync m c l a n) s = .next s' ∧ (s'.barrier k).arrived = here ∧ (s'.barrier k).form = some fixed ∧
           wait s' .synced none) ∧
       (u.barState k = some false → ∃ s', exec (.barSync m c l a n) s = .next s' ∧ wait s' .sync (some false) ∧ s'.barrier k = b)) ∧
     (s.Issues (markForm m src).barred [t] s1 →
       (u.barState k = some false → ∃ s', exec (.barWait m c l a n) s = .next s' ∧ wait s' .wait (some false) ∧ s'.barrier k = b) ∧
       (u.barState k = some true → ∃ s', exec (.barWait m c l a n) s = .next s' ∧ s'.barrier k = b ∧
         ∃ u', s'.thread? t.cid t.tid = some u' ∧ u'.pc = u.pc ∧ u'.wait = u.wait ∧ u'.barState k = none ∧ ∀ r, u'.reg r = u.reg r))) ∧
  (∀ (m c : Bool) (l : BitVec 3) (a : Reg) (n : BitVec 4),
     let src : List RegId := if c then [.v a] else []
     let name : Word := BitVec.ofNat 32 (l.toNat * 16 + n.toNat)
     let all (cond : State → Thread → Prop) (tr : Word → State → Thread → Trap) : Prop :=
       Traps (.barArrive m c l a n) (markForm m src).release.barred cond tr ∧
       Traps (.barWait m c l a n) (markForm m src).barred cond tr ∧
       Traps (.barSync m c l a n) (markForm m src).release.barred cond tr
     all (fun s t => t.frames ≠ [] ∧ s.company? t.cid ≠ none) (fun w _ _ => { cls := 9, sub := 4, extra := w }) ∧
     all (fun s t => t.frames = [] ∧ ∃ co, s.company? t.cid = some co ∧ s.barKey co t.tid l.toNat n.toNat = none)
       (fun _ _ _ => { cls := 8, sub := 2, extra := name }) ∧
     (c = true → all (fun s t => t.frames = [] ∧ ∃ co k, s.company? t.cid = some co ∧ s.barKey co t.tid l.toNat n.toNat = some k ∧
       ((t.getV a).toNat = 0 ∨ s.barSize co l.toNat < (t.getV a).toNat)) fun _ _ t => { cls := 8, sub := 4, extra := t.getV a }) ∧
     (n.toNat = 0 ∨ l = 2 → Traps (.barWait m c l a n) (markForm m src).barred
       (fun s t => ∃ co k u, BarReady s t co c l a n k ∧ s.thread? t.cid t.tid = some u ∧ u.barState k = none)
       fun _ _ _ => { cls := 8, sub := 3, extra := name }))

/-- A phase completes when its arrivals equal the expected count (R209, R210): the waiting threads go on, PENDING becomes DONE, and
the next phase starts empty. A wait that has reached its limit times out (R212): the arrival is withdrawn, the state becomes
NONE, and BARRIER TIMEOUT is pending; it traps before the thread issues again. The model's own choices in it: log 37, 90. -/
def Obligations.BarriersCompleteOrTimeOut : Prop :=
  (∀ (s : State) (k : BarKey) (form : Option Nat) (n : Nat),
     let b := s.barrier k
     b.form = some form → (∀ t ∈ s.threads, b.has t = true → t.delayedAt k = false) →
     (b.arrived.length ≠ s.barExpected k form → s.barTest k (n + 1) = s) ∧
     (b.arrived.length = s.barExpected k form →
       let s' := s.barTest k (n + 1)
       (∀ c i w, s.thread? c i = some w → ∃ w', s'.thread? c i = some w' ∧ (∀ r, w'.reg r = w.reg r) ∧
         if b.has w = true ∧ (w.wait.atBar k = some .wait ∨ w.wait.atBar k = some .synced) then
           w'.wait = .none ∧ w'.pc = w.pc + 4 ∧ w'.barState k = none
         else w'.wait = w.wait ∧ w'.pc = w.pc ∧
           w'.barState k = if b.has w = true ∧ w.barState k = some false then some true else w.barState k) ∧
       (s'.barrier k).form = none ∧ (s'.barrier k).arrived = [] ∧
       ∀ l, l.offChip = true → s'.getLoc l = s.getLoc l)) ∧
  (∀ (s : State) (t : Thread) (c : Company) (k : BarKey) (x : BarNext) (cnt : Option Nat) (start limit now : Nat),
     s.Named → s.thread? t.cid t.tid = some t → s.company? t.cid = some c → t.wait = .bar k x cnt start limit → limit ≠ 0 →
     start + limit * 1024 ≤ now → s.barPaused k = false → t.halt = none → c.onCore = true →
     (s.barrier k).dumped = true →
     let rest := (s.barrier k).arrived.filter fun a => (a.1, a.2.1) ≠ (t.cid, t.tid)
     (∀ form, (s.barrier k).form = some form → rest.length ≠ s.barExpected k form ∨ rest = []) →
     ∃ s', exec (.barrierTimeout t.cid t.tid now) s = .next s' ∧ (s'.barrier k).arrived = rest ∧
       (s'.barrier k).form = (if rest = [] then none else (s.barrier k).form) ∧
       ∃ u', s'.thread? t.cid t.tid = some u' ∧ u'.wait = .none ∧ u'.pc = t.pc ∧ u'.barState k = none ∧
         (∀ r, u'.reg r = t.reg r) ∧
         u'.asyncs = t.asyncs ++ [⟨{ cls := 8, sub := 1, extra := BitVec.ofNat 32 (k.level * 16 + k.num) }, 0, none⟩])

/-! ### Memory -/

/-- The address modes of the M format (R55, R174), and the wrap of mode 10: the new base stays in the buffer of L bytes that the
old one was in. The checks of an access (R149, R152, R153, R168, R169): natural alignment, the scratchpad's bounds, the end of the
address space, what the window of sync variables takes, the page's permissions, what a RED page takes, and an access that straddles
two pages: with a RED one it is misaligned, and otherwise its lower part is checked first. An access that fails a check traps at
its instruction with the fault of the check (R149, R305). The model's own choices in it: log 27, 91, 96. -/
def Obligations.AccessesAreChecked : Prop :=
  ((∀ (t : Thread) (field : BitVec 6) (base : Reg) (n : Nat),
     let b : DWord := if base.toNat % 2 = 0 then t.getV (base + 1) ++ t.getV base else (t.getV base).setWidth 64
     let step : DWord := BitVec.ofInt 64 (field.toInt * n)
     let upd (x : DWord) : List (RegId × DWord) :=
       if base.toNat % 2 = 0 then [(.v base, x), (.v (base + 1), x >>> 32)] else [(.v base, (x.setWidth 32).setWidth 64)]
     t.mAddr field 0 base n = ⟨b + step, []⟩ ∧ t.mAddr field 1 base n = ⟨b, upd (b + step)⟩ ∧
     t.mAddr field 2 base n = ⟨b, upd (wrapBase b ((field.extractLsb' 0 4).toInt * n) (t.getQ (field.extractLsb' 4 2).toNat))⟩ ∧
     t.mAddr field 3 base n = ⟨b + (t.getV field).signExtend 64, []⟩) ∧
   ∀ (b : DWord) (d : Int) (l : Word),
     (l = 0 → wrapBase b d l = b + BitVec.ofInt 64 d) ∧
     (l ≠ 0 → d.natAbs ≤ l.toNat → (b.toNat / l.toNat + 1) * l.toNat ≤ 2 ^ 64 →
       (wrapBase b d l).toNat / l.toNat = b.toNat / l.toNat ∧ ((wrapBase b d l).toNat : Int) % l.toNat = (b.toNat + d) % l.toNat)) ∧
  (∀ (s : State) (w : Who) (acc : Acc) (va : DWord) (n : Nat) (nat : Bool), 0 < n → n ≤ 16 →
     let a := va.toNat
     (nat = true → a % n ≠ 0 → s.check w acc va n nat = .error { cls := 2, sub := 1, addr := va }) ∧
     (nat = false ∨ a % n = 0 →
       (a < 0x60000 → acc ≠ .fetch → a + n ≤ w.scr → a + n ≤ 0x60000 → ∃ c, s.check w acc va n nat = .ok c ∧
         c.locs = (List.range n).map (fun i => .scratch w.cid (a + i)) ∧ c.mig = false) ∧
       (a < 0x60000 → acc ≠ .fetch → w.scr < a + n → s.check w acc va n nat = .error { cls := 4, sub := 2, addr := va }) ∧
       (2 ^ 49 ≤ a → s.check w acc va n nat = .error { cls := 4, sub := 2, addr := va }) ∧
       (0x60000 ≤ a → a < 2 ^ 49 → ¬(Config.syncBase ≤ a ∧ a < Config.syncEnd) → a % 4096 + n ≤ 4096 →
         (∀ e, s.translate w.part w.asid a = .error e → s.check w acc va n nat = .error { cls := 3, sub := e, addr := va }) ∧
         ∀ l, s.translate w.part w.asid a = .ok l →
           (pteKind l.entry = .red → acc = .store → n ≠ 1 → a % n ≠ 0 → s.check w acc va n nat = .error { cls := 2, sub := 1, addr := va }) ∧
           (¬(pteKind l.entry = .red ∧ acc = .store ∧ n ≠ 1 ∧ a % n ≠ 0) → (acc.reads = true ∧ l.entry.testBit 1 = false) ∨ (acc.writes = true ∧ l.entry.testBit 2 = false) ∨
             (acc = .fetch ∧ l.entry.testBit 3 = false) ∨ (w.sys = false ∧ l.entry.testBit 4 = false) →
             s.check w acc va n nat = .error { cls := 4, sub := 1, addr := va }) ∧
           (∀ c, s.check w acc va n nat = .ok c → c.locs.map Loc.plain = (List.range n).map (fun i => .phys (l.phys a + i)) ∧
             (acc.obtains = false → c.locs = (List.range n).map fun i => .phys (l.phys a + i))) ∧
           (pteKind l.entry = .red → (∀ c, s.check w acc va n nat = .ok c → (acc = .store ∧ a % n = 0 ∧ n ≠ 1) ∨ acc = .engineW) ∧
             (¬(acc.reads = true ∧ l.entry.testBit 1 = false) → ¬(acc.writes = true ∧ l.entry.testBit 2 = false) →
               (acc = .fetch → l.entry.testBit 3 = true) → (w.sys = true ∨ l.entry.testBit 4 = true) →
               (acc ≠ .store ∧ acc ≠ .engineW ∨ n = 1 ∧ acc = .store → s.check w acc va n nat = .error { cls := 4, sub := 4, addr := va }) ∧
               (acc = .store → n = 2 ∨ n = 4 ∨ n = 8 ∨ n = 16 → a % n = 0 → ∃ c, s.check w acc va n nat = .ok c ∧ c.kinds = [.red] ∧
                 c.mig = l.entry.testBit 5))))) ∧
     (Config.syncBase ≤ a → a < Config.syncEnd → a % 4096 + n ≤ 4096 → (nat = true → a % n = 0) →
       let o := a - Config.syncBase
       let d := (s.part w.part).ndecks
       let pos := o / 2 ^ 22 / d * 2 ^ 22 + o % 2 ^ 22
       let inside : Prop := pos < 2 ^ 22 + (s.part w.part).syncovf * 2 ^ 20
       let kind : Prop := s.check w acc va n nat = .error { cls := 4, sub := 4, addr := va }
       0 < d →
         (acc = .fetch → s.check w acc va n nat = .error { cls := 4, sub := 1, addr := va }) ∧
         (acc ≠ .fetch → ¬inside → s.check w acc va n nat = .error { cls := 4, sub := 2, addr := va }) ∧
         (inside → acc = .load ∨ acc = .store ∨ acc = .acquire ∨ acc = .release →
           (n = 4 ∨ n = 8 → a % n = 0 → ∃ c, s.check w acc va n nat = .ok c ∧ c.kinds = [.so] ∧
             c.locs = (List.range n).map fun i => .sync w.part (o + i)) ∧
           (n ≠ 4 ∧ n ≠ 8 ∨ a % n ≠ 0 → kind)) ∧
         (inside → acc = .planeR ∨ acc = .planeW ∨ acc = .planeRW ∨ acc = .zero → kind)) ∧
     (nat = false → 0x60000 ≤ a → a < 2 ^ 49 - 4096 → 4096 < a % 4096 + n →
       let b := a / 4096 * 4096 + 4096
       let window (x : Nat) : Prop := Config.syncBase ≤ x ∧ x < Config.syncEnd
       let red (x : Nat) : Prop := ∃ l, s.translate w.part w.asid x = .ok l ∧ pteKind l.entry = .red
       ¬window a → ¬window b →
         (red a ∨ red b → s.check w acc va n nat = .error { cls := 2, sub := 1, addr := va }) ∧
         (¬red b → ∀ e, s.translate w.part w.asid a = .error e → s.check w acc va n nat = .error { cls := 3, sub := e, addr := va }) ∧
         (¬red a → ∀ l, s.translate w.part w.asid a = .ok l → l.entry.testBit 1 = true → l.entry.testBit 2 = true → l.entry.testBit 3 = true →
           l.entry.testBit 4 = true → chipCore (l.phys a) = none → ∀ e, s.translate w.part w.asid b = .error e →
             s.check w acc va n nat = .error { cls := 3, sub := e, addr := BitVec.ofNat 64 b }))) ∧
  (∀ (h : Hd) (m : Bool) (field e : BitVec 6) (size sc : BitVec 3) (mode sz : BitVec 2) (off : BitVec 14) (op : BitVec 6) (k base t : Reg) (x : Trap),
     let fails (acc : Acc) (va : Thread → DWord) (n : Nat) (nat : Bool) (s : State) (t : Thread) : Prop :=
       s.check (s.whoIs t) acc (va t) n nat = .error x
     let n := sizeBytes size
     Traps (.ld h field size mode base t) (hdForm h (mSrc field mode base)) (fails .load (fun t => (t.mAddr field mode base n).va) n false)
       (fun _ _ _ => x) ∧
     Traps (.ldt h off t) (hdForm h []) (fails .load (fun t => textAddr t.pc off.toInt) 4 false) (fun _ _ _ => x) ∧
     Traps (.st h field size mode base t) (hdForm h (mSrc field mode base ++ groupRegs t (max 1 (n / 4))))
       (fails .store (fun t => (t.mAddr field mode base n).va) n false) (fun _ _ _ => x) ∧
     Traps (.ldacq h sc sz base t) (hdForm h (baseRegs base)).barred (fails .acquire (·.base base) (2 ^ sz.toNat) true) (fun _ _ _ => x) ∧
     Traps (.strel h sc sz base t) (hdForm h (baseRegs base ++ groupRegs t (max 1 (2 ^ sz.toNat / 4)))).barred
       (fails .release (·.base base) (2 ^ sz.toNat) true) (fun _ _ _ => x) ∧
     Traps (.cctlZero h base) (hdForm h (baseRegs base)).barred (fails .zero (fun t => t.base base &&& ~~~63) 64 false) (fun _ _ _ => x) ∧
     (let f := (hdForm h ((if op.toNat ∈ [1, 2, 3, 8, 9] then [.f] else []) ++ baseRegs base ++ atomRegs op.toNat n t)).barred
      Traps (.atom h op size base t) f (fails .atom (·.base base) n true) (fun _ _ _ => x) ∧
      Traps (.red h op size base t) f (fails .red (·.base base) n true) (fun _ _ _ => x)) ∧
     Traps (.mon h base) (hdForm h (baseRegs base)).barred (fails .monitor (fun t => t.base base &&& ~~~63) 64 false) (fun _ _ _ => x) ∧
     Traps (.ksave m e k base) (markForm m [.v base]).barred (fails .release (·.spillAddr e base) 4 true) (fun _ _ _ => x) ∧
     Traps (.kload m e k base) (markForm m [.v base]).barred (fails .acquire (·.spillAddr e base) 4 true) (fun _ _ _ => x))

/-- Loads go in flight with their address, size and destination, and update their base (R23, R61, R174, R175, R179). A load
performs: it obtains the bytes that memory holds, extended as its size says (R5, R175), page by page where it straddles (R169):
each part keeps its bytes, and the last one brings the result; memory is as before. A plane load reads its units in the same way
(R96). An uncorrectable error in a load's data is DATAERR where its thread has issued nothing since, precisely (R149, R303); later none is met. The model's own choices in it: log
12, 13, 25, 43. -/
def Obligations.LoadsIssueAndReturn : Prop :=
  (∀ (h : Hd) (field : BitVec 6) (size : BitVec 3) (mode sz : BitVec 2) (sc : BitVec 3) (off : BitVec 14) (base t : Reg)
     (s s1 : State) (ps rs : List Thread) (l : Thread) (c : Checked),
     (let f := hdForm h (mSrc field mode base)
      let n := sizeBytes size
      let x := l.mAddr field mode base n
      s.Issues f ps s1 → Acts f ps l rs → Granted s1 l rs .load x.va n false c →
       ∃ s' o, exec (.ld h field size mode base t) s = .next s' ∧ OpsDone s1 s' rs 0 x.upd [o] ∧
         o.Is l rs (.load (size = 5 ∨ size = 6)) x.va c t n false false) ∧
     (let va : DWord := (l.pc &&& ~~~3) + off.signExtend 64 * 4
      s.Issues (hdForm h []) ps s1 → Acts (hdForm h []) ps l rs → Granted s1 l rs .load va 4 false c →
       ∃ s' o, exec (.ldt h off t) s = .next s' ∧ OpsDone s1 s' rs 0 [] [o] ∧ o.Is l rs (.load false) va c t 4 false false) ∧
     (let f := (hdForm h (baseRegs base)).barred
      s.Issues f ps s1 → Acts f ps l rs → Granted s1 l rs .acquire (l.base base) (2 ^ sz.toNat) true c →
       ∃ s' o, exec (.ldacq h sc sz base t) s = .next s' ∧ OpsDone s1 s' rs 0 [] [o] ∧
         o.Is l rs (.load false) (l.base base) c t (2 ^ sz.toNat) (sc ≠ 0) false)) ∧
  (∀ (s : State) (id va : Nat) (sx : Bool) (o : MemOp), s.readyPart id = some (o, none) → o.kind = .load sx → o.vas.length = o.locs.length →
     let read : List (Nat × Byte) := o.got ++ o.vas.zip (s.getLocs o.locs)
     (o.got.map (·.1)).Pairwise (· < ·) → o.vas.Pairwise (· < ·) → (read.map (·.1)).Perm (List.range' va o.n) →
     (o.lanes.map (·.tid)).Nodup → (o.n = 1 ∨ o.n = 2 ∨ o.n = 4 ∨ o.n = 8 ∨ o.n = 16) →
     let x : Nat := ((List.range o.n).map fun i => (((read.find? fun y => y.1 == va + i).map (·.2.toNat)).getD 0) * 256 ^ i).sum
     let half : Nat := 2 ^ (8 * o.n - 1)
     let word (i : Nat) : RegId × DWord := (.v (o.d + BitVec.ofNat 6 i), BitVec.ofNat 64 (x / 2 ^ (32 * i) % 2 ^ 32))
     ∃ s', exec (.loadDataArrive id false) s = .next s' ∧ (∀ l, l.offChip = true → s'.getLoc l = s.getLoc l) ∧
       ResultDone s s' o (if o.n < 4 then
           [(.v o.d, ((BitVec.ofInt 32 (if sx = true ∧ half ≤ x then (x : Int) - 2 * half else x)).setWidth 64))]
         else (List.range (o.n / 4)).map word)) ∧
  (∀ (s : State) (id k : Nat) (sx : Bool) (o r : MemOp), s.readyPart id = some (o, some r) → o.kind = .load sx ∨ o.kind = .ldp k sx →
     o.vas.length = o.locs.length → ∃ s' got, exec (.loadDataArrive id false) s = .next s' ∧ SameMem s s' ∧ SameRegs s s' ∧
       got.Perm (o.got ++ o.vas.zip (s.getLocs o.locs)) ∧
       (o.got.Pairwise (fun a b => a.1 ≤ b.1) → got.Pairwise fun a b => a.1 ≤ b.1) ∧
       s'.ops = s.ops.map fun y => if y.id = r.id then { r with got := got } else y) ∧
  ∀ (s : State) (id k : Nat) (sx : Bool) (o : MemOp) (r : Option MemOp), s.readyPart id = some (o, r) →
    o.kind = .load sx ∨ o.kind = .ldp k sx → (s.precise o = false → exec (.loadDataArrive id true) s = .next s) ∧
    ∀ (l : OpLane) (u : Thread) (base : DWord) (sys : Bool) (k : Checked), s.precise o = true → o.lanes = [l] → l.undo = [] →
      let s2 := ({ s with ops := pruneFences [] (s.ops.filter fun x => x.id != o.id) } : State).updThread o.cid l.tid fun t =>
        { t with pc := o.pc, guard := l.guard, wait := .none }
      let tr : Trap := { cls := 5, sub := 1, addr := o.va }
      u.cid = o.cid → u.tid = l.tid → s2.bodyOf u = none → TrapPlace s2 u tr base sys k →
        ∃ s', exec (.loadDataArrive id true) s = .next s' ∧ TrapTaken s2 s' u tr base sys k o.pc l.guard

/-- Stores go in flight with the data read at issue, and update their base (R174, R175, R179, R180, R261); a store to a RED page is
a contribution (R168). A store performs: its bytes hold its data, every other byte and every register is as before (R23, R175,
R261); a store that straddles pages of different kinds performs in parts (R169). A store of a handler beside a running region
performs at once, where nothing of its company is in flight (R332). Stores into lines that another key enciphers, which are
enciphered anew with other bytes of theirs (R393), are left out. The model's own choices in it: log 12, 13, 52. -/
def Obligations.StoresIssueAndPerform : Prop :=
  (∀ (h : Hd) (field : BitVec 6) (size : BitVec 3) (mode sz : BitVec 2) (sc : BitVec 3) (base t : Reg)
     (s s1 : State) (ps rs : List Thread) (l : Thread) (c : Checked),
     let data (n : Nat) : List Byte := (List.range n).map fun i => byteOf (l.getV (t + BitVec.ofNat 6 (i / 4))) (i % 4)
     let s2 := s1.outAdd l.cid 1
     (size.toNat ≤ 4 →
      let n := sizeBytes size
      let f := hdForm h (mSrc field mode base ++ groupRegs t (max 1 (n / 4)))
      let x := l.mAddr field mode base n
      s.Issues f ps s1 → Acts f ps l rs → Granted s1 l rs .store x.va n false c →
       (s1.besideRegion l = false → ∃ s' o, exec (.st h field size mode base t) s = .next s' ∧ OpsDone s2 s' rs 0 x.upd [o] ∧
         o.Is l [] (match c.kinds, c.locs.map Loc.plain with
           | [.red], .phys a :: _ => .contrib a (data n)
           | _, _ => .store (data n)) x.va c 0 0 false false) ∧
       (s1.besideRegion l = true → (∀ o ∈ s1.ops, o.cid ≠ l.cid) → c.kinds ≠ [.red] → s1.Plain c.locs → (rs.map (·.tid)).Nodup →
         s1.OwnLines (s1.whoIs l) x.va.toNat n → ∃ s', exec (.st h field size mode base t) s = .next s' ∧ Wrote s1 s' c.locs (data n) ∧ s'.ops = s1.ops ∧ Gave s1 s' rs x.upd)) ∧
     (let n := 2 ^ sz.toNat
      let f := (hdForm h (baseRegs base ++ groupRegs t (max 1 (n / 4)))).barred
      s.Issues f ps s1 → Acts f ps l rs → Granted s1 l rs .release (l.base base) n true c → c.kinds ≠ [.red] → s1.besideRegion l = false →
       ∃ s' o, exec (.strel h sc sz base t) s = .next s' ∧ OpsDone s2 s' rs 0 [] [o] ∧
         o.Is l [] (.store (data n)) (l.base base) c 0 0 false (sc ≠ 0)) ∧
     (let f := (hdForm h (baseRegs base)).barred
      let va := l.base base &&& ~~~63
      s.Issues f ps s1 → Acts f ps l rs → Granted s1 l rs .zero va 64 false c → c.kinds ≠ [.red] → s1.besideRegion l = false →
       ∃ s' o, exec (.cctlZero h base) s = .next s' ∧ OpsDone s2 s' rs 0 [] [o] ∧
         o.Is l [] (.store (List.replicate 64 0)) va c 0 0 false false)) ∧
  (∀ (s : State) (id : Nat) (o : MemOp) (bs : List Byte), s.readyPart id = some (o, none) → o.kind = .store bs →
     (s.ops.filter o.sameUnit).length ≤ 1 → o.locs.length = bs.length → s.Plain o.locs →
     s.OwnLines (s.opWho o) (o.vas.headD 0) o.vas.length →
     ∃ s', exec (.storePerform id) s = .next s' ∧ Wrote s s' o.locs bs ∧ SameRegs s s' ∧ ∀ x ∈ s'.ops, x.id ≠ id) ∧
  ∀ (s : State) (id : Nat) (o r : MemOp) (bs : List Byte), s.readyPart id = some (o, some r) → o.kind = .store bs →
    o.locs.length = bs.length → s.Plain o.locs → s.OwnLines (s.opWho o) (o.vas.headD 0) o.vas.length →
    ∃ s', exec (.storePerform id) s = .next s' ∧ Wrote s s' o.locs bs ∧ SameRegs s s' ∧
      s'.ops = s.ops.map fun y => if y.id = r.id then r else y

/-- Spills of masks (R205): `ksave` stores the expected set, `kload` loads it for the troupe; when the word arrives it becomes the
expected set, less the exited threads, unless a later instruction of its thread has written the mask (R38). The model's own choices
in it: log 24, 25. -/
def Obligations.MaskSpills : Prop :=
  (∀ (m : Bool) (e : BitVec 6) (k a : Reg) (s s1 : State) (t : Thread) (c : Checked),
    let f := (markForm m [.v a]).barred
    let va : DWord := (t.getV a).setWidth 64 + e.setWidth 64 * 4
    s.Issues f [t] s1 →
    (Granted s1 t [t] .release va 4 true c → c.kinds ≠ [.red] → s1.besideRegion t = false → ∃ s' o, exec (.ksave m e k a) s = .next s' ∧
      OpsDone (s1.outAdd t.cid 1) s' [t] 0 [] [o] ∧
      o.Is t [] (.store ((List.range 4).map (byteOf (s1.maskRead t k.toNat)))) va c 0 0 false false) ∧
    (Granted s1 t [t] .acquire va 4 true c → ∃ s' o, exec (.kload m e k a) s = .next s' ∧ OpsDone s1 s' [t] 0 [] [o] ∧
      o.Is t [t] (.kload (t.tid / 32) k.toNat true) va c 0 4 false false)) ∧
  ∀ (s : State) (id trp k : Nat) (o : MemOp) (l : OpLane) (u : Thread) (tr : Troupe), s.readyOp id = some o →
    o.kind = .kload trp k true → s.ops.filter o.kloadMate = [o] → k < 12 → o.lanes = [l] → l.depth = 0 → s.thread? o.cid l.tid = some u →
    s.troupe? o.cid trp = some tr → o.locs.length = 4 →
    (s.precise o = false → exec (.kloadDataArrive id true) s = .next s) ∧
    ∃ s', exec (.kloadDataArrive id false) s = .next s' ∧
      (∃ tr', s'.troupe? o.cid trp = some tr' ∧ ∀ n, tr'.k.getD n 0 =
        if n = k ∧ .k k ∉ l.dead then BitVec.ofNat 32 (natOf (s.getLocs o.locs)) &&& ~~~(s.exitedMask o.cid trp) else tr.k.getD n 0) ∧
      (∀ c i w, s.thread? c i = some w → ∃ w', s'.thread? c i = some w' ∧ ∀ r, w'.reg r = w.reg r) ∧
      ∀ x, x.offChip = true → s'.getLoc x = s.getLoc x

/-- Plane accesses (R176 to R178): `ldp` goes in flight, or reads at issue where a flag of its rounding may trap, and its value
arrives with its flags; `stp` puts the bytes of its value in flight as stores. Plane updates go in flight and return the element's
new value (R242 to R244); each unit they change is then written by a step of its own, a byte of the scale or 32 bytes of a plane,
with its other bytes as the update found them (R96). Where an element's bytes lie (R92); the value that a read delivers, truncated or
rounded by the next plane (R91, R93, R95); and what a value is encoded as under a block's scale, and as which bytes (R94, R178,
R243). The model's own choices in it: log 25, 41, 43, 124. -/
def Obligations.PlaneAccessesAndUpdates : Prop :=
  (∀ (h : Hd) (field : BitVec 6) (k mode : BitVec 2) (base t : Reg) (s s1 : State) (ps rs : List Thread) (l : Thread) (c : Checked),
     let n := k.toNat + 1
     let rn : Bool := mode = 2 ∧ n < 4
     let src := groupRegs base 4 ++ (if mode = 3 then [.v field] else [])
     let at_ : Word := if mode = 1 then l.getV (base + 3) else if mode = 3 then l.getV (base + 3) + l.getV field
       else l.getV (base + 3) + field.signExtend 32 * 32
     let upd : List (RegId × DWord) :=
       if mode = 1 then [(.v (base + 3), (l.getV (base + 3) + field.signExtend 32 * 32).setWidth 64)] else []
     let x : Tensor := ⟨l.getPair base, (l.getV (base + 2)).toNat, l.getV (base + 3)⟩
     let vas (p : Nat) : List DWord := planeAddrs x.base x.n at_.toNat p
     let idle : Prop := c.mig = false ∧ s1.bodyOf l = none ∧ s1.bad ≠ 3 ∧ ∀ t ∈ rs, (s1.dbgctl t.cid).getLsbD 4 = false
     (let f := hdForm h ((if rn then [.f] else []) ++ src)
      let p := if rn then n + 1 else n
      let bs := s1.getLocs c.locs
      let r := nfRead rn (bs.headD 0).toNat n bs.tail
      let traps : Prop := rn = true ∧ (l.fpcsr.getLsbD 10 = true ∨ l.fpcsr.getLsbD 12 = true)
      s.Issues f ps s1 → Acts f ps l rs → s1.planeCheck (s1.whoIs l) x at_ p .planeR .planeR = .ok c → idle →
       (¬traps → ∃ s' o, exec (.ldp h field k mode base t) s = .next s' ∧ OpsDone s1 s' rs 0 upd [o] ∧ o.kind = .ldp n rn ∧ o.d = t ∧
         o.cid = l.cid ∧ o.tid = l.tid ∧ o.lanes.map (·.tid) = rs.map Thread.tid ∧ o.vas = (vas p).map (·.toNat) ∧ o.locs = c.locs ∧
         o.kinds = c.kinds) ∧
       (traps → s1.mayRead l (vas p) c = true → fpTrap l.fpcsr r.fl = none → (rs.map (·.tid)).Nodup →
         ∃ s', exec (.ldp h field k mode base t) s = .next s' ∧ SameMem s1 s' ∧ s'.ops.map MemOp.plain = s1.ops.map MemOp.plain ∧
           (∀ i ∈ rs, ∀ u, s1.thread? i.cid i.tid = some u → ∃ u', s'.thread? i.cid i.tid = some u' ∧ u'.bare = u.bare ∧
             ∀ q, u'.reg q = q.after (u.raised r.fl q) (upd ++ [(.v t, BitVec.ofNat 64 r.bits)])) ∧
           ∀ c i, (∀ j ∈ rs, ¬(j.cid = c ∧ j.tid = i)) → s'.thread? c i = s1.thread? c i)) ∧
     (let f := hdForm h (.f :: .v t :: src)
      let one : Checked := ⟨c.locs.take 1, c.kinds.take 1, false⟩
      let w := stpBytes l.fpcsr n (l.getV t).toNat ((s1.getLocs one.locs).headD 0).toNat
      s.Issues f ps s1 → Acts f ps l rs → s1.planeCheck (s1.whoIs l) x at_ n .planeR .planeW = .ok c → idle →
       s1.mayRead l ((vas n).take 1) one = true → fpTrap l.fpcsr w.2 = none → s1.besideRegion l = false →
       (∀ y ∈ w.1, y.1 = 0 → ∃ c', s1.checkBytes (s1.whoIs l) [((vas n).headD 0, .planeW)] = .ok c') →
       ∃ s' os, exec (.stp h field k mode base t) s = .next s' ∧
         OpsDone (w.1.foldl (fun s _ => s.outAdd l.cid 1) s1) s' rs w.2 upd os ∧
         os.map MemOp.kind = w.1.map (fun y => .store [y.2]) ∧ os.map MemOp.locs = w.1.map fun y => (c.locs[y.1]?).toList)) ∧
  ((∀ (h : Hd) (k : BitVec 2) (d a b : Reg) (s s1 : State) (ps rs : List Thread) (l : Thread) (c : Checked),
     let n := k.toNat + 1
     let f := (hdForm h (.f :: .v b :: groupRegs a 4)).barred
     let x : Tensor := ⟨l.getPair a, (l.getV (a + 2)).toNat, l.getV (a + 3)⟩
     s.Issues f ps s1 → Acts f ps l rs → s1.planeCheck (s1.whoIs l) x x.i n .planeRW .planeRW = .ok c → c.mig = false →
       (l.fpcsr.getLsbD 13 = false ∨ (fp32.value (l.getV b).toNat).isSig = false) → (∀ t ∈ rs, (s1.dbgctl t.cid).getLsbD 4 = false) →
       ∃ s' o, exec (.pladd h k d a b) s = .next s' ∧ OpsDone s1 s' rs 0 [] [o] ∧ o.locs = c.locs ∧ o.d = d ∧
         o.kind = .pladd n x.i.toNat (BitVec.ofNat 32 (fp32.deliver (ftzOf l.fpcsr) (l.getV b).toNat))) ∧
   (∀ (s : State) (id k i : Nat) (x : Word) (o : MemOp), s.readyOp id = some o → o.kind = .pladd k i x →
     (∀ y ∈ s.ops, y.id < s.nextId ∧ ∀ b bs, y.kind ≠ .unit b bs) → s.Plain o.locs → o.locs.length = k + 1 → o.vas.length = k + 1 →
     0 < k → k ≤ 4 → (o.lanes.map (·.tid)).Nodup → s.pladdGroup o = [o] →
     let r := pladdNew k x.toNat (s.getLocs o.locs)
     (s.precise o = false → exec (.pladdResultReturn id true) s = .next s) ∧
     ∃ s', exec (.pladdResultReturn id false) s = .next s' ∧ SameMem s s' ∧
       ResultDone s s' o [(.v o.d, BitVec.ofNat 64 r.1)] ∧
       ∀ y ∈ r.2, ∀ l, o.locs[y.1]? = some l → ∃ u ∈ s'.ops, ∃ b bs, u.kind = .unit b bs ∧ u.cid = o.cid ∧ u.tid = o.tid ∧
         u.locs.length = bs.length ∧ bs.length = (if y.1 = 0 then 1 else 32) ∧ (l, y.2) ∈ u.locs.zip bs ∧
         ∀ z ∈ u.locs.zip bs, (∀ y' ∈ r.2, o.locs[y'.1]? ≠ some z.1) → z.2 = s.getLoc z.1) ∧
   ∀ (s : State) (id : Nat) (o : MemOp) (b : Loc) (bs : List Byte), s.readyPart id = some (o, none) → o.kind = .unit b bs →
     s.ops.filter o.sameUnit = [o] → o.locs.length = bs.length → s.Plain o.locs →
     s.OwnLines (s.opWho o) (o.vas.headD 0) o.vas.length →
     ∃ s', exec (.storePerform id) s = .next s' ∧ Wrote s s' o.locs bs ∧ SameRegs s s' ∧ ∀ x ∈ s'.ops, x.id ≠ id) ∧
  (∀ (s : State) (id k : Nat) (rn : Bool) (o : MemOp), s.readyPart id = some (o, none) → o.kind = .ldp k rn → o.vas.length = o.locs.length →
     (o.got.map (·.1)).Pairwise (· < ·) → o.vas.Pairwise (· < ·) → (o.lanes.map (·.tid)).Nodup →
     ∀ bs : List (Nat × Byte), bs.Perm (o.got ++ o.vas.zip (s.getLocs o.locs)) → (bs.map (·.1)).Pairwise (· < ·) →
       let r := nfRead rn ((bs.map Prod.snd).headD 0).toNat k (bs.map Prod.snd).tail
       ∃ s', exec (.loadDataArrive id false) s = .next s' ∧ SameMem s s' ∧ (∀ x ∈ s'.ops, x.id ≠ o.id) ∧
         (∀ l ∈ o.lanes, ∀ u, s.thread? o.cid l.tid = some u → ∃ u', s'.thread? o.cid l.tid = some u' ∧ u'.pc = u.pc ∧
           ∀ q, u'.reg q = if q ∈ l.dead then u.raised r.fl q else q.after (u.raised r.fl q) [(.v o.d, BitVec.ofNat 64 r.bits)]) ∧
         ∀ c i u, s.thread? c i = some u → (∀ l ∈ o.lanes, ¬(o.cid = c ∧ l.tid = i)) →
           ∃ u', s'.thread? c i = some u' ∧ u'.pc = u.pc ∧ ∀ q, u'.reg q = u.reg q) ∧
  (∀ (base : DWord) (n i k : Nat), planeAddrs base n i k = (base + BitVec.ofNat 64 (i / 32)) ::
     (List.range k).map fun p => base + BitVec.ofNat 64 ((n / 32 + 63) / 64 * 64 + p * n + i)) ∧
  ∀ (k E : Nat), 1 ≤ k → k ≤ 4 → E < 256 →
    let F := 8 * k - 4
    let neg (ps : List Byte) : Bool := (ps.headD 0).msb
    let mag (ps : List Byte) : Nat := natOf (ps.take k).reverse % 2 ^ (8 * k - 1)
    (∀ (rn : Bool) (ps : List Byte), k ≤ ps.length → (rn = true → k < 4 → k < ps.length) →
      let r := nfRead rn E k ps
      let next := (ps.getD k 0).toNat
      let up : Bool := rn = true ∧ k < 4 ∧ (0x80 < next ∨ (next = 0x80 ∧ mag ps % 2 = 1))
      let x := mag ps + if up then 1 else 0
      (E = 255 → r = ⟨0x7FC00000, 0⟩) ∧
      (E < 255 → ∃ y, fp32.Rounds false .rne (neg ps) ((nfReal E F (neg ps) (min x (2 ^ (F + 3) - 1)) : ℚ) : ℝ) y ∧ r.bits = y.bits ∧
        r.fl = if x < 2 ^ (F + 3) then (if up then fNX else 0) else fOF ||| fNX)) ∧
    (∀ (m : Mode) (n : Bool) (a : Nat) (e : Int), E < 255 → NfEncodes m E F n (FV.fin n a e).rat (nfEncode m E k n a e)) ∧
    (∀ (n : Bool) (a : Nat), a < 2 ^ (F + 3) → (nfBytes k n a).length = k ∧ neg (nfBytes k n a) = n ∧ mag (nfBytes k n a) = a) ∧
    (∀ (fpcsr : Word) (x : Nat), x < 2 ^ 32 →
      let X := fp32.input (ftzOf fpcsr) x
      let w := stpBytes fpcsr k x E
      let put (n : Bool) (a : Nat) : List (Nat × Byte) := (nfBytes k n a).mapIdx fun p b => (p + 1, b)
      let nv : Flags := if X.isSig then fSNaN else fNV
      (E = 255 → w = ([], nv)) ∧ (E < 255 → X.isNan = true → w = ([(0, 0xFF)], nv)) ∧
      (∀ n, E < 255 → X = .inf n → w = (put n (2 ^ (F + 3) - 1), fNV ||| fOF ||| fNX)) ∧
      (∀ n a e, E < 255 → X = .fin n a e → let y := nfEncode (rmOf fpcsr) E k n a e; w = (put n y.1, y.2))) ∧
    ∀ (x : Nat) (ps : List Byte), x < 2 ^ 32 → ps.length = k →
      let X := fp32.value x
      let r := pladdNew k x (BitVec.ofNat 8 E :: ps)
      let makes (n : Bool) (a : Nat) : Prop := r.1 = (nfRead false E k (nfBytes k n a)).bits ∧
        ∀ p b, (p, b) ∈ r.2 ↔ 1 ≤ p ∧ (nfBytes k n a)[p - 1]? = some b ∧ ps[p - 1]? ≠ some b
      (E = 255 → r = (0x7FC00000, [])) ∧ (E < 255 → X.isNan = true → r = (0x7FC00000, [(0, 0xFF)])) ∧
      (∀ n, E < 255 → X = .inf n → makes n (2 ^ (F + 3) - 1)) ∧
      (E < 255 → X.isFin = true →
        let old := nfReal E F (neg ps) (mag ps)
        ∃ n a e, (FV.fin n a e).rat = old + X.rat ∧ (old + X.rat < 0 → n = true) ∧ (0 < old + X.rat → n = false) ∧
          (old + X.rat = 0 → n = (neg ps && X.neg)) ∧ makes n (nfEncode .rne E k n a e).1)

/-- Instructions without an effect of their own on values, fences and event schedules (R180 to R183). `cctl.iinv` waits for its
threads' stores to its line and covers what the line then holds, so that later fetches may obtain it; an acquiring fence brings in
what other agents wrote to the thread's registers and its troupe's tiles, and what `iinv`s before it cover (R155, R180); `aliasf` ends an alias chain of the thread's writes (R170). No
value in memory or in a register changes. The model's own choices in it: log 11, 14, 16, 86, 87. -/
def Obligations.HintsFencesSchedules : Prop :=
  ∀ (h : Hd) (m : Bool) (sc : BitVec 3) (acq rel uo : Bool) (base : Reg) (s s1 : State) (ps : List Thread),
    (s.Issues (hdForm h (baseRegs base)).barred ps s1 →
      exec (.cctlWb h base) s = .next s1 ∧ exec (.cctlWbinv h base) s = .next s1 ∧ exec (.cctlPf1 h base) s = .next s1 ∧
      exec (.cctlPf2 h base) s = .next s1 ∧
      ((∃ t ∈ ps, s.lineBusy t (t.base base) = true) → ∃ g, s.issue = some g ∧ exec (.cctlIinv h sc base) s =
        .next ((s.members g).foldl (fun s u => s.waitAt u .quiet) ({ s with issue := none } : State))) ∧
      ((∀ t ∈ ps, s.lineBusy t (t.base base) = false) →
        ∃ s', exec (.cctlIinv h sc base) s = .next s' ∧ { s' with lines := s1.lines, fresh := s1.fresh } = s1 ∧
          ∀ t l, ps = [t] → s1.translate (s1.whoIs t).part t.asid.toNat (t.base base).toNat = .ok l → 0x60000 ≤ (t.base base).toNat →
            s'.lines = s1.lines.map fun m => if m.line = l.phys (t.base base).toNat / 64 then
              { m with iinvs := (s1.fresh, sc.toNat, s1.coreOf t.cid) :: m.iinvs } else m)) ∧
    (∀ t, ps = [t] → s.Issues (markForm m).barred ps s1 →
      let gained : State := if acq then
          s1.updThread t.cid t.tid fun u => { (if 2 ≤ sc.toNat then
            { u with
              far := u.far.map fun x => { x with acquired := true }
              farTiles := u.farTiles.map fun x => { x with acquired := true } } else u) with fence := s1.fresh }
        else s1
      let mine (n : ByteName) : ByteName :=
        if n.cid = t.cid ∧ n.tid = some t.tid ∧ (∀ x ∈ n.fenced, x.2 ≠ sc.toNat) then { n with fenced := (s1.fresh, sc.toNat) :: n.fenced } else n
      let chained : State :=
        { s1.updThread t.cid t.tid (fun u => { u with chain := (s1.fresh, sc.toNat) :: u.chain.filter (fun x => x.2 ≠ sc.toNat) }) with
          marks := s1.marks.map fun m => { m with writes := m.writes.map fun w => { w with name := w.name.map mine } } }
      (s1.accessesOut t.cid t.tid = false →
        exec (.fence m sc acq rel uo) s = .next gained ∧ exec (.aliasf m sc) s = .next chained) ∧
      (s1.accessesOut t.cid t.tid = true →
        (∃ s' o, exec (.fence m sc acq rel uo) s = .next s' ∧ OpsDone gained s' [t] 0 [] [o] ∧ o.kind = .fence acq rel uo ∧
          o.cid = t.cid ∧ o.tid = t.tid ∧ o.locs = []) ∧
        ∃ s' o, exec (.aliasf m sc) s = .next s' ∧ OpsDone chained s' [t] 0 [] [o] ∧ o.kind = .fence true true true ∧
          o.cid = t.cid ∧ o.tid = t.tid ∧ o.locs = [])) ∧
    ∀ t, ps = [t] → s.Issues (markForm m [.v base]).barred ps s1 → s1.partOf t.cid < 4 →
      let p := s1.partOf t.cid
      ∃ s', exec (.evs m base) s = .next s' ∧ { s' with parts := s1.parts } = s1 ∧
        (s'.part p).phase = (if (s1.part p).sched ≠ none then max (s1.part p).phase (t.getV base).toNat else (s1.part p).phase) ∧
        ∀ q, q ≠ p → s'.part q = s1.part q

/-- Atomics go in flight with their operands (R222, R223). What an atomic leaves in memory, by operation; none where `cas` finds
another value (R222 to R225): a floating sum is the exact one rounded once to nearest even with subnormals kept, a NaN or ∞ − ∞
gives the default NaN; a minimum or maximum follows sign and magnitude, with −0 below +0, and passes over one NaN; `amax64` takes
the larger key. A packed sum performs half by half (R224). A `red` that meets an uncorrectable error leaves memory as it is, and
its thread takes DATAERR DEFERRED before its next instruction (R228). The model's own choices in it: log 12, 13, 25, 43. -/
def Obligations.AtomicsIssueAndReturn : Prop :=
  (∀ (h : Hd) (op : BitVec 6) (size : BitVec 3) (base t : Reg) (s s1 : State) (ps rs : List Thread) (l : Thread) (c : Checked),
     let n := sizeBytes size
     let f := (hdForm h ((if op.toNat ∈ [1, 2, 3, 8, 9] then [.f] else []) ++ baseRegs base ++ atomRegs op.toNat n t)).barred
     let word (i : Nat) : DWord := if n = 4 then (l.getV (t + BitVec.ofNat 6 i)).setWidth 64 else l.getPair (t + BitVec.ofNat 6 (2 * i))
     let y : DWord := if op = 14 then word 1 else 0
     let q (ret : Bool) : Prop := Granted s1 l rs (if ret then .atom else .red) (l.base base) n true c
     s.Issues f ps s1 → Acts f ps l rs → l.fpcsr.getLsbD 13 = false ∨ atomSignals op.toNat n (word 0).toNat = false →
     (q true → ∃ s' o, exec (.atom h op size base t) s = .next s' ∧ OpsDone s1 s' rs 0 [] [o] ∧
       o.Is l rs (.atom true op.toNat n (word 0) y) (l.base base) c t n false false) ∧
     (q false → ∃ s' o, exec (.red h op size base t) s = .next s' ∧ OpsDone (s1.outAdd l.cid 1) s' rs 0 [] [o] ∧
       o.Is l [] (.atom false op.toNat n (word 0) y) (l.base base) c t n false false)) ∧
  ((∀ (n old x y : Nat), n = 4 ∨ n = 8 → old < 2 ^ (8 * n) → x < 2 ^ (8 * n) →
     let m := 2 ^ (8 * n)
     let sg (v : Nat) : Int := if m / 2 ≤ v then (v : Int) - m else v
     atomNew 0 n old x y = some ((old + x) % m) ∧
     (∃ r, atomNew 4 n old x y = some r ∧ sg r = min (sg old) (sg x)) ∧ (∃ r, atomNew 5 n old x y = some r ∧ sg r = max (sg old) (sg x)) ∧
     atomNew 6 n old x y = some (min old x) ∧ atomNew 7 n old x y = some (max old x) ∧ atomNew 10 n old x y = some (old &&& x) ∧
     atomNew 11 n old x y = some (old ||| x) ∧ atomNew 12 n old x y = some (old ^^^ x) ∧ atomNew 13 n old x y = some x ∧
     (old = x → atomNew 14 n old x y = some y) ∧ (old ≠ x → atomNew 14 n old x y = none) ∧
     (let F : Fmt := if n = 4 then fp32 else fp64
      let key (v : Nat) : Int := if v.testBit (8 * n - 1) then -1 - (v % 2 ^ (8 * n - 1) : Nat) else v
      let less (op : Nat) (pick : Int → Int → Int) : Prop :=
        ((F.value old).isNan = true → (F.value x).isNan = true → atomNew op n old x y = some F.nan) ∧
        ((F.value old).isNan = true → (F.value x).isNan = false → atomNew op n old x y = some x) ∧
        ((F.value old).isNan = false → (F.value x).isNan = true → atomNew op n old x y = some old) ∧
        ((F.value old).isNan = false → (F.value x).isNan = false → ∃ r, atomNew op n old x y = some r ∧ (r = old ∨ r = x) ∧
          key r = pick (key old) (key x))
      atomNew 1 n old x y = some (F.atomAdd old x) ∧ less 8 min ∧ less 9 max) ∧
     (n = 8 →
      let f := x % 2 ^ 32
      let h := if 0x7F800000 < f % 2 ^ 31 then 0 else if f % 2 ^ 31 = 0 then 0x80000000 else if f < 2 ^ 31 then f + 0x80000000 else 2 ^ 32 - 1 - f
      atomNew 15 n old x y = some (max old (h * 2 ^ 32 + (2 ^ 32 - 1 - x / 2 ^ 32))))) ∧
   (∀ F : Fmt, F ∈ [fp32, fp64, bf16, fp16] → ∀ a b : Nat, a < 2 ^ (F.sp + 1) → b < 2 ^ (F.sp + 1) →
     let A := F.value a
     let B := F.value b
     (A.isNan = true ∨ B.isNan = true → F.atomAdd a b = F.nan) ∧
     (∀ n, A = .inf n → B = .inf (!n) → F.atomAdd a b = F.nan) ∧
     (∀ n, A = .inf n → (B.isFin = true ∨ B = .inf n) → F.atomAdd a b = F.make n F.infinity) ∧
     (∀ n, A.isFin = true → B = .inf n → F.atomAdd a b = F.make n F.infinity) ∧
     (A.isFin = true → B.isFin = true →
       let v : ℝ := ((A.rat + B.rat : ℚ) : ℝ)
       ∃ n r, F.Rounds false .rne n v r ∧ F.atomAdd a b = r.bits ∧ (v < 0 → n = true) ∧ (0 < v → n = false) ∧ (v = 0 → n = (A.neg && B.neg)))) ∧
   (∀ (s : State) (id op : Nat) (hi : Bool) (x : BitVec 16) (got : Option Nat) (o : MemOp) (rest : Option MemOp), s.readyPart id = some (o, rest) →
     o.locs.length = 2 → s.Plain o.locs → (o.lanes.map (·.tid)).Nodup → op = 2 ∨ op = 3 →
     s.OwnLines (s.opWho o) (o.vas.headD 0) o.vas.length →
     let F : Fmt := if op = 2 then bf16 else fp16
     let old := natOf (s.getLocs o.locs)
     let new := bytesOf 2 (F.atomAdd old x.toNat)
     (o.kind = .half false op hi x got → ∃ s', exec (.storePerform id) s = .next s' ∧ Wrote s s' o.locs new ∧ SameRegs s s' ∧
       (∀ r, rest = some r → s'.ops = s.ops.map fun y => if y.id = r.id then r else y) ∧ (rest = none → ∀ z ∈ s'.ops, z.id ≠ id)) ∧
     (o.kind = .half true op hi x got → ∃ s', exec (.atomResultReturn id false) s = .next s' ∧ Wrote s s' o.locs new ∧
       (∀ r t p h z g, rest = some r → r.kind = .half t p h z g → SameRegs s s' ∧
         s'.ops = s.ops.map fun y => if y.id = r.id then { r with kind := .half t p h z (some old) } else y) ∧
       (rest = none → ResultDone s s' o
         [(.v o.d, BitVec.ofNat 64 (if hi then got.getD 0 + 65536 * old else old + 65536 * got.getD 0))]))) ∧
   ∀ (s : State) (id op n : Nat) (x y : DWord) (o : MemOp), s.readyPart id = some (o, none) → o.locs.length = n → n = 4 ∨ n = 8 → s.Plain o.locs →
     (o.lanes.map (·.tid)).Nodup → s.OwnLines (s.opWho o) (o.vas.headD 0) o.vas.length →
     let old := natOf (s.getLocs o.locs)
     let new : List Byte := match atomNew op n old x.toNat y.toNat with
       | some v => bytesOf n v
       | none => s.getLocs o.locs
     (o.kind = .atom true op n x y → (s.precise o = false → exec (.atomResultReturn id true) s = .next s) ∧
       ∃ s', exec (.atomResultReturn id false) s = .next s' ∧ Wrote s s' o.locs new ∧
         ResultDone s s' o (if n = 4 then [(.v o.d, BitVec.ofNat 64 old)] else [(.v o.d, BitVec.ofNat 64 old), (.v (o.d + 1), BitVec.ofNat 64 old >>> 32)])) ∧
     (o.kind = .atom false op n x y → ∃ s', exec (.storePerform id) s = .next s' ∧ Wrote s s' o.locs new ∧ SameRegs s s' ∧
       ∀ z ∈ s'.ops, z.id ≠ id)) ∧
  (∀ (s : State) (id op n : Nat) (x y : DWord) (hi : Bool) (z : BitVec 16) (o : MemOp) (u : Thread), s.readyOp id = some o →
     o.kind = .atom false op n x y ∨ o.kind = .half false op hi z none → s.thread? o.cid o.tid = some u → u.exited = false →
     ∃ s', exec (.redDataerrDeferred id) s = .next s' ∧ (∀ l, l.offChip = true → s'.getLoc l = s.getLoc l) ∧ SameRegs s s' ∧
       (∀ z ∈ s'.ops, z.id ≠ id) ∧
       ∃ u', s'.thread? o.cid o.tid = some u' ∧ u'.asyncs = u.asyncs ++ [⟨{ cls := 5, sub := 3, addr := o.va }, 0, none⟩])

/-- Operations on sync variables go in flight, and reply with the old value (R229 to R232). The model's own choices in it: log 25,
43. -/
def Obligations.SyncVariables : Prop :=
  (∀ (h : Hd) (d a b : Reg) (s s1 : State) (ps rs : List Thread) (l : Thread),
    let o := (l.getV a).toNat
    let va : DWord := BitVec.ofNat 64 (Config.syncBase + o)
    let p := (s1.whoIs l).part
    let x := l.getV b
    let y := l.getV (b + 1)
    let c : Checked := ⟨[.sync p o, .sync p (o + 1), .sync p (o + 2), .sync p (o + 3)], [.so], false⟩
    let go (i : Instr) (src : List RegId) (minor : Nat) : Prop :=
      let f := (hdForm h (.v a :: src)).barred
      s.Issues f ps s1 → Acts f ps l rs → o % 8 = 0 → syncIn (s1.part p) o = true →
        (∀ t ∈ rs, (s1.dbgctl t.cid).getLsbD 4 = false) →
        ∃ s' op, exec i s = .next s' ∧ OpsDone s1 s' rs 0 [] [op] ∧ op.Is l rs (.sync minor x y) va c d 1 false false
    go (.sadd h d a b) [.v b] 0 ∧ go (.sbadd h d a b) [.v b, .v (b + 1)] 1 ∧ go (.sincw h d a b) [.v b] 2 ∧
    go (.scas h d a b) [.v b, .v (b + 1)] 3 ∧ go (.sexch h d a b) [.v b] 4 ∧ go (.smin h d a b) [.v b] 5 ∧ go (.smax h d a b) [.v b] 6) ∧
  ∀ (s : State) (id minor p o : Nat) (x y : Word) (op : MemOp), s.readyOp id = some op → op.kind = .sync minor x y →
    minor ≤ 6 → op.locs = [.sync p o, .sync p (o + 1), .sync p (o + 2), .sync p (o + 3)] → s.Plain op.locs →
    (op.lanes.map (·.tid)).Nodup →
    let old : Word := s.syncValue p o
    let ok : Bool := if minor = 1 then old.toNat + x.toNat ≤ y.toNat else if minor = 3 then old = x else true
    let new : Word := if !ok then old else
      match minor with
      | 0 | 1 => old + x
      | 2 => if x.toNat ≤ old.toNat then 0 else old + 1
      | 3 => y
      | 4 => x
      | 5 => BitVec.ofNat 32 (min old.toNat x.toNat)
      | _ => BitVec.ofNat 32 (max old.toNat x.toNat)
    (s.precise op = false → exec (.syncReply id true) s = .next s) ∧
    ∃ s', exec (.syncReply id false) s = .next s' ∧ Wrote s s' op.locs (bytesOf 4 new.toNat) ∧
      ResultDone s s' op ((.v op.d, old.setWidth 64) :: if minor = 1 ∨ minor = 3 then [(.p 6, if ok then 1 else 0)] else [])

/-! ### Waits, mailboxes and commands -/

/-- `waita` (R233, R234): without an armed word it returns −1; where an armed word differs from its expected value it returns the
lowest such word and its value; else the threads wait with their words armed. The end of a `waita` of a company on its core (R234,
R241): a written word returns with its present value, a time-out returns −1; the thread goes on past the instruction. The model's
own choices in it: log 46, 90. -/
def Obligations.WaitsOnWords : Prop :=
  (∀ (h : Hd) (d a b : Reg) (s s1 : State) (ps rs : List Thread) (l : Thread) (xs : List Armed),
     let f := (hdForm h (groupRegs a 4 ++ groupRegs d 4 ++ [.v b])).barred
     let ctl := l.getV b
     let es := (List.range 4).filterMap fun i => if ctl.getLsbD i then some (i, ctl.getLsbD (4 + i), l.getV (a + BitVec.ofNat 6 i)) else none
     let vas : List DWord := es.flatMap fun e => (List.range 4).map fun i => BitVec.ofNat 64 (armVa e.2.1 e.2.2 + i)
     let kinds : List PKind := es.flatMap fun e => List.replicate 4 (if e.2.1 then .so else .rc)
     let free : Prop := s1.mayRead l vas ⟨xs.flatMap Armed.locs, kinds, false⟩ = true ∧ s1.bad ≠ 3
     let differs (x : Armed) : Bool := x.value ≠ l.getV (d + BitVec.ofNat 6 x.i)
     s.Issues f ps s1 → Acts f ps l rs → s1.armAll (s1.whoIs l) es = .ok xs →
     (xs = [] → ∃ s', exec (.waita h d a b) s = .next s' ∧ OpsDone s1 s' rs 0 [(.v d, 0xFFFFFFFF)] []) ∧
     (∀ x, free → xs.find? differs = some x → ∃ s', exec (.waita h d a b) s = .next s' ∧
       OpsDone s1 s' rs 0 [(.v d, BitVec.ofNat 64 x.i), (.v (d + 1), x.value.setWidth 64)] []) ∧
     (free → xs ≠ [] → xs.find? differs = none → ∃ s', exec (.waita h d a b) s = .next s' ∧ ThreadsDone s1 s' rs fun t u =>
       { u with pc := t.pc, guard := t.guard, step := t.step, asyncs := t.asyncs, wait := .waita,
                waita := some ⟨xs, l.group d 4, rs.map Thread.tid, d, s1.clkOf l.cid, ctl.toNat / 65536 * 1024⟩ })) ∧
  (∀ (s : State) (t : Thread) (w : Waita) (c : Company) (now : Nat), s.thread? t.cid t.tid = some t → t.wait = .waita →
     t.waita = some w → t.tid ∈ w.mates →
     let done (s' : State) (ws : List (RegId × DWord)) : Prop := (∃ t', s'.thread? t.cid t.tid = some t' ∧ t'.wait = .none ∧
       t'.pc = t.pc + 4 ∧ t'.waita = none ∧ ∀ r, t'.reg r = r.after (t.reg r) ws) ∧
       ∀ l, l.offChip = true → s'.getLoc l = s.getLoc l
     (∀ x, s.company? t.cid = some c → c.onCore = true → w.words.find? (·.hit) = some x → ∃ s', exec (.waitaWake t.cid t.tid) s = .next s' ∧
       done s' [(.v w.d, BitVec.ofNat 64 x.i), (.v (w.d + 1), BitVec.ofNat 64 (natOf (s.getLocs x.locs) % 2 ^ 32))]) ∧
     (s.company? t.cid = some c → c.onCore = true → t.halt = none → w.tmo ≠ 0 → w.start + w.tmo ≤ now →
       (∀ x ∈ w.words, x.hit = false) →
       ∃ s', exec (.waitaTimeout t.cid t.tid now) s = .next s' ∧ done s' [(.v w.d, 0xFFFFFFFF)]))

/-- `mon` arms the thread's monitor on its line, and `mwait` returns 2 without a monitor, 0 once its event is set, and waits
otherwise (R235, R236). The end of an `mwait` (R236), in every thread of it that still waits: status 0 once the event of the monitor
is set, which is disarmed; without an event it may end so, where the line has been evicted (R235); status 1 at the time-out. The
model's own choices in it: log 46, 90, 98. -/
def Obligations.MonitorWaits : Prop :=
  (∀ (h : Hd) (d a b : Reg) (s s1 : State) (ps rs : List Thread) (l u : Thread) (c : Checked),
     (let f := (hdForm h (baseRegs a)).barred
      let va := l.base a &&& ~~~63
      s.Issues f ps s1 → Acts f ps l rs → Granted s1 l rs .monitor va 64 false c →
       ∃ s', exec (.mon h a) s = .next s' ∧ ThreadsDone s1 s' rs fun _ u =>
         { u with mon := some ⟨va, u.asid, s1.nextId, c.locs.map s1.canon, [], false⟩ }) ∧
     (let f := (hdForm h [.v b]).barred
      s.Issues f ps s1 → Acts f ps l rs → s1.thread? l.cid l.tid = some u →
       (u.mon = none → ∃ s', exec (.mwait h d b) s = .next s' ∧ OpsDone s1 s' rs 0 [(.v d, 2)] []) ∧
       (∀ m, u.mon = some m → m.lost = true ∨ m.hit ≠ [] → ∃ s', exec (.mwait h d b) s = .next s' ∧
         OpsDone (s1.updThread l.cid l.tid fun u => { u with mon := none }) s' rs 0 [(.v d, 0)] []) ∧
       (∀ m, u.mon = some m → m.lost = false → m.hit = [] →
         let limit := (l.getV b).toNat / 65536 * 1024
         ∃ s', exec (.mwait h d b) s = .next s' ∧ ThreadsDone s1 s' rs fun t u =>
           { u with pc := t.pc, guard := t.guard, step := t.step, asyncs := t.asyncs,
                    wait := .mwait d l.tid s1.fresh (s1.clkOf t.cid) limit, watched := some m }))) ∧
  (∀ (s : State) (t : Thread) (m : Monitor) (c : Company) (d : Reg) (src grp st tmo now : Nat), s.Named → s.thread? t.cid t.tid = some t →
     s.company? t.cid = some c → c.onCore = true → t.wait = .mwait d src grp st tmo → t.watched = some m →
     let done (s' : State) (x : DWord) : Prop := SameMem s s' ∧ ∀ u ∈ s.threads, ∃ u', s'.thread? u.cid u.tid = some u' ∧
       ((∃ e st' tmo', u.cid = t.cid ∧ u.wait = .mwait e src grp st' tmo' ∧ u'.wait = .none ∧ u'.pc = u.pc + 4 ∧ u'.watched = none ∧
           u'.mon = (if x = 0 ∧ u.tid = src then none else u.mon) ∧ ∀ r, u'.reg r = r.after (u.reg r) [(.v e, x)]) ∨
         ((∀ e st' tmo', u.cid = t.cid → u.wait ≠ .mwait e src grp st' tmo') ∧ u'.wait = u.wait ∧ u'.pc = u.pc ∧ u'.mon = u.mon ∧
           ∀ r, u'.reg r = u.reg r))
     (m.lost = true ∨ m.hit ≠ [] → ∃ s', exec (.mwaitWake t.cid t.tid) s = .next s' ∧ done s' 0) ∧
     (∃ s', exec (.mwaitWake t.cid t.tid) s = .next s' ∧ (s' = s ∨ done s' 0)) ∧
     (m.lost = false → m.hit = [] → t.halt = none → tmo ≠ 0 → st + tmo ≤ now →
       ∃ s', exec (.mwaitTimeout t.cid t.tid now) s = .next s' ∧ done s' 1))

/-- `mbput` and `mbget` line up at their ring, and the threads wait until they are served (R237 to R240). Serving a ring (R239): a
put places its message at TAIL where there is room, a get takes the message at HEAD; the waiting threads go on. `acall` (R372):
a call lines up at its ring and no thread waits; served in its turn it returns 0 with its message placed, 1 from a full ring and
2 from a company that is not on its core, in its register and in `p6`. The model's own choices in it: log 47, 70. -/
def Obligations.MailboxesAndAsynchronousCalls : Prop :=
  (∀ (h : Hd) (d a b : Reg) (s s1 : State) (ps rs : List Thread) (l : Thread) (c x : Company) (hdr : Nat) (remote : Bool),
     let vas : List DWord := if remote then [] else (List.range 16).map fun i => BitVec.ofNat 64 (hdr + i)
     let ls : List Loc := (List.range 16).map fun i => .scratch x.cid (hdr + i)
     s1.company? l.cid = some c → s1.mailbox c (l.getV a) = .ok (x, hdr, remote) → (s1.ring x.cid hdr).ok x = true →
     s1.mayRead l vas ⟨ls, [.rc], false⟩ = true → s1.bad ≠ 3 →
     let go (i : Instr) (f : Form) (k : MbKind) (msg : DWord) (d : Reg) : Prop := s.Issues f ps s1 → Acts f ps l rs →
       ∃ s', exec i s = .next s' ∧
         s'.mbox = s1.mbox ++ [⟨s1.nextId, k, l.cid, l.tid, rs.map Thread.tid, x.cid, hdr, remote, false, msg, d, []⟩] ∧
         (∀ t ∈ rs, ∀ u, s1.thread? t.cid t.tid = some u → ∃ u', s'.thread? t.cid t.tid = some u' ∧ u'.wait = .mbox s1.nextId ∧
           u'.pc = t.pc ∧ ∀ r, u'.reg r = u.reg r) ∧
         (∀ j i, (∀ t ∈ rs, ¬(t.cid = j ∧ t.tid = i)) → s'.thread? j i = s1.thread? j i) ∧
         ∀ z, z.offChip = true → s'.getLoc z = s1.getLoc z
     go (.mbput h a b) (hdForm h [.v a, .v b, .v (b + 1)]).release.barred .put (l.getPair b) 0 ∧
     go (.mbget h d a) (hdForm h [.v a]).barred .get 0 d) ∧
  (∀ (s : State) (id : Nat) (m : MbOp) (c : Company), s.mbFirst id = some (m, c) → s.company? m.ring = some c → s.Canon →
     (∀ x ∈ s.mbox, x.ring = m.ring → x.hdr = m.hdr → x.spoiled = false) → m.lanes.Nodup →
     let r := s.ring m.ring m.hdr
     let at_ (b n : Nat) : List Loc := (List.range n).map fun i => .scratch m.ring (b + i)
     let put := r.base + r.tail % r.count * 8
     let get := r.base + r.head % r.count * 8
     let going (s' : State) (ws : List (RegId × DWord)) : Prop := (∀ x ∈ s'.mbox, x.id ≠ id) ∧
       ∀ i ∈ m.lanes, ∀ u, s.thread? m.cid i = some u → u.wait = .mbox id → ∃ u', s'.thread? m.cid i = some u' ∧ u'.wait = .none ∧
         u'.pc = u.pc + 4 ∧ ∀ q, u'.reg q = q.after (u.reg q) ws
     r.ok c = true →
     (m.kind = .put →
       (r.used = r.count → exec (.mbputServe id) s = .next s) ∧
       (r.used ≠ r.count → put + 8 ≤ m.hdr ∨ m.hdr + 16 ≤ put → ∃ s', exec (.mbputServe id) s = .next s' ∧ going s' [] ∧
         s'.getLocs (at_ put 8) = bytesOf 8 m.msg.toNat ∧ s'.getLocs (at_ (m.hdr + 12) 4) = bytesOf 4 (r.tail + 1) ∧
         ∀ l, l.offChip = true → l ∉ at_ put 8 → l ∉ at_ (m.hdr + 12) 4 → s'.getLoc l = s.getLoc l)) ∧
     (m.kind = .get →
       (r.used = 0 → exec (.mbgetServe id) s = .next s) ∧
       (r.used ≠ 0 → let x := BitVec.ofNat 64 (natOf (s.getLocs (at_ get 8)))
         ∃ s', exec (.mbgetServe id) s = .next s' ∧ going s' [(.v m.d, x), (.v (m.d + 1), x >>> 32)] ∧
         Wrote s s' (at_ (m.hdr + 8) 4) (bytesOf 4 (r.head + 1))))) ∧
  ((∀ (h : Hd) (d a b : Reg) (s s1 : State) (ps rs : List Thread) (l : Thread) (c x : Company) (hdr : Nat) (remote : Bool),
     let f := (hdForm h [.v a, .v b, .v (b + 1)]).release.barred
     let vas : List DWord := if remote then [] else (List.range 16).map fun i => BitVec.ofNat 64 (hdr + i)
     s.Issues f ps s1 → Acts f ps l rs → s1.company? l.cid = some c → s1.mailbox c (l.getV a) = .ok (x, hdr, remote) →
     (s1.ring x.cid hdr).ok x = true → s1.bad ≠ 3 →
     s1.mayRead l vas ⟨(List.range 16).map fun i => .scratch x.cid (hdr + i), [.rc], false⟩ = true →
     ∃ s', exec (.acall h d a b) s = .next s' ∧ s'.threads = s1.threads ∧ SameMem s1 s' ∧
       s'.mbox = s1.mbox ++ [⟨s1.nextId, .call, l.cid, l.tid, rs.map Thread.tid, x.cid, hdr, remote, false, l.getPair b, d, []⟩]) ∧
   ∀ (s : State) (id : Nat) (m : MbOp) (c : Company), s.mbox.find? (fun m => m.id == id) = some m → m.kind = .call → m.lanes.Nodup →
     s.company? m.ring = some c → s.Canon → (∀ x ∈ s.mbox, x.ring = m.ring → x.hdr = m.hdr → x.spoiled = false) →
     let r := s.ring m.ring m.hdr
     let bytes (b n : Nat) : List Loc := (List.range n).map fun i => .scratch m.ring (b + i)
     let put := r.base + r.tail % r.count * 8
     let replied (s' : State) (st : Nat) : Prop := (∀ x ∈ s'.mbox, x.id ≠ id) ∧
       ∀ i ∈ m.lanes, ∀ u, s.thread? m.cid i = some u → ∃ u', s'.thread? m.cid i = some u' ∧ u'.pc = u.pc ∧
         ∀ q, u'.reg q = if (i, q) ∈ m.dead then u.reg q
           else q.after (u.reg q) [(.v m.d, BitVec.ofNat 64 st), (.p 6, if st = 0 then 1 else 0)]
     let away : Prop := c.state = .saved ∨ c.state = .flushed ∨ c.state = .ended
     (away → ∃ s', exec (.acallReply id) s = .next s' ∧ replied s' 2 ∧ SameMem s s') ∧
     (¬away → r.ok c = true → r.used = r.count → ∃ s', exec (.acallReply id) s = .next s' ∧ replied s' 1 ∧ SameMem s s') ∧
     (¬away → r.ok c = true → r.used ≠ r.count → s.mbox.find? (MbOp.sameLine m) = some m → put + 8 ≤ m.hdr ∨ m.hdr + 16 ≤ put →
       ∃ s', exec (.acallReply id) s = .next s' ∧ replied s' 0 ∧ s'.getLocs (bytes put 8) = bytesOf 8 m.msg.toNat ∧
         s'.getLocs (bytes (m.hdr + 12) 4) = bytesOf 4 (r.tail + 1) ∧
         ∀ l, l.offChip = true → l ∉ bytes put 8 → l ∉ bytes (m.hdr + 12) 4 → s'.getLoc l = s.getLoc l))

/-- Tender and fabric commands (R245 to R248, R256): a legal block is taken as the troupe's next ticket, which the threads receive.
`twait` (R252): the threads whose tickets have completed receive the troupe's status, which is cleared; the others wait. The
model's own choices in it: log 48, 49. -/
def Obligations.CommandsTakeTickets : Prop :=
  (∀ (h : Hd) (d a b : Reg) (s s1 : State) (ps rs : List Thread) (l : Thread) (c : Company) (u : Troupe),
     let f := (hdForm h [.v a, .v b]).barred
     let ctl := l.getV b
     let va := (l.getV a).toNat
     let ls : List Loc := (List.range 64).map fun i => .scratch c.cid (va + i)
     let blk : Block := (List.range 16).map fun j => BitVec.ofNat 32 (natOf (s1.getLocs ((List.range 4).map fun i => .scratch c.cid (va + 4 * j + i))))
     s.Issues f ps s1 → Acts f ps l rs → s1.company? l.cid = some c → s1.troupe? l.cid (l.tid / 32) = some u →
     va % 64 = 0 → va + 64 ≤ c.scrS → (ctl.getLsbD 7 = true → l.sys = true) → ctl.toNat / 256 = 0 → ctl.getLsbD 3 = false →
     ctl.toNat % 8 ≠ 7 → s1.bad ≠ 3 →
     s1.mayRead l ((List.range 64).map fun i => (l.getV a).setWidth 64 + BitVec.ofNat 64 i) ⟨ls, [.rc], false⟩ = true →
     let go (i : Instr) (k : CmdKind) : Prop := blockBad k (ctl.getLsbD 6) c.scrS blk = none →
       (k.tender = true → s1.tenderLoad c.core < 64) →
       ∃ s' x, exec i s = .next s' ∧ s'.cmds = s1.cmds ++ [x] ∧ x.kind = k ∧ x.state = .run ∧ x.cid = l.cid ∧ x.tid = l.tid ∧
         x.ticket = u.ticket + 1 ∧ x.asid = l.asid ∧ x.sys = l.sys ∧ x.cursor = 0 ∧ x.status = 0 ∧ x.w = blk ∧
         x.src = BitVec.ofNat 64 (bd blk 0) ∧ x.dst = BitVec.ofNat 64 (bd blk 8) ∧
         (∃ u', s'.troupe? l.cid (l.tid / 32) = some u' ∧ u' = { u with ticket := u.ticket + 1 }) ∧
         (∀ t ∈ rs, ∀ w, s1.thread? t.cid t.tid = some w → ∃ w', s'.thread? t.cid t.tid = some w' ∧ w'.bare = w.bare ∧
           ∀ r, w'.reg r = r.after (w.reg r) [(.v d, (u.ticket + 1).setWidth 64)]) ∧
         (∀ j i, (∀ t ∈ rs, ¬(t.cid = j ∧ t.tid = i)) → s'.thread? j i = s1.thread? j i) ∧
         ∀ z, z.offChip = true → s'.getLoc z = s1.getLoc z
     go (.tcopy h d a b) .copy ∧ go (.tcopy2 h d a b) .copy2 ∧ go (.tgath h d a b) .gath ∧ go (.tscat h d a b) .scat ∧
     go (.tfill h d a b) .fill ∧ go (.tnote h d a b) .note ∧ go (.tcoll h d a b) .coll ∧ go (.rflush h d a b) .rflush) ∧
  (∀ (h : Hd) (d a : Reg) (s s1 : State) (t u : Thread) (tr : Troupe), s.Issues (hdForm h [.v a]).barred [t] s1 →
     s1.thread? t.cid t.tid = some u → s1.troupe? t.cid (t.tid / 32) = some tr →
     let pending : Bool := s1.cmds.any fun c => c.cid == t.cid && c.trp == t.tid / 32 && (t.getV a - c.ticket).toNat < 2 ^ 31
     (pending = false → ∃ s' tr' u', exec (.twait h d a) s = .next s' ∧ s'.troupe? t.cid (t.tid / 32) = some tr' ∧
       tr' = { tr with status := 0 } ∧ s'.thread? t.cid t.tid = some u' ∧ u'.pc = u.pc ∧ u'.wait = u.wait ∧
       ∀ r, u'.reg r = r.after (u.reg r) [(.v d, tr.status.setWidth 64)]) ∧
     (pending = true → ∃ s' u', exec (.twait h d a) s = .next s' ∧ s'.troupe? t.cid (t.tid / 32) = some tr ∧
       s'.thread? t.cid t.tid = some u' ∧ u'.wait = .twait (t.tid / 32) (t.getV a) d ∧ u'.pc = t.pc ∧ ∀ r, u'.reg r = u.reg r))

/-- Refused commands (R246, R247): PRIV without system mode for PHYS, ALIGN and WINDOW of the block's address, ENGINE BADCMD with
the offset of the first illegal field. A system register that user mode may not read or write traps PRIV REGISTER in user mode, and
`tlbinv` traps PRIV INSTR (R67, R215, R221). The model's own choices in it: log 49. -/
def Obligations.CommandAndPrivilegeTraps : Prop :=
  (∀ (h : Hd) (d a b : Reg),
     let f := (hdForm h [.v a, .v b]).barred
     let here (s : State) (t : Thread) : Prop := ∃ c, s.company? t.cid = some c ∧ (t.getV a).toNat + 64 ≤ c.scrS
     let go (i : Instr) (k : CmdKind) : Prop :=
       Traps i f (fun s t => s.company? t.cid ≠ none ∧ (t.getV b).getLsbD 7 = true ∧ t.sys = false) (fun _ _ _ => { cls := 1, sub := 3 }) ∧
       Traps i f (fun s t => s.company? t.cid ≠ none ∧ ((t.getV b).getLsbD 7 = false ∨ t.sys = true) ∧ (t.getV a).toNat % 64 ≠ 0)
         (fun _ _ t => { cls := 2, sub := 1, addr := (t.getV a).setWidth 64 }) ∧
       Traps i f (fun s t => (∃ c, s.company? t.cid = some c ∧ c.scrS < (t.getV a).toNat + 64) ∧ ((t.getV b).getLsbD 7 = false ∨ t.sys = true) ∧
         (t.getV a).toNat % 64 = 0) (fun _ _ t => { cls := 4, sub := 2, addr := (t.getV a).setWidth 64 }) ∧
       ∀ off, Traps i f (fun s t => here s t ∧ ((t.getV b).getLsbD 7 = false ∨ t.sys = true) ∧ (t.getV a).toNat % 64 = 0 ∧ s.bad ≠ 3 ∧
           s.ops = [] ∧ ∃ c, s.company? t.cid = some c ∧ blockBad k ((t.getV b).getLsbD 6) c.scrS
             ((List.range 16).map fun j => BitVec.ofNat 32 (natOf (s.getLocs ((List.range 4).map fun i =>
               .scratch c.cid ((t.getV a).toNat + 4 * j + i))))) = some off)
         fun _ _ _ => { cls := 10, sub := 1, extra := BitVec.ofNat 32 off }
     go (.tcopy h d a b) .copy ∧ go (.tcopy2 h d a b) .copy2 ∧ go (.tgath h d a b) .gath ∧ go (.tscat h d a b) .scat ∧
     go (.tfill h d a b) .fill ∧ go (.tnote h d a b) .note ∧ go (.tcoll h d a b) .coll ∧ go (.rflush h d a b) .rflush) ∧
  ((∀ (h : Hd) (r : BitVec 8) (d : Reg), r.toNat ∈ [1, 2, 0x10, 0x20, 0x23, 0x40, 0x41] →
     Traps (.sysr h r d) (hdForm h []) (fun _ t => t.sys = false) fun _ _ _ => { cls := 1, sub := 1 }) ∧
   (∀ (h : Hd) (r : BitVec 8) (a : Reg), let probe := 0x30 ≤ r.toNat ∧ r.toNat ≤ 0x37
     r.toNat ∈ [1, 2, 3, 0x10, 0x11, 0x20, 0x21, 0x22, 0x23, 0x40, 0x41] ∨ probe →
     Traps (.sysw h r a) { (hdForm h (if r.toNat = 1 ∨ probe then [.v a, .v (a + 1)] else [.v a])).barred with mark := true }
       (fun _ t => t.sys = false) fun _ _ _ => { cls := 1, sub := 1 }) ∧
   ∀ (m : Bool) (d a : Reg), Traps (.tlbinv m d a) (markForm m [.v d, .v a, .v (a + 1)]).barred (fun _ t => t.sys = false)
     fun _ _ _ => { cls := 1, sub := 2 })

/-- The tender copies a unit whose ranges pass their checks (R248, R249): the destination holds the source's bytes, or the pattern,
every other byte is as before, and the cursor moves on. A command completes in the order of its troupe's tickets (R245, R251,
R252): its completion word is written where asked, its status joins the troupe's, and it leaves the queue; this serves the tender
and an ended fabric command alike. Contributions enter the region of their address in the order they perform (R168, R258). Where
its ranks agree and no port it needs is down, a `tcoll` leaves at DST the reduction of its element over the ranks, its block of it,
the ranks' blocks in their order, or the root's elements (R257); an `rflush` closes its epoch, and the total of every element that
any rank contributed lands at its landing address, where one width was contributed, and no other byte changes (R259); else both end
with FABRIC, and of memory only DST may change. A reduction is the tree that pairs ranks, a node an FP32 or INT32 sum or an FP32
maximum; where a rank has contributed nothing to an element of an epoch, its neighbour passes up. Stores into lines that another key
enciphers (R393, R394) are left out. The model's own choices in it: log 48, 51, 52, 99. -/
def Obligations.CommandsRunAndComplete : Prop :=
  (∀ (s : State) (id : Nat) (c : Cmd) (x : Nat) (y : Checked) (bs : List Byte), s.cmds.find? (fun c => c.id == id) = some c →
     c.kind = .copy ∨ c.kind = .copy2 ∨ c.kind = .gath ∨ c.kind = .scat ∨ c.kind = .fill → c.state = .run ∨ c.state = .retry →
     c.cursor < c.units → s.cmdReady c c.indexRange = true → s.cmdIndex c = .ok (x, false) →
     let u := c.unitAt c.cursor x
     s.cmdReady c ((match u.src with | some a => [(a, u.len)] | none => []) ++ [(u.dst, u.len)]) = true →
     (match u.src with
      | some a => ∃ k, s.cmdCheck c .load a u.len = .ok k ∧ k.mig = false ∧ bs = s.getLocs k.locs
      | none => bs = (List.range u.len).map fun i => byteOf (c.w.getD (8 + (u.dst - c.dst.toNat + i) % 8 / 4) 0) ((u.dst - c.dst.toNat + i) % 4)) →
     s.cmdCheck c .engineW u.dst u.len = .ok y → y.mig = false → y.kinds ≠ [.red] → s.Plain y.locs → bs.length = u.len →
     0 < u.len → (c.physAddr = true ∨ u.dst % 4096 + u.len ≤ 4096) → s.OwnFor c u.dst u.len →
     ∃ s', exec (.tenderUnit id false) s = .next s' ∧ Wrote s s' y.locs bs ∧ SameRegs s s' ∧
       ∃ c', s'.cmds.find? (fun c => c.id == id) = some c' ∧ c'.cursor = c.cursor + 1 ∧ c'.state = .run ∧ c'.status = c.status) ∧
  (∀ (s : State) (id : Nat) (c : Cmd) (u : Troupe), s.cmds.find? (fun c => c.id == id) = some c →
     s.cmdReady c [] true = true → s.troupe? c.cid c.trp = some u → s.Canon → (s.threads.all fun t => !(match t.wait with | .twait .. => true | _ => false)) = true →
     let done (i : Instr) : Prop := ∃ s', exec i s = .next s' ∧ (∀ x ∈ s'.cmds, x.id ≠ id) ∧
       (∃ u', s'.troupe? c.cid c.trp = some u' ∧ u'.status = u.status ||| c.status) ∧ SameRegs s s' ∧
       (c.cw = false → ∀ l, l.offChip = true → s'.getLoc l = s.getLoc l) ∧
       (c.cw = true → ∀ k, s.company? c.cid = some k → c.cwaddr + 4 ≤ k.scrS →
         Wrote s s' ((List.range 4).map fun i => .scratch c.cid (c.cwaddr + i)) (bytesOf 4 c.cwval.toNat))
     (c.kind.tender = true → (∀ l i r, c.kind ≠ .esc l i r) → (c.state = .run ∧ c.units ≤ c.cursor) ∨ c.state = .ended → done (.tenderComplete id)) ∧
     (∀ agree, c.kind = .coll → c.state = .ended → done (.tcollComplete id agree)) ∧
     ∀ agree, c.kind = .rflush → c.state = .ended → done (.rflushEpochComplete id agree)) ∧
  ((∀ (s : State) (id a p : Nat) (bs : List Byte) (o : MemOp), s.readyOp id = some o → o.kind = .contrib a bs → p = s.partOf o.cid → p < 4 →
     ∃ s', exec (.contributionEnter id) s = .next s' ∧ SameRegs s s' ∧ (∀ x ∈ s'.ops, x.id ≠ id) ∧
       (∀ l, l.offChip = true → s'.getLoc l = s.getLoc l) ∧
       (s'.part p).reds = (s.part p).reds.map fun r =>
         if r.base ≤ a ∧ a < r.base + r.len then { r with entered := r.entered ++ [(a, bs)] } else r) ∧
   (∀ (s : State) (id a i : Nat) (agree : Bool) (c : Cmd) (r : RedRegion), s.fabricReady id = some c → c.kind = .rflush →
     s.contribOut c = false → s.cmdReady c [] true = true → s.redAddr c = .ok (a, false) → s.partOf c.cid < 4 → (s.part (s.partOf c.cid)).regionAt a = some (i, r) →
     ∃ s', exec (.rflushEpochComplete id agree) s = .next s' ∧ (∀ x ∈ s'.cmds, x.id ≠ id) ∧
       ((s'.part (s.partOf c.cid)).reds[i]?).map RedRegion.entered = some [] ∧
       ∀ g, (s.part (s.partOf c.cid)).groups[r.group]? = some g → c.cw = false → s.Canon → (∀ j, j < r.len → chipCore (r.landing + j) = none) →
         s.PartLines (s.partOf c.cid) r.landing r.len →
         let parts : List (Nat × Nat × Nat) := r.entered.flatMap fun e =>
           if e.2.length = 2 then [(e.1, 2, natOf e.2)]
           else (List.range (e.2.length / 4)).map fun i => (e.1 + 4 * i, 4, natOf ((e.2.drop (4 * i)).take 4))
         let own (x n : Nat) : List Nat := (parts.filter fun y => y.1 = r.base + x ∧ y.2.1 = n).map (·.2.2)
         let others (e : Nat) : Bool := (List.range g.ranks).any fun k => k ≠ g.rank && Config.rankHas s.fresh k e
         let fp (n v : Nat) : Nat := collIn (if n = 2 then 1 else 0) v
         let total (x n e : Nat) : Nat := (rankTree rflushNode none (g.ranks + 1) ((List.range g.ranks).map fun k =>
           if k = g.rank then (match own x n with
             | [] => none
             | v :: vs => some (vs.foldl (fun y v => fp32.atomAdd y (fp n v)) (fp n v)))
           else if Config.rankHas s.fresh k e then some (collIn 0 (Config.rankWord s.fresh k e).toNat) else none)).getD 0
         let at_ (x n : Nat) : List Loc := (List.range n).map fun j => .phys (r.landing + x + j)
         (agree = true → s.portLost c = false →
           (∀ w, w < r.len / 4 →
             let wide : Bool := !(own (4 * w) 4).isEmpty || others (4 * w + 1)
             let narrow (o : Nat) : Bool := !(own (4 * w + o) 2).isEmpty || others (4 * w + o)
             (wide = true → narrow 0 = false → narrow 2 = false →
               s'.getLocs (at_ (4 * w) 4) = bytesOf 4 (total (4 * w) 4 (4 * w + 1))) ∧
             (wide = false → ∀ o, o = 0 ∨ o = 2 →
               (narrow o = true → s'.getLocs (at_ (4 * w + o) 2) = bytesOf 2 (collOut 1 (total (4 * w + o) 2 (4 * w + o)))) ∧
               (narrow o = false → s'.getLocs (at_ (4 * w + o) 2) = s.getLocs (at_ (4 * w + o) 2)))) ∧
           ∀ l, l.offChip = true → l ∉ at_ 0 (r.len / 4 * 4) → s'.getLoc l = s.getLoc l) ∧
         (agree = false ∨ s.portLost c = true → SameMem s s' ∧ ∀ u, s.troupe? c.cid c.trp = some u →
           (s'.troupe? c.cid c.trp).map Troupe.status = some (u.status ||| (c.status ||| 4)))) ∧
   (∀ (ty x y : Nat), x < 2 ^ 32 → y < 2 ^ 32 →
     (ty ≤ 1 → collNode ty x y = fp32.atomAdd x y) ∧ collNode 2 x y = (x + y) % 2 ^ 32 ∧ collNode 3 x y = fp32.atomMinmax true x y ∧
     collIn 1 x = (if 0x7F80 < x % 2 ^ 15 then 0x7FC00000 else x % 2 ^ 16 * 2 ^ 16) ∧
     collIn 0 x = (if 0x7F800000 < x % 2 ^ 31 then 0x7FC00000 else x) ∧ (2 ≤ ty → collIn ty x = x) ∧
     (ty ≠ 1 → collOut ty x = x) ∧ collOut 1 x = (cvtValue 7 5 false .rne (BitVec.ofNat 64 x)).1.toNat ∧
     (∀ xs n, collTree ty n xs = rankTree (collNode ty) 0 n xs) ∧ rflushNode (some x) (some y) = some (fp32.atomAdd x y) ∧
     rflushNode (some x) none = some x ∧ rflushNode none (some y) = some y ∧ rflushNode none none = none) ∧
   (∀ (α : Type) (node : α → α → α) (z : α) (n : Nat), (∀ x, rankTree node z (n + 1) [x] = x) ∧
     ∀ xs : List α, 2 ≤ xs.length → rankTree node z (n + 1) xs = rankTree node z n ((List.range ((xs.length + 1) / 2)).map fun i =>
       if 2 * i + 1 < xs.length then node (xs.getD (2 * i) z) (xs.getD (2 * i + 1) z) else xs.getD (2 * i) z)) ∧
   ∀ (s : State) (id : Nat) (agree : Bool) (c : Cmd) (x y : Checked), s.fabricReady id = some c → c.kind = .coll →
     let f := c.coll
     let sz := if f.ty = 1 then 2 else 4
     let ranks := ((s.groupOf c f.group).map Group.ranks).getD 1
     let nsrc := (if f.kind = 1 then ranks * f.count else f.count) * sz
     let ndst := (if f.kind = 2 then ranks * f.count else f.count) * sz
     s.cmdCheck c .load c.src.toNat nsrc = .ok x → s.cmdCheck c .engineW c.dst.toNat ndst = .ok y → x.mig = false → y.mig = false →
     s.cmdReady c [(c.src.toNat, nsrc), (c.dst.toNat, ndst)] true = true → s.OwnFor c c.dst.toNat ndst →
     ∃ s', exec (.tcollComplete id agree) s = .next s' ∧ (∀ z ∈ s'.cmds, z.id ≠ id) ∧
       (s.Plain y.locs → (∀ k ∈ y.kinds, k ≠ .red) → c.cw = false → c.physAddr = true ∨ c.dst.toNat % 4096 + ndst ≤ 4096 →
         (∀ l, l.offChip = true → l ∉ y.locs → s'.getLoc l = s.getLoc l) ∧
         (∀ u, s.groupOf c f.group = none ∨ agree = false ∨ s.portLost c = true ∨ (f.kind = 3 ∧ ranks ≤ f.root) →
           s.troupe? c.cid c.trp = some u →
           (s'.troupe? c.cid c.trp).map Troupe.status = some (u.status ||| (c.status ||| 4))) ∧
         ∀ g, s.groupOf c f.group = some g → agree = true → s.portLost c = false → f.kind ≤ 3 → (f.kind = 3 → f.root < ranks) →
           let bs := s.getLocs x.locs
           let val (k e : Nat) : Nat := if k = g.rank then natOf ((bs.drop (e * sz)).take sz) else (Config.rankWord s.fresh k e).toNat % 2 ^ (8 * sz)
           let reduced (e : Nat) : Nat := collOut f.ty (collTree f.ty (g.ranks + 1) ((List.range g.ranks).map fun k => collIn f.ty (val k e)))
           let result (e : Nat) : Nat := if f.kind = 0 then reduced e else if f.kind = 1 then reduced (g.rank * f.count + e)
             else if f.kind = 2 then val (e / f.count) (e % f.count) else val f.root e
           s'.getLocs y.locs = (List.range (ndst / sz)).flatMap fun e => bytesOf sz (result e)))

/-! ### System registers and system instructions -/

/-- `sysr` reads the system registers by their numbers (R67, R215) where the thread may read them. The model's own choices in it:
log 6, 81. -/
def Obligations.SystemRegisterReads : Prop :=
  ∀ (h : Hd) (r : BitVec 8) (d : Reg) (s s1 : State) (ps rs : List Thread) (l : Thread) (c : Company),
    let k := s1.core c.core
    let n := r.toNat
    let wide : Bool := n = 0 ∨ n = 1 ∨ (0x30 ≤ n ∧ n ≤ 0x37)
    let user : Bool := n = 0 ∨ n = 3 ∨ n = 0x11 ∨ n = 0x12 ∨ n = 0x21 ∨ n = 0x22 ∨ (0x30 ≤ n ∧ n ≤ 0x37)
    let x : DWord := if n = 0 then c.trapUsr else if n = 1 then k.trapSys else if n = 2 then c.deleg.setWidth 64
      else if n = 3 then (s1.sideEntry l.cid l.tid).setWidth 64 else if n = 0x10 then k.tslice.setWidth 64
      else if n = 0x11 then BitVec.ofNat 64 k.qfloor else if n = 0x12 then c.barto.setWidth 64
      else if n = 0x20 then BitVec.ofNat 64 ((k.eff * 256 + (if k.auto then 64 else 0) + k.cap) % 2 ^ 32)
      else if n = 0x21 then BitVec.ofNat 64 k.allow else if n = 0x22 then (s1.tstat c.core).setWidth 64
      else if n = 0x23 then (s1.tovr.getD (pierOf c.core) 0).setWidth 64 else if n = 0x40 then k.dbgctl.setWidth 64
      else if n = 0x41 then l.asid.setWidth 64
      else let p := k.probes.getD (n - 0x30) Probe.reset; p.block ||| (if p.en then 1 else 0)
    s.Issues (hdForm h []) ps s1 → Acts (hdForm h []) ps l rs → s1.company? l.cid = some c → l.sys = true ∨ user = true →
    (n ∈ [0, 1, 2, 3, 0x10, 0x11, 0x12, 0x20, 0x21, 0x22, 0x23, 0x40, 0x41] ∨ (0x30 ≤ n ∧ n ≤ 0x37)) →
    ∃ s', exec (.sysr h r d) s = .next s' ∧ LaneDone s1 s' rs fun _ => if wide then pairOut d x else vOut d (x.setWidth 32)

/-- `sysw` writes the register of its number where the thread may write it; writes of read-only registers change nothing (R67,
R215). The writes of registers as steps of their own have the same effects. Writes of a probe register (R386, R387): a dump stores
the accumulators, CLR clears them, and EN starts the probe with the configuration read from its block. A permitted write of a probe
register by `sysw` has the effect of the step that writes it (R386). Accesses that meet a migrating page, which wait (R151), are
left out. The model's own choices in it: log 80, 81, 83, 89, 84. -/
def Obligations.SystemRegisterWrites : Prop :=
  (∀ (h : Hd) (r : BitVec 8) (a : Reg) (s s1 : State) (ps rs : List Thread) (l : Thread) (c : Company),
     let n := r.toNat
     let wide : Bool := n = 0 ∨ n = 1
     let f : Form := { (hdForm h (if wide then [.v a, .v (a + 1)] else [.v a])).barred with mark := true }
     n ∈ [0, 1, 2, 3, 0x10, 0x11, 0x12, 0x20, 0x21, 0x22, 0x23, 0x40, 0x41] →
     s.Issues f ps s1 → Acts f ps l rs → s1.company? l.cid = some c →
     l.sys = true ∨ n = 0 ∨ n = 0x12 →
     (n = 0x40 → ∀ t ∈ ps, ({ s with issue := none } : State).writeStall t .dbgctl ((t.getV a).setWidth 64) = none) →
     exec (.sysw h r a) s = .next (s1.sysWritten l rs c n (if wide then l.getPair a else (l.getV a).setWidth 64))) ∧
  (∀ (s : State) (t : Thread) (c : Company) (x : Word), s.thread? t.cid t.tid = some t → s.company? t.cid = some c → t.exited = false →
     (exec (.bartoWrite t.cid t.tid x) s = .next (s.sysWritten t [t] c 0x12 (x.setWidth 64))) ∧
     (t.sys = true →
       exec (.tsliceWrite t.cid t.tid x) s = .next (s.sysWritten t [t] c 0x10 (x.setWidth 64)) ∧
       exec (.tovrWrite t.cid t.tid x) s = .next (s.sysWritten t [t] c 0x23 (x.setWidth 64)) ∧
       (s.writeStall t .dbgctl (x.setWidth 64) = none → exec (.dbgctlWrite t.cid t.tid x) s = .next (s.sysWritten t [t] c 0x40 (x.setWidth 64))) ∧
       exec (.grantcapWrite t.cid t.tid x) s = .next (s.sysWritten t [t] c 0x20 (x.setWidth 64)) ∧
       exec (.asidWrite t.cid t.tid x) s = .next (s.sysWritten t [t] c 0x41 (x.setWidth 64)))) ∧
  (∀ (s : State) (t : Thread) (c : Company) (n : Nat) (x : DWord), s.thread? t.cid t.tid = some t → s.company? t.cid = some c →
     t.exited = false → t.sys = true → n < 8 → c.core < 384 → s.writeStall t (.probe n) x = none →
     let p := (s.core c.core).probes.getD n Probe.reset
     let block : DWord := x &&& 0xFFFFFFFFFFFFFF80
     let put (s : State) (p : Probe) : State := s.updCore c.core fun k => { k with probes := k.probes.setIfInBounds n p }
     let cleared : Probe := if x.getLsbD 1 then
         { p with min := 0xFFFFFFFF, max := 0, count := 0, sum := 0, bins := List.replicate 16 0 } else p
     let stores : List (Nat × List Byte) := [(block.toNat + 16, bytesOf 4 p.min), (block.toNat + 20, bytesOf 4 p.max),
         (block.toNat + 24, bytesOf 8 p.count), (block.toNat + 32, bytesOf 8 p.sum)] ++
       p.bins.mapIdx fun i b => (block.toNat + 48 + 4 * i, bytesOf 4 b)
     ∀ s2, (if x.getLsbD 2 = true ∨ (p.en = true ∧ x.getLsbD 0 = false) then s.storesAt (s.whoIs t) stores = .ok s2 else s2 = s) →
       (p.en = true ∨ x.getLsbD 0 = false →
         let s' := put s2 { cleared with block := block, en := x.getLsbD 0 }
         (x.getLsbD 2 = true → exec (.probeDump t.cid t.tid n x) s = .next s') ∧
         (x.getLsbD 1 = true → exec (.probeClear t.cid t.tid n x) s = .next s') ∧
         (p.en = true → x.getLsbD 0 = false → exec (.probeDisable t.cid t.tid n x) s = .next s')) ∧
       ∀ k, p.en = false → x.getLsbD 0 = true → s2.check (s.whoIs t) .load block 8 false = .ok k →
         let cfg : Word := BitVec.ofNat 32 (natOf ((s2.getLocs k.locs).take 4))
         exec (.probeEnable t.cid t.tid n x) s = .next (put s2 (
           if cfg &&& 0xF < 5 ∧ cfg &&& 0xFFFFE0E0 = 0 then
             { cleared with block := block, en := true, config := cfg, base := BitVec.ofNat 32 (natOf ((s2.getLocs k.locs).drop 4)) }
           else { cleared with block := block, en := false }))) ∧
  (∀ (h : Hd) (r : BitVec 8) (a : Reg) (s s1 s' : State) (ps rs : List Thread) (l : Thread) (c : Company),
     let f : Form := { (hdForm h [.v a, .v (a + 1)]).barred with mark := true }
     0x30 ≤ r.toNat → r.toNat ≤ 0x37 → s.Issues f ps s1 → Acts f ps l rs → s1.company? l.cid = some c →
     l.sys = true → s.ops = [] →
     (∀ t ∈ ps, ({ s with issue := none } : State).writeStall t (.probe (r.toNat - 0x30)) (t.getPair a) = none) →
     s1.writeProbe l c (r.toNat - 0x30) (l.getPair a) = .ok s' → exec (.sysw h r a) s = .next s')

/-- `yield` sets its threads aside for the next 32 issue opportunities of their core, then they are ready again (R218). `prog` adds
to its company's count and stops at 2^32 − 1 (R219). `launch` (R220, R292, R293): status 2 for a bad queue, 1 for a full one; else
the record's address stands at TAIL, TAIL counts it, the doorbell rings and the status is 0. `tlbinv` in system mode removes the
cached translations it names, and no value changes (R221); while a store that a region buffers may use one of them, it waits
(R343). The model's own choices in it: log 45, 71. -/
def Obligations.YieldsNotesAndLaunches : Prop :=
  ((∀ (m : Bool) (s s1 : State) (ps : List Thread), s.Issues (markForm m).barred ps s1 →
     ∃ s', exec (.yield m) s = .next s' ∧ ThreadsDone s1 s' ps fun t u => { u with wait := .yield (s1.oppsOf t.cid + 32) }) ∧
   ∀ (s : State) (core : Nat) (t : Thread) (due : Nat), s.threads = [t] → t.wait = .yield due →
     s.companies.any (fun c => c.cid == t.cid && c.core == core && c.onCore) = true →
     (due ≤ (s.core core).opps → ∃ s' t', exec (.yieldExpiry core) s = .next s' ∧ s'.threads = [t'] ∧ t'.wait = .none ∧ t'.pc = t.pc ∧
       ∀ r, t'.reg r = t.reg r) ∧
     ((s.core core).opps < due → exec (.yieldExpiry core) s = .next s)) ∧
  (∀ (h : Hd) (a : Reg) (s s1 : State) (ps rs : List Thread) (l : Thread), s.Issues (hdForm h [.v a]).barred ps s1 →
     Acts (hdForm h [.v a]).barred ps l rs → exec (.prog h a) s = .next (s1.updCompany l.cid fun c =>
       { c with progress := BitVec.ofNat 32 (min 0xFFFFFFFF (c.progress.toNat + (l.getV a).toNat)) })) ∧
  (∀ (h : Hd) (d a : Reg) (s s1 : State) (ps rs : List Thread) (l : Thread),
     let f := (hdForm h [.v d, .v a, .v (a + 1)]).release.barred
     let p := s1.partOf l.cid
     let q := (l.getV d).toNat % 64
     let x := s1.queue p q
     let w : Who := { cid := 0, part := p, asid := x.asid, sys := true, scr := 0 }
     let va : DWord := BitVec.ofNat 64 (x.base + x.tail % x.count * 8)
     let used := (x.tail + 2 ^ 32 - x.head) % 2 ^ 32
     let tail : List Loc := (List.range 4).map fun i => .phys ((s1.part p).qtab.toNat + 32 * q + 16 + i)
     s.Issues f ps s1 → Acts f ps l rs →
     ((l.getPair a).toNat % 64 ≠ 0 → exec (.launch h d a) s = .next (s1.raiseAll rs { cls := 2, sub := 1, addr := l.getPair a })) ∧
     ((l.getPair a).toNat % 64 = 0 →
       (¬(∃ k, 1 ≤ k ∧ k ≤ 16 ∧ x.count = 2 ^ k) → ∃ s', exec (.launch h d a) s = .next s' ∧ LaneDone s1 s' rs fun _ => vOut d 2) ∧
       ((∃ k, 1 ≤ k ∧ k ≤ 16 ∧ x.count = 2 ^ k) → used = x.count →
         ∃ s', exec (.launch h d a) s = .next s' ∧ LaneDone s1 s' rs fun _ => vOut d 1) ∧
       ∀ c, (∃ k, 1 ≤ k ∧ k ≤ 16 ∧ x.count = 2 ^ k) → used ≠ x.count → s1.check w .store va 8 false = .ok c → c.mig = false →
         c.kinds ≠ [.red] → s1.Plain c.locs → (∀ z ∈ tail, z.offChip = true ∧ z ∉ c.locs) → p < 4 → (q, true) ∉ (s1.part p).makers →
         s1.OwnLines w va.toNat 8 →
         ∃ s', exec (.launch h d a) s = .next s' ∧ Wrote s1 s' (c.locs ++ tail) (bytesOf 8 (l.getPair a).toNat ++ bytesOf 4 (x.tail + 1)) ∧
           q ∈ (s'.part p).bells ∧ ∀ t ∈ rs, ∀ u, s1.thread? t.cid t.tid = some u → ∃ u', s'.thread? t.cid t.tid = some u' ∧
             ∀ r, u'.reg r = r.after (u.reg r) [(.v d, 0)])) ∧
  (∀ (m : Bool) (d a : Reg) (s s1 : State) (t : Thread), s.Issues (markForm m [.v d, .v a, .v (a + 1)]).barred [t] s1 → s.ops = [] →
     t.sys = true →
     ((∃ c ∈ s.companies, c.part = s.partOf t.cid ∧ ∃ r, c.region = some r ∧ ∃ b ∈ r.buf, ∃ va ∈ b.vas, (t.getV d).getLsbD 13 = true) →
       s.bodyOf t = none → ∃ g, s.issue = some g ∧
         exec (.tlbinv m d a) s = .next ((s.members g).foldl (fun s u => s.waitAt u .quiet) ({ s with issue := none } : State))) ∧
     ((∀ c ∈ s.companies, ∀ r, c.region = some r → r.buf = []) →
     let ctl := t.getV d
     let named (e : TlbEntry) : Bool := e.part == s1.partOf t.cid && (ctl.getLsbD 13 || (e.asid == ctl.setWidth 12 &&
       (ctl.getLsbD 12 || e.page * e.size / e.size == (t.getPair a).toNat / e.size)))
     ∃ s', exec (.tlbinv m d a) s = .next s' ∧ s'.tlb = s1.tlb.filter (fun e => !named e) ∧ SameRegs s1 s' ∧
       ∀ l, l.offChip = true → s'.getLoc l = s1.getLoc l))

/-! ### Token generation -/

/-- `gmload` (R364): it installs the automaton of a legal image unless the company has it already, and resets the context block:
STATE is START, DEPTH and bytes 15:4 are 0; `vd` receives START. `gmstep` (R362, R365): a token beyond the vocabulary, and a move
that is REJECT or a POP that finds another symbol, leave the block as it is and return STATE with `p6` 0; NONE, PUSH and POP write
STATE and DEPTH, PUSH its symbol, and return NEXT with `p6` 1. `gmmask` and `gmforce` (R366, R367): the row of the context's state;
a slice goes to its destination as stores of the thread and its population count to `vd`, with `p6` where the whole row has one
bit; `gmforce` returns that bit's index. A table byte that nothing has written since the installation reads as it stands, and one
that has been written as some write of it (R364). The traps of token generation (R364, R365): UNIT GRAMMAR with 3 for a missing
automaton and 2 for a damaged context, ALIGN and WINDOW of a context block, ENGINE BADCMD of an illegal image with the offset of
its field. The model's own choices in it: log 68. -/
def Obligations.GrammarInstructions : Prop :=
  (∀ (h : Hd) (d a : Reg) (s s1 : State) (ps rs : List Thread) (l : Thread) (c : Company) (g : Automaton),
     let f := (hdForm h [.v d, .v a, .v (a + 1)]).barred
     let va := l.getPair a
     let blk : List Loc := (List.range 80).map fun i => .scratch c.cid ((l.getV d).toNat + i)
     let range (va : DWord) (n : Nat) : List DWord := (List.range n).map fun i => va + BitVec.ofNat 64 i
     s.Issues f ps s1 → Acts f ps l rs → s1.company? l.cid = some c → s1.Canon → s1.bad ≠ 3 →
     (∀ t ∈ rs, (s1.dbgctl t.cid).getLsbD 4 = false) → (l.getV d).toNat % 16 = 0 → (l.getV d).toNat + 80 ≤ c.scrS →
     s1.mayRead l (range ((l.getV d).setWidth 64) 80) ⟨blk, [.rc], false⟩ = true →
     s1.mayWrite l (range ((l.getV d).setWidth 64) 80) ⟨blk, [.rc], false⟩ = true →
     (c.automaton = some g ∧ g.image = va) ∨
       ((∀ x, c.automaton = some x → x.image ≠ va) ∧ va.toNat % 64 = 0 ∧ ∃ k, s1.checkRange (s1.whoIs l) .load va.toNat 64 2 = .ok k ∧
         k.mig = false ∧ s1.mayRead l (range va 64) k = true ∧ ((imageChecks (s1.getLocs k.locs)).all fun x => x.2) = true ∧
         g = automatonOf va (s1.getLocs k.locs) s1.fresh) →
     ∃ s', exec (.gmload h d a) s = .next s' ∧ Gave s1 s' rs [(.v d, BitVec.ofNat 64 g.start)] ∧
       (s'.company? l.cid).map (·.automaton) = some (some g) ∧
       let w := natOf (s1.getLocs (blk.take 4))
       Wrote s1 s' (blk.take 16) (bytesOf 4 (w / 2 ^ 23 * 2 ^ 23 + w / 2 ^ 12 % 2 ^ 4 * 2 ^ 12 + g.start) ++ List.replicate 12 0)) ∧
  (∀ (h : Hd) (d a : Reg) (s s1 : State) (ps rs : List Thread) (l : Thread) (c : Company) (g : Automaton),
     let f := (hdForm h [.v d, .v a]).barred
     let ctx := (l.getV a).toNat
     let tok := (l.getV d).toNat
     let blk : List Loc := (List.range 80).map fun i => .scratch c.cid (ctx + i)
     let w := natOf (s1.getLocs (blk.take 4))
     let state := w % 2 ^ 12
     let depth := w / 2 ^ 16 % 2 ^ 7
     let range (va : DWord) (n : Nat) : List DWord := (List.range n).map fun i => va + BitVec.ofNat 64 i
     let read (s1 : State) (va : DWord) (n : Nat) (x : Nat) : Prop := ∃ k, s1.checkRange (s1.whoIs l) .load va.toNat n (n / 4096 + 2) = .ok k ∧
       k.mig = false ∧ s1.mayRead l (range va n) k = true ∧ x = natOf (k.locs.map (s1.tableByte g.born))
     s.Issues f ps s1 → Acts f ps l rs → s1.company? l.cid = some c → s1.Canon → s1.bad ≠ 3 → c.automaton = some g →
     (∀ t ∈ rs, (s1.dbgctl t.cid).getLsbD 4 = false) → ctx % 16 = 0 → ctx + 80 ≤ c.scrS →
     s1.mayRead l (range ((l.getV a).setWidth 64) 80) ⟨blk, [.rc], false⟩ = true →
     s1.mayWrite l (range ((l.getV a).setWidth 64) 80) ⟨blk, [.rc], false⟩ = true → state < g.nstates → depth ≤ g.depthMax →
     let reject : Prop := ∃ s', exec (.gmstep h d a) s = .next s' ∧ SameMem s1 s' ∧
       Gave s1 s' rs [(.v d, BitVec.ofNat 64 state), (.p 6, 0)]
     let accept (next n : Nat) (wrote : State → List Loc → List Byte → Prop) : Prop := ∃ s', exec (.gmstep h d a) s = .next s' ∧
       Gave s1 s' rs [(.v d, BitVec.ofNat 64 next), (.p 6, 1)] ∧
       wrote s' (blk.take 4) (bytesOf 4 (w / 2 ^ 23 * 2 ^ 23 + n * 2 ^ 16 + w / 2 ^ 12 % 2 ^ 4 * 2 ^ 12 + next))
     (g.vocab ≤ tok → reject) ∧
     ∀ k e, tok < g.vocab → read s1 (g.cls + BitVec.ofNat 64 tok) 1 k → k < g.nclass →
       read (s1.fillFor (s1.whoIs l) (g.cls + BitVec.ofNat 64 tok).toNat 1) (g.act + BitVec.ofNat 64 (4 * (state * g.nclass + k))) 4 e →
       let op := e / 2 ^ 12 % 4
       let next := e % 2 ^ 12
       let sym := e / 2 ^ 16 % 2 ^ 8
       let top := (s1.getLoc (.scratch c.cid (ctx + 15 + depth))).toNat
       e / 2 ^ 24 = 0 → e / 2 ^ 14 % 4 = 0 → next < g.nstates →
       (op = 0 → accept next depth fun s' => Wrote s1 s') ∧
       (op = 1 → depth < g.depthMax → depth < 64 → accept next (depth + 1) fun s' ls bs => s'.getLocs ls = bs ∧
         (s'.getLoc (.scratch c.cid (ctx + 16 + depth))).toNat = sym ∧
         ∀ z, z.offChip = true → z ∉ ls → z ≠ .scratch c.cid (ctx + 16 + depth) → s'.getLoc z = s1.getLoc z) ∧
       (op = 2 → 0 < depth → depth ≤ 64 → top = sym → accept next (depth - 1) fun s' => Wrote s1 s') ∧
       (op = 2 → depth = 0 ∨ (depth ≤ 64 ∧ top ≠ sym) → reject) ∧
       (op = 3 → reject)) ∧
  (∀ (h : Hd) (d a b : Reg) (s s1 : State) (ps rs : List Thread) (l : Thread) (c : Company) (g : Automaton) (k : Checked),
     let ctx := (l.getV a).toNat
     let blk : List Loc := (List.range 80).map fun i => .scratch c.cid (ctx + i)
     let w := natOf (s1.getLocs (blk.take 4))
     let state := w % 2 ^ 12
     let depth := w / 2 ^ 16 % 2 ^ 7
     let range (va : DWord) (n : Nat) : List DWord := (List.range n).map fun i => va + BitVec.ofNat 64 i
     let va := g.masks + BitVec.ofNat 64 ((if g.emptyRow then 2 * state + (if depth = 0 then 1 else 0) else state) * (g.vocab / 8))
     let row := k.locs.map (s1.tableByte g.born)
     let bits (bs : List Byte) : List Nat := (List.range (8 * bs.length)).filter fun i => (bs.getD (i / 8) 0).getLsbD (i % 8)
     s1.company? l.cid = some c → s1.bad ≠ 3 → c.automaton = some g → (∀ t ∈ rs, (s1.dbgctl t.cid).getLsbD 4 = false) →
     ctx % 16 = 0 → ctx + 80 ≤ c.scrS → s1.mayRead l (range ((l.getV a).setWidth 64) 80) ⟨blk, [.rc], false⟩ = true →
     state < g.nstates → depth ≤ g.depthMax →
     let mapped : Prop := s1.checkRange (s1.whoIs l) .load va.toNat (g.vocab / 8) (g.vocab / 8 / 4096 + 2) = .ok k ∧ k.mig = false ∧
       s1.mayRead l (range va (g.vocab / 8)) k = true
     (let f := (hdForm h [.v a]).barred
      s.Issues f ps s1 → Acts f ps l rs → mapped → ∃ s', exec (.gmforce h d a) s = .next s' ∧
       OpsDone s1 s' rs 0 [(.v d, match bits row with | [i] => BitVec.ofNat 64 i | _ => 0xFFFFFFFF)] []) ∧
     (let f := (hdForm h [.v d, .v a, .v b]).barred
      let dst := (l.getV b).toNat
      let j := (l.getV d).toNat
      let slice := (row.drop (64 * j)).take 64
      s.Issues f ps s1 → Acts f ps l rs → dst % 64 = 0 → dst + 64 ≤ c.scrS →
       (g.vocab / 512 ≤ j → ∃ s', exec (.gmmask h d a b) s = .next s' ∧ OpsDone s1 s' rs 0 [(.v d, 0), (.p 6, 0)] []) ∧
       (j < g.vocab / 512 → mapped → ∃ s' os, exec (.gmmask h d a b) s = .next s' ∧
         OpsDone (s1.outAdd l.cid 16) s' rs 0
           [(.v d, BitVec.ofNat 64 (bits slice).length), (.p 6, if (bits row).length = 1 then 1 else 0)] os ∧
         os.length = 16 ∧ ∀ (i : Nat) (o : MemOp), os[i]? = some o → o.Is l [] (.store ((slice.drop (4 * i)).take 4)) ((l.getV b + BitVec.ofNat 32 (4 * i)).setWidth 64)
           ⟨(List.range 4).map fun x => .scratch c.cid (dst + 4 * i + x), [.rc], false⟩ 0 0 false false))) ∧
  (∀ (s : State) (born : Nat) (l : Loc), let since : List Byte := match l with
       | .phys a => ((s.writesOf a).takeWhile fun w => born ≤ w.time).dropLast.map Write.old
       | _ => []
     (since = [] → s.tableByte born l = s.getLoc l) ∧ (s.tableByte born l = s.getLoc l ∨ s.tableByte born l ∈ since)) ∧
  (∀ (h : Hd) (d a b : Reg),
     let none3 (i : Instr) (f : Form) : Prop := Traps i f (fun s t => ∃ c, s.company? t.cid = some c ∧ c.automaton = none)
       fun _ _ t => { cls := 11, sub := 2, addr := (t.getV a).setWidth 64, extra := 3 }
     let place (i : Instr) (f : Form) (r : Reg) (free : State → Thread → Company → Prop) : Prop :=
       Traps i f (fun s t => ∃ c, s.company? t.cid = some c ∧ free s t c ∧ (t.getV r).toNat % 16 ≠ 0)
         (fun _ _ t => { cls := 2, sub := 1, addr := (t.getV r).setWidth 64 }) ∧
       Traps i f (fun s t => ∃ c, s.company? t.cid = some c ∧ free s t c ∧ (t.getV r).toNat % 16 = 0 ∧ c.scrS < (t.getV r).toNat + 80)
         fun _ _ t => { cls := 4, sub := 2, addr := (t.getV r).setWidth 64 }
     let damaged (i : Instr) (f : Form) (more : Thread → Company → Prop) : Prop := Traps i f (fun s t => ∃ c g, s.company? t.cid = some c ∧ c.automaton = some g ∧
         s.ops = [] ∧ s.bad ≠ 3 ∧ (s.dbgctl t.cid).getLsbD 4 = false ∧ (t.getV a).toNat % 16 = 0 ∧ (t.getV a).toNat + 80 ≤ c.scrS ∧ more t c ∧
         let w := natOf (s.getLocs ((List.range 4).map fun i => .scratch c.cid ((t.getV a).toNat + i)))
         g.nstates ≤ w % 2 ^ 12 ∨ g.depthMax < w / 2 ^ 16 % 2 ^ 7)
       fun _ _ t => { cls := 11, sub := 2, addr := (t.getV a).setWidth 64, extra := 2 }
     let go (i : Instr) (f : Form) (more : Thread → Company → Prop) : Prop :=
       none3 i f ∧ place i f a (fun _ _ c => c.automaton ≠ none) ∧ damaged i f more
     go (.gmstep h d a) (hdForm h [.v d, .v a]).barred (fun _ _ => True) ∧ go (.gmforce h d a) (hdForm h [.v a]).barred (fun _ _ => True) ∧
     go (.gmmask h d a b) (hdForm h [.v d, .v a, .v b]).barred
       (fun t c => (t.getV b).toNat % 64 = 0 ∧ (t.getV b).toNat + 64 ≤ c.scrS) ∧
     (let f := (hdForm h [.v d, .v a, .v (a + 1)]).barred
      place (.gmload h d a) f d (fun _ t c => ∃ g, c.automaton = some g ∧ g.image = t.getPair a) ∧
      ∀ off, Traps (.gmload h d a) f (fun s t => ∃ c k, s.company? t.cid = some c ∧ (∀ g, c.automaton = some g → g.image ≠ t.getPair a) ∧
         (t.getPair a).toNat % 64 = 0 ∧ s.checkRange (s.whoIs t) .load (t.getPair a).toNat 64 2 = .ok k ∧ k.mig = false ∧ s.ops = [] ∧
         s.bad ≠ 3 ∧ (s.dbgctl t.cid).getLsbD 4 = false ∧ (s.fillFor (s.whoIs t) (t.getPair a).toNat 64) = s ∧
         ((imageChecks (s.getLocs k.locs)).find? fun x => !x.2) = some (off, false))
       fun _ _ _ => { cls := 10, sub := 1, extra := BitVec.ofNat 32 off }))

/-- The snapshot instructions (R369, R370): the statuses that need no copy, the slots that `snapfree` empties, the binding of an
unbound pool, and the wait of a copy, whose operation has its turn; an operation on a pool behind another one of the same object,
under whatever name, waits too (R371); an illegal SIZE traps. A snapshot copy performs (R370): the destination holds the source's
bytes and the threads go on with status 0, and after `snap` the slot is full with its size; with a data error the status is 4 and the
slot of a `snap` is empty. Copies into lines that another key enciphers (R393) are left out. The model's own choices in it: log 69,
128. -/
def Obligations.SnapshotsWaitAndCopy : Prop :=
  (∀ (h : Hd) (d a : Reg) (s s1 : State) (ps rs : List Thread) (l : Thread) (c : Company),
     let obj := l.getPair a
     let node := (l.getV (a + 2)).toNat
     let x := l.getV (a + 3)
     let fs := (hdForm h [.v a, .v (a + 1), .v (a + 2), .v (a + 3)]).release.barred
     let fl := (hdForm h [.v a, .v (a + 1), .v (a + 2)]).release.barred
     let ff := (hdForm h [.v a, .v (a + 1), .v (a + 2), .v (a + 3)]).barred
     s1.company? l.cid = some c → obj.toNat % 64 = 0 →
     let gives (i : Instr) (f : Form) (st : DWord) : Prop := s.Issues f ps s1 → Acts f ps l rs →
       ∃ s', exec i s = .next s' ∧ OpsDone s1 s' rs 0 [(.v d, st)] []
     let leaves (i : Instr) (f : Form) (st : DWord) (pools : List Pool) : Prop := (∀ q ∈ s1.pools, q.slots ≠ []) → s1.snaps = [] →
       s.Issues f ps s1 → Acts f ps l rs → ∃ s', exec i s = .next s' ∧ OpsDone { s1 with pools := pools } s' rs 0 [(.v d, st)] []
     let place := s1.objectLoc (s1.whoIs l) obj
     let waits (i : Instr) (f : Form) (k : SnapKind) (begun : Bool) (pools : List Pool) : Prop := s.Issues f ps s1 → Acts f ps l rs →
       ∃ s' o, exec i s = .next s' ∧ s'.snaps = s1.snaps ++ [o] ∧ Waits s1 s' rs (.snap o.id) ∧ o.kind = k ∧ o.part = s1.partOf l.cid ∧
         o.asid = l.asid ∧ o.obj = obj ∧ o.node = node ∧ o.x = x.toNat ∧ o.cid = l.cid ∧ o.tid = l.tid ∧ o.lanes = rs.map Thread.tid ∧
         o.d = d ∧ o.place = place ∧ o.begun = begun ∧ s'.pools = pools
     let with_ (p : Pool) : List Pool := s1.pools.filter (fun q => q.id ≠ p.id) ++ [p]
     let busy : Prop := ∃ o ∈ s1.snaps, o.part = s1.partOf l.cid ∧ ((o.asid = l.asid ∧ o.obj = obj) ∨ (place ≠ none ∧ o.place = place))
     let sized (p : Pool) : Prop := x.toNat % 16 = 0 ∧ 16 ≤ x.toNat ∧ x.toNat ≤ p.slotb
     let copies (p : Pool) (n : Nat) (src dst : DWord) : Prop := ∃ y z, s1.snapCopy l p n src dst = .copy p n y z
     let slot (p : Pool) : DWord := p.base + BitVec.ofNat 64 (node * p.slotb)
     (busy → waits (.snap h d a) fs .snap false s1.pools ∧ waits (.snapsel h d a) fl .sel false s1.pools ∧
       waits (.snapfree h d a) ff .free false s1.pools) ∧
     (¬busy → s1.poolFor l obj = none → gives (.snapsel h d a) fl 2 ∧ gives (.snapfree h d a) ff 0 ∧
       ∀ k, s1.check (s1.whoIs l) .load obj 64 false = .ok k → k.mig = false → s1.bad ≠ 3 →
         s1.mayRead l ((List.range 64).map fun i => obj + BitVec.ofNat 64 i) k = true →
         let f (o n : Nat) : Nat := natOf (((s1.getLocs k.locs).drop o).take n)
         let part := s1.part c.part
         let deck := part.deckList.getD (f 24 4 % 32) 0
         f 0 8 % 256 = 0 → f 8 8 % 16 = 0 → f 16 4 % 256 = 0 → 256 ≤ f 16 4 → f 16 4 ≤ 1048576 → 1 ≤ f 20 4 % 2 ^ 13 → f 20 4 % 2 ^ 13 ≤ 4096 →
         f 24 4 % 32 < part.ndecks →
         (16 ≤ s1.pools.countP (fun q => q.deck = deck) → gives (.snap h d a) fs 3) ∧
         (s1.pools.countP (fun q => q.deck = deck) < 16 → ∀ p : Pool, p.id = s1.nextId → p.part = c.part → p.deck = deck → p.launch = c.launch →
           p.asid = l.asid → p.obj = obj → p.base = BitVec.ofNat 64 (f 0 8) → p.live = BitVec.ofNat 64 (f 8 8) → p.slotb = f 16 4 →
           p.nslot = f 20 4 % 2 ^ 13 → p.slots = [] → p.place = place → sized p → node < p.nslot → copies p x.toNat p.live (slot p) →
           waits (.snap h d a) fs .snap true (with_ p))) ∧
     ∀ p, ¬busy → s1.poolFor l obj = some p →
       (p.launch ≠ c.launch → (sized p → node < p.nslot → gives (.snap h d a) fs 3) ∧
         (node < p.nslot → p.size node ≠ none → gives (.snapsel h d a) fl 3) ∧
         (node < p.nslot ∨ node = 0xFFFFFFFF → gives (.snapfree h d a) ff 3)) ∧
       (p.launch = c.launch →
         (∀ n, node < p.nslot → p.size node = some n → copies p n (slot p) p.live → waits (.snapsel h d a) fl .sel true (with_ p)) ∧
         (node < p.nslot → sized p → copies p x.toNat p.live (slot p) → waits (.snap h d a) fs .snap true (with_ p)) ∧
         (p.nslot ≤ node → (sized p → leaves (.snap h d a) fs 1 (with_ p)) ∧ leaves (.snapsel h d a) fl 1 (with_ p) ∧
           (node ≠ 0xFFFFFFFF → leaves (.snapfree h d a) ff 1 (with_ p))) ∧
         (node < p.nslot → p.size node = none → leaves (.snapsel h d a) fl 2 (with_ p)) ∧
         (node < p.nslot ∨ node = 0xFFFFFFFF →
           let kept := p.slots.filter fun q => if x.getLsbD 0 then q.1 == node else q.1 != node && node != 0xFFFFFFFF
           leaves (.snapfree h d a) ff 0 (s1.pools.filter (fun q => q.id ≠ p.id) ++ if kept = [] then [] else [{ p with slots := kept }])))) ∧
  (∀ (h : Hd) (d a : Reg), Traps (.snap h d a) (hdForm h [.v a, .v (a + 1), .v (a + 2), .v (a + 3)]).release.barred
     (fun s t => s.snaps = [] ∧ (t.getPair a).toNat % 64 = 0 ∧ ∃ c p, s.company? t.cid = some c ∧ s.poolFor t (t.getPair a) = some p ∧
       p.launch = c.launch ∧ let x := (t.getV (a + 3)).toNat; x % 16 ≠ 0 ∨ x < 16 ∨ p.slotb < x)
     fun _ _ _ => { cls := 10, sub := 1, extra := 12 }) ∧
  (∀ (s : State) (id n : Nat) (o : SnapOp) (l : Thread) (p : Pool) (y z : Checked), s.snaps.find? (fun o => o.id == id) = some o →
     s.snaps.find? o.sameLine = some o → s.thread? o.cid o.tid = some l → o.lanes.Nodup → s.Plain z.locs → y.locs.length = z.locs.length →
     s.snapEval o l = .copy p n y z → z.locs.length = n →
     s.OwnLines { cid := o.cid, part := o.part, asid := o.asid.toNat, sys := true, scr := 0, tid := some o.tid }
       (if o.kind = .snap then p.base + BitVec.ofNat 64 (o.node * p.slotb) else p.live).toNat n →
     let done (s' : State) (st : DWord) : Prop := (∀ x ∈ s'.snaps, x.id ≠ id) ∧
       ∀ i ∈ o.lanes, ∀ u, s.thread? o.cid i = some u → u.wait = .snap id → ∃ u', s'.thread? o.cid i = some u' ∧ u'.wait = .none ∧
         u'.pc = u.pc + 4 ∧ ∀ r, u'.reg r = r.after (u.reg r) [(.v o.d, st)]
     (∃ s', exec (.snapCopyComplete id false) s = .next s' ∧ Wrote s s' z.locs (s.getLocs y.locs) ∧ done s' 0 ∧
       (o.kind = .snap → n = o.x ∧ ∃ q ∈ s'.pools, q.id = p.id ∧ q.size o.node = some n ∧ ∀ i, i ≠ o.node → q.size i = p.size i) ∧
       (o.kind = .sel → p.size o.node = some n ∧ p ∈ s'.pools)) ∧
     ∃ s', exec (.snapCopyComplete id true) s = .next s' ∧ done s' 4 ∧
       (∀ i, i.offChip = true → i ∉ z.locs → s'.getLoc i = s.getLoc i) ∧ (o.kind = .snap → ∀ q ∈ s'.pools, q.id = p.id → q.size o.node = none))

/-! ### Matrix engine -/

/-- Steps, zeros and merges join their troupe's queue with the operands as they are read at issue (R264, R265, R269, R275, R289).
Matrix traps (R15, R31, R271, R273): a group that is not a whole troupe takes MASK PARTIAL with its lanes; a tile the troupe does
not have is ACCESS TILE, a tile with its error state set DATAERR TILE, a refused control word ENGINE BADCMD, for all 32 threads.
The model's own choices in it: log 54, 58, 59. -/
def Obligations.MatrixWorkQueuesOrTraps : Prop :=
  (∀ (m ow : Bool) (ty n x : BitVec 4) (a b : Reg) (s s1 : State) (ps ls : List Thread) (l : Thread),
     let count (k : Nat) : Nat := min ((l.getV (a + 8)).toNat / 2 ^ k % 64) 32
     let words (r : Reg) : List Word := ls.map fun t => t.getV r
     let frag (r : Reg) : List (List Word) := ls.map fun t => (List.range 8).map fun i => t.getV (r + BitVec.ofNat 6 i)
     let step (rows cols : Nat) : MWork :=
       .step n.toNat ty.toNat ow rows cols (frag a) (frag b) (words (b + 8)) (words (b + 9))
     let c := l.getV (b + 2)
     n.toNat < s1.tileCount l.cid →
     (s.Whole (markForm m (mmaSrc false ty b a)).barred ps s1 [] l ls →
       exec (.mma m ow ty b a n) s = .next (s1.queueWork l.cid l.trp (step 32 32))) ∧
     (s.Whole (markForm m (mmaSrc true ty b a)).barred ps s1 [] l ls →
       exec (.mmae m ow ty b a n) s = .next (s1.queueWork l.cid l.trp (step (count 0) (count 8)))) ∧
     (s.Whole (markForm m).barred ps s1 [] l ls → exec (.mzero m n) s = .next (s1.queueWork l.cid l.trp (.zero n.toNat))) ∧
     (s.Whole (markForm m [.v b, .v (b + 1), .v (b + 2)]).barred ps s1 [n.toNat, n.toNat + 1, x.toNat] l ls →
       n.toNat + 1 < s1.tileCount l.cid → x.toNat < s1.tileCount l.cid →
       s1.tilesErr l.cid l.trp (x.toNat :: if c.getLsbD 8 then [] else [n.toNat, n.toNat + 1]) = false →
       exec (.dmerge m b x n) s =
         .next (s1.queueWork l.cid l.trp (.merge n.toNat x.toNat (words b) (words (b + 1)) (c.toNat % 8) (c.getLsbD 8))))) ∧
  (∀ (m ow : Bool) (ty n x : BitVec 4) (a b d : Reg),
     let partly (i : Instr) (src : List RegId) : Prop := Traps i (markForm m src).barred
       (fun s t => ∀ u ∈ s.threads, u.cid = t.cid → u.exited = false → u.frames = [] ∧ u.halt = none)
       fun _ _ t => { cls := 7, sub := 1, extra := 1#32 <<< (t.tid % 32) }
     let all (i : Instr) (src : List RegId) (cond : State → Thread → Prop) (ns : State → Thread → List Nat) (tr : Thread → Trap) : Prop :=
       ∀ (s s1 : State) (ps ls : List Thread) (l : Thread), s.Whole (markForm m src).barred ps s1 (ns s1 l) l ls → cond s1 l →
         exec i s = .next (s1.raiseAll ls (tr l))
     let noTile (i : Instr) (src : List RegId) (ns : State → Thread → List Nat) : Prop :=
       all i src (fun s l => s.tileCount l.cid ≤ n.toNat) ns fun _ => { cls := 4, sub := 3 }
     let dm : List RegId := .f :: baseRegs a ++ [.v b, .v (b + 2), .v (b + 3)]
     let ml : List RegId := baseRegs a ++ [.v b]
     let b3 : List RegId := [.v b, .v (b + 1), .v (b + 2)]
     (partly (.mma m ow ty b a n) (mmaSrc false ty b a) ∧ partly (.mmae m ow ty b a n) (mmaSrc true ty b a) ∧ partly (.mzero m n) [] ∧
      partly (.mload m b a n) ml ∧ partly (.mstat m n d) [.f] ∧ partly (.mdrain m b a n) dm ∧ partly (.dmerge m b x n) b3 ∧
      partly (.dexp m d a) [.f, .v d, .v a, .v (a + 1)] ∧ partly (.dsplit m d a b) (.f :: groupRegs a 8 ++ [.v b])) ∧
     (noTile (.mma m ow ty b a n) (mmaSrc false ty b a) (fun _ _ => []) ∧ noTile (.mmae m ow ty b a n) (mmaSrc true ty b a) (fun _ _ => []) ∧
      noTile (.mzero m n) [] (fun _ _ => []) ∧ noTile (.mload m b a n) ml (fun _ _ => []) ∧ noTile (.mstat m n d) [.f] (fun _ _ => [n.toNat]) ∧
      noTile (.mdrain m b a n) dm (fun _ l => drainWaits n.toNat (l.getV b)) ∧
      all (.dmerge m b x n) b3 (fun s l => s.tileCount l.cid ≤ n.toNat + 1 ∨ s.tileCount l.cid ≤ x.toNat)
        (fun _ _ => [n.toNat, n.toNat + 1, x.toNat]) fun _ => { cls := 4, sub := 3 }) ∧
     all (.mstat m n d) [.f] (fun s l => n.toNat < s.tileCount l.cid ∧ s.tilesErr l.cid l.trp [n.toNat] = true) (fun _ _ => [n.toNat])
       (fun _ => { cls := 5, sub := 4 }) ∧
     all (.dmerge m b x n) b3 (fun s l => n.toNat + 1 < s.tileCount l.cid ∧ x.toNat < s.tileCount l.cid ∧
         s.tilesErr l.cid l.trp (x.toNat :: if (l.getV (b + 2)).getLsbD 8 then [] else [n.toNat, n.toNat + 1]) = true) (fun _ _ => [n.toNat, n.toNat + 1, x.toNat])
       (fun _ => { cls := 5, sub := 4 }) ∧
     all (.mload m b a n) ml (fun s l => n.toNat < s.tileCount l.cid ∧ loadRefused (l.getV b) n.toNat = true) (fun _ _ => [])
       (fun l => { cls := 10, sub := 1, extra := l.getV b }) ∧
     all (.mdrain m b a n) dm (fun s l => n.toNat < s.tileCount l.cid ∧ drainRefused (l.getV b) n.toNat = true)
       (fun _ l => drainWaits n.toNat (l.getV b)) fun l => { cls := 10, sub := 1, extra := l.getV b })

/-- The next work of a troupe performs (R269, R275, R289): a step accumulates into the elements its edge admits and keeps the
others, a zero clears the tile with its flags and error state, a merge adds scaled products to a pair of tiles by exact sums rounded
once, and leaves an error of a tile it reads in the pair; the work leaves the queue; an uncorrectable error strikes one tile, which is
left unpredictable with its error state set (R273). `mloop` (R281 to R285): the loop of a legal block joins the queue; a step refills
the staging registers of the 32 lanes from their addresses, performs one matrix step and moves on to the next addresses; a read that
fails its check stops it; after the last step the completion word is written. Accesses that meet a migrating page, which wait (R151),
and tiles with words of other agents that a thread has not acquired (R155) are left out. The model's own choices in it: log 42, 54, 59,
84, 106. -/
def Obligations.MatrixStepsAndLoops : Prop :=
  (∀ (s : State) (cid trp : Nat) (u : Troupe), s.troupe? cid trp = some u →
     (∀ t ∈ s.threads, t.cid = cid → t.trp = trp → t.farTiles = []) →
     let tile (v : Troupe) (n : Nat) (p : Tile → Prop) : Prop := ∃ t, v.tiles[n]? = some t ∧ p t
     let all (rs : Nat → Nat → Res) : Flags := (List.range 1024).foldl (fun fl k => fl ||| (rs (k / 32) (k % 32)).fl) 0
     let done (ns : List Nat) (p : Troupe → Prop) : Prop := ∃ s' v, exec (.matrixStep cid trp false) s = .next s' ∧
       s'.troupe? cid trp = some v ∧ v.work = changeWork none u.work ∧ (∀ k, k ∉ ns → v.tiles[k]? = u.tiles[k]?) ∧ SameRegs s s' ∧
       SameMem s s' ∧ p v
     (∀ n ty ow rows cols a b sa sb t, s.work? cid trp = some (.step n ty ow rows cols a b sa sb) → u.tiles[n]? = some t →
       a.length = 32 → b.length = 32 →
       let w := if ty ≤ 4 then 8 else if ty = 5 then 4 else 16
       let parts (x : List Word) : List Nat := x.flatMap fun r => (List.range (32 / w)).map fun i => r.toNat / 2 ^ (w * i) % 2 ^ w
       let F := mmaFmt ty
       let elem (i j : Nat) : Res :=
         let x := parts (a.getD i [])
         let y := parts (b.getD j [])
         let acc : Word := if ow then 0 else t.at i j
         let scale (z : List Word) (i k : Nat) : Nat := (z.getD i 0).toNat / 2 ^ (8 * k) % 256
         let block (k e : Nat) (x y : List Nat) (acc : Nat) : Res := accumulate acc (blockSum k
           (List.zipWith (fun p q => product (F.1.value p) (F.2.value q)) x y) (scale sa i e) (scale sb j e))
         if ty = 0 then ⟨(BitVec.ofInt 32 (acc.toNat + (List.zipWith (fun p q =>
             (BitVec.ofNat 8 p).toInt * (BitVec.ofNat 8 q).toInt) x y).sum)).toNat, 0⟩
         else if ty ≤ 4 then block 5 0 x y acc.toNat
         else if ty = 5 then
           let r := block 5 0 (x.take 32) (y.take 32) acc.toNat
           let q := block 5 1 (x.drop 32) (y.drop 32) r.bits
           ⟨q.bits, r.fl ||| q.fl⟩
         else accumulate acc.toNat (blockSum 4 (List.zipWith (fun p q => product (F.1.value p) (F.2.value q)) x y) 127 127)
       let kept (i j : Nat) : Bool := rows ≤ i || cols ≤ j
       done [n] fun v => tile v n fun t' => t'.err = t.err ∧
         t'.flags = t.flags ||| all (fun i j => if kept i j then ⟨0, 0⟩ else elem i j) ∧
         ∀ i j, i < 32 → j < 32 → t'.at i j = if kept i j then t.at i j else BitVec.ofNat 32 (elem i j).bits) ∧
     (∀ n, s.work? cid trp = some (.zero n) → n < u.tiles.length →
       done [n] fun v => tile v n fun t' => t'.err = false ∧ t'.flags = 0 ∧ ∀ i j, i < 32 → j < 32 → t'.at i j = 0) ∧
     ∀ n x e f k init lo hi p, s.work? cid trp = some (.merge n x e f k init) → u.tiles[n]? = some lo → u.tiles[n + 1]? = some hi →
       u.tiles[x]? = some p →
       let elem (i j : Nat) : Res := mergeElem (if init then 0 else (lo.at i j).toNat + 2 ^ 32 * (hi.at i j).toNat) (p.at i j)
         (e.getD i 0) (f.getD j 0) k
       if (p.err || (!init && (lo.err || hi.err))) = true then done [n, n + 1] fun v =>
         (tile v n fun t' => t'.err = true) ∧ tile v (n + 1) fun t' => t'.err = true
       else done [n, n + 1] fun v =>
         (tile v n fun t' => t'.err = lo.err ∧ t'.flags = lo.flags ||| all elem ∧
           ∀ i j, i < 32 → j < 32 → t'.at i j = BitVec.ofNat 32 (elem i j).bits) ∧
         tile v (n + 1) fun t' => t'.err = hi.err ∧ t'.flags = hi.flags ∧
           ∀ i j, i < 32 → j < 32 → t'.at i j = BitVec.ofNat 32 ((elem i j).bits / 2 ^ 32)) ∧
  (∀ (acc : Nat) (p e f : Word) (k : Nat),
     let r := mergeElem acc p e f k
     let power (x : Word) : Int := if x = 0x80000000 then 0 else x.toInt
     let none_ (x : Word) : Prop := x = 0x7FFFFFFF
     (none_ e ∨ none_ f → r = ⟨0x7FF8000000000000, 0⟩) ∧
     (¬none_ e → ¬none_ f →
       (∀ sg, fp64.value acc = .nan sg → r = ⟨0x7FF8000000000000, if sg then fSNaN else 0⟩) ∧
       (∀ n, fp64.value acc = .inf n → r = ⟨fp64.make n fp64.infinity, 0⟩) ∧
       ((fp64.value acc).isFin = true →
         let v : ℚ := (fp64.value acc).rat + p.toInt * (2 : ℚ) ^ (power e + power f - 7 * (k + 2))
         fp64.Rounds false .rne (decide (v < 0)) (v : ℝ) r))) ∧
  (∀ (s s0 : State) (cid trp : Nat), exec (.matrixStep cid trp false) s = .next s0 → 0 < s0.tileCount cid →
     ∃ s' k, exec (.matrixStep cid trp true) s = .next s' ∧ k < s0.tileCount cid ∧ SameMem s0 s' ∧ SameRegs s0 s' ∧
       ∀ v, s0.troupe? cid trp = some v → ∃ v', s'.troupe? cid trp = some v' ∧ v'.work = v.work ∧ (∀ i, i ≠ k → v'.tiles[i]? = v.tiles[i]?) ∧
         ∀ t, v.tiles[k]? = some t → ∃ t', v'.tiles[k]? = some t' ∧ t'.err = true ∧ t'.flags = t.flags) ∧
  ((∀ (m : Bool) (off : BitVec 12) (n : BitVec 4) (s s1 : State) (ps ls : List Thread) (l : Thread) (w : List Word),
     s.Whole (markForm m [.q 0, .q 1, .q 2, .q 3]).barred ps s1 [] l ls → n.toNat < s1.tileCount l.cid →
     (∀ g, s.group.head? = some g → s1.params (s1.whoIs g) g.pc off 16 s.word = .ok w ∧
       s1.fetchStall (s1.whoIs g) (paramVas g.pc off 16) = none) →
     ((loopChecks (s1.whoIs l).scr w).all fun x => x.2) = true →
     let f (i lo k : Nat) : Nat := (w.getD i 0).toNat / 2 ^ lo % 2 ^ k
     ∃ s' k, exec (.mloop m off n) s = .next s' ∧ SameRegs s1 s' ∧ SameMem s1 s' ∧ s'.ops.map MemOp.plain = s1.ops.map MemOp.plain ∧
       (s'.troupe? l.cid l.trp).map Troupe.work = (s1.troupe? l.cid l.trp).map (fun u => u.work ++ [.loop k]) ∧
       k.tile = n.toNat ∧ k.next = 0 ∧ k.steps = f 0 0 16 ∧ k.ty = f 0 16 4 ∧ k.abase = f 1 0 6 ∧ k.bbase = f 1 8 6 ∧ k.rows = f 1 16 6 ∧
       k.cols = f 1 24 6 ∧ (∀ i, i < 32 → k.aaddr[i]? = some (w.getD 2 0 + BitVec.ofNat 32 i * w.getD 3 0) ∧
         k.baddr[i]? = some (w.getD 5 0 + BitVec.ofNat 32 i * w.getD 6 0)) ∧ k.astep = w.getD 4 0 ∧ k.bstep = w.getD 7 0) ∧
   (∀ (s : State) (cid trp : Nat) (u : Troupe) (c : Company) (k : MLoop) (t : Tile), s.company? cid = some c → s.troupe? cid trp = some u →
     s.work? cid trp = some (.loop k) → k.next < k.steps → u.tiles[k.tile]? = some t → k.allReads.findSome? (readBad c.scrS) = none →
     s.loopReady cid trp k = true → k.aaddr.length = 32 → k.baddr.length = 32 → (∀ i, i < 32 → s.thread? cid (trp * 32 + i) ≠ none) →
     k.abase + 8 ≤ 64 → k.bbase + 10 ≤ 64 → k.abase + 8 ≤ k.bbase ∨ k.bbase + 10 ≤ k.abase →
     (∀ x ∈ s.threads, x.cid = cid → x.trp = trp → x.farTiles = []) →
     let word (a : Nat) : Word := BitVec.ofNat 32 (natOf (s.getLocs ((List.range 4).map fun j => .scratch cid (a + j))))
     let scaled : Bool := 1 ≤ k.ty ∧ k.ty ≤ 5
     let per := if k.ty = 5 then 2 else 4
     let scale (base stride : Word) (i : Nat) : Word := word (base + BitVec.ofNat 32 i * stride + BitVec.ofNat 32 (k.next / per * 4)).toNat
     let held (i r : Nat) : Word := match s.thread? cid (trp * 32 + i) with | some x => x.getV (BitVec.ofNat 6 r) | none => 0
     let sa (i : Nat) : Word := if scaled ∧ k.next % per = 0 then scale k.saaddr k.salane i else held i (k.bbase + 8)
     let sb (i : Nat) : Word := if scaled ∧ k.next % per = 0 then scale k.sbaddr k.sblane i else held i (k.bbase + 9)
     let fa (i : Nat) : List Word := (List.range 8).map fun j => word ((k.aaddr.getD i 0).toNat + 4 * j)
     let fb (i : Nat) : List Word := (List.range 8).map fun j => word ((k.baddr.getD i 0).toNat + 4 * j)
     let cursor := if k.ty = 5 then k.next % 2 * 2 else k.next % 4
     let lanes {α : Type} (g : Nat → α) : List α := (List.range 32).map g
     ∃ s' v, exec (.mloopStep cid trp false) s = .next s' ∧ SameMem s s' ∧ s'.troupe? cid trp = some v ∧
       v.work = changeWork (some (.loop k.advance)) u.work ∧
       v.tiles[k.tile]? = some (t.step k.ty (k.ow && k.next == 0) (if k.edge then k.rows else 32) (if k.edge then k.cols else 32)
         (lanes fa) (lanes fb) (lanes fun i => sa i >>> (8 * cursor)) (lanes fun i => sb i >>> (8 * cursor))) ∧
       ∀ i x, i < 32 → s.thread? cid (trp * 32 + i) = some x → ∃ y, s'.thread? cid (trp * 32 + i) = some y ∧ y.pc = x.pc ∧
         ∀ r : Reg, y.getV r = if k.abase ≤ r.toNat ∧ r.toNat < k.abase + 8 then (fa i).getD (r.toNat - k.abase) 0
           else if k.bbase ≤ r.toNat ∧ r.toNat < k.bbase + 8 then (fb i).getD (r.toNat - k.bbase) 0
           else if r.toNat = k.bbase + 8 then sa i else if r.toNat = k.bbase + 9 then sb i else x.getV r) ∧
   ∀ (s : State) (cid trp : Nat) (u : Troupe) (k : MLoop), s.troupe? cid trp = some u → s.work? cid trp = some (.loop k) → k.steps ≤ k.next →
     ∃ s' v, exec (.mloopComplete cid trp) s = .next s' ∧ s'.troupe? cid trp = some v ∧ v.work = changeWork none u.work ∧ SameRegs s s' ∧
       (k.cw = none → SameMem s s') ∧
       ∀ a x, k.cw = some (a, x) → s.Canon → s.company? cid ≠ none →
         Wrote s s' ((List.range 4).map fun i => .scratch cid (a + i)) (bytesOf 4 x.toNat)) ∧
  (∀ (k : MLoop),
     let next (x d : Word) (w : Option Word) : Word := match w with
       | none => x + d
       | some len => (wrapBase (x.setWidth 64) d.toInt len).setWidth 32
     k.advance = { k with next := k.next + 1, aaddr := k.aaddr.map (next · k.astep k.aw), baddr := k.baddr.map (next · k.bstep k.bw) }) ∧
  ∀ (s : State) (cid trp : Nat) (u : Troupe) (c : Company) (k : MLoop) (err : Bool) (tr : Trap), s.company? cid = some c →
    s.troupe? cid trp = some u → s.work? cid trp = some (.loop k) → k.next < k.steps → k.allReads.findSome? (readBad c.scrS) = some tr →
    ∃ s' v, exec (.mloopStep cid trp err) s = .next s' ∧ s'.troupe? cid trp = some v ∧ v.work = changeWork none u.work ∧
      v.tiles = u.tiles ∧ SameRegs s s' ∧ (k.cw = none → SameMem s s') ∧
      ∀ i x, s.thread? cid i = some x → x.trp = trp → x.exited = false → ∃ y, s'.thread? cid i = some y ∧
        y.asyncs.map Async.trap = x.asyncs.map Async.trap ++ [{ cls := 10, sub := 4, addr := tr.addr, extra := BitVec.ofNat 32 k.next }]

/-- `mload` (R276): each row of the control word's count is read by its lane's thread from its own address, element by element; when
all have arrived the tile takes them, its other rows stay, and its flags and error state are clear. `mstat` (R277): every thread
receives the tile's flags, which also join its `fpcsr`; the tile's flags are cleared. The model's own choices in it: log 55, 56,
118. -/
def Obligations.MatrixLoadsAndStatus : Prop :=
  ((∀ (m : Bool) (b a : Reg) (n : BitVec 4) (s s1 : State) (ps ls : List Thread) (l : Thread) (at_ : Thread → Nat → Checked),
     let c := (l.getV b).toNat
     let fmt := c % 16
     let w := if fmt = 0 then 4 else if fmt = 1 then 8 else 2
     let rows := c / 256 % 64
     s.Whole (markForm m (baseRegs a ++ [.v b])).barred ps s1 [] l ls → n.toNat + (if fmt = 1 then 1 else 0) < s1.tileCount l.cid →
     c / 2 ^ 14 = 0 → c / 16 % 16 = 0 → fmt < 3 → rows ≤ 32 → (fmt = 1 → n.toNat % 2 = 0) →
     (∀ t ∈ ls, t.lane < rows → (t.base a).toNat % w = 0 ∧ ∀ j, j < 32 →
       s1.check (s1.whoIs t) .load (t.base a + BitVec.ofNat 64 (j * w)) w false = .ok (at_ t j) ∧ (at_ t j).mig = false ∧
       (at_ t j).locs.length = w ∧ (at_ t j).kinds.length = 1) →
     ∃ s' os, exec (.mload m b a n) s = .next s' ∧ s'.ops = s1.ops ++ os ∧ SameRegs s1 s' ∧ SameMem s1 s' ∧
       (s'.troupe? l.cid l.trp).map Troupe.work =
         (s1.troupe? l.cid l.trp).map (fun u => u.work ++ [.load n.toNat fmt s1.fresh [] false]) ∧
       (∀ o ∈ os, o.cid = l.cid ∧ o.grp = s1.fresh ∧ ∃ t ∈ ls, ∃ js : List Nat, t.lane < rows ∧ o.tid = t.tid ∧
         o.kind = .mload t.trp t.lane w js ∧ o.locs = js.flatMap fun j => (at_ t j).locs) ∧
       ∀ t ∈ ls, t.lane < rows → ∀ j, j < 32 → ∃ o ∈ os, ∃ js : List Nat, o.kind = .mload t.trp t.lane w js ∧ j ∈ js) ∧
   (∀ (s : State) (o : MemOp) (trp lane w : Nat) (left : List Nat) (u : Troupe), s.readyOp o.id = some o → o.kind = .mload trp lane w left →
     left ≠ [] → left.Nodup → s.troupe? o.cid trp = some u →
     ∃ xs : List (Nat × Nat × Nat), xs ≠ [] ∧ ((s.loadPart false o).troupe? o.cid trp).map Troupe.work = some (u.work.map (MWork.take o.grp xs false)) ∧
       ∀ x ∈ xs, x.1 = lane ∧ ∃ k, left[k]? = some x.2.1 ∧ x.2.2 = natOf (s.getLocs ((o.locs.drop (k * w)).take w))) ∧
   ∀ (s : State) (cid trp n fmt grp : Nat) (got : List (Nat × Nat × Nat)) (u : Troupe), s.troupe? cid trp = some u →
     s.work? cid trp = some (.load n fmt grp got false) → (∀ o ∈ s.ops, o.cid ≠ cid) →
     let part (p : Nat) : Prop := p = 0 ∨ (fmt = 1 ∧ p = 1)
     ∃ s' v, exec (.mloadDataArrive cid trp false) s = .next s' ∧ s'.troupe? cid trp = some v ∧ v.work = changeWork none u.work ∧
       SameRegs s s' ∧ SameMem s s' ∧ (∀ k, (∀ p, part p → k ≠ n + p) → v.tiles[k]? = u.tiles[k]?) ∧
       ∀ p t, part p → u.tiles[n + p]? = some t → ∃ t', v.tiles[n + p]? = some t' ∧ t'.flags = 0 ∧ t'.err = false ∧
         ∀ i j, i < 32 → j < 32 → t'.at i j = match got.find? fun g => g.1 == i && g.2.1 == j with
           | some g => BitVec.ofNat 32 (if fmt = 2 then g.2.2 * 65536 else if p = 1 then g.2.2 / 2 ^ 32 else g.2.2)
           | none => t.at i j) ∧
  (∀ (m : Bool) (n : BitVec 4) (d : Reg) (s s1 : State) (ps ls : List Thread) (l : Thread) (u : Troupe) (t : Tile),
     s.Whole (markForm m [.f]).barred ps s1 [n.toNat] l ls → n.toNat < s1.tileCount l.cid → s1.troupe? l.cid l.trp = some u →
     u.tiles[n.toNat]? = some t → t.err = false → (∀ w ∈ ls, fpTrap w.fpcsr t.flags = none) →
     ∃ s' v, exec (.mstat m n d) s = .next s' ∧ s'.troupe? l.cid l.trp = some v ∧ v.work = u.work ∧ SameMem s1 s' ∧
       v.tiles[n.toNat]? = some { t with flags := 0 } ∧ (∀ k, k ≠ n.toNat → v.tiles[k]? = u.tiles[k]?) ∧
       (∀ w ∈ ls, ∀ x, s1.thread? w.cid w.tid = some x → ∃ y, s'.thread? w.cid w.tid = some y ∧ y.bare = x.bare ∧
         ∀ r, y.reg r = r.after (x.raised t.flags r)
           [(.v d, BitVec.ofNat 64 (t.flags.toNat % 32 * 8 + (if t.flags.getLsbD 5 then 0x2000 else 0)))]) ∧
       ∀ c i, (∀ w ∈ ls, ¬(w.cid = c ∧ w.tid = i)) → s'.thread? c i = s1.thread? c i)

/-- `mdrain` (R278 to R280): each row goes to its lane's address as stores of converted elements, the max word takes the largest
key, flags reach every thread, and the tile's flags, with Z its elements, are cleared; the stores perform one by one. An element is
its value scaled exactly and rounded once to the format; its key is its magnitude. Tiles with words of other agents that a thread has
not acquired (R155) and stores into lines of another key (R393) are left out. The model's own choices in it: log 56, 57. -/
def Obligations.MatrixDrains : Prop :=
  (∀ (m : Bool) (b a : Reg) (n : BitVec 4) (s s1 : State) (ps ls : List Thread) (l : Thread) (t hi : Tile)
      (at_ : Thread → Nat → Checked) (mx : Checked),
    let c := l.getV b
    let d := drainOf c
    let w := drainWidth d.fmt
    let two := if d.fmt = 6 then 1 else 0
    let elem (i j : Nat) : Res := drainElem d.fmt d.scale (t.at i j) (hi.at i j)
    let fl : Flags := (List.range (d.rows * d.cols)).foldl (fun fl k => fl ||| (elem (k / d.cols) (k % d.cols)).fl) (t.flags ||| hi.flags)
    let keys : List Word := (List.range d.rows).flatMap fun i => (List.range d.cols).map fun j => drainKey d.fmt (t.at i j)
    s.Whole (markForm m (.f :: baseRegs a ++ [.v b, .v (b + 2), .v (b + 3)])).barred ps s1 (drainWaits n.toNat c) l ls →
    drainRefused c n.toNat = false → n.toNat + two < s1.tileCount l.cid →
    s1.tile? l.cid l.trp n.toNat = some t → s1.tile? l.cid l.trp (n.toNat + two) = some hi → t.err = false → hi.err = false →
    (∀ x ∈ ls, x.lane < d.rows → (x.base a).toNat % w = 0 ∧ ∀ j, j < d.cols →
      s1.check (s1.whoIs x) .store (x.base a + BitVec.ofNat 64 (j * w)) w false = .ok (at_ x j) ∧ (at_ x j).mig = false ∧
      (at_ x j).kinds.length = 1) →
    (d.max = true → s1.check (s1.whoIs l) .red (l.getPair (b + 2)) 4 true = .ok mx ∧ mx.mig = false) →
    (∀ x ∈ ls, fpTrap x.fpcsr fl = none) → (∀ x ∈ s1.threads, x.cid = l.cid → x.trp = l.trp → x.farTiles = []) →
    ∃ s' os, exec (.mdrain m b a n) s = .next s' ∧ s'.ops = s1.ops ++ os ∧ SameMem s1 s' ∧
      (∀ x ∈ ls, ∀ y, s1.thread? x.cid x.tid = some y → ∃ z, s'.thread? x.cid x.tid = some z ∧ z.pc = y.pc ∧
        ∀ r, z.reg r = y.raised fl r) ∧
      (∀ k e, k = 0 ∨ k = two → s1.tile? l.cid l.trp (n.toNat + k) = some e → ∃ e', s'.tile? l.cid l.trp (n.toNat + k) = some e' ∧
        e'.flags = 0 ∧ e'.err = e.err ∧ ∀ i j, i < 32 → j < 32 → e'.at i j = if d.zero then 0 else e.at i j) ∧
      (∀ o ∈ os, o.cid = l.cid ∧
        ((∃ x ∈ ls, ∃ js : List Nat, x.lane < d.rows ∧ o.tid = x.tid ∧
          o.kind = .drain x.trp (js.map fun j => (j, (at_ x j).locs, bytesOf w (elem x.lane j).bits))) ∨
         (d.max = true ∧ o.tid = l.tid ∧ o.kind = .drainMax l.trp keys ∧ o.locs = mx.locs))) ∧
      (∀ x ∈ ls, x.lane < d.rows → ∀ j, j < d.cols → ∃ o ∈ os, ∃ left : List (Nat × List Loc × List Byte), o.kind = .drain x.trp left ∧
        (j, (at_ x j).locs, bytesOf w (elem x.lane j).bits) ∈ left) ∧
      (d.max = true → keys ≠ [] → ∃ o ∈ os, o.kind = .drainMax l.trp keys)) ∧
  (∀ (s : State) (cid trp : Nat) (o : MemOp) (left : List (Nat × List Loc × List Byte)), s.ops = [o] → o.cid = cid →
    o.kind = .drain trp left → o.kinds ≠ [.red] → left ≠ [] → s.Plain (left.flatMap fun x => x.2.1) →
    (∀ x ∈ left, x.2.1.length = x.2.2.length ∧ s.OwnLines (s.opWho o) (o.va.toNat + x.1 * x.2.2.length) x.2.2.length) →
    ∃ s' part, exec (.drainStoresPerform cid trp) s = .next s' ∧ part ≠ [] ∧ List.Sublist part left ∧ SameRegs s s' ∧
      (∀ x ∈ part, s'.getLocs x.2.1 = x.2.2) ∧
      ∀ l, l.offChip = true → (∀ x ∈ part, l ∉ x.2.1) → s'.getLoc l = s.getLoc l) ∧
  (∀ (s : State) (cid trp : Nat) (o : MemOp) (keys : List Word), s.ops = [o] → o.cid = cid → o.kind = .drainMax trp keys → keys ≠ [] →
     s.Plain o.locs → o.locs.length = 4 → s.OwnLines (s.opWho o) (o.vas.headD 0) o.vas.length →
     ∃ s' part, exec (.drainStoresPerform cid trp) s = .next s' ∧ part ≠ [] ∧ List.Sublist part keys ∧ SameRegs s s' ∧
       Wrote s s' o.locs (bytesOf 4 (part.foldl (fun m k => max m k.toNat) (natOf (s.getLocs o.locs))))) ∧
  (∀ (scale : Nat) (x hi : Word), scale < 255 →
     (∀ i F, [fp32, bf16, fp16, e4m3, e5m2][i]? = some F →
       let r := drainElem i scale x hi
       (∀ sg, fp32.value x.toNat = .nan sg → r = ⟨F.nan, if sg then fSNaN else 0⟩) ∧
       (∀ n, fp32.value x.toNat = .inf n → r = if i = 3 then ⟨F.make n F.nan, fNV⟩ else ⟨F.make n F.infinity, 0⟩) ∧
       ((fp32.value x.toNat).isFin = true → F.Rounds false .rne (x.getLsbD 31)
         (((fp32.value x.toNat).rat * (2 : ℚ) ^ (127 - scale : ℤ) : ℚ) : ℝ) r)) ∧
     drainElem 5 scale x hi = ⟨x.toNat, 0⟩ ∧ drainElem 6 scale x hi = ⟨(hi ++ x).toNat, 0⟩) ∧
  ∀ (i : Nat) (x : Word),
    (drainKey 5 x).toNat = x.toInt.natAbs ∧
    (i < 5 → drainKey i x = if (fp32.value x.toNat).isNan then 0x7FC00000 else x &&& 0x7FFFFFFF)

/-- `dexp` and `dsplit` (R287, R288): the exponent of a double and its eight digits of seven bits, in each of the 32 lanes. The
model's own choices in it: log 56. -/
def Obligations.DoublePrecisionSlices : Prop :=
  (∀ (m : Bool) (d a b : Reg) (s s1 : State) (ps ls : List Thread) (l : Thread),
    let go (i : Instr) (src : List RegId) (out : Thread → LaneOut) : Prop := s.Whole (markForm m src).barred ps s1 [] l ls →
      (∀ t ∈ ls, fpTrap t.fpcsr (out t).fl = none) → ∃ s', exec i s = .next s' ∧ LaneDone s1 s' ls out
    go (.dexp m d a) [.f, .v d, .v a, .v (a + 1)] (fun t =>
      let r := dexpOf (t.fpcsr.getLsbD 13) (t.f64 a) (t.getV d)
      { writes := [(.v d, r.1.setWidth 64)], fl := r.2 }) ∧
    go (.dsplit m d a b) (.f :: groupRegs a 8 ++ [.v b]) (fun t =>
      let es := (List.range 4).map fun i => splitElem (t.f64 (a + BitVec.ofNat 6 (2 * i))) (t.getV b)
      groupOut d ((List.range 8).map fun k => BitVec.ofNat 32 ((es.mapIdx fun i x => (x.1.getD k 0).toNat * 2 ^ (8 * i)).sum))
        (es.foldl (fun fl x => fl ||| x.2) 0))) ∧
  (∀ (t : Bool) (x : Nat) (old : Word) (E : Int), (∃ n m e, fp64.value x = .fin n m e ∧ m ≠ 0) →
    (2 : ℚ) ^ (E - 1) ≤ |(fp64.value x).rat| → |(fp64.value x).rat| < (2 : ℚ) ^ E →
    dexpOf t x old = (BitVec.ofInt 32 (max old.toInt E), 0)) ∧
  ∀ (x : Nat) (e : Word) (E : Int), (∃ n m k, fp64.value x = .fin n m k) → e ≠ 0x7FFFFFFF →
    E = (if e = 0x80000000 then 0 else e.toInt) →
    (1 ≤ |(fp64.value x).rat| * (2 : ℚ) ^ (-E) → splitElem x e = (List.replicate 8 0, fNV)) ∧
    (|(fp64.value x).rat| * (2 : ℚ) ^ (-E) < 1 → ∃ ds : List Int, ds.length = 8 ∧ (splitElem x e) = (ds.map (BitVec.ofInt 8), 0) ∧
      (∀ k ∈ ds, |k| < 128 ∧ (0 ≤ (fp64.value x).rat → 0 ≤ k) ∧ ((fp64.value x).rat ≤ 0 → k ≤ 0)) ∧
      let y : ℚ := (ds.mapIdx fun t k => (k : ℚ) * (2 : ℚ) ^ (-(7 * (t + 1 : Int)))).sum
      |y| ≤ |(fp64.value x).rat| * (2 : ℚ) ^ (-E) ∧ |(fp64.value x).rat| * (2 : ℚ) ^ (-E) < |y| + (2 : ℚ) ^ (-56 : Int))

/-! ### Relaxation and ladders -/

/-- A rendezvous (R330, R331): `rxbegin` with a legal block makes its threads wait and records the region; once every thread of the
company waits, the region starts at pass 1 with the initial state of thread 0 as every guess, and its step threads enter the body.
Convergence, settling, the largest residual and the scan (R336 to R338), as the sequencer computes them. The end of a pass (R335, R340,
R341): its events in their order, convergence, the limit, a stall of the largest residual over three passes, a new guess that is no
number. A region that ends commits the stores of its settled steps in step order, gives the other steps their `fpcsr` back, delivers the
live-out to every thread and sends it to the continuation, where the thread of a committed trap takes that trap; a region that goes on
starts its next pass with the new guesses. Accesses that meet a migrating page, which wait (R151), and stores into lines of another key
(R393) or that alter the translation of another store are left out. The model's own choices in it: log 60, 61, 64, 84. -/
def Obligations.RegionsStartPassAndEnd : Prop :=
  ((∀ (m : Bool) (off : BitVec 12) (d : Reg) (s s1 : State) (ps : List Thread) (c : Company) (pc : DWord) (w : List Word),
     s.Issues (markForm m [.v d]).release.barred ps s1 → ps ≠ [] → (∀ t ∈ ps, s1.company? t.cid = some c ∧ t.pc = pc) →
     (∀ g, s.group.head? = some g → s1.params (s1.whoIs g) g.pc off 8 s.word = .ok w ∧
       s1.fetchStall (s1.whoIs g) (paramVas g.pc off 8) = none) →
     (c.region = none ∨ ∃ r, c.region = some r ∧ r.pc = pc ∧ r.running = false ∧ r.g = []) →
     let x (i : Nat) : Word := w.getD i 0
     let f (lo n : Nat) : Nat := (x 0).toNat / 2 ^ lo % 2 ^ n
     let tol (y : Word) : Prop := y.msb = false ∧ y.toNat / 2 ^ 23 % 2 ^ 8 ≠ 255
     1 ≤ f 0 11 → f 0 11 ≤ 1024 → 1 ≤ f 16 7 → f 16 7 ≤ 64 → tol (x 1) → tol (x 2) → (x 3).getLsbD 0 = false →
     (x 4).getLsbD 0 = false → (x 6).toNat % 4 = 0 → d.toNat + f 12 2 + 1 ≤ 64 → f 0 11 ≤ c.ntr * 32 →
     ∃ s' c' r, exec (.rxbegin m off d) s = .next s' ∧ Waits s1 s' ps .rxbegin ∧ s'.company? c.cid = some c' ∧ c'.region = some r ∧
       r.pc = pc ∧ r.d = d ∧ r.running = false ∧ r.g = [] ∧ r.steps = f 0 11 ∧ r.w = f 12 2 + 1 ∧ r.passes = f 16 7 ∧
       r.stall = (x 0).getLsbD 24 ∧ r.tolabs = x 1 ∧ r.tolrel = x 2 ∧ r.endoff = x 3 ∧ r.failoff = x 4 ∧ r.guess = x 7 ++ x 6) ∧
   ∀ (s : State) (cid : Nat) (c : Company) (r : Region) (t0 : Thread), s.company? cid = some c → c.region = some r → r.running = false →
     s.rxMet cid = true → s.runs cid = true → s.sequencerFree c.core cid = true → s.rxBroken cid r = false → r.g = [] → r.guess = 0 →
     s.thread? cid 0 = some t0 → t0.old = [] → t0.far = [] → 0 < r.steps →
     ∃ s' c' r', exec (.rxRegionStart cid) s = .next s' ∧ SameMem s s' ∧ s'.company? cid = some c' ∧ c'.region = some r' ∧
       r'.running = true ∧ r'.pass = 1 ∧ r'.init = t0.group r.d r.w ∧ r'.g = List.replicate r.steps (some r'.init) ∧
       r'.steps = r.steps ∧ r'.w = r.w ∧ r'.buf = r.buf ∧ c'.rx.code = 7 ∧
       (∀ i u, i < r.steps → s.thread? cid i = some u → r'.snap[i]? = some u.fpcsr ∧
         ∃ u', s'.thread? cid i = some u' ∧ u'.wait = .none ∧ u'.pc = u.pc + 4 ∧ ∀ q, u'.reg q = u.reg q) ∧
       ∀ j i, (j = cid → r.steps ≤ i) → s'.thread? j i = s.thread? j i) ∧
  (let val (x : Word) : ℚ := (fp32.value x.toNat).rat
   let fin (x : Word) : Prop := ∃ n m e, fp32.value x.toNat = .fin n m e
   ∀ r : Region,
     (∀ y g : Word, r.passes1 y g = true ↔ y = g ∨ ((r.tolabs ≠ 0 ∨ r.tolrel ≠ 0) ∧ fin y ∧ fin g ∧ fin r.tolabs ∧ fin r.tolrel ∧
       |val y - val g| ≤ val r.tolabs + val r.tolrel * |val y|)) ∧
     (1 ≤ r.steps →
       let settles (t : Nat) : Prop := ∃ y, r.out (t - 1) = some y ∧ (t ∉ r.reads ∨ r.guessOf (t - 1) = y)
       1 ≤ r.settledCount ∧ r.settledCount ≤ r.steps ∧ (∀ t, 1 ≤ t → t < r.settledCount → settles t) ∧
         (r.settledCount < r.steps → ¬settles r.settledCount)) ∧
     (r.scan.length = r.steps ∧ ∀ t, t < r.steps →
       let pnew := if t = 0 then r.init else r.scan.getD (t - 1) []
       let pold := if t = 0 then r.init else r.guessOf (t - 1)
       match r.out t with
       | none => r.scan.getD t [] = r.guessOf t
       | some y => ∀ c, c < r.w → (r.scan.getD t []).getD c 0 =
           if pnew.getD c 0 = pold.getD c 0 then y.getD c 0
           else BitVec.ofNat 32 (fp32.fma false .rne ((r.j.getD t []).getD c 0).toNat
             (fp32.sub false .rne (pnew.getD c 0).toNat (pold.getD c 0).toNat).bits (y.getD c 0).toNat).bits) ∧
     let S := r.settledCount
     let lowest (xs : List Nat) (p : Nat) : Prop := p ∈ xs ∧ ∀ q ∈ xs, p ≤ q
     let event (code p : Nat) : Prop := (code = 5 ∧ p < S ∧ lowest (r.traps.map fun x => x.1) p) ∨ (code = 4 ∧ lowest r.conflicts p) ∨
       (code = 6 ∧ lowest r.overflow p) ∨ (code = 3 ∧ lowest r.nonfinite p)
     let rank (code : Nat) : Nat := if code = 5 then 0 else if code = 4 then 1 else if code = 6 then 2 else 3
     (∀ code p, event code p → (∀ k q, event k q → p < q ∨ (p = q ∧ rank code ≤ rank k)) → r.endOfPass = .stop code (min S p)) ∧
     ((∀ code p, ¬event code p) →
       (r.allPass = true → r.endOfPass = .stop 0 r.steps) ∧
       (r.allPass = false → r.pass = r.passes → r.endOfPass = .stop 1 S) ∧
       (r.allPass = false → r.pass ≠ r.passes →
         let real (x : Machine.Dyadic) : ℚ := x.m * (2 : ℚ) ^ x.e
         let stalls : Prop := r.stall = true ∧ 3 ≤ r.pass ∧ ∃ x y z zs, r.largest :: r.rmax = some x :: some y :: some z :: zs ∧
           real z ≤ real x ∧ real z ≤ real y
         (stalls → r.endOfPass = .stop 2 S) ∧
         (¬stalls → (∀ x ∈ r.scan, ∀ y ∈ x, fin y) → r.endOfPass = .again r.scan) ∧
         (¬stalls → (∃ x ∈ r.scan, ∃ y ∈ x, ¬fin y) → r.endOfPass = .stop 3 S) ∧
         ∀ x, r.largest = some x →
           (∀ t y, t < r.steps → r.out t = some y → ∀ p ∈ y.zip (r.guessOf t), fin p.1 ∧ fin p.2 ∧ |val p.1 - val p.2| ≤ real x) ∧
           (real x = 0 ∨ ∃ t y p, t < r.steps ∧ r.out t = some y ∧ p ∈ y.zip (r.guessOf t) ∧ |val p.1 - val p.2| = real x)))) ∧
  (∀ (s : State) (cid : Nat) (c : Company) (r : Region), s.company? cid = some c → c.region = some r → r.running = true →
     s.passOver cid r = true → s.runs cid = true → s.Canon →
     (∀ b ∈ r.buf, b.locs.Nodup ∧ b.locs.length = b.data.length ∧ ∀ l ∈ b.locs, s.holds l) →
     let others (s' : State) (mine : Nat → Nat → Prop) : Prop := ∀ j i u, ¬mine j i → s.thread? j i = some u → ∃ u', s'.thread? j i = some u' ∧
       u'.pc = u.pc ∧ (u'.wait = u.wait ∨ ((u.wait = .marker ∨ u.wait = .quiet) ∧ u'.wait = .none)) ∧ ∀ q, u'.reg q = u.reg q
     (∀ code n, r.endOfPass = .stop code n →
       let out := if code = 0 then (r.y.getD (r.steps - 1) none).getD [] else if n = 0 then r.init else (r.y.getD (n - 1) none).getD []
       let stores := (List.range n).flatMap fun t => r.buf.filter fun b => b.step == t
       let fin := if code = 5 then r.traps.find? fun x => x.1 == n else none
       let who (b : RxStore) : Who := { cid := cid, part := s.partOf cid, asid := b.asid, sys := true, scr := 0, tid := some b.step }
       (code = 0 → 0 < r.steps ∧ n = r.steps) → (∀ b ∈ r.buf, ∀ o ∈ s.ops, o.cid = cid → o.tid = b.step → o.isAccess = true →
         (o.asid.toNat = b.asid → ∀ v ∈ o.spanVas, v ∉ b.vas) ∧ ∀ x ∈ o.spanLocs, x.onChip = true → x ∉ b.locs) →
       s.OwnAll (stores.flatMap fun b => b.vas.map fun v => (who b, v, 1)) →
       (∀ b ∈ stores, ∀ v ∈ b.vas, s.Steady (who b) v (stores.flatMap RxStore.locs)) →
       let ended (s' : State) : Prop := ∃ c', s'.company? cid = some c' ∧ c'.region = none ∧
         c'.rx = (match fin with
           | some x => ⟨code, n, r.pass, x.2.1.cls, x.2.1.sub, x.2.2.setWidth 32⟩
           | none => ⟨code, n, r.pass, 0, 0, 0⟩) ∧
         (∀ l, l.offChip = true → s'.getLoc l = stores.foldl (fun x b => match (b.locs.zip b.data).find? fun y => y.1 == l with
           | some y => y.2
           | none => x) (s.getLoc l)) ∧
         (∀ i u, s.thread? cid i = some u → u.exited = false → ∃ u', s'.thread? cid i = some u' ∧ u'.wait = .none ∧
           u'.pc = r.pc + (if code = 0 then r.endoff else r.failoff).signExtend 64 ∧
           u'.fpcsr = (if r.steps ≤ i ∨ i < n ∨ (code = 5 ∧ i = n) then u.fpcsr else r.snap.getD i u.fpcsr) ∧
           ∀ q, q ≠ .f → u'.reg q = q.after (u.reg q) (groupWrites r.d out)) ∧
         others s' fun j _ => j = cid
       (fin = none → ∃ s', exec (.rxPassEnd cid) s = .next s' ∧ ended s') ∧
       ∀ x, fin = some x → ∃ s2 s', exec (.rxPassEnd cid) s = .next s' ∧ ended s2 ∧
         ∀ u base sys k, s2.thread? cid n = some u → TrapPlace s2 u x.2.1 base sys k → TrapTaken s2 s' u x.2.1 base sys k u.pc none) ∧
     ∀ g, r.endOfPass = .again g →
       ∃ s' c' r', exec (.rxPassEnd cid) s = .next s' ∧ SameMem s s' ∧ s'.company? cid = some c' ∧ c'.region = some r' ∧
         r'.g = g.map some ∧ r'.pass = r.pass + 1 ∧ r'.buf = [] ∧ r'.traps = [] ∧ r'.reads = [] ∧ r'.y = List.replicate r.steps none ∧
         r'.running = true ∧ c'.rx.code = 7 ∧ c'.rx.pass = r.pass + 1 ∧ c'.rx.settled = r.settledCount ∧
         (∀ i u, i < r.steps → s.thread? cid i = some u → u.exited = false → ∃ u', s'.thread? cid i = some u' ∧ u'.wait = .none ∧
           u'.pc = r.pc + 4 ∧ u'.fpcsr = r.snap.getD i u.fpcsr ∧ ∀ q, q ≠ .f → u'.reg q = u.reg q) ∧
         others s' fun j i => j = cid ∧ i < r.steps)

/-- The instructions of a body (R332 to R334, R345): `rxprev` obtains the predecessor's guess, `rxput` delivers output and
derivative, `rxend` waits for the end of the pass; outside a region they trap; `rxstat` returns the status. The model's own
choices in it: log 61, 62. -/
def Obligations.RegionBodies : Prop :=
  ∀ (m : Bool) (d a b : Reg),
    (∀ (s s1 : State) (t : Thread) (c : Company) (r : Region), s1.company? t.cid = some c → s1.bodyOf t = some r →
      (s.Issues (markForm m) [t] s1 → d.toNat + r.w ≤ 64 → ∀ ws, ws.length = r.w →
        (if t.tid = 0 then ws = r.init else r.g[t.tid - 1]? = some (some ws)) →
        ∃ s', exec (.rxprev m d) s = .next s' ∧ Gave s1 s' [t] (groupWrites d ws) ∧ SameMem s1 s' ∧
          (s'.company? t.cid).map Company.region = some (some { r with reads := t.tid :: r.reads })) ∧
      (s.Issues (markForm m [.v a, .v b]) [t] s1 → a.toNat + r.w ≤ 64 → b.toNat + r.w ≤ 64 →
        ∃ s', exec (.rxput m a b) s = .next s' ∧ Gave s1 s' [t] [] ∧ SameMem s1 s' ∧
          (s'.company? t.cid).map Company.region =
            some (some { r with y := r.y.set t.tid (some (t.group a r.w)), j := r.j.set t.tid (t.group b r.w) })) ∧
      (s.Issues (markForm m) [t] s1 →
        ((∃ ws, r.y[t.tid]? = some (some ws)) → ∃ s', exec (.rxend m) s = .next s' ∧ Waits s1 s' [t] .rxend) ∧
        (r.y[t.tid]? = some none → exec (.rxend m) s = .next (s1.raise t { cls := 11, sub := 3 })))) ∧
    (let out (w : Word) (_ : State) (_ : Thread) : Trap := { cls := 11, sub := 3, extra := w }
     Traps (.rxprev m d) (markForm m) (fun _ _ => True) out ∧ Traps (.rxput m a b) (markForm m [.v a, .v b]) (fun _ _ => True) out ∧
     Traps (.rxend m) (markForm m) (fun _ _ => True) out) ∧
    ∀ (s s1 : State) (ps : List Thread) (c : Company), s.Issues (markForm m) ps s1 → (∀ t ∈ ps, s1.company? t.cid = some c) →
      ∃ s', exec (.rxstat m d) s = .next s' ∧ OpsDone s1 s' ps 0 (groupWrites d
        [BitVec.ofNat 32 (c.rx.code + c.rx.dclass * 2 ^ 8 + c.rx.dsub * 2 ^ 16), BitVec.ofNat 32 c.rx.settled, BitVec.ofNat 32 c.rx.pass,
         c.rx.dpc]) []

/-- `lpost` (R346, R348, R350): it posts an item to the ladder of its launch and returns the index with `p6` 1, binding the object
first where it is not bound; a full ladder, a full unit and a ladder of another launch are refused with 1, 2 and 3. `esc` (R353):
the item leaves its thread and its arguments' copy joins the tender's queue as the next ticket; when the copy has performed the
item arrives at the next rung. An arrival falls in a cycle of the home deck before its next sample (R380), and what is stated of
the rung holds where no packed troupe of the rung is due before it (R351). A thread without an item and a top rung trap. Accesses
that meet a migrating page, which wait (R151), and stores into lines of another key (R393) are left out. The model's own choices in
it: log 65, 66, 67, 84. -/
def Obligations.LaddersTakeAndEscalateItems : Prop :=
  (∀ (h : Hd) (off : BitVec 12) (d : Reg) (s s1 : State) (ps rs : List Thread) (l : Thread) (c : Company) (w : List Word),
     let va : DWord := w.getD 1 0 ++ w.getD 0 0
     s.Issues (hdForm h [.v d]).release.barred ps s1 → Acts (hdForm h [.v d]).release.barred ps l rs → s1.company? l.cid = some c →
     (∀ g, s.group.head? = some g → s1.params (s1.whoIs g) g.pc off 4 s.word = .ok w ∧
       s1.fetchStall (s1.whoIs g) (paramVas g.pc off 4) = none) →
     w.getD 2 0 = 0 → w.getD 3 0 = 0 → va.toNat % 64 = 0 →
     let refuse (x : DWord) : Prop := ∃ s', exec (.lpost h off d) s = .next s' ∧ OpsDone s1 s' rs 0 [(.v d, x), (.p 6, 0)] []
     let posted (x x' : Ladder) : Prop := x'.id = x.id ∧ x'.posted = x.posted + 1 ∧ x'.retired = x.retired ∧
       x'.args = x.args ++ [(x.posted.toNat, l.getV d)] ∧
       let now := s1.deckNow x.deck
       let q := x.waiting.getD 0 [] ++ [(x.posted.toNat, l.getV d, now)]
       (s1.deck x.deck).clk ≤ now ∧ now / 65536 = (s1.deck x.deck).clk / 65536 ∧ ((∀ y k, (x.waiting.getD 0 []).head? = some y → x.rungs[0]? = some k →
         now ≤ y.2.2 + k.starve) →
       if q.length < 32 then x'.waiting = x.waiting.set 0 q ∧ x'.packs = x.packs
       else x'.waiting = x.waiting.set 0 (q.drop 32) ∧ x'.packs = x.packs ++ [⟨x.id, 0, (q.take 32).map fun y => (y.1, y.2.1)⟩])
     let at_ (x : Ladder) (ls : List Ladder) : State := ({ s1 with ladders := ls, fresh := s1.fresh + 1 } : State).deckAdvance x.deck (s1.deckNow x.deck)
     (∀ x, s1.ladderFor l va = some x → (∀ y ∈ s1.ladders, y.id = x.id → y = x) → 0 < x.waiting.length →
       (x.launch ≠ c.launch → refuse 3) ∧
       (x.launch = c.launch → (x.posted - x.retired).toNat = x.cap → refuse 1) ∧
       (x.launch = c.launch → (x.posted - x.retired).toNat ≠ x.cap → ∃ s' x', exec (.lpost h off d) s = .next s' ∧
         OpsDone (at_ x (s1.ladders.map fun y => if y.id == x.id then x' else y)) s' rs 0
           [(.v d, x.posted.setWidth 64), (.p 6, 1)] [] ∧ posted x x')) ∧
     ∀ k, s1.ladderFor l va = none → Granted s1 l rs .load va 192 false k →
       s1.mayRead l ((List.range 192).map fun i => va + BitVec.ofNat 64 i) k = true → s1.bad ≠ 3 →
       let b := s1.getLocs k.locs
       let p := s1.part c.part
       ((ladderChecks p.ndecks b).all fun x => x.2) = true →
       let deck := p.deckList.getD (natOf ((b.drop 32).take 4) / 2 ^ 8 % 32) 0
       let x := ladderOf s1.nextId c.part deck c.launch l.asid va b
       (16 ≤ (s1.ladders.filter fun y => y.deck == deck).length → refuse 2) ∧
       ((s1.ladders.filter fun y => y.deck == deck).length < 16 → (∀ y ∈ s1.ladders, y.id < s1.nextId) → (x.posted - x.retired).toNat ≠ x.cap →
         ∃ s' x', exec (.lpost h off d) s = .next s' ∧ OpsDone (at_ x (s1.ladders ++ [x'])) s' rs 0
           [(.v d, x.posted.setWidth 64), (.p 6, 1)] [] ∧ posted x x')) ∧
  (∀ (m : Bool) (a : Reg),
     let f := (markForm m (if Reg.even a then [.v a, .v (a + 1)] else [.v a])).release.barred
     (∀ (s s1 : State) (t u : Thread) (c : Company) (lad item rung : Nat) (l : Ladder) (k : Rung) (x y : Checked),
       s.Issues f [t] s1 → t.item = some (lad, item) → s1.company? t.cid = some c → s1.rungHere t.cid = rung → s1.ladder? lad = some l →
       s1.thread? t.cid t.tid = some u → l.rungs[rung + 1]? = some k → (t.base a).toNat % 4 = 0 →
       let frame := l.frames + BitVec.ofNat 64 (item % l.cap * 256)
       s1.checkRange (s1.whoIs t) .load (t.base a).toNat k.fsize 3 = .ok x → s1.checkRange (s1.whoIs t) .engineW frame.toNat k.fsize 3 = .ok y →
       x.mig = false → y.mig = false → s1.tenderLoad c.core < 64 →
       ∃ s' z, exec (.esc m a) s = .next s' ∧ s'.cmds = s1.cmds ++ [z] ∧ z.kind = .esc lad item (rung + 1) ∧ z.state = .run ∧ z.cid = t.cid ∧
         z.tid = t.tid ∧ z.trp = t.trp ∧ z.src = t.base a ∧ z.dst = frame ∧ bw z.w 24 = k.fsize % 2 ^ 32 ∧ SameMem s1 s' ∧
         (∀ v, s1.troupe? t.cid t.trp = some v → z.ticket = v.ticket + 1 ∧
           s'.troupe? t.cid t.trp = some { v with ticket := v.ticket + 1 }) ∧
         (∃ u', s'.thread? t.cid t.tid = some u' ∧ u' = { u with item := none }) ∧
         ∀ j i, ¬(j = t.cid ∧ i = t.tid) → s'.thread? j i = s1.thread? j i) ∧
     Traps (.esc m a) f (fun _ t => t.item = none) (fun _ _ _ => { cls := 11, sub := 4 }) ∧
     Traps (.esc m a) f (fun s t => ∃ lad item l, t.item = some (lad, item) ∧ s.company? t.cid ≠ none ∧ s.ladder? lad = some l ∧
       l.rungs.length ≤ s.rungHere t.cid + 1) (fun _ _ _ => { cls := 11, sub := 1 }) ∧
     ∀ (s : State) (id lad item rung n : Nat) (z : Cmd) (l : Ladder) (arg : Word) (x y : Checked), s.cmds.find? (fun c => c.id == id) = some z →
       z.kind = .esc lad item rung → z.state = .run ∨ z.state = .retry → z.cw = false → z.physAddr = false → bw z.w 24 = n → 0 < n →
       s.cmdReady z [(z.src.toNat, n), (z.dst.toNat, n)] = true →
       s.cmdCheck z .load z.src.toNat n = .ok x → s.cmdCheck z .engineW z.dst.toNat n = .ok y → x.mig = false → y.mig = false →
       z.dst.toNat % 4096 + n ≤ 4096 → y.kinds ≠ [.red] → s.Plain y.locs → x.locs.length = n → y.locs.length = n →
       s.OwnLines (s.cmdWho z) z.dst.toNat n →
       s.ladder? lad = some l → l.args.find? (fun q => q.1 == item) = some (item, arg) → 0 < rung → (l.waiting.getD rung []).length < 32 →
       rung < l.waiting.length → (∀ q k, (l.waiting.getD rung []).head? = some q → l.rungs[rung]? = some k →
         (s.deck l.deck).clk + 65536 ≤ q.2.2 + k.starve) → (s.threads.all fun t => !(match t.wait with | .twait .. => true | _ => false)) = true →
       ∃ s' l', exec (.escCopyComplete id false) s = .next s' ∧ Wrote s s' y.locs (s.getLocs x.locs) ∧ (∀ q ∈ s'.cmds, q.id ≠ id) ∧
         s'.ladder? lad = some l' ∧ (∃ now, (s.deck l.deck).clk ≤ now ∧ now / 65536 = (s.deck l.deck).clk / 65536 ∧
           (item, arg, now) ∈ l'.waiting.getD rung []) ∧
         (∀ q ∈ l.waiting.getD rung [], q ∈ l'.waiting.getD rung []) ∧ ∀ i, i ≠ rung → l'.waiting.getD i [] = l.waiting.getD i [])

/-- `lres` (R354, R356): the item's slot is written by a store of its own that is a release, and the item retires when it performs;
the cursor then passes retired items, the retire variable takes it, and a ladder with nothing left is released. `lstat` returns the
counters of a bound ladder, or of its object (R357); at the end of the cycle in which a rung's oldest item has waited STARVE cycles, or
the 32nd item came to wait at a higher rung, the items that have arrived by then form a packed troupe (R351). Accesses that meet a
migrating page, which wait (R151), and stores into lines of another key (R393) are left out. The model's own choices in it: log 65, 84. -/
def Obligations.LaddersRetireItems : Prop :=
  ((∀ (m : Bool) (a : Reg) (s s1 : State) (t : Thread) (lad item : Nat) (l : Ladder) (c : Checked),
     let f := (markForm m [.v a, .v (a + 1)]).release.barred
     let va := l.res + BitVec.ofNat 64 (item % l.cap * 16)
     (s.Issues f [t] s1 → t.item = some (lad, item) → s1.ladder? lad = some l → Granted s1 t [t] .store va 16 false c →
       ∃ s' o, exec (.lres m a) s = .next s' ∧ OpsDone (s1.updThread t.cid t.tid fun u => { u with item := none }) s' [t] 0 [] [o] ∧
         o.Is t [] (.slot lad item (bytesOf 8 (t.getPair a).toNat ++ bytesOf 4 item ++ bytesOf 4 (s1.rungHere t.cid + 256))) va c 0 0 false true) ∧
     Traps (.lres m a) f (fun _ t => t.item = none) (fun _ _ _ => { cls := 11, sub := 4 })) ∧
   (∀ (s : State) (id lad item : Nat) (o : MemOp) (bs : List Byte) (l : Ladder), s.readyOp id = some o → o.kind = .slot lad item bs →
     o.kinds ≠ [.red] → s.Plain o.locs → o.locs ≠ [] → o.locs.length = bs.length → s.ladder? lad = some l →
     s.OwnLines (s.opWho o) (o.vas.headD 0) o.vas.length →
     ∃ s', exec (.storePerform id) s = .next s' ∧ Wrote s s' o.locs bs ∧ SameRegs s s' ∧ (∀ x ∈ s'.ops, x.id ≠ id) ∧
       s'.ladder? lad = some { l with done := item :: l.done, args := l.args.filter fun x => x.1 != item }) ∧
   ∀ (s : State) (lid : Nat) (l : Ladder) (r : Word), s.ladder? lid = some l → l.retired ≠ r → l.done.Nodup →
     (∀ i, i < (r - l.retired).toNat → (l.retired + BitVec.ofNat 32 i).toNat ∈ l.done) → r.toNat ∉ l.done → s.Canon → l.part < 4 →
     l.retvar % 8 = 0 → syncIn (s.part l.part) l.retvar = true →
     let var : List Loc := (List.range 4).map fun i => .sync l.part (l.retvar + i)
     (l.posted ≠ r → ∃ s' l', exec (.retireAdvance lid) s = .next s' ∧ Wrote s s' var (bytesOf 4 r.toNat) ∧ SameRegs s s' ∧
       s'.ladder? lid = some l' ∧ l'.retired = r ∧ l'.posted = l.posted ∧ l'.waiting = l.waiting) ∧
     ∀ k, l.posted = r → s.check (s.ladderWho l) .store (l.obj + 36) 8 false = .ok k → k.mig = false → s.Plain (var ++ k.locs) → k.locs.length = 8 →
       s.OwnLines (s.ladderWho l) (l.obj + 36).toNat 8 →
       ∃ s', exec (.retireAdvance lid) s = .next s' ∧ s'.ladder? lid = none ∧ SameRegs s s' ∧ s'.getLocs var = bytesOf 4 r.toNat ∧
         s'.getLocs k.locs = bytesOf 4 r.toNat ++ bytesOf 4 r.toNat ∧
         ∀ z, z.offChip = true → z ∉ var → z ∉ k.locs → s'.getLoc z = s.getLoc z) ∧
  ((∀ (h : Hd) (d a : Reg) (s s1 : State) (ps rs : List Thread) (l : Thread) (k : Checked),
     let f := (hdForm h [.v a, .v (a + 1)]).barred
     let va := l.getPair a
     s.Issues f ps s1 → Acts f ps l rs → va.toNat % 64 = 0 → Granted s1 l rs .load va 64 false k →
     s1.mayRead l ((List.range 64).map fun i => va + BitVec.ofNat 64 i) k = true → s1.bad ≠ 3 →
     let word (i : Nat) : Word := BitVec.ofNat 32 (natOf (((s1.getLocs k.locs).drop i).take 4))
     (s1.ladderFor l va = none → ∃ s', exec (.lstat h d a) s = .next s' ∧ OpsDone s1 s' rs 0 (groupWrites d [word 36, word 40, 0, 0]) []) ∧
     ∀ x, s1.ladderFor l va = some x →
       let n (i : Nat) : Nat := min (x.waiting.getD i []).length 255
       ∃ s', exec (.lstat h d a) s = .next s' ∧ OpsDone s1 s' rs 0 (groupWrites d [x.posted, x.retired,
         BitVec.ofNat 32 (n 0 + n 1 * 2 ^ 8 + n 2 * 2 ^ 16 + n 3 * 2 ^ 24), BitVec.ofNat 32 (min x.slotloss 0xFFFF * 2 ^ 16 + 1)]) []) ∧
   ∀ (s : State) (lid rung now : Nat) (l : Ladder) (k : Rung) (x : Nat × Word × Nat) (q : List (Nat × Word × Nat)), s.ladder? lid = some l →
     l.waiting[rung]? = some (x :: q) → l.rungs[rung]? = some k → (s.deck l.deck).clk ≤ now →
     now / 65536 = (s.deck l.deck).clk / 65536 → l.deck < 24 →
     let c := match (x :: q)[31]? with
       | some y => if rung = 0 then x.2.2 + k.starve else min y.2.2 (x.2.2 + k.starve)
       | none => x.2.2 + k.starve
     let n := min 32 ((x :: q).takeWhile fun y => y.2.2 ≤ c).length
     (c < now → ∃ s', exec (.ladderStarveExpire lid rung now) s = .next s' ∧ SameRegs s s' ∧ SameMem s s' ∧
       (s'.deck l.deck).clk = now ∧ s'.ladder? lid = some { l with
         waiting := l.waiting.set rung ((x :: q).drop n),
         packs := l.packs ++ [⟨l.id, rung, ((x :: q).take n).map fun y => (y.1, y.2.1)⟩] }) ∧
     (now ≤ c → exec (.ladderStarveExpire lid rung now) s = .next s))

/-! ### Cores, launches and the host -/

/-- An issue opportunity (R19 to R23, R379, R381): a core that owes no register reads, in a cycle its allowance admits, issues a
group whenever an active troupe has a ready thread and nothing could hold it: no results are in flight to a thread, no matrix work
is outstanding and no thread is in a handler or halted; the group's threads are ready, of one company, and stand at one counter. A
pending trap (R304): before a thread's next instruction the one of lowest class, then ticket, is taken, with the counter of that
instruction saved. The model's own choices in it: log 29, 30, 32, 90. -/
def Obligations.IssueAndPendingTraps : Prop :=
  (∀ (s : State) (core cycles : Nat), s.powered core = true → s.issue = none → s.Named →
     let k := s.core core
     let clk := k.clk + max 1 cycles
     (k.need ≤ k.eff → clk % 256 < k.allow →
       (∀ (u : Troupe) (c : Company) (t : Thread), u ∈ s.troupes → u.active = true → c ∈ s.companies → c.cid = u.cid → c.core = core →
         (c.state = .resident ∨ ∃ x, c.state = .draining x) → t ∈ s.threads → t.cid = u.cid → t.tid / 32 = u.idx → t.exited = false →
         t.wait = .none → t.halt = none → t.asyncs = [] → (∀ v ∈ s.threads, s.resultsOut v.cid v.tid = false) →
         (∀ v ∈ s.troupes, v.work = []) → (∀ v ∈ s.threads, v.frames = [] ∧ v.halt = none) →
         ∃ s' g, exec (.issueOpportunity core 0 cycles) s = .next s' ∧ s'.issue = some g ∧ g.core = core ∧ g.tids ≠ [] ∧
           (s'.core core).clk = clk ∧ (s'.core core).opps = k.opps + 1)) ∧
     (∀ s' g, exec (.issueOpportunity core 0 cycles) s = .next s' → s'.issue = some g → ∀ i ∈ g.tids, ∃ t, s'.thread? g.cid i = some t ∧
       t.pc = g.pc ∧ t.exited = false ∧ t.wait = .none ∧ t.halt = none ∧ t.asyncs = []) ∧
     ((k.need ≤ k.eff ∧ k.allow ≤ clk % 256) ∨ (k.eff < k.need ∧ cycles ≤ 1) → ∃ s', exec (.issueOpportunity core 0 cycles) s = .next s' ∧
       s'.issue = none ∧ s'.threads = s.threads ∧ (s'.core core).clk = clk ∧ (s'.core core).opps = k.opps)) ∧
  (∀ (s : State) (t u : Thread) (c : Company) (a : Async) (base : DWord) (sys : Bool) (k : Checked), s.thread? t.cid t.tid = some t →
     s.company? t.cid = some c → (c.state = .resident ∨ ∃ x, c.state = .draining x) → t.exited = false → t.halt = none → a ∈ t.asyncs →
     (∀ b ∈ t.asyncs, a = b ∨ a.trap.cls < b.trap.cls ∨ (a.trap.cls = b.trap.cls ∧ a.ticket < b.ticket)) →
     let s2 := s.updThread t.cid t.tid fun u => { u with asyncs := u.asyncs.erase a }
     s.bodyOf t = none → u.cid = t.cid → u.tid = t.tid → TrapPlace s2 u a.trap base sys k →
     ∃ s', exec (.asyncTrapTake t.cid t.tid) s = .next s' ∧ TrapTaken s2 s' u a.trap base sys k t.pc t.guard)

/-- Self-test, the diagnostic mailbox, ports and host stores (R172, R388 to R390). BAR0 (R373): what its offsets read, and what a
write to the mailbox, the command window, GO and a doorbell does; any other offset reads 0 and ignores writes. Samples of heat and
current (R379 to R382): a deck's temperature gives the cores of its pier their allowance, and a regulator's current lowers or
raises the register-read budget of the cores it feeds. The model's own choices in it: log 20, 75, 80, 107. -/
def Obligations.HostBringUpAndSamples : Prop :=
  ((∀ (s : State) (addr : Nat) (bs : List Byte), let ls : List Loc := (List.range bs.length).map fun i => .phys (addr + i)
     ((s.status.getD 0 0 = 1 ∧ addr + bs.length ≤ 224 * 2 ^ 30) ∨
       (Config.hostBase ≤ addr ∧ addr + bs.length ≤ Config.hostBase + Config.hostSize) → s.Plain ls →
       ∃ s', exec (.hostAccess addr bs) s = .next s' ∧ Wrote s s' ls bs ∧ SameRegs s s') ∧
     ((s.status.getD 0 0 ≠ 1 ∨ 224 * 2 ^ 30 < addr + bs.length) →
       (addr < Config.hostBase ∨ Config.hostBase + Config.hostSize < addr + bs.length) → addr < Config.bar0Base →
       exec (.hostAccess addr bs) s = .next s)) ∧
   (∀ (s : State) (off : Nat) (bs : List Byte), bs ≠ [] →
     let w := s.window
     let i : Instr := .hostAccess (Config.bar0Base + off) bs
     let window : List Byte := bytesOf 4 w.op.toNat ++ bytesOf 4 w.part.toNat ++ bytesOf 8 w.arg.toNat ++ bytesOf 4 w.status ++ List.replicate 44 0
     let go : Instr := match w.op.toNat with
       | 1 => .partition w.part.toNat w.arg | 2 => .role w.part.toNat w.arg | 3 => .sched w.part.toNat w.arg | 4 => .fabric w.part.toNat w.arg
       | 5 => .key w.part.toNat w.arg | 6 => .resume w.part.toNat w.arg | 7 => .attest w.part.toNat w.arg | 8 => .move w.part.toNat w.arg
       | _ => .unknownCommand w.op w.part.toNat w.arg
     (off < 0x10 → (s.bar0Byte off).toNat = (s.status.getD (off / 4) 0).toNat / 2 ^ (8 * (off % 4)) % 256) ∧
     (0x1000 ≤ off → off < 0x1040 → s.bar0Byte off = window.getD (off - 0x1000) 0) ∧
     ((0x10 ≤ off ∧ off < 0x100) ∨ (0x200 ≤ off ∧ off < 0x1000) ∨ 0x1040 ≤ off → s.bar0Byte off = 0) ∧
     (off = 0x1040 → bs = [1] → exec i s = exec go s) ∧
     (∀ p q, p < 4 → q < 64 → off = 0x2000 + p * 0x200 + q * 8 → exec i s = exec (.doorbell p q) s) ∧
     (off = 0x100 → exec i s = exec (.diagnosticMailboxRequest (BitVec.ofNat 32 (natOf bs))) s) ∧
     (∀ x : DWord, w.status ≠ 0 → off = 0x1008 → bs = bytesOf 8 x.toNat → exec i s = .next { s with window := { w with arg := x } }) ∧
     (∀ x : Word, w.status ≠ 0 → bs = bytesOf 4 x.toNat →
       (off = 0x1000 → exec i s = .next { s with window := { w with op := x } }) ∧
       (off = 0x1004 → exec i s = .next { s with window := { w with part := x } })) ∧
     ((off < 0x100 ∨ (0x100 < off ∧ off < 0x1000) ∨ (0x1040 < off ∧ off < 0x2000) ∨ 0x2800 ≤ off) → exec i s = .next s)) ∧
   (∀ (s : State) (fenced gddr ports cause : Nat),
     let why := if cause = 0 then (if gddr % 2 ^ 32 = 0 then 0 else 2) else min cause 5
     (s.status.getD 0 0 = 0 → ∃ s', exec (.powerOn fenced gddr ports cause) s = .next s' ∧
       s'.status.toList = [if why = 0 then 1 else 2, BitVec.ofNat 32 (fenced % 2 ^ 24), BitVec.ofNat 32 gddr,
         BitVec.ofNat 32 (ports % 256 + why * 2 ^ 24)] ∧
       (∀ d, d < 24 → (s'.deck d).fenced = fenced.testBit d) ∧ s'.threads = s.threads ∧ s'.mem = s.mem) ∧
     (s.status.getD 0 0 ≠ 0 → exec (.powerOn fenced gddr ports cause) s = .next s)) ∧
   (∀ (s : State) (w : Word), exec (.diagnosticMailboxRequest w) s = .next { s with diag := s.diag + 1 }) ∧
   ∀ (s : State) (port : Nat),
     (8 ≤ port → exec (.portFailure port) s = .next s) ∧
     (port < 8 → ∃ s', exec (.portFailure port) s = .next s' ∧ (s'.status.getD 3 0).getLsbD port = false ∧
       (∀ i, i ≠ port → (s'.status.getD 3 0).getLsbD i = (s.status.getD 3 0).getLsbD i) ∧
       ((∀ c ∈ s.cmds, c.kind ≠ .coll ∧ c.kind ≠ .rflush) → s'.cmds = s.cmds ∧ s'.threads = s.threads ∧ s'.mem = s.mem))) ∧
  ((∀ (s : State) (deck reading : Nat), deck < 24 →
     let d := s.deck deck
     let T := match d.ovr with | some x => x | none => min reading 255
     let temp (e : Nat) : Nat := if e = deck then T else (s.deck e).temp
     ∃ s', exec (.thermalSample deck reading) s = .next s' ∧ (s'.deck deck).temp = T ∧ (s'.deck deck).clk = (d.clk / 65536 + 1) * 65536 ∧
       (s'.deck deck).double = (if T ≤ 82 then false else d.double || decide (85 < d.temp)) ∧ s'.threads = s.threads ∧ s'.mem = s.mem ∧
       ∀ c, c < 384 → (s'.core c).allow = if c / 96 = deck / 6 then
           let worst := ((List.range 6).map fun e => if c / 16 % 6 ≤ e then 32 * (temp (6 * (deck / 6) + e) - 80) / 2 ^ (e - c / 16 % 6) else 0).foldl max 0
           max 16 (256 - worst)
         else (s.core c).allow) ∧
   ∀ (s : State) (reg current limit : Nat), reg < 4 → ∃ s', exec (.regulatorSample reg current limit) s = .next s' ∧ s'.threads = s.threads ∧
     s'.mem = s.mem ∧ ∀ c, c < 384 →
       let k := s.core c
       let fed : Prop := ∃ p ∈ s.parts.toList, p.defined = true ∧ c / 16 ∈ p.feeds reg
       (fed → k.auto = true → (s'.core c).eff = if limit < current then max (k.eff - 1) 4
         else if current * 10 < limit * 9 then min (k.eff + 1) k.cap else k.eff) ∧
       (¬fed ∨ k.auto = false → (s'.core c).eff = k.eff))

/-- Doorbells and queue entries (R293 to R296): a bell is noted; the entry at HEAD names a record, which is taken as the queue's
next launch, refused with a code, or skipped with ERRS where it cannot be read. Placement (R13, R297, R298): a unit of one company,
of the only queue whose turn has one, starts on the first core in the order of preference that has room, with its threads at the
launch entry and every register at its start value. The ends of companies and launches (R16, R201, R299): a company with no thread
left and nothing in flight gives back its place; a launch whose companies have ended and that has nothing outstanding writes STATUS
and adds 1 to CVAR. Accesses that meet a migrating page, which wait (R151), and a STATUS store into lines of another key (R393) are left
out. The model's own choices in it: log 71, 72, 84, 105, 108, 119. -/
def Obligations.LaunchesRun : Prop :=
  ((∀ (s : State) (part q : Nat), s.status.getD 0 0 = 1 → (s.part part).defined = true → q < 64 → part < 4 →
     (s.part part).makers.contains (q, false) = false →
     ∃ s', exec (.doorbell part q) s = .next s' ∧ q ∈ (s'.part part).bells ∧ (q, true) ∈ (s'.part part).makers ∧
       (∀ p, p ≠ part → s'.part p = s.part p) ∧ s'.threads = s.threads ∧ s'.launches = s.launches ∧ SameMem s s') ∧
   (∀ (s : State) (part q : Nat), s.status.getD 0 0 ≠ 1 ∨ (s.part part).defined = false ∨ 64 ≤ q → exec (.doorbell part q) s = .next s) ∧
   ∀ (s : State) (part q : Nat), (s.part part).defined = true → (s.part part).bells.contains q = true →
     let d := s.queue part q
     let w : Who := { cid := 0, part := part, asid := d.asid, sys := true, scr := 0 }
     let skip := (s.setQueue part q 24 (d.errs + 1)).setQueue part q 12 (d.head + 1)
     d.en = true → d.countOk = true → (∀ l ∈ s.launches, l.part = part → l.queue = q → l.units ≠ 0) →
     (d.head = d.tail → exec (.queueServe part q) s = .next (s.updPart part fun p => { p with bells := p.bells.erase q })) ∧
     (d.head ≠ d.tail → ∀ e, s.check w .load (BitVec.ofNat 64 (d.base + d.head % d.count * 8)) 8 false = .error e →
       exec (.queueServe part q) s = .next skip) ∧
     (d.head ≠ d.tail → ∀ k, s.check w .load (BitVec.ofNat 64 (d.base + d.head % d.count * 8)) 8 false = .ok k → k.mig = false →
       let va : DWord := BitVec.ofNat 64 (natOf (s.getLocs k.locs))
       (va.toNat % 64 ≠ 0 → exec (.queueServe part q) s = .next skip) ∧
       (va.toNat % 64 = 0 → (∀ e, s.check w .load va 128 false = .error e → exec (.queueServe part q) s = .next skip) ∧
         ∀ r, s.check w .load va 128 false = .ok r → r.mig = false →
           let b := s.getLocs r.locs
           let f (o n : Nat) : Nat := natOf ((b.drop o).take n)
           let l := launchOf part q d va b
           s.depsStall w b = false →
           (∀ off, recordBad (s.part part) l b = some off →
             exec (.queueServe part q) s = .next ((s.setQueue part q 12 (d.head + 1)).finish l (1 + off % 256 * 256))) ∧
           (recordBad (s.part part) l b = none → s.tooBig l = true →
             exec (.queueServe part q) s = .next ((s.setQueue part q 12 (d.head + 1)).finish l 2)) ∧
           ∀ ds, recordBad (s.part part) l b = none → s.tooBig l = false → s.readDeps l b = some ds →
             ∃ s' x, exec (.queueServe part q) s = .next s' ∧ s'.launches = s.launches ++ [x] ∧ s'.threads = s.threads ∧ SameMem s s' ∧
               x.id = s.nextId ∧ x.part = part ∧ x.queue = q ∧ x.asid = BitVec.ofNat 12 d.asid ∧ x.sys = d.sys ∧ x.prio = d.prio ∧
               x.record = va ∧ x.entry = BitVec.ofNat 64 (f 0 8) ∧ x.params = BitVec.ofNat 64 (f 8 8) ∧ x.hbase = BitVec.ofNat 64 (f 24 8) ∧
               x.scratch = f 32 4 ∧ x.tiles = f 36 4 % 32 ∧ x.cvar = f 40 4 ∧ x.instances = max 1 (f 52 4) ∧ x.units = 0 ∧ x.deps = ds))) ∧
  (∀ (s : State) (part prio q core : Nat) (l : Launch) (r : Room), (s.part part).defined = true → prio < 4 → q < 64 →
     (∀ p x, prio < p → p < 4 → x < 65 → s.turn part p x = .idle) → (∀ x, x < 65 → x ≠ q → s.turn part prio x = .idle) →
     s.nextLaunch part q prio = some l → l.part = part → l.queue = q → l.upper = [] →
     (s.ranked part).find? (fun c => (s.room c l.ntr l.scr l.tiles).isSome) = some core → s.room core l.ntr l.scr l.tiles = some r →
     (∀ t ∈ s.threads, t.cid ≠ s.nextId) → (∀ c ∈ s.companies, c.cid ≠ s.nextId) → (∀ u ∈ s.troupes, u.cid ≠ s.nextId) →
     ∃ s' c, exec (.placeUnit part) s = .next s' ∧ s'.company? s.nextId = some c ∧ c.launch = l.id ∧ c.index = l.units ∧ c.core = core ∧
       c.state = .resident ∧ c.part = part ∧ c.ntr = l.ntr ∧ c.scrP = r.scrP ∧ c.scrS = l.scr ∧ c.scratch = [] ∧ c.tileT = l.tiles ∧
       c.barto = 0 ∧ c.progress = 0 ∧ c.region = none ∧ c.automaton = none ∧
       (∀ tid, tid < 32 * l.ntr → ∃ t, s'.thread? s.nextId tid = some t ∧ t.pc = l.entry &&& ~~~1 ∧ t.sys = l.sys ∧ t.asid = l.asid ∧
         t.fpcsr = 0 ∧ t.wait = .none ∧ t.exited = false ∧ t.frames = [] ∧ t.guard = none ∧
         (∀ v : Reg, t.getV v = if v = 0 then l.params.setWidth 32 else if v = 1 then (l.params >>> 32).setWidth 32 else 0) ∧
         (∀ n, n < 7 → t.getP n = false) ∧ ∀ n, t.getQ n = 0) ∧
       ∀ i, i < l.ntr → ∃ u, s'.troupe? s.nextId i = some u ∧ u.tiles.length = l.tiles ∧ u.work = [] ∧ u.ticket = 0 ∧ u.status = 0 ∧
         ∀ n, n < 12 → u.k.getD n 0 = 0) ∧
  ((∀ (s : State) (cid : Nat) (c : Company) (l : Launch), s.company? cid = some c → c.onCore = true ∨ c.state = .flushed →
     (∀ t ∈ s.threads, t.cid = cid → t.exited = true) → s.quietCompany cid = true → s.launch? c.launch = some l →
     ∃ s' c' l', exec (.companyRelease cid) s = .next s' ∧ s'.company? cid = some c' ∧ c'.state = .ended ∧ (∀ t ∈ s'.threads, t.cid ≠ cid) ∧
       (∀ u ∈ s'.troupes, u.cid ≠ cid) ∧ s'.launch? c.launch = some l' ∧ l'.ended = l.ended + 1 ∧
       (∀ j i, j ≠ cid → s'.thread? j i = s.thread? j i) ∧
       ∀ z, z.offChip = true → (∀ b, z ≠ .scratch cid b) → s'.getLoc z = s.getLoc z) ∧
   ∀ (s : State) (lid : Nat) (l : Launch) (k : Checked), s.launch? lid = some l → l.units = l.instances → s.outZero lid = true →
     (∀ c ∈ s.companies, c.launch = lid → c.state = .ended) → (∀ x ∈ s.ladders, x.launch ≠ lid) →
     let var : List Loc := (List.range 4).map fun i => .sync l.part (l.cvar + i)
     s.check { cid := 0, part := l.part, asid := l.asid.toNat, sys := true, scr := 0 } .store (l.record + 56) 4 false = .ok k → k.mig = false →
     l.cvar % 8 = 0 → syncIn (s.part l.part) l.cvar = true → s.Plain (k.locs ++ var) → k.locs.length = 4 →
     s.OwnLines { cid := 0, part := l.part, asid := l.asid.toNat, sys := true, scr := 0 } (l.record + 56).toNat 4 →
     ∃ s', exec (.launchComplete lid) s = .next s' ∧ (∀ x ∈ s'.launches, x.id ≠ lid) ∧ (∀ p ∈ s'.pools, p.launch ≠ lid) ∧
       (∀ c ∈ s'.companies, c.launch ≠ lid) ∧ SameRegs s s' ∧
       s'.getLocs k.locs = bytesOf 4 (if l.reason = 0 then 0 else 3 + l.reason * 2 ^ 16) ∧
       s'.getLocs var = bytesOf 4 ((natOf (s.getLocs var) + 1) % 2 ^ 32) ∧
       ∀ z, z.offChip = true → z ∉ k.locs → z ∉ var → s'.getLoc z = s.getLoc z)

/-- Pre-emption (R322 to R324): at the end of its slice a company whose equal waits is drained, flushed or saved by how far it has
come; a drain that overruns is saved; a save keeps every register and a resumption gives the company a place with them. Accesses
that meet a migrating page, which wait (R151), are left out. The model's own choices in it: log 73, 74, 90, 84. -/
def Obligations.PreemptionAndResumption : Prop :=
  ∀ (s : State) (cid now cycles : Nat) (c : Company), s.company? cid = some c → c.core < 384 →
    let k := s.core c.core
    let slice := k.tslice.toNat % 2 ^ 24 * 1024
    let becomes (i : Instr) (st : Residency) (p : State → Prop) : Prop := ∃ s' c', exec i s = .next s' ∧ s'.company? cid = some c' ∧
      c'.state = st ∧ p s'
    let kept (s' : State) : Prop := SameMem s s' ∧ ∀ i u, s.thread? cid i = some u → ∃ u', s'.thread? cid i = some u' ∧ u'.pc = u.pc ∧
      u'.exited = u.exited ∧ ∀ q, u'.reg q = u.reg q
    (∀ l, s.launch? c.launch = some l → c.state = .resident → l.pin = false → slice ≠ 0 → c.start + slice ≤ now → k.clk ≤ now →
      s.waitsForRoom c.part c.prio = true →
      let done := ((s.threads.filter fun t => t.cid == cid && t.exited).length) * 256 / (32 * c.ntr)
      let e := if l.phint = 0 then done else max done (min (c.progress.toNat * 256 / l.phint) 256)
      (192 ≤ e → becomes (.timeSliceExpire cid now) (.draining now) kept) ∧
      (32 ≤ e ∧ e < 192 ∨ (e < 32 ∧ c.idem = false) → becomes (.timeSliceExpire cid now) .saving kept) ∧
      (e < 32 → c.idem = true → becomes (.timeSliceExpire cid now) (if s.flushReady cid then .flushed else .flushing) fun _ => True)) ∧
    (∀ start, c.state = .draining start → start + (if slice = 0 then 65536 else slice) < now → k.clk ≤ now →
      (∃ t ∈ s.threads, t.cid = cid ∧ t.exited = false) → becomes (.drainTimeout cid now) .saving kept) ∧
    (c.state = .saving → s.saveReady c = true → s.recordsStall .load cid = false → becomes (.saveComplete cid cycles) .saved kept) ∧
    (c.state = .flushing → s.flushReady cid = true → becomes (.saveComplete cid cycles) .flushed fun _ => True) ∧
    (∀ core r, c.state = .saved → s.resumeRoom c = some (core, r) → (∀ t ∈ s.threads, t.cid = cid → t.frames = []) →
      becomes (.companyResume cid cycles) .resident fun s' => SameMem s s' ∧ (s'.company? cid).map Company.core = some core ∧
        ∀ i u, s.thread? cid i = some u → ∃ u', s'.thread? cid i = some u' ∧ u'.exited = u.exited ∧ ∀ q, u'.reg q = u.reg q) ∧
    ∀ core r l, c.state = .flushed → s.resumeRoom c = some (core, r) → s.launch? c.launch = some l → c.packed = none → l.ntr = c.ntr →
      becomes (.companyResume cid cycles) .resident fun s' => ∀ tid, tid < 32 * l.ntr → ∃ t, s'.thread? cid tid = some t ∧
        t.pc = l.entry &&& ~~~1 ∧ t.exited = false ∧ t.fpcsr = 0 ∧
        ∀ v : Reg, t.getV v = if v = 0 then l.params.setWidth 32 else if v = 1 then (l.params >>> 32).setWidth 32 else 0

/-- The commands of the host (R158, R373 to R376, R389, R392, R393): each ends with its status and has its effect; a module that
does not run ends every one with BERTHED. A PARTITION whose pages find no room ends with CONFLICT, and so does a change of roles that
cannot begin for 2^24 cycles; neither has changed anything (R374, R376), and one that has begun to move pages runs to its end. Firmware marks a page of a hot deck for migration to a frame on the coolest deck of the partition (R383). A MOVE marks the pages of
its list, is refused with CONFLICT where there are too few frames, and is DONE when every marked page has moved, a page's bytes to
its new frame (R374, R383); a partition whose decks stay keeps their roles (R376). Accesses that meet a migrating page, which wait
(R151), are left out. The model's own choices in it: log 75, 76, 77, 78, 79, 84, 127. -/
def Obligations.HostCommandsAndMigration : Prop :=
  (∀ (s : State) (part : Nat) (arg : DWord) (op : Word), s.window.status ≠ 0 →
     let start (op n : Nat) : State :=
       { s with window := ⟨BitVec.ofNat 32 op, BitVec.ofNat 32 part, arg, 0, 0, s.physBytes (Config.hostBase + arg.toNat) n, false⟩ }
     let ends (i : Instr) (op n st : Nat) : Prop :=
       exec i s = .next ((start op n).endCommand st)
     let blk (n : Nat) : List Byte := s.physBytes (Config.hostBase + arg.toNat) n
     let f (o n : Nat) : Nat := natOf (((blk 80).drop o).take n)
     let fits (n : Nat) : Prop := part < 4 ∧ arg.toNat + n ≤ Config.hostSize
     let does (i : Instr) (p : State → Prop) : Prop := ∃ s', exec i s = .next s' ∧ s'.window.status = 1 ∧ p s'
     (s.status.getD 0 0 ≠ 1 → ends (.partition part arg) 1 80 4 ∧ ends (.role part arg) 2 4 4 ∧ ends (.sched part arg) 3 8 4 ∧
       ends (.fabric part arg) 4 0 4 ∧ ends (.key part arg) 5 72 4 ∧ ends (.resume part arg) 6 4 4 ∧ ends (.attest part arg) 7 40 4 ∧
       ends (.move part arg) 8 0 4) ∧
     (s.status.getD 0 0 = 1 →
       (op.toNat = 0 ∨ 8 < op.toNat → fits 0 → ends (.unknownCommand op part arg) op.toNat 0 2) ∧
       (∀ x, fits 8 → evImage (fun o n => s.physBytes (Config.hostBase + arg.toNat + o) n) = some x →
         does (.sched part arg) fun s' => (s'.part part).sched = some x ∧ (s'.part part).phase = 0) ∧
       (fits 8 → evImage (fun o n => s.physBytes (Config.hostBase + arg.toNat + o) n) = none → ends (.sched part arg) 3 8 2) ∧
       (let gs := Config.groupTable s.byteAt (Config.hostBase + arg.toNat)
        let rs := Config.redTable s.byteAt (Config.hostBase + arg.toNat)
        fits 0 → (64 < gs.length ∨ 16 < rs.length → ends (.fabric part arg) 4 0 2) ∧
         (gs.length ≤ 64 → rs.length ≤ 16 → does (.fabric part arg) fun s' =>
           (s'.part part).groups = gs.map (fun g => ⟨g.1, g.2⟩) ∧ (s'.part part).reds.map (fun r => (r.base, r.len, r.group, r.landing)) = rs)) ∧
       (let id := ((blk 72).headD 0).toNat
        fits 72 → (((s.part part).keys.getLsbD id = false) → ends (.key part arg) 5 72 2) ∧
         ((s.part part).keys.getLsbD id = true → does (.key part arg) fun s' => (id, ((blk 72).drop 8).take 64) ∈ (s'.part part).loaded ∧
           ∀ k ∈ (s.part part).loaded, k.1 ≠ id → k ∈ (s'.part part).loaded)) ∧
       (let core := natOf (blk 4)
        fits 4 → ((384 ≤ core ∨ (s.part part).decks.testBit (core / 16) = false) → ends (.resume part arg) 6 4 2) ∧
         (core < 384 → (s.part part).decks.testBit (core / 16) = true → s.haltStalls core = false → does (.resume part arg) fun s' =>
           ∀ c i u x, s.company? c = some x → x.core = core → x.onCore = true → s.thread? c i = some u →
             u.halt ≠ none → (∀ v ∈ s.threads, v.halt ≠ none → ∃ y, v.halt = some (.frozen, y)) → s.Named → ∃ u', s'.thread? c i = some u' ∧ u'.halt = none ∧ ∀ q, u'.reg q = u.reg q)) ∧
       (let to_ := natOf (((blk 40).drop 32).take 8)
        let ls : List Loc := (List.range 260).map fun i => .phys (Config.hostBase + to_ + i)
        fits 40 → (Config.hostSize < to_ + 260 → ends (.attest part arg) 7 40 2) ∧
         (to_ + 260 ≤ Config.hostSize → s.Plain ls → does (.attest part arg) fun s' => SameRegs s s' ∧
           s'.getLocs (ls.take 32) = (blk 40).take 32 ∧ s'.getLocs ((ls.drop 32).take 64) = (List.range 64).map (fun k => Config.attestByte (32 + k)) ∧
           s'.getLocs ((ls.drop 132).take 64) = (List.range 64).map (fun k => Config.attestByte (132 + k)) ∧
           s'.getLocs (ls.drop 196) = (List.range 64).map (Config.signByte (s'.getLocs (ls.take 196))) ∧ s'.getLocs ((ls.drop 96).take 32) = sha256 (s.part part).block ∧
           s'.getLocs ((ls.drop 128).take 4) = bytesOf 4 s.roleMask ∧ ∀ z, z.offChip = true → z ∉ ls → s'.getLoc z = s.getLoc z)) ∧
       (let pages := Config.pageList s.byteAt (Config.hostBase + arg.toNat)
        fits 0 → ((∃ x ∈ pages, ∃ e, s.walk (s.part part) x.1 x.2 = .error e) → ends (.move part arg) 8 0 2) ∧
         ((∀ x ∈ pages, ∃ y, s.walk (s.part part) x.1 x.2 = .ok y) → (s.part part).defined = false ∨ (s.part part).migok = false →
           ends (.move part arg) 8 0 3) ∧
         (pages = [] → (s.part part).defined = true → (s.part part).migok = true → (s.part part).moving = [] → ends (.move part arg) 8 0 1) ∧
         let p := s.part part
         let fs : List Nat := (pages.filterMap fun x => match s.walk p x.1 x.2 with
           | .ok l => if l.entry / 2 ^ 48 % 4 = 1 then none else some (l.phys x.2 / 4096 * 4096)
           | .error _ => none).eraseDups
         ((∀ x ∈ pages, ∃ y, s.walk p x.1 x.2 = .ok y) → p.defined = true → p.migok = true → p.moving = [] →
           ((s.coolFrames p []).length < fs.length → ends (.move part arg) 8 0 3) ∧
           ∀ f r x xs, fs = f :: r → s.coolFrames p [] = x :: xs → r.length ≤ xs.length → ∃ s' more, exec (.move part arg) s = .next s' ∧
             s'.window.status = 0 ∧ (s'.part part).moving = (f, x, false) :: more ∧ (∀ m ∈ more, m.1 ∈ r ∧ m.2.2 = false) ∧
             more.length ≤ r.length)) ∧
       (fits 80 → (s.partitionRefused part (blk 80) = true → ends (.partition part arg) 1 80 2) ∧
         (s.partitionRefused part (blk 80) = false → s.frameRoom part (blk 80) < (s.framesLeft part (blk 80)).length →
           ends (.partition part arg) 1 80 3) ∧
         (s.partitionRefused part (blk 80) = false → (s.part part).defined = false →
           (∀ d, (f 0 4).testBit d → (s.ladders.all (fun l => l.deck != d) && s.pools.all (fun p => p.deck != d) &&
             s.companies.all fun c => !c.onCore || c.core / 16 != d) = true) →
           does (.partition part arg) fun s' => let p := s'.part part
             p.defined = true ∧ p.decks = f 0 4 ∧ p.roles = f 4 4 &&& f 0 4 ∧ p.regs = f 8 4 ∧ p.keys = BitVec.ofNat 64 (f 12 8) ∧
             p.asidtab = BitVec.ofNat 64 (f 20 8) ∧ p.qtab = BitVec.ofNat 64 (f 28 8) ∧ p.sbarea = BitVec.ofNat 32 (f 36 4) ∧
             p.syncovf = f 40 2 ∧ p.pcshare = f 42 2 ∧ p.fdeleg = f 44 2 % 2 ^ 14 ∧ p.migok = (f 46 1).testBit 0 ∧
             p.migpool = BitVec.ofNat 64 (f 64 8) ∧ p.spill = BitVec.ofNat 64 (f 72 8) ∧ SameRegs s s' ∧
             ∀ x, x ≠ part → s'.part x = s.part x) ∧
         (s.partitionRefused part (blk 80) = false → (s.part part).defined = true → f 0 4 = (s.part part).decks →
           does (.partition part arg) fun s' => (s'.part part).roles = (s.part part).roles ∧ (s'.part part).decks = (s.part part).decks ∧
             (s'.part part).regs = f 8 4 ∧ (s'.part part).asidtab = BitVec.ofNat 64 (f 20 8))) ∧
       (let roles := (s.part part).newRoles (natOf (blk 4))
        fits 4 → ((s.part part).defined = false → ends (.role part arg) 2 4 3) ∧
         ((s.part part).defined = true → s.rolesOk part (s.part part).decks roles = false → ends (.role part arg) 2 4 2) ∧
         ((s.part part).defined = true → s.rolesOk part (s.part part).decks roles = true → (start 2 4).quiet (start 2 4).quiescing = true →
           does (.role part arg) fun s' => (s'.part part).roles = roles ∧ SameRegs s s' ∧ SameMem s s')))) ∧
  ((∀ (s : State) (now d : Nat) (ds : List Nat), s.quiescing = d :: ds → d < 24 → (s.deck d).clk ≤ now →
     now / 65536 = (s.deck d).clk / 65536 → s.quiet s.quiescing = false →
     (now < s.window.since + 2 ^ 24 ∨ s.window.begun = true → exec (.roleChangeTimeout now) s = .next s) ∧
     (s.window.since + 2 ^ 24 ≤ now → s.window.begun = false → ∃ s', exec (.roleChangeTimeout now) s = .next s' ∧
       s'.window.status = 3 ∧ SameRegs s s' ∧ SameMem s s' ∧ ∀ p, (s'.part p).roles = (s.part p).roles ∧ (s'.part p).decks = (s.part p).decks)) ∧
   ∀ (s : State) (part asid : Nat) (va : DWord) (l : Leaf), (s.part part).defined = true → part < 4 → (s.part part).moving = [] →
     s.walk (s.part part) asid va.toNat = .ok l →
     let f := l.phys va.toNat / 4096 * 4096
     let hot : Prop := ∃ d, frameSite f = some d ∧ 85 < (s.deck d).temp
     (¬hot ∨ (s.part part).migok = false ∨ l.entry / 2 ^ 48 % 4 = 1 → exec (.pageMigrate part asid va) s = .next s) ∧
     (∀ x ∈ s.coolFrames (s.part part) [], x ∈ s.freeFrames (s.part part) (s.part part).migpool ∧
       ∃ d ∈ (s.part part).deckList, frameSite x = some d ∧ ∀ e ∈ (s.part part).deckList, (s.deck d).temp ≤ (s.deck e).temp) ∧
     (hot → s.coolFrames (s.part part) [] = [] → exec (.pageMigrate part asid va) s = .next s) ∧
     ∀ x xs, hot → (s.part part).migok = true → l.entry / 2 ^ 48 % 4 ≠ 1 → s.coolFrames (s.part part) [] = x :: xs →
       ∃ s', exec (.pageMigrate part asid va) s = .next s' ∧ (s'.part part).moving = [(f, x, false)] ∧ x ∈ (s'.part part).taken ∧
         ((∀ y ∈ s.leaves part, y.has f = true → y.leaf.size = 4096 ∧ ∀ i, i < 8 → chipCore (y.leaf.at_ + i) = none) → SameRegs s s')) ∧
  ∀ (s : State) (part : Nat) (arg : DWord), s.window.status = 0 → s.window.op = 8 → s.window.part.toNat = part → s.window.arg = arg → part < 4 →
    ((∀ m ∈ (s.part part).moving, s.frameBusy m.1 = false) →
      ∃ s', exec (.move part arg) s = .next s' ∧ s'.window.status = 1 ∧ (s'.part part).moving = []) ∧
    ∀ (f x : Nat), (s.part part).moving = [(f, x, false)] →
      (s.frameBusy f = true → exec (.move part arg) s = .next s) ∧
      let to_ : List Loc := (List.range 4096).map fun i => .phys (x + i)
      let s1 := (s.copyMarks f x).perform to_ (s.physBytes f 4096)
      (s.frameBusy f = false → s.Plain to_ → (∀ y ∈ s1.leaves part, ∀ i, i < 8 → .phys (y.leaf.at_ + i) ∉ to_) →
        ∃ s', exec (.move part arg) s = .next s' ∧ s'.window.status = 1 ∧ s'.getLocs to_ = s.physBytes f 4096)

/-! ### Encodings, steps, storage and reset -/

/-- The manual's own example words decode to the statements they stand for (R53 to R65 and the tables of encodings). -/
def Obligations.PublishedWordsDecode : Prop :=
  let h : Hd := ⟨false, false⟩
  decode 0x38C2 = .ok (.iadd16 true 3 7) ∧ decode 0xE960 = .ok (.movi16 false 5 29) ∧
  decode 0x0505940D = .ok (.iadd ⟨false, true⟩ 10 11 40) ∧ decode 0x42CAA83B = .ok (.fadd ⟨true, false⟩ 2 20 21 22) ∧
  decode 0xFE020811 = .ok (.iaddImm h 4 4 254) ∧ decode 0x07ED8C31 = .ok (.movi false 6 0xFDB) ∧
  decode 0x0D0090C1 = .ok (.ld h 3 2 0 1 8) ∧ decode 0x45C114C9 = .ok (.st h 17 3 2 2 10) ∧
  decode 0x038404C1 = .ok (.ldt h 8 2) ∧ decode 0xFFFC1741 = .ok (.bra false 0x7FFE0 ⟨true, 3⟩) ∧
  decode 0x000181F9 = .ok (.poolGuard 3) ∧ decode 0x2CA10661 = .ok (.cvt h 1 6 5 3 2) ∧
  decode 0x50C21871 = .ok (.fdp4E4m3 h 2 12 4 6) ∧ decode 0x08C610D1 = .ok (.ldp h 2 1 2 12 8) ∧
  decode 0x50050681 = .ok (.pollMask false 3 ⟨true, 2⟩) ∧ decode 0x19A00489 = .ok (.plop h 3 2 ⟨false, 0⟩ ⟨true, 5⟩) ∧
  decode 0x187F9159 = .ok (.ksave false 3 8 63) ∧ decode 0x01430361 = .ok (.barArrive false true 2 6 1) ∧
  decode 0x02400969 = .ok (.sysr h 0x12 4) ∧ decode 0x40E00169 = .ok (.trap false 7) ∧
  decode 0x09250AE9 = .ok (.red h 2 2 10 5) ∧ decode 0x580194F1 = .ok (.mbget h 10 3) ∧
  decode 0x30030D19 = .ok (.twait h 6 6) ∧ decode 0x6B020B01 = .ok (.mmae false true 5 32 16 5) ∧
  decode 0x14848911 = .ok (.dmerge false 36 9 4) ∧ decode 0x11850181 = .ok (.rxput false 10 12) ∧
  decode 0x18021989 = .ok (.lstat h 12 4) ∧ decode 0x39C19591 = .ok (.acall h 10 3 14)

/-- Every well-formed instruction has an encoding, and decoding it gives the instruction back with every operand (R53 to R67). -/
def Obligations.DecodingUndoesEncoding : Prop :=  ∀ i : Instr, i.wf = true → ∃ w, encode i = some w ∧ decode w = .ok i

/-- Whatever word decodes is the encoding of the well-formed instruction it decodes to (R53, R54, R63): no reserved bit is lost, and
no two words of one length stand for one instruction. A 16-bit form is the low halfword. -/
def Obligations.EncodingUndoesDecoding : Prop :=  ∀ (w : Word) (i : Instr), decode w = .ok i → i.wf = true ∧ encode i = some (if isShort w then w &&& 0xFFFF else w)

/-- A step runs the decoded instruction (R5, R53, R54, R64): the word of the pending group is the halfword at its counter, with the
next halfword above it where bit 0 is set; what it decodes to is executed, by the threads of the group; a word that is no
instruction traps ILLEGAL; and without a group the next event of the agenda happens. An instruction fetch that faults is taken as a
precise trap by every thread of the group at its counter, before anything executes (R149, R303, R305): ACCESS and PAGE as the
checks give them, and DATAERR FETCH for an error of the word. The model's own choices in it: log 9, 28, 95. -/
def Obligations.StepRunsTheDecodedInstruction : Prop :=
  ((∀ (s : State) (g : Issue) (t : Thread) (ts : List Thread) (c : Checked), s.issue = some g → s.members g = t :: ts →
     s.fetchBytes (s.whoIs t) g.pc 2 = .ok c → c.mig = false → s.bad ≠ 1 →
     let lo := natOf (s.getLocs c.locs)
     let runs (w : Word) (len : Nat) : Prop :=
       let g' : Issue := { g with tids := (t :: ts).map Thread.tid, word := w, len := len }
       (∀ i, decode w = .ok i → s.waitsForLoop g' i = false → step s = exec i { s with issue := some g' }) ∧
       (∀ i s', decode w = .ok i → s.ready g' i = .ok s' → step s = exec i s') ∧
       ∀ sub, decode w = .error sub → step s = .next ((({ s with issue := none } : State)).raiseAll
         (({ s with issue := some g' } : State).members g') { cls := 0, sub := sub.toNat, extra := w })
     (lo % 2 = 0 → runs (BitVec.ofNat 32 lo) 2) ∧
     (lo % 2 = 1 → ∀ c', s.fetchBytes (s.whoIs t) (g.pc + 2) 2 = .ok c' → c'.mig = false →
       runs (BitVec.ofNat 32 (lo + 65536 * natOf (s.getLocs c'.locs))) 4)) ∧
   ∀ (s : State) (e : Instr) (r : List Instr), s.issue = none → s.agenda = e :: r → encode e = none → step s = exec e { s with agenda := r }) ∧
  (∀ (s : State) (g : Issue) (t : Thread) (ts : List Thread), s.issue = some g → s.members g = t :: ts →
     (∀ tr, s.fetchBytes (s.whoIs t) g.pc 2 = .error tr → step s = .next ((({ s with issue := none } : State)).raiseAll (t :: ts) tr)) ∧
     (∀ c, s.fetchBytes (s.whoIs t) g.pc 2 = .ok c → c.mig = false → s.bad = 1 →
       natOf (s.getLocs c.locs) % 2 = 0 ∨ (∃ c', s.fetchBytes (s.whoIs t) (g.pc + 2) 2 = .ok c' ∧ c'.mig = false) →
       step s = .next ((({ s with issue := none } : State)).raiseAll (t :: ts) { cls := 5, sub := 2, addr := g.pc })) ∧
     ∀ c tr, s.fetchBytes (s.whoIs t) g.pc 2 = .ok c → c.mig = false → natOf (s.getLocs c.locs) % 2 = 1 →
       s.fetchBytes (s.whoIs t) (g.pc + 2) 2 = .error tr → step s = .next ((({ s with issue := none } : State)).raiseAll (t :: ts) tr))

/-- Bytes stored at different locations of plain storage read back as stored, every other byte reads as before, and storage keeps
its canonical form (R146, R152, R153). Reset leaves the values of the Reset columns (R311, R318, R321, R379, R380, R381, R385,
R386), the module in self-test with no partition defined (R390), no thread placed, and memory in canonical form. The model's own
choices in it: log 1, 4, 7, 8. -/
def Obligations.StorageReadsBackAndResetValues : Prop :=
  (∀ (s : State) (ls : List Loc) (bs : List Byte), s.Plain ls → ls.length = bs.length →
     Wrote s (s.setLocs ls bs) ls bs ∧ (s.setLocs ls bs).Canon ∧ SameRegs s (s.setLocs ls bs)) ∧
  ((∀ c, let k := State.reset.core c
     k.trapSys = 0 ∧ k.dbgctl = 0 ∧ k.tslice = 0 ∧ k.qfloor = 64 ∧ k.eff = 32 ∧ k.auto = true ∧ k.cap = 32 ∧ k.allow = 256 ∧
     k.dumpSeq = none ∧ (∀ i, i < 8 → (k.probes.getD i Probe.reset).block = 0 ∧ (k.probes.getD i Probe.reset).en = false) ∧
     State.reset.tstat c = 0 ∧ State.reset.powered c = false) ∧
   (∀ p, State.reset.tovr.getD p 0 = 0) ∧ State.reset.status.getD 0 0 = 0 ∧ (∀ p, (State.reset.part p).defined = false) ∧
   State.reset.threads = [] ∧ State.reset.issue = none ∧ State.reset.Canon ∧ State.reset.Named)

/-- Every step keeps storage in canonical form: device memory, each company's scratchpad, each partition's
sync-variable window and the storage of each core that no company holds list rising addresses, and no zero where an unlisted byte is known
to read as zero. The model's own choices in it: log 1. -/
def Obligations.StepsKeepStorageCanonical : Prop :=  ∀ s s' : State, s.Canon → step s = .next s' → s'.Canon

/-- No step faults or is refused: whatever the manual calls illegal is a trap, a status or has no effect (R302). The model's own
choices in it: log 9. -/
def Obligations.EveryStepIsTaken : Prop := ∀ s : State, StepsOn s
end

