-- ==== Sys2Proof/Laws/Canon.lean ====
section
/-!
SUPPORT. Canonical byte lists: reading after a store, and that every operation that stores bytes keeps the canonical form of all
storage (`State.Canon`), which the state after reset has.
-/
namespace Sys2Proof.Machine

/-- A canonical list that starts later is canonical from any earlier address. -/
theorem Memory.wfFrom_le {z : Nat → Bool} {lo lo' : Nat} {m : List Host.Cell} (h : Memory.wfFrom z lo m = true) (hl : lo' ≤ lo) :
    Memory.wfFrom z lo' m = true := by
  cases m with
  | nil => rfl
  | cons x r =>
    obtain ⟨a, b⟩ := x
    simp only [Memory.wfFrom, Bool.and_eq_true, decide_eq_true_eq] at h ⊢
    exact ⟨⟨by omega, h.1.2⟩, h.2⟩

/-- Below its first address a canonical list holds nothing. -/
theorem cellFind_of_lt {z : Nat → Bool} {lo : Nat} {m : List Host.Cell} (h : Memory.wfFrom z lo m = true) {x : Nat} (hx : x < lo) :
    cellFind m x = none := by
  cases m with
  | nil => rfl
  | cons y r =>
    obtain ⟨a, b⟩ := y
    simp only [Memory.wfFrom, Bool.and_eq_true, decide_eq_true_eq] at h
    have ha : lo ≤ a := h.1.1
    simp only [cellFind]
    rw [if_neg (by omega), if_pos (by omega)]

/-- A store keeps the canonical form. -/
theorem Memory.wfFrom_cellSet {z : Nat → Bool} {lo : Nat} {m : List Host.Cell} (h : Memory.wfFrom z lo m = true) {x : Nat} (hx : lo ≤ x)
    (b : Byte) : Memory.wfFrom z lo (cellSet z m x b) = true := by
  induction m generalizing lo with
  | nil =>
    simp only [cellSet]
    split
    · rfl
    · rename_i hb
      simp only [Memory.wfFrom, hb, Bool.not_false, Bool.and_eq_true, decide_eq_true_eq, and_true]
      exact hx
  | cons y r ih =>
    obtain ⟨a, c⟩ := y
    have h0 := h
    simp only [Memory.wfFrom, Bool.and_eq_true, decide_eq_true_eq] at h
    obtain ⟨⟨ha, hc⟩, hr⟩ := h
    simp only [cellSet]
    split
    · split
      · exact h0
      · rename_i hxa hb
        simp only [Memory.wfFrom, hb, Bool.not_false, Bool.and_eq_true, decide_eq_true_eq, and_true]
        exact ⟨hx, ⟨by omega, hc⟩, hr⟩
    · split
      · rename_i hxa hxe
        subst hxe
        split
        · exact Memory.wfFrom_le hr (by omega)
        · rename_i hb
          simp only [Memory.wfFrom, hb, Bool.not_false, Bool.and_eq_true, decide_eq_true_eq, and_true]
          exact ⟨ha, hr⟩
      · simp only [Memory.wfFrom, Bool.and_eq_true, decide_eq_true_eq]
        exact ⟨⟨ha, hc⟩, ih hr (by omega)⟩

/-- What a list holds after a store: the stored byte at its address, unless it reads so unlisted, and what was there elsewhere. -/
theorem cellFind_cellSet {z : Nat → Bool} {lo : Nat} {m : List Host.Cell} (h : Memory.wfFrom z lo m = true) (x y : Nat) (b : Byte) :
    cellFind (cellSet z m x b) y = if y = x then (if z x && b == 0 then none else some b) else cellFind m y := by
  induction m generalizing lo with
  | nil =>
    simp only [cellSet]
    generalize (z x && b == 0) = q
    cases q <;> by_cases hy : y = x <;> simp [cellFind, hy]
  | cons w r ih =>
    obtain ⟨a, c⟩ := w
    simp only [Memory.wfFrom, Bool.and_eq_true, decide_eq_true_eq] at h
    obtain ⟨⟨-, -⟩, hr⟩ := h
    simp only [cellSet]
    generalize (z x && b == 0) = q at ih ⊢
    by_cases hxa : x < a
    · rw [if_pos hxa]
      by_cases hb : q = true
      · rw [if_pos hb]
        by_cases hy : y = x
        · subst hy
          rw [if_pos rfl, if_pos hb]
          simp only [cellFind]
          rw [if_neg (by omega), if_pos hxa]
        · rw [if_neg hy]
      · rw [if_neg hb]
        by_cases hy : y = x
        · simp [cellFind, hy, hb]
        · simp only [cellFind, if_neg hy]
          by_cases hlt : y < x
          · rw [if_pos hlt, if_neg (by omega), if_pos (by omega)]
          · rw [if_neg hlt]
    · rw [if_neg hxa]
      by_cases hxe : x = a
      · subst hxe
        rw [if_pos rfl]
        by_cases hb : q = true
        · rw [if_pos hb]
          by_cases hy : y = x
          · subst hy
            rw [if_pos rfl, if_pos hb]
            exact cellFind_of_lt hr (by omega)
          · rw [if_neg hy]
            simp only [cellFind, if_neg hy]
            by_cases hlt : y < x
            · rw [if_pos hlt]; exact cellFind_of_lt hr (by omega)
            · rw [if_neg hlt]
        · rw [if_neg hb]
          by_cases hy : y = x <;> simp [cellFind, hy, hb]
      · rw [if_neg hxe]
        simp only [cellFind]
        by_cases hya : y = a
        · rw [if_pos hya, if_neg (by omega), if_pos hya]
        · rw [if_neg hya, if_neg hya, ih hr]
          by_cases hlt : y < a
          · rw [if_pos hlt, if_pos hlt, if_neg (by omega)]
          · rw [if_neg hlt, if_neg hlt]

/-- Reading after a store where nothing is known of unlisted bytes. -/
theorem cellFind_cellPut {m : List Host.Cell} (h : Memory.wf m = true) (x y : Nat) (b : Byte) :
    cellFind (cellPut m x b) y = if y = x then some b else cellFind m y := by
  simpa [cellPut, noZero] using cellFind_cellSet h x y b

/-- The canonical form of a whole list under a store. -/
theorem Memory.wf_cellSet {z : Nat → Bool} {m : List Host.Cell} (h : Memory.wf m z = true) (x : Nat) (b : Byte) :
    Memory.wf (cellSet z m x b) z = true := Memory.wfFrom_cellSet h (Nat.zero_le x) b
@[inherit_doc Memory.wf_cellSet] theorem Memory.wf_cellPut {m : List Host.Cell} (h : Memory.wf m = true) (x : Nat) (b : Byte) :
    Memory.wf (cellPut m x b) = true := Memory.wf_cellSet h x b

/-- Fewer entries keep the canonical form. -/
theorem Memory.wfFrom_filter {z : Nat → Bool} {lo : Nat} {m : List Host.Cell} (h : Memory.wfFrom z lo m = true) (p : Host.Cell → Bool) :
    Memory.wfFrom z lo (m.filter p) = true := by
  induction m generalizing lo with
  | nil => rfl
  | cons y r ih =>
    obtain ⟨a, b⟩ := y
    simp only [Memory.wfFrom, Bool.and_eq_true, decide_eq_true_eq] at h
    by_cases hp : p (a, b) = true
    · simp only [List.filter_cons, hp, if_true, Memory.wfFrom, Bool.and_eq_true, decide_eq_true_eq]
      exact ⟨h.1, ih h.2⟩
    · simp only [List.filter_cons, hp, Bool.false_eq_true, if_false]
      exact ih (Memory.wfFrom_le h.2 (by omega))
/-- The canonical form depends on the entries alone: what is known to be zero elsewhere does not matter. -/
theorem Memory.wfFrom_zero {z z' : Nat → Bool} {lo : Nat} {m : List Host.Cell} (h : Memory.wfFrom z lo m = true)
    (hz : ∀ c ∈ m, z' c.1 = true → z c.1 = true) : Memory.wfFrom z' lo m = true := by
  induction m generalizing lo with
  | nil => rfl
  | cons y r ih =>
    obtain ⟨a, b⟩ := y
    simp only [Memory.wfFrom, Bool.and_eq_true, decide_eq_true_eq] at h ⊢
    refine ⟨⟨h.1.1, ?_⟩, ih h.2 fun c hc => hz c (List.mem_cons_of_mem _ hc)⟩
    have := hz (a, b) List.mem_cons_self
    cases hz' : z' a with
    | false => simp
    | true => simpa [this hz'] using h.1.2

/-- The state after reset has its storage in canonical form. -/
theorem State.reset_canon : State.reset.Canon := by
  refine ⟨rfl, fun c hc => absurd hc (List.not_mem_nil), fun p hp => ?_, fun k hk => ?_⟩
  · have h : State.reset.parts.toList = List.replicate 4 Part.reset := by simp [State.reset]
    rw [h] at hp
    rw [List.eq_of_mem_replicate hp]; rfl
  · have h : State.reset.cores.toList = List.replicate 384 Core.reset := by simp [State.reset]
    rw [h] at hk
    rw [List.eq_of_mem_replicate hk]; rfl

/-- A state with the storage of a canonical one is canonical. -/
theorem State.Canon.same {s s' : State} (h : s.Canon) (hm : s'.mem = s.mem) (hc : s'.companies = s.companies) (hp : s'.parts = s.parts)
    (hk : s'.cores = s.cores) : s'.Canon := by
  obtain ⟨h1, h2, h3, h4⟩ := h
  exact ⟨hm ▸ h1, hc ▸ h2, hp ▸ h3, hk ▸ h4⟩

/-- A change of one company that keeps its scratchpad canonical keeps the machine's storage canonical. -/
theorem State.Canon.updCompany {s : State} (h : s.Canon) (cid : Nat) {f : Company → Company}
    (hf : ∀ c, Memory.wf c.scratch = true → Memory.wf (f c).scratch = true) : (s.updCompany cid f).Canon := by
  obtain ⟨h1, h2, h3⟩ := h
  refine ⟨h1, fun c hc => ?_, h3⟩
  obtain ⟨d, hd, rfl⟩ := List.mem_map.mp hc
  split
  · exact hf d (h2 d hd)
  · exact h2 d hd

/-- The state of a partition is canonical, whatever its number. -/
theorem State.Canon.part {s : State} (h : s.Canon) (p : Nat) :
    Memory.wf (s.part p).sync (inRanges (s.part p).zeroed) = true := by
  unfold State.part
  by_cases hp : p < 4
  · have hg : s.parts.getD p Part.reset = s.parts[p] := by simp [Vector.getD, hp]
    rw [hg]
    exact h.2.2.1 _ (by rw [Vector.mem_toList_iff]; exact Vector.getElem_mem hp)
  · have hg : s.parts.getD p Part.reset = Part.reset := by simp [Vector.getD, hp]
    rw [hg]; rfl
@[inherit_doc State.Canon.part] theorem State.Canon.core {s : State} (h : s.Canon) (c : Nat) :
    Memory.wf (s.core c).spare (inRanges (s.core c).known) = true := by
  unfold State.core
  by_cases hc : c < 384
  · have hg : s.cores.getD c Core.reset = s.cores[c] := by simp [Vector.getD, hc]
    rw [hg]
    exact h.2.2.2 _ (by rw [Vector.mem_toList_iff]; exact Vector.getElem_mem hc)
  · have hg : s.cores.getD c Core.reset = Core.reset := by simp [Vector.getD, hc]
    rw [hg]; rfl

/-- A change of one partition that keeps its sync variables canonical keeps the machine's storage canonical. -/
theorem State.Canon.updPart {s : State} (h : s.Canon) (p : Nat) {f : Part → Part}
    (hf : Memory.wf (s.part p).sync (inRanges (s.part p).zeroed) = true →
      Memory.wf (f (s.part p)).sync (inRanges (f (s.part p)).zeroed) = true) : (s.updPart p f).Canon := by
  refine ⟨h.1, h.2.1, fun q hq => ?_, h.2.2.2⟩
  rw [Vector.mem_toList_iff] at hq
  obtain ⟨i, hi, rfl⟩ := Vector.getElem_of_mem hq
  change Memory.wf ((s.parts.setIfInBounds p (f (s.part p)))[i]).sync (inRanges ((s.parts.setIfInBounds p (f (s.part p)))[i]).zeroed) = true
  rw [Vector.getElem_setIfInBounds]
  split
  · exact hf (h.part p)
  · exact h.2.2.1 _ (by rw [Vector.mem_toList_iff]; exact Vector.getElem_mem hi)
/-- A change of one core that keeps its free storage canonical keeps the machine's storage canonical. -/
theorem State.Canon.updCore {s : State} (h : s.Canon) (c : Nat) {f : Core → Core}
    (hf : Memory.wf (s.core c).spare (inRanges (s.core c).known) = true →
      Memory.wf (f (s.core c)).spare (inRanges (f (s.core c)).known) = true) : (s.updCore c f).Canon := by
  refine ⟨h.1, h.2.1, h.2.2.1, fun k hk => ?_⟩
  rw [Vector.mem_toList_iff] at hk
  obtain ⟨i, hi, rfl⟩ := Vector.getElem_of_mem hk
  change Memory.wf ((s.cores.setIfInBounds c (f (s.core c)))[i]).spare (inRanges ((s.cores.setIfInBounds c (f (s.core c)))[i]).known) = true
  rw [Vector.getElem_setIfInBounds]
  split
  · exact hf (h.core c)
  · exact h.2.2.2 _ (by rw [Vector.mem_toList_iff]; exact Vector.getElem_mem hi)
/-- Ranges that are cut hold nothing more. -/
theorem inRanges_cutRange {x n a : Nat} {rs : List (Nat × Nat)} (h : inRanges (cutRange x n rs) a = true) : inRanges rs a = true := by
  simp only [inRanges, List.any_eq_true, Bool.and_eq_true, decide_eq_true_eq, cutRange, List.mem_flatMap] at h ⊢
  obtain ⟨r, ⟨w, hw, hr⟩, h1, h2⟩ := h
  refine ⟨w, hw, ?_⟩
  split at hr
  · rw [List.mem_singleton] at hr; subst hr; exact ⟨h1, h2⟩
  · rename_i hc
    simp only [Bool.or_eq_true, decide_eq_true_eq, not_or] at hc
    rw [List.mem_append] at hr
    rcases hr with hr | hr <;> split at hr <;> simp only [List.mem_singleton, List.not_mem_nil] at hr <;> subst hr <;>
      simp only at h1 h2 <;> omega
/-- A company that takes storage of a core keeps what is left canonical. -/
theorem State.Canon.taken {s : State} (h : s.Canon) (c x n : Nat) : (s.updCore c fun k => k.taken x n).Canon :=
  h.updCore c fun hk => Memory.wfFrom_zero (Memory.wfFrom_filter hk _) fun _ _ hz => inRanges_cutRange hz

/-- A store through an on-chip window keeps storage canonical. -/
theorem State.Canon.chipSet {s : State} (h : s.Canon) (core off : Nat) (b : Byte) : (s.chipSet core off b).Canon := by
  unfold State.chipSet
  split
  · exact h.same rfl rfl rfl rfl
  · exact h.updCompany _ fun c hc => Memory.wf_cellPut hc _ b
  · simp only
    split
    · exact h
    · split <;> exact h.same rfl rfl rfl rfl
  · exact h
  · exact h.updCore _ fun hk => Memory.wf_cellSet hk _ b

/-- A store of one byte keeps storage canonical. -/
theorem State.Canon.setLoc {s : State} (h : s.Canon) (l : Loc) (b : Byte) : (s.setLoc l b).Canon := by
  unfold State.setLoc
  split
  · split
    · exact h.chipSet _ _ b
    · exact ⟨Memory.wf_cellPut h.1 _ b, h.2⟩
  · exact ⟨Memory.wf_cellPut h.1 _ b, h.2⟩
  · exact ⟨Memory.wf_cellPut h.1 _ b, h.2⟩
  · exact h.updCompany _ fun c hc => Memory.wf_cellPut hc _ b
  · exact h.updPart _ fun hp => Memory.wf_cellSet hp _ b

/-- A store of bytes keeps storage canonical. -/
theorem State.Canon.setLocs {s : State} (h : s.Canon) (ls : List Loc) (bs : List Byte) : (s.setLocs ls bs).Canon := by
  induction ls generalizing s bs with
  | nil => cases bs <;> exact h
  | cons l ls ih =>
    cases bs with
    | nil => exact h
    | cons b bs => exact ih (h.setLoc l b) bs

/-- A store of device-physical bytes keeps storage canonical. -/
theorem State.Canon.setPhys {s : State} (h : s.Canon) (a : Nat) (bs : List Byte) : (s.setPhys a bs).Canon := h.setLocs _ bs

/-- Changes of threads, troupes, decks and launches keep storage canonical. -/
theorem State.Canon.updThread {s : State} (h : s.Canon) (c i : Nat) (f : Thread → Thread) : (s.updThread c i f).Canon :=
  h.same rfl rfl rfl rfl
@[inherit_doc State.Canon.updThread] theorem State.Canon.updTroupe {s : State} (h : s.Canon) (c i : Nat) (f : Troupe → Troupe) :
    (s.updTroupe c i f).Canon := h.same rfl rfl rfl rfl
@[inherit_doc State.Canon.updThread] theorem State.Canon.updDeck {s : State} (h : s.Canon) (d : Nat) (f : Deck → Deck) :
    (s.updDeck d f).Canon := h.same rfl rfl rfl rfl
@[inherit_doc State.Canon.updThread] theorem State.Canon.updLaunch {s : State} (h : s.Canon) (l : Nat) (f : Launch → Launch) :
    (s.updLaunch l f).Canon := h.same rfl rfl rfl rfl

/-- A fold of operations that keep storage canonical keeps it canonical. -/
theorem State.Canon.foldl {α : Type} {f : State → α → State} (hf : ∀ s a, s.Canon → (f s a).Canon) {s : State} (h : s.Canon)
    (l : List α) : (l.foldl f s).Canon := by
  induction l generalizing s with
  | nil => exact h
  | cons a l ih => exact ih (hf s a h)

end Sys2Proof.Machine
end

