-- ==== Sys2Proof/Laws/Encoding.lean ====
section
/-!
SUPPORT. Fields of words put together from placed fields: what the decoder reads from a word of the encoder.
-/
namespace Sys2Proof

/-- A field of a combined word is the combination of the fields. -/
theorem fieldOf_or (a b : Word) (lo n : Nat) : fieldOf (a ||| b) lo n = fieldOf a lo n ||| fieldOf b lo n := by
  unfold fieldOf; ext i hi; simp
/-- A placed field is read back. -/
theorem fieldOf_put_self {n : Nat} (f : BitVec n) (lo : Nat) (h : lo + n ≤ 32) : fieldOf (put f lo) lo n = f := by
  unfold fieldOf put; ext i hi
  have h1 : lo + i < 32 := by omega
  have h2 : lo + i - lo = i := by omega
  simp [h1, h2, BitVec.getLsbD_eq_getElem hi]
/-- A field placed elsewhere reads as zero. -/
theorem fieldOf_put_ne {n m : Nat} (f : BitVec n) (k lo : Nat) (h : k + n ≤ lo ∨ lo + m ≤ k) : fieldOf (put f k) lo m = 0#m := by
  unfold fieldOf put; ext i hi
  simp
  intro h1 h2
  rcases h with h | h
  · intro _; apply BitVec.getLsbD_of_ge; omega
  · omega
/-- Part of a placed field is read as that part. -/
theorem fieldOf_put_sub {n m : Nat} (f : BitVec n) (k lo : Nat) (h : k ≤ lo ∧ lo + m ≤ k + n ∧ k + n ≤ 32) :
    fieldOf (put f k) lo m = f.extractLsb' (lo - k) m := by
  unfold fieldOf put; ext i hi
  simp
  have : lo + i - k = lo - k + i := by omega
  rw [this]
  have h1 : lo + i < 32 := by omega
  have h2 : k ≤ lo + i := by omega
  have h3 : lo - k + i < 32 := by omega
  simp [h1, h2, h3]
/-- A bit of a combined word. -/
theorem bitOf_or (a b : Word) (lo : Nat) : bitOf (a ||| b) lo = (bitOf a lo || bitOf b lo) := by
  unfold bitOf fieldOf
  rw [Bool.eq_iff_iff]
  simp [BitVec.eq_of_getLsbD_eq_iff]
/-- One bit of a word as a Boolean. -/
theorem bitOf_eq (a : Word) (lo : Nat) : bitOf a lo = a.getLsbD lo := by
  unfold bitOf fieldOf
  rw [Bool.eq_iff_iff]
  simp [BitVec.eq_of_getLsbD_eq_iff]
/-- A bit of a placed field. -/
theorem bitOf_put {n : Nat} (f : BitVec n) (k lo : Nat) (h : k + n ≤ 32) :
    bitOf (put f k) lo = (decide (k ≤ lo) && f.getLsbD (lo - k)) := by
  rw [bitOf_eq]; unfold put; simp
  by_cases h32 : lo < 32
  · by_cases hk : k ≤ lo
    · have h1 : ¬ lo < k := by omega
      have h2 : lo - k < 32 := by omega
      simp [h32, hk, h1, h2]
    · have h1 : lo < k := by omega
      simp [hk, h1]
  · simp [h32]; intro hk; apply BitVec.getLsbD_of_ge; omega
/-- A bit placed elsewhere leaves a field zero. -/
theorem fieldOf_putB_ne {m : Nat} (b : Bool) (k lo : Nat) (h : k + 1 ≤ lo ∨ lo + m ≤ k) : fieldOf (putB b k) lo m = 0#m :=
  fieldOf_put_ne _ _ _ h
/-- A placed bit is read at its place only. -/
theorem bitOf_putB (b : Bool) (k lo : Nat) (h : k + 1 ≤ 32) : bitOf (putB b k) lo = (decide (k = lo) && b) := by
  unfold putB; rw [bitOf_put _ _ _ h]
  by_cases hk : k = lo
  · subst hk; cases b <;> simp
  · by_cases h2 : k ≤ lo
    · have : 0 < lo - k := by omega
      simp [hk, h2]; intro hh; cases b <;> simp_all
    · simp [hk, h2]

end Sys2Proof
end

