-- ==== Sys2Proof/Laws/State.lean ====
section
/-!
SUPPORT. One lemma for each field of the state under each update of one of its lists, true by `rfl`, so that no proof
unfolds a record update.
-/
namespace Sys2Proof.Machine
variable (s : State)

@[simp] theorem State.updThread_troupes (c i : Nat) (f : Thread → Thread) : (s.updThread c i f).troupes = s.troupes := rfl
@[simp] theorem State.updThread_companies (c i : Nat) (f : Thread → Thread) : (s.updThread c i f).companies = s.companies := rfl
@[simp] theorem State.updThread_barriers (c i : Nat) (f : Thread → Thread) : (s.updThread c i f).barriers = s.barriers := rfl
@[simp] theorem State.updThread_ops (c i : Nat) (f : Thread → Thread) : (s.updThread c i f).ops = s.ops := rfl
@[simp] theorem State.updThread_mbox (c i : Nat) (f : Thread → Thread) : (s.updThread c i f).mbox = s.mbox := rfl
@[simp] theorem State.updThread_cmds (c i : Nat) (f : Thread → Thread) : (s.updThread c i f).cmds = s.cmds := rfl
@[simp] theorem State.updThread_launches (c i : Nat) (f : Thread → Thread) : (s.updThread c i f).launches = s.launches := rfl
@[simp] theorem State.updThread_ladders (c i : Nat) (f : Thread → Thread) : (s.updThread c i f).ladders = s.ladders := rfl
@[simp] theorem State.updThread_pools (c i : Nat) (f : Thread → Thread) : (s.updThread c i f).pools = s.pools := rfl
@[simp] theorem State.updThread_snaps (c i : Nat) (f : Thread → Thread) : (s.updThread c i f).snaps = s.snaps := rfl
@[simp] theorem State.updThread_cores (c i : Nat) (f : Thread → Thread) : (s.updThread c i f).cores = s.cores := rfl
@[simp] theorem State.updThread_decks (c i : Nat) (f : Thread → Thread) : (s.updThread c i f).decks = s.decks := rfl
@[simp] theorem State.updThread_tovr (c i : Nat) (f : Thread → Thread) : (s.updThread c i f).tovr = s.tovr := rfl
@[simp] theorem State.updThread_regulators (c i : Nat) (f : Thread → Thread) : (s.updThread c i f).regulators = s.regulators := rfl
@[simp] theorem State.updThread_parts (c i : Nat) (f : Thread → Thread) : (s.updThread c i f).parts = s.parts := rfl
@[simp] theorem State.updThread_tlb (c i : Nat) (f : Thread → Thread) : (s.updThread c i f).tlb = s.tlb := rfl
@[simp] theorem State.updThread_window (c i : Nat) (f : Thread → Thread) : (s.updThread c i f).window = s.window := rfl
@[simp] theorem State.updThread_status (c i : Nat) (f : Thread → Thread) : (s.updThread c i f).status = s.status := rfl
@[simp] theorem State.updThread_diag (c i : Nat) (f : Thread → Thread) : (s.updThread c i f).diag = s.diag := rfl
@[simp] theorem State.updThread_mem (c i : Nat) (f : Thread → Thread) : (s.updThread c i f).mem = s.mem := rfl
@[simp] theorem State.updThread_marks (c i : Nat) (f : Thread → Thread) : (s.updThread c i f).marks = s.marks := rfl
@[simp] theorem State.updThread_lines (c i : Nat) (f : Thread → Thread) : (s.updThread c i f).lines = s.lines := rfl
@[simp] theorem State.updThread_issue (c i : Nat) (f : Thread → Thread) : (s.updThread c i f).issue = s.issue := rfl
@[simp] theorem State.updThread_rivals (c i : Nat) (f : Thread → Thread) : (s.updThread c i f).rivals = s.rivals := rfl
@[simp] theorem State.updThread_bad (c i : Nat) (f : Thread → Thread) : (s.updThread c i f).bad = s.bad := rfl
@[simp] theorem State.updThread_agenda (c i : Nat) (f : Thread → Thread) : (s.updThread c i f).agenda = s.agenda := rfl
@[simp] theorem State.updThread_fresh (c i : Nat) (f : Thread → Thread) : (s.updThread c i f).fresh = s.fresh := rfl
@[simp] theorem State.updThread_nextId (c i : Nat) (f : Thread → Thread) : (s.updThread c i f).nextId = s.nextId := rfl

@[simp] theorem State.updThreads_troupes (p : Thread → Bool) (f : Thread → Thread) : (s.updThreads p f).troupes = s.troupes := rfl
@[simp] theorem State.updThreads_companies (p : Thread → Bool) (f : Thread → Thread) : (s.updThreads p f).companies = s.companies := rfl
@[simp] theorem State.updThreads_barriers (p : Thread → Bool) (f : Thread → Thread) : (s.updThreads p f).barriers = s.barriers := rfl
@[simp] theorem State.updThreads_ops (p : Thread → Bool) (f : Thread → Thread) : (s.updThreads p f).ops = s.ops := rfl
@[simp] theorem State.updThreads_mbox (p : Thread → Bool) (f : Thread → Thread) : (s.updThreads p f).mbox = s.mbox := rfl
@[simp] theorem State.updThreads_cmds (p : Thread → Bool) (f : Thread → Thread) : (s.updThreads p f).cmds = s.cmds := rfl
@[simp] theorem State.updThreads_launches (p : Thread → Bool) (f : Thread → Thread) : (s.updThreads p f).launches = s.launches := rfl
@[simp] theorem State.updThreads_ladders (p : Thread → Bool) (f : Thread → Thread) : (s.updThreads p f).ladders = s.ladders := rfl
@[simp] theorem State.updThreads_pools (p : Thread → Bool) (f : Thread → Thread) : (s.updThreads p f).pools = s.pools := rfl
@[simp] theorem State.updThreads_snaps (p : Thread → Bool) (f : Thread → Thread) : (s.updThreads p f).snaps = s.snaps := rfl
@[simp] theorem State.updThreads_cores (p : Thread → Bool) (f : Thread → Thread) : (s.updThreads p f).cores = s.cores := rfl
@[simp] theorem State.updThreads_decks (p : Thread → Bool) (f : Thread → Thread) : (s.updThreads p f).decks = s.decks := rfl
@[simp] theorem State.updThreads_tovr (p : Thread → Bool) (f : Thread → Thread) : (s.updThreads p f).tovr = s.tovr := rfl
@[simp] theorem State.updThreads_regulators (p : Thread → Bool) (f : Thread → Thread) : (s.updThreads p f).regulators = s.regulators := rfl
@[simp] theorem State.updThreads_parts (p : Thread → Bool) (f : Thread → Thread) : (s.updThreads p f).parts = s.parts := rfl
@[simp] theorem State.updThreads_tlb (p : Thread → Bool) (f : Thread → Thread) : (s.updThreads p f).tlb = s.tlb := rfl
@[simp] theorem State.updThreads_window (p : Thread → Bool) (f : Thread → Thread) : (s.updThreads p f).window = s.window := rfl
@[simp] theorem State.updThreads_status (p : Thread → Bool) (f : Thread → Thread) : (s.updThreads p f).status = s.status := rfl
@[simp] theorem State.updThreads_diag (p : Thread → Bool) (f : Thread → Thread) : (s.updThreads p f).diag = s.diag := rfl
@[simp] theorem State.updThreads_mem (p : Thread → Bool) (f : Thread → Thread) : (s.updThreads p f).mem = s.mem := rfl
@[simp] theorem State.updThreads_marks (p : Thread → Bool) (f : Thread → Thread) : (s.updThreads p f).marks = s.marks := rfl
@[simp] theorem State.updThreads_lines (p : Thread → Bool) (f : Thread → Thread) : (s.updThreads p f).lines = s.lines := rfl
@[simp] theorem State.updThreads_issue (p : Thread → Bool) (f : Thread → Thread) : (s.updThreads p f).issue = s.issue := rfl
@[simp] theorem State.updThreads_rivals (p : Thread → Bool) (f : Thread → Thread) : (s.updThreads p f).rivals = s.rivals := rfl
@[simp] theorem State.updThreads_bad (p : Thread → Bool) (f : Thread → Thread) : (s.updThreads p f).bad = s.bad := rfl
@[simp] theorem State.updThreads_agenda (p : Thread → Bool) (f : Thread → Thread) : (s.updThreads p f).agenda = s.agenda := rfl
@[simp] theorem State.updThreads_fresh (p : Thread → Bool) (f : Thread → Thread) : (s.updThreads p f).fresh = s.fresh := rfl
@[simp] theorem State.updThreads_nextId (p : Thread → Bool) (f : Thread → Thread) : (s.updThreads p f).nextId = s.nextId := rfl

@[simp] theorem State.updTroupe_threads (c i : Nat) (f : Troupe → Troupe) : (s.updTroupe c i f).threads = s.threads := rfl
@[simp] theorem State.updTroupe_companies (c i : Nat) (f : Troupe → Troupe) : (s.updTroupe c i f).companies = s.companies := rfl
@[simp] theorem State.updTroupe_barriers (c i : Nat) (f : Troupe → Troupe) : (s.updTroupe c i f).barriers = s.barriers := rfl
@[simp] theorem State.updTroupe_ops (c i : Nat) (f : Troupe → Troupe) : (s.updTroupe c i f).ops = s.ops := rfl
@[simp] theorem State.updTroupe_mbox (c i : Nat) (f : Troupe → Troupe) : (s.updTroupe c i f).mbox = s.mbox := rfl
@[simp] theorem State.updTroupe_cmds (c i : Nat) (f : Troupe → Troupe) : (s.updTroupe c i f).cmds = s.cmds := rfl
@[simp] theorem State.updTroupe_launches (c i : Nat) (f : Troupe → Troupe) : (s.updTroupe c i f).launches = s.launches := rfl
@[simp] theorem State.updTroupe_ladders (c i : Nat) (f : Troupe → Troupe) : (s.updTroupe c i f).ladders = s.ladders := rfl
@[simp] theorem State.updTroupe_pools (c i : Nat) (f : Troupe → Troupe) : (s.updTroupe c i f).pools = s.pools := rfl
@[simp] theorem State.updTroupe_snaps (c i : Nat) (f : Troupe → Troupe) : (s.updTroupe c i f).snaps = s.snaps := rfl
@[simp] theorem State.updTroupe_cores (c i : Nat) (f : Troupe → Troupe) : (s.updTroupe c i f).cores = s.cores := rfl
@[simp] theorem State.updTroupe_decks (c i : Nat) (f : Troupe → Troupe) : (s.updTroupe c i f).decks = s.decks := rfl
@[simp] theorem State.updTroupe_tovr (c i : Nat) (f : Troupe → Troupe) : (s.updTroupe c i f).tovr = s.tovr := rfl
@[simp] theorem State.updTroupe_regulators (c i : Nat) (f : Troupe → Troupe) : (s.updTroupe c i f).regulators = s.regulators := rfl
@[simp] theorem State.updTroupe_parts (c i : Nat) (f : Troupe → Troupe) : (s.updTroupe c i f).parts = s.parts := rfl
@[simp] theorem State.updTroupe_tlb (c i : Nat) (f : Troupe → Troupe) : (s.updTroupe c i f).tlb = s.tlb := rfl
@[simp] theorem State.updTroupe_window (c i : Nat) (f : Troupe → Troupe) : (s.updTroupe c i f).window = s.window := rfl
@[simp] theorem State.updTroupe_status (c i : Nat) (f : Troupe → Troupe) : (s.updTroupe c i f).status = s.status := rfl
@[simp] theorem State.updTroupe_diag (c i : Nat) (f : Troupe → Troupe) : (s.updTroupe c i f).diag = s.diag := rfl
@[simp] theorem State.updTroupe_mem (c i : Nat) (f : Troupe → Troupe) : (s.updTroupe c i f).mem = s.mem := rfl
@[simp] theorem State.updTroupe_marks (c i : Nat) (f : Troupe → Troupe) : (s.updTroupe c i f).marks = s.marks := rfl
@[simp] theorem State.updTroupe_lines (c i : Nat) (f : Troupe → Troupe) : (s.updTroupe c i f).lines = s.lines := rfl
@[simp] theorem State.updTroupe_issue (c i : Nat) (f : Troupe → Troupe) : (s.updTroupe c i f).issue = s.issue := rfl
@[simp] theorem State.updTroupe_rivals (c i : Nat) (f : Troupe → Troupe) : (s.updTroupe c i f).rivals = s.rivals := rfl
@[simp] theorem State.updTroupe_bad (c i : Nat) (f : Troupe → Troupe) : (s.updTroupe c i f).bad = s.bad := rfl
@[simp] theorem State.updTroupe_agenda (c i : Nat) (f : Troupe → Troupe) : (s.updTroupe c i f).agenda = s.agenda := rfl
@[simp] theorem State.updTroupe_fresh (c i : Nat) (f : Troupe → Troupe) : (s.updTroupe c i f).fresh = s.fresh := rfl
@[simp] theorem State.updTroupe_nextId (c i : Nat) (f : Troupe → Troupe) : (s.updTroupe c i f).nextId = s.nextId := rfl

@[simp] theorem State.updCompany_threads (c : Nat) (f : Company → Company) : (s.updCompany c f).threads = s.threads := rfl
@[simp] theorem State.updCompany_troupes (c : Nat) (f : Company → Company) : (s.updCompany c f).troupes = s.troupes := rfl
@[simp] theorem State.updCompany_barriers (c : Nat) (f : Company → Company) : (s.updCompany c f).barriers = s.barriers := rfl
@[simp] theorem State.updCompany_ops (c : Nat) (f : Company → Company) : (s.updCompany c f).ops = s.ops := rfl
@[simp] theorem State.updCompany_mbox (c : Nat) (f : Company → Company) : (s.updCompany c f).mbox = s.mbox := rfl
@[simp] theorem State.updCompany_cmds (c : Nat) (f : Company → Company) : (s.updCompany c f).cmds = s.cmds := rfl
@[simp] theorem State.updCompany_launches (c : Nat) (f : Company → Company) : (s.updCompany c f).launches = s.launches := rfl
@[simp] theorem State.updCompany_ladders (c : Nat) (f : Company → Company) : (s.updCompany c f).ladders = s.ladders := rfl
@[simp] theorem State.updCompany_pools (c : Nat) (f : Company → Company) : (s.updCompany c f).pools = s.pools := rfl
@[simp] theorem State.updCompany_snaps (c : Nat) (f : Company → Company) : (s.updCompany c f).snaps = s.snaps := rfl
@[simp] theorem State.updCompany_cores (c : Nat) (f : Company → Company) : (s.updCompany c f).cores = s.cores := rfl
@[simp] theorem State.updCompany_decks (c : Nat) (f : Company → Company) : (s.updCompany c f).decks = s.decks := rfl
@[simp] theorem State.updCompany_tovr (c : Nat) (f : Company → Company) : (s.updCompany c f).tovr = s.tovr := rfl
@[simp] theorem State.updCompany_regulators (c : Nat) (f : Company → Company) : (s.updCompany c f).regulators = s.regulators := rfl
@[simp] theorem State.updCompany_parts (c : Nat) (f : Company → Company) : (s.updCompany c f).parts = s.parts := rfl
@[simp] theorem State.updCompany_tlb (c : Nat) (f : Company → Company) : (s.updCompany c f).tlb = s.tlb := rfl
@[simp] theorem State.updCompany_window (c : Nat) (f : Company → Company) : (s.updCompany c f).window = s.window := rfl
@[simp] theorem State.updCompany_status (c : Nat) (f : Company → Company) : (s.updCompany c f).status = s.status := rfl
@[simp] theorem State.updCompany_diag (c : Nat) (f : Company → Company) : (s.updCompany c f).diag = s.diag := rfl
@[simp] theorem State.updCompany_mem (c : Nat) (f : Company → Company) : (s.updCompany c f).mem = s.mem := rfl
@[simp] theorem State.updCompany_marks (c : Nat) (f : Company → Company) : (s.updCompany c f).marks = s.marks := rfl
@[simp] theorem State.updCompany_lines (c : Nat) (f : Company → Company) : (s.updCompany c f).lines = s.lines := rfl
@[simp] theorem State.updCompany_issue (c : Nat) (f : Company → Company) : (s.updCompany c f).issue = s.issue := rfl
@[simp] theorem State.updCompany_rivals (c : Nat) (f : Company → Company) : (s.updCompany c f).rivals = s.rivals := rfl
@[simp] theorem State.updCompany_bad (c : Nat) (f : Company → Company) : (s.updCompany c f).bad = s.bad := rfl
@[simp] theorem State.updCompany_agenda (c : Nat) (f : Company → Company) : (s.updCompany c f).agenda = s.agenda := rfl
@[simp] theorem State.updCompany_fresh (c : Nat) (f : Company → Company) : (s.updCompany c f).fresh = s.fresh := rfl
@[simp] theorem State.updCompany_nextId (c : Nat) (f : Company → Company) : (s.updCompany c f).nextId = s.nextId := rfl

@[simp] theorem State.updCore_threads (c : Nat) (f : Core → Core) : (s.updCore c f).threads = s.threads := rfl
@[simp] theorem State.updCore_troupes (c : Nat) (f : Core → Core) : (s.updCore c f).troupes = s.troupes := rfl
@[simp] theorem State.updCore_companies (c : Nat) (f : Core → Core) : (s.updCore c f).companies = s.companies := rfl
@[simp] theorem State.updCore_barriers (c : Nat) (f : Core → Core) : (s.updCore c f).barriers = s.barriers := rfl
@[simp] theorem State.updCore_ops (c : Nat) (f : Core → Core) : (s.updCore c f).ops = s.ops := rfl
@[simp] theorem State.updCore_mbox (c : Nat) (f : Core → Core) : (s.updCore c f).mbox = s.mbox := rfl
@[simp] theorem State.updCore_cmds (c : Nat) (f : Core → Core) : (s.updCore c f).cmds = s.cmds := rfl
@[simp] theorem State.updCore_launches (c : Nat) (f : Core → Core) : (s.updCore c f).launches = s.launches := rfl
@[simp] theorem State.updCore_ladders (c : Nat) (f : Core → Core) : (s.updCore c f).ladders = s.ladders := rfl
@[simp] theorem State.updCore_pools (c : Nat) (f : Core → Core) : (s.updCore c f).pools = s.pools := rfl
@[simp] theorem State.updCore_snaps (c : Nat) (f : Core → Core) : (s.updCore c f).snaps = s.snaps := rfl
@[simp] theorem State.updCore_decks (c : Nat) (f : Core → Core) : (s.updCore c f).decks = s.decks := rfl
@[simp] theorem State.updCore_tovr (c : Nat) (f : Core → Core) : (s.updCore c f).tovr = s.tovr := rfl
@[simp] theorem State.updCore_regulators (c : Nat) (f : Core → Core) : (s.updCore c f).regulators = s.regulators := rfl
@[simp] theorem State.updCore_parts (c : Nat) (f : Core → Core) : (s.updCore c f).parts = s.parts := rfl
@[simp] theorem State.updCore_tlb (c : Nat) (f : Core → Core) : (s.updCore c f).tlb = s.tlb := rfl
@[simp] theorem State.updCore_window (c : Nat) (f : Core → Core) : (s.updCore c f).window = s.window := rfl
@[simp] theorem State.updCore_status (c : Nat) (f : Core → Core) : (s.updCore c f).status = s.status := rfl
@[simp] theorem State.updCore_diag (c : Nat) (f : Core → Core) : (s.updCore c f).diag = s.diag := rfl
@[simp] theorem State.updCore_mem (c : Nat) (f : Core → Core) : (s.updCore c f).mem = s.mem := rfl
@[simp] theorem State.updCore_marks (c : Nat) (f : Core → Core) : (s.updCore c f).marks = s.marks := rfl
@[simp] theorem State.updCore_lines (c : Nat) (f : Core → Core) : (s.updCore c f).lines = s.lines := rfl
@[simp] theorem State.updCore_issue (c : Nat) (f : Core → Core) : (s.updCore c f).issue = s.issue := rfl
@[simp] theorem State.updCore_rivals (c : Nat) (f : Core → Core) : (s.updCore c f).rivals = s.rivals := rfl
@[simp] theorem State.updCore_bad (c : Nat) (f : Core → Core) : (s.updCore c f).bad = s.bad := rfl
@[simp] theorem State.updCore_agenda (c : Nat) (f : Core → Core) : (s.updCore c f).agenda = s.agenda := rfl
@[simp] theorem State.updCore_fresh (c : Nat) (f : Core → Core) : (s.updCore c f).fresh = s.fresh := rfl
@[simp] theorem State.updCore_nextId (c : Nat) (f : Core → Core) : (s.updCore c f).nextId = s.nextId := rfl

@[simp] theorem State.updDeck_threads (d : Nat) (f : Deck → Deck) : (s.updDeck d f).threads = s.threads := rfl
@[simp] theorem State.updDeck_troupes (d : Nat) (f : Deck → Deck) : (s.updDeck d f).troupes = s.troupes := rfl
@[simp] theorem State.updDeck_companies (d : Nat) (f : Deck → Deck) : (s.updDeck d f).companies = s.companies := rfl
@[simp] theorem State.updDeck_barriers (d : Nat) (f : Deck → Deck) : (s.updDeck d f).barriers = s.barriers := rfl
@[simp] theorem State.updDeck_ops (d : Nat) (f : Deck → Deck) : (s.updDeck d f).ops = s.ops := rfl
@[simp] theorem State.updDeck_mbox (d : Nat) (f : Deck → Deck) : (s.updDeck d f).mbox = s.mbox := rfl
@[simp] theorem State.updDeck_cmds (d : Nat) (f : Deck → Deck) : (s.updDeck d f).cmds = s.cmds := rfl
@[simp] theorem State.updDeck_launches (d : Nat) (f : Deck → Deck) : (s.updDeck d f).launches = s.launches := rfl
@[simp] theorem State.updDeck_ladders (d : Nat) (f : Deck → Deck) : (s.updDeck d f).ladders = s.ladders := rfl
@[simp] theorem State.updDeck_pools (d : Nat) (f : Deck → Deck) : (s.updDeck d f).pools = s.pools := rfl
@[simp] theorem State.updDeck_snaps (d : Nat) (f : Deck → Deck) : (s.updDeck d f).snaps = s.snaps := rfl
@[simp] theorem State.updDeck_cores (d : Nat) (f : Deck → Deck) : (s.updDeck d f).cores = s.cores := rfl
@[simp] theorem State.updDeck_tovr (d : Nat) (f : Deck → Deck) : (s.updDeck d f).tovr = s.tovr := rfl
@[simp] theorem State.updDeck_regulators (d : Nat) (f : Deck → Deck) : (s.updDeck d f).regulators = s.regulators := rfl
@[simp] theorem State.updDeck_parts (d : Nat) (f : Deck → Deck) : (s.updDeck d f).parts = s.parts := rfl
@[simp] theorem State.updDeck_tlb (d : Nat) (f : Deck → Deck) : (s.updDeck d f).tlb = s.tlb := rfl
@[simp] theorem State.updDeck_window (d : Nat) (f : Deck → Deck) : (s.updDeck d f).window = s.window := rfl
@[simp] theorem State.updDeck_status (d : Nat) (f : Deck → Deck) : (s.updDeck d f).status = s.status := rfl
@[simp] theorem State.updDeck_diag (d : Nat) (f : Deck → Deck) : (s.updDeck d f).diag = s.diag := rfl
@[simp] theorem State.updDeck_mem (d : Nat) (f : Deck → Deck) : (s.updDeck d f).mem = s.mem := rfl
@[simp] theorem State.updDeck_marks (d : Nat) (f : Deck → Deck) : (s.updDeck d f).marks = s.marks := rfl
@[simp] theorem State.updDeck_lines (d : Nat) (f : Deck → Deck) : (s.updDeck d f).lines = s.lines := rfl
@[simp] theorem State.updDeck_issue (d : Nat) (f : Deck → Deck) : (s.updDeck d f).issue = s.issue := rfl
@[simp] theorem State.updDeck_rivals (d : Nat) (f : Deck → Deck) : (s.updDeck d f).rivals = s.rivals := rfl
@[simp] theorem State.updDeck_bad (d : Nat) (f : Deck → Deck) : (s.updDeck d f).bad = s.bad := rfl
@[simp] theorem State.updDeck_agenda (d : Nat) (f : Deck → Deck) : (s.updDeck d f).agenda = s.agenda := rfl
@[simp] theorem State.updDeck_fresh (d : Nat) (f : Deck → Deck) : (s.updDeck d f).fresh = s.fresh := rfl
@[simp] theorem State.updDeck_nextId (d : Nat) (f : Deck → Deck) : (s.updDeck d f).nextId = s.nextId := rfl

@[simp] theorem State.updPart_threads (p : Nat) (f : Part → Part) : (s.updPart p f).threads = s.threads := rfl
@[simp] theorem State.updPart_troupes (p : Nat) (f : Part → Part) : (s.updPart p f).troupes = s.troupes := rfl
@[simp] theorem State.updPart_companies (p : Nat) (f : Part → Part) : (s.updPart p f).companies = s.companies := rfl
@[simp] theorem State.updPart_barriers (p : Nat) (f : Part → Part) : (s.updPart p f).barriers = s.barriers := rfl
@[simp] theorem State.updPart_ops (p : Nat) (f : Part → Part) : (s.updPart p f).ops = s.ops := rfl
@[simp] theorem State.updPart_mbox (p : Nat) (f : Part → Part) : (s.updPart p f).mbox = s.mbox := rfl
@[simp] theorem State.updPart_cmds (p : Nat) (f : Part → Part) : (s.updPart p f).cmds = s.cmds := rfl
@[simp] theorem State.updPart_launches (p : Nat) (f : Part → Part) : (s.updPart p f).launches = s.launches := rfl
@[simp] theorem State.updPart_ladders (p : Nat) (f : Part → Part) : (s.updPart p f).ladders = s.ladders := rfl
@[simp] theorem State.updPart_pools (p : Nat) (f : Part → Part) : (s.updPart p f).pools = s.pools := rfl
@[simp] theorem State.updPart_snaps (p : Nat) (f : Part → Part) : (s.updPart p f).snaps = s.snaps := rfl
@[simp] theorem State.updPart_cores (p : Nat) (f : Part → Part) : (s.updPart p f).cores = s.cores := rfl
@[simp] theorem State.updPart_decks (p : Nat) (f : Part → Part) : (s.updPart p f).decks = s.decks := rfl
@[simp] theorem State.updPart_tovr (p : Nat) (f : Part → Part) : (s.updPart p f).tovr = s.tovr := rfl
@[simp] theorem State.updPart_regulators (p : Nat) (f : Part → Part) : (s.updPart p f).regulators = s.regulators := rfl
@[simp] theorem State.updPart_tlb (p : Nat) (f : Part → Part) : (s.updPart p f).tlb = s.tlb := rfl
@[simp] theorem State.updPart_window (p : Nat) (f : Part → Part) : (s.updPart p f).window = s.window := rfl
@[simp] theorem State.updPart_status (p : Nat) (f : Part → Part) : (s.updPart p f).status = s.status := rfl
@[simp] theorem State.updPart_diag (p : Nat) (f : Part → Part) : (s.updPart p f).diag = s.diag := rfl
@[simp] theorem State.updPart_mem (p : Nat) (f : Part → Part) : (s.updPart p f).mem = s.mem := rfl
@[simp] theorem State.updPart_marks (p : Nat) (f : Part → Part) : (s.updPart p f).marks = s.marks := rfl
@[simp] theorem State.updPart_lines (p : Nat) (f : Part → Part) : (s.updPart p f).lines = s.lines := rfl
@[simp] theorem State.updPart_issue (p : Nat) (f : Part → Part) : (s.updPart p f).issue = s.issue := rfl
@[simp] theorem State.updPart_rivals (p : Nat) (f : Part → Part) : (s.updPart p f).rivals = s.rivals := rfl
@[simp] theorem State.updPart_bad (p : Nat) (f : Part → Part) : (s.updPart p f).bad = s.bad := rfl
@[simp] theorem State.updPart_agenda (p : Nat) (f : Part → Part) : (s.updPart p f).agenda = s.agenda := rfl
@[simp] theorem State.updPart_fresh (p : Nat) (f : Part → Part) : (s.updPart p f).fresh = s.fresh := rfl
@[simp] theorem State.updPart_nextId (p : Nat) (f : Part → Part) : (s.updPart p f).nextId = s.nextId := rfl

@[simp] theorem State.updLaunch_threads (l : Nat) (f : Launch → Launch) : (s.updLaunch l f).threads = s.threads := rfl
@[simp] theorem State.updLaunch_troupes (l : Nat) (f : Launch → Launch) : (s.updLaunch l f).troupes = s.troupes := rfl
@[simp] theorem State.updLaunch_companies (l : Nat) (f : Launch → Launch) : (s.updLaunch l f).companies = s.companies := rfl
@[simp] theorem State.updLaunch_barriers (l : Nat) (f : Launch → Launch) : (s.updLaunch l f).barriers = s.barriers := rfl
@[simp] theorem State.updLaunch_ops (l : Nat) (f : Launch → Launch) : (s.updLaunch l f).ops = s.ops := rfl
@[simp] theorem State.updLaunch_mbox (l : Nat) (f : Launch → Launch) : (s.updLaunch l f).mbox = s.mbox := rfl
@[simp] theorem State.updLaunch_cmds (l : Nat) (f : Launch → Launch) : (s.updLaunch l f).cmds = s.cmds := rfl
@[simp] theorem State.updLaunch_ladders (l : Nat) (f : Launch → Launch) : (s.updLaunch l f).ladders = s.ladders := rfl
@[simp] theorem State.updLaunch_pools (l : Nat) (f : Launch → Launch) : (s.updLaunch l f).pools = s.pools := rfl
@[simp] theorem State.updLaunch_snaps (l : Nat) (f : Launch → Launch) : (s.updLaunch l f).snaps = s.snaps := rfl
@[simp] theorem State.updLaunch_cores (l : Nat) (f : Launch → Launch) : (s.updLaunch l f).cores = s.cores := rfl
@[simp] theorem State.updLaunch_decks (l : Nat) (f : Launch → Launch) : (s.updLaunch l f).decks = s.decks := rfl
@[simp] theorem State.updLaunch_tovr (l : Nat) (f : Launch → Launch) : (s.updLaunch l f).tovr = s.tovr := rfl
@[simp] theorem State.updLaunch_regulators (l : Nat) (f : Launch → Launch) : (s.updLaunch l f).regulators = s.regulators := rfl
@[simp] theorem State.updLaunch_parts (l : Nat) (f : Launch → Launch) : (s.updLaunch l f).parts = s.parts := rfl
@[simp] theorem State.updLaunch_tlb (l : Nat) (f : Launch → Launch) : (s.updLaunch l f).tlb = s.tlb := rfl
@[simp] theorem State.updLaunch_window (l : Nat) (f : Launch → Launch) : (s.updLaunch l f).window = s.window := rfl
@[simp] theorem State.updLaunch_status (l : Nat) (f : Launch → Launch) : (s.updLaunch l f).status = s.status := rfl
@[simp] theorem State.updLaunch_diag (l : Nat) (f : Launch → Launch) : (s.updLaunch l f).diag = s.diag := rfl
@[simp] theorem State.updLaunch_mem (l : Nat) (f : Launch → Launch) : (s.updLaunch l f).mem = s.mem := rfl
@[simp] theorem State.updLaunch_marks (l : Nat) (f : Launch → Launch) : (s.updLaunch l f).marks = s.marks := rfl
@[simp] theorem State.updLaunch_lines (l : Nat) (f : Launch → Launch) : (s.updLaunch l f).lines = s.lines := rfl
@[simp] theorem State.updLaunch_issue (l : Nat) (f : Launch → Launch) : (s.updLaunch l f).issue = s.issue := rfl
@[simp] theorem State.updLaunch_rivals (l : Nat) (f : Launch → Launch) : (s.updLaunch l f).rivals = s.rivals := rfl
@[simp] theorem State.updLaunch_bad (l : Nat) (f : Launch → Launch) : (s.updLaunch l f).bad = s.bad := rfl
@[simp] theorem State.updLaunch_agenda (l : Nat) (f : Launch → Launch) : (s.updLaunch l f).agenda = s.agenda := rfl
@[simp] theorem State.updLaunch_fresh (l : Nat) (f : Launch → Launch) : (s.updLaunch l f).fresh = s.fresh := rfl
@[simp] theorem State.updLaunch_nextId (l : Nat) (f : Launch → Launch) : (s.updLaunch l f).nextId = s.nextId := rfl

@[simp] theorem State.updLadder_threads (l : Nat) (f : Ladder → Ladder) : (s.updLadder l f).threads = s.threads := rfl
@[simp] theorem State.updLadder_troupes (l : Nat) (f : Ladder → Ladder) : (s.updLadder l f).troupes = s.troupes := rfl
@[simp] theorem State.updLadder_companies (l : Nat) (f : Ladder → Ladder) : (s.updLadder l f).companies = s.companies := rfl
@[simp] theorem State.updLadder_barriers (l : Nat) (f : Ladder → Ladder) : (s.updLadder l f).barriers = s.barriers := rfl
@[simp] theorem State.updLadder_ops (l : Nat) (f : Ladder → Ladder) : (s.updLadder l f).ops = s.ops := rfl
@[simp] theorem State.updLadder_mbox (l : Nat) (f : Ladder → Ladder) : (s.updLadder l f).mbox = s.mbox := rfl
@[simp] theorem State.updLadder_cmds (l : Nat) (f : Ladder → Ladder) : (s.updLadder l f).cmds = s.cmds := rfl
@[simp] theorem State.updLadder_launches (l : Nat) (f : Ladder → Ladder) : (s.updLadder l f).launches = s.launches := rfl
@[simp] theorem State.updLadder_pools (l : Nat) (f : Ladder → Ladder) : (s.updLadder l f).pools = s.pools := rfl
@[simp] theorem State.updLadder_snaps (l : Nat) (f : Ladder → Ladder) : (s.updLadder l f).snaps = s.snaps := rfl
@[simp] theorem State.updLadder_cores (l : Nat) (f : Ladder → Ladder) : (s.updLadder l f).cores = s.cores := rfl
@[simp] theorem State.updLadder_decks (l : Nat) (f : Ladder → Ladder) : (s.updLadder l f).decks = s.decks := rfl
@[simp] theorem State.updLadder_tovr (l : Nat) (f : Ladder → Ladder) : (s.updLadder l f).tovr = s.tovr := rfl
@[simp] theorem State.updLadder_regulators (l : Nat) (f : Ladder → Ladder) : (s.updLadder l f).regulators = s.regulators := rfl
@[simp] theorem State.updLadder_parts (l : Nat) (f : Ladder → Ladder) : (s.updLadder l f).parts = s.parts := rfl
@[simp] theorem State.updLadder_tlb (l : Nat) (f : Ladder → Ladder) : (s.updLadder l f).tlb = s.tlb := rfl
@[simp] theorem State.updLadder_window (l : Nat) (f : Ladder → Ladder) : (s.updLadder l f).window = s.window := rfl
@[simp] theorem State.updLadder_status (l : Nat) (f : Ladder → Ladder) : (s.updLadder l f).status = s.status := rfl
@[simp] theorem State.updLadder_diag (l : Nat) (f : Ladder → Ladder) : (s.updLadder l f).diag = s.diag := rfl
@[simp] theorem State.updLadder_mem (l : Nat) (f : Ladder → Ladder) : (s.updLadder l f).mem = s.mem := rfl
@[simp] theorem State.updLadder_marks (l : Nat) (f : Ladder → Ladder) : (s.updLadder l f).marks = s.marks := rfl
@[simp] theorem State.updLadder_lines (l : Nat) (f : Ladder → Ladder) : (s.updLadder l f).lines = s.lines := rfl
@[simp] theorem State.updLadder_issue (l : Nat) (f : Ladder → Ladder) : (s.updLadder l f).issue = s.issue := rfl
@[simp] theorem State.updLadder_rivals (l : Nat) (f : Ladder → Ladder) : (s.updLadder l f).rivals = s.rivals := rfl
@[simp] theorem State.updLadder_bad (l : Nat) (f : Ladder → Ladder) : (s.updLadder l f).bad = s.bad := rfl
@[simp] theorem State.updLadder_agenda (l : Nat) (f : Ladder → Ladder) : (s.updLadder l f).agenda = s.agenda := rfl
@[simp] theorem State.updLadder_fresh (l : Nat) (f : Ladder → Ladder) : (s.updLadder l f).fresh = s.fresh := rfl
@[simp] theorem State.updLadder_nextId (l : Nat) (f : Ladder → Ladder) : (s.updLadder l f).nextId = s.nextId := rfl

@[simp] theorem State.updCmd_threads (i : Nat) (f : Cmd → Cmd) : (s.updCmd i f).threads = s.threads := rfl
@[simp] theorem State.updCmd_troupes (i : Nat) (f : Cmd → Cmd) : (s.updCmd i f).troupes = s.troupes := rfl
@[simp] theorem State.updCmd_companies (i : Nat) (f : Cmd → Cmd) : (s.updCmd i f).companies = s.companies := rfl
@[simp] theorem State.updCmd_barriers (i : Nat) (f : Cmd → Cmd) : (s.updCmd i f).barriers = s.barriers := rfl
@[simp] theorem State.updCmd_ops (i : Nat) (f : Cmd → Cmd) : (s.updCmd i f).ops = s.ops := rfl
@[simp] theorem State.updCmd_mbox (i : Nat) (f : Cmd → Cmd) : (s.updCmd i f).mbox = s.mbox := rfl
@[simp] theorem State.updCmd_launches (i : Nat) (f : Cmd → Cmd) : (s.updCmd i f).launches = s.launches := rfl
@[simp] theorem State.updCmd_ladders (i : Nat) (f : Cmd → Cmd) : (s.updCmd i f).ladders = s.ladders := rfl
@[simp] theorem State.updCmd_pools (i : Nat) (f : Cmd → Cmd) : (s.updCmd i f).pools = s.pools := rfl
@[simp] theorem State.updCmd_snaps (i : Nat) (f : Cmd → Cmd) : (s.updCmd i f).snaps = s.snaps := rfl
@[simp] theorem State.updCmd_cores (i : Nat) (f : Cmd → Cmd) : (s.updCmd i f).cores = s.cores := rfl
@[simp] theorem State.updCmd_decks (i : Nat) (f : Cmd → Cmd) : (s.updCmd i f).decks = s.decks := rfl
@[simp] theorem State.updCmd_tovr (i : Nat) (f : Cmd → Cmd) : (s.updCmd i f).tovr = s.tovr := rfl
@[simp] theorem State.updCmd_regulators (i : Nat) (f : Cmd → Cmd) : (s.updCmd i f).regulators = s.regulators := rfl
@[simp] theorem State.updCmd_parts (i : Nat) (f : Cmd → Cmd) : (s.updCmd i f).parts = s.parts := rfl
@[simp] theorem State.updCmd_tlb (i : Nat) (f : Cmd → Cmd) : (s.updCmd i f).tlb = s.tlb := rfl
@[simp] theorem State.updCmd_window (i : Nat) (f : Cmd → Cmd) : (s.updCmd i f).window = s.window := rfl
@[simp] theorem State.updCmd_status (i : Nat) (f : Cmd → Cmd) : (s.updCmd i f).status = s.status := rfl
@[simp] theorem State.updCmd_diag (i : Nat) (f : Cmd → Cmd) : (s.updCmd i f).diag = s.diag := rfl
@[simp] theorem State.updCmd_mem (i : Nat) (f : Cmd → Cmd) : (s.updCmd i f).mem = s.mem := rfl
@[simp] theorem State.updCmd_marks (i : Nat) (f : Cmd → Cmd) : (s.updCmd i f).marks = s.marks := rfl
@[simp] theorem State.updCmd_lines (i : Nat) (f : Cmd → Cmd) : (s.updCmd i f).lines = s.lines := rfl
@[simp] theorem State.updCmd_issue (i : Nat) (f : Cmd → Cmd) : (s.updCmd i f).issue = s.issue := rfl
@[simp] theorem State.updCmd_rivals (i : Nat) (f : Cmd → Cmd) : (s.updCmd i f).rivals = s.rivals := rfl
@[simp] theorem State.updCmd_bad (i : Nat) (f : Cmd → Cmd) : (s.updCmd i f).bad = s.bad := rfl
@[simp] theorem State.updCmd_agenda (i : Nat) (f : Cmd → Cmd) : (s.updCmd i f).agenda = s.agenda := rfl
@[simp] theorem State.updCmd_fresh (i : Nat) (f : Cmd → Cmd) : (s.updCmd i f).fresh = s.fresh := rfl
@[simp] theorem State.updCmd_nextId (i : Nat) (f : Cmd → Cmd) : (s.updCmd i f).nextId = s.nextId := rfl

@[simp] theorem State.setBarrier_threads (b : Barrier) : (s.setBarrier b).threads = s.threads := rfl
@[simp] theorem State.setBarrier_troupes (b : Barrier) : (s.setBarrier b).troupes = s.troupes := rfl
@[simp] theorem State.setBarrier_companies (b : Barrier) : (s.setBarrier b).companies = s.companies := rfl
@[simp] theorem State.setBarrier_ops (b : Barrier) : (s.setBarrier b).ops = s.ops := rfl
@[simp] theorem State.setBarrier_mbox (b : Barrier) : (s.setBarrier b).mbox = s.mbox := rfl
@[simp] theorem State.setBarrier_cmds (b : Barrier) : (s.setBarrier b).cmds = s.cmds := rfl
@[simp] theorem State.setBarrier_launches (b : Barrier) : (s.setBarrier b).launches = s.launches := rfl
@[simp] theorem State.setBarrier_ladders (b : Barrier) : (s.setBarrier b).ladders = s.ladders := rfl
@[simp] theorem State.setBarrier_pools (b : Barrier) : (s.setBarrier b).pools = s.pools := rfl
@[simp] theorem State.setBarrier_snaps (b : Barrier) : (s.setBarrier b).snaps = s.snaps := rfl
@[simp] theorem State.setBarrier_cores (b : Barrier) : (s.setBarrier b).cores = s.cores := rfl
@[simp] theorem State.setBarrier_decks (b : Barrier) : (s.setBarrier b).decks = s.decks := rfl
@[simp] theorem State.setBarrier_tovr (b : Barrier) : (s.setBarrier b).tovr = s.tovr := rfl
@[simp] theorem State.setBarrier_regulators (b : Barrier) : (s.setBarrier b).regulators = s.regulators := rfl
@[simp] theorem State.setBarrier_parts (b : Barrier) : (s.setBarrier b).parts = s.parts := rfl
@[simp] theorem State.setBarrier_tlb (b : Barrier) : (s.setBarrier b).tlb = s.tlb := rfl
@[simp] theorem State.setBarrier_window (b : Barrier) : (s.setBarrier b).window = s.window := rfl
@[simp] theorem State.setBarrier_status (b : Barrier) : (s.setBarrier b).status = s.status := rfl
@[simp] theorem State.setBarrier_diag (b : Barrier) : (s.setBarrier b).diag = s.diag := rfl
@[simp] theorem State.setBarrier_mem (b : Barrier) : (s.setBarrier b).mem = s.mem := rfl
@[simp] theorem State.setBarrier_marks (b : Barrier) : (s.setBarrier b).marks = s.marks := rfl
@[simp] theorem State.setBarrier_lines (b : Barrier) : (s.setBarrier b).lines = s.lines := rfl
@[simp] theorem State.setBarrier_issue (b : Barrier) : (s.setBarrier b).issue = s.issue := rfl
@[simp] theorem State.setBarrier_rivals (b : Barrier) : (s.setBarrier b).rivals = s.rivals := rfl
@[simp] theorem State.setBarrier_bad (b : Barrier) : (s.setBarrier b).bad = s.bad := rfl
@[simp] theorem State.setBarrier_agenda (b : Barrier) : (s.setBarrier b).agenda = s.agenda := rfl
@[simp] theorem State.setBarrier_fresh (b : Barrier) : (s.setBarrier b).fresh = s.fresh := rfl
@[simp] theorem State.setBarrier_nextId (b : Barrier) : (s.setBarrier b).nextId = s.nextId := rfl

end Sys2Proof.Machine
end

