-- ==== Sys2Proof/Laws/Threads.lean ====
section
/-!
SUPPORT. Finding a thread after an update, what a write leaves in each register, and what issuing a group leaves.
-/
namespace Sys2Proof.Machine

/-- An update that keeps a thread's name. -/
def KeepsName (f : Thread → Thread) : Prop := ∀ t, (f t).cid = t.cid ∧ (f t).tid = t.tid

theorem find_map_name (f : Thread → Thread) (hf : KeepsName f) (c i : Nat) (p : Thread → Bool) (l : List Thread) :
    (l.map fun t => if p t then f t else t).find? (fun t => t.cid == c && t.tid == i) =
      (l.find? fun t => t.cid == c && t.tid == i).map fun t => if p t then f t else t := by
  induction l with
  | nil => rfl
  | cons a l ih =>
    have h1 : (if p a then f a else a).cid = a.cid := by split <;> simp [(hf a).1]
    have h2 : (if p a then f a else a).tid = a.tid := by split <;> simp [(hf a).2]
    simp only [List.map_cons, List.find?_cons, h1, h2]
    cases hx : (a.cid == c && a.tid == i) <;> simp [ih]

/-- The updated thread under its own name, any other thread unchanged. -/
theorem State.thread?_updThread (s : State) (c i c' i' : Nat) (f : Thread → Thread) (hf : KeepsName f) :
    (s.updThread c i f).thread? c' i' = (s.thread? c' i').map fun t => if c' = c ∧ i' = i then f t else t := by
  simp only [State.thread?, State.updThread, find_map_name f hf]
  cases h : s.threads.find? (fun t => t.cid == c' && t.tid == i') with
  | none => rfl
  | some t => have := List.find?_some h; simp_all

theorem State.thread?_name {s : State} {c i : Nat} {t : Thread} (h : s.thread? c i = some t) : t.cid = c ∧ t.tid = i := by
  have := List.find?_some h; simp_all

/-! ### Registers -/

theorem Thread.setReg_name (t : Thread) (r : RegId) (x : DWord) : (t.setReg r x).cid = t.cid ∧ (t.setReg r x).tid = t.tid := by
  cases r <;> simp [Thread.setReg]; split <;> simp
theorem Thread.settle_name (t : Thread) : t.settle.cid = t.cid ∧ t.settle.tid = t.tid := by
  have key : ∀ (l : List FarWrite) (u : Thread), let w := l.foldl (fun u x =>
      if x.acquired && x.own && Config.freeBit x.key t.tid x.r.toNat then u.setReg (.v x.r) (x.other.setWidth 64) else u) u
      w.cid = u.cid ∧ w.tid = u.tid := by
    intro l
    induction l with
    | nil => exact fun u => ⟨rfl, rfl⟩
    | cons x l ih =>
      intro u
      simp only [List.foldl_cons]
      obtain ⟨h1, h2⟩ := ih (if x.acquired && x.own && Config.freeBit x.key t.tid x.r.toNat then u.setReg (.v x.r) (x.other.setWidth 64) else u)
      rw [h1, h2]
      split
      · exact u.setReg_name _ _
      · exact ⟨rfl, rfl⟩
  exact key t.far t
theorem Thread.view_name (t : Thread) (n : Nat) : (t.view n).cid = t.cid ∧ (t.view n).tid = t.tid := by
  have h1 : ∀ l, (t.viewFrom n l).cid = t.cid ∧ (t.viewFrom n l).tid = t.tid := by
    intro l
    induction l with
    | nil => exact ⟨rfl, rfl⟩
    | cons w l ih =>
      simp only [Thread.viewFrom]
      split
      · split <;> simp [Thread.setReg_name, ih]
      · exact ih
  have h2 : ∀ (u : Thread) l, (Thread.farFrom n u l).cid = u.cid ∧ (Thread.farFrom n u l).tid = u.tid := by
    intro u l
    induction l with
    | nil => exact ⟨rfl, rfl⟩
    | cons w l ih => simp only [Thread.farFrom]; split <;> simp [Thread.setReg_name, ih]
  exact ⟨(h2 _ _).1.trans (h1 _).1, (h2 _ _).2.trans (h1 _).2⟩
theorem Thread.farOwn_name (t : Thread) (r : RegId) : (t.farOwn r).cid = t.cid ∧ (t.farOwn r).tid = t.tid := by
  cases r <;> exact ⟨rfl, rfl⟩
theorem Thread.write_name (t : Thread) (r : RegId) (x : DWord) : (t.write r x).cid = t.cid ∧ (t.write r x).tid = t.tid :=
  ⟨((t.farOwn r).setReg_name r x).1.trans (t.farOwn_name r).1, ((t.farOwn r).setReg_name r x).2.trans (t.farOwn_name r).2⟩
theorem Thread.writes_name (ws : List (RegId × DWord)) (t : Thread) : (t.writes ws).cid = t.cid ∧ (t.writes ws).tid = t.tid := by
  induction ws generalizing t with
  | nil => exact ⟨rfl, rfl⟩
  | cons w ws ih => have := ih (t.write w.1 w.2); have := t.write_name w.1 w.2; simp_all [Thread.writes]
theorem Thread.raiseFlags_name (t : Thread) (fl : Flags) : (t.raiseFlags fl).cid = t.cid ∧ (t.raiseFlags fl).tid = t.tid := by
  unfold Thread.raiseFlags; split
  · exact ⟨rfl, rfl⟩
  · exact t.write_name _ _

theorem Thread.setReg_bare (t : Thread) (r : RegId) (x : DWord) : (t.setReg r x).bare = t.bare := by
  cases r <;> simp [Thread.setReg, Thread.bare]; split <;> simp
theorem Thread.write_bare (t : Thread) (r : RegId) (x : DWord) : (t.write r x).bare = t.bare := by
  have h1 := (t.farOwn r).setReg_bare r x
  have h2 : (t.farOwn r).bare = t.bare := by cases r <;> rfl
  exact h1.trans h2
theorem Thread.writes_bare (ws : List (RegId × DWord)) (t : Thread) : (t.writes ws).bare = t.bare := by
  induction ws generalizing t with
  | nil => rfl
  | cons w ws ih => simp [Thread.writes, ih, Thread.write_bare]
theorem Thread.raiseFlags_bare (t : Thread) (fl : Flags) : (t.raiseFlags fl).bare = t.bare := by
  unfold Thread.raiseFlags; split
  · rfl
  · exact t.write_bare _ _

/-- What each register holds after one write. -/
theorem Thread.reg_setReg (t : Thread) (q r : RegId) (x : DWord) :
    (t.setReg q x).reg r = if q = r then r.holds (t.reg r) x else t.reg r := by
  by_cases h : q = r
  · subst h
    cases q with
    | v n => simp [Thread.setReg, Thread.reg, Thread.getV, RegId.holds]
    | k n => simp [Thread.reg, RegId.holds]
    | f => simp [Thread.setReg, Thread.reg, RegId.holds]
    | q n =>
      by_cases hn : n < 4 <;> simp [Thread.setReg, Thread.reg, Thread.getQ, RegId.holds, hn, Vector.getD]
    | p n =>
      by_cases hn : n < 7
      · have h7 : n ≠ 7 := by omega
        simp only [Thread.setReg, hn, ite_true, Thread.reg, Thread.getP, h7, ite_false, RegId.holds]
        have e : (x &&& 1) = if x.getLsbD 0 then 1 else 0 := by
          ext i hi
          rcases Nat.eq_zero_or_pos i with h0 | h0
          · subst h0; cases hx : x.getLsbD 0 <;> simp_all
          · cases hx : x.getLsbD 0 <;> simp [Nat.ne_of_gt h0]
        rw [e]
        have : ((t.p &&& ~~~(1#8 <<< n)) ||| ((x.setWidth 8 &&& 1#8) <<< n)).getLsbD n = x.getLsbD 0 := by
          simp [BitVec.getLsbD_shiftLeft]; omega
        rw [this]
      · simp [Thread.setReg, RegId.holds, hn]
  · simp only [h, ite_false]
    cases q with
    | k n => simp [Thread.setReg]
    | f => cases r <;> simp_all [Thread.setReg, Thread.reg, Thread.getV, Thread.getQ, Thread.getP]
    | q n =>
      cases r with
      | q m =>
        have hm : n ≠ m := by intro e; exact h (by rw [e])
        simp only [Thread.setReg, Thread.reg, Thread.getQ, Vector.getD]
        by_cases hl : m < 4
        · simp [hl, hm]
        · simp [hl]
      | _ => simp [Thread.setReg, Thread.reg, Thread.getV, Thread.getP]
    | v n =>
      cases r with
      | v m =>
        have hm : n.toNat ≠ m.toNat := by intro e; exact h (by rw [BitVec.eq_of_toNat_eq e])
        simp [Thread.setReg, Thread.reg, Thread.getV, hm]
      | _ => simp [Thread.setReg, Thread.reg, Thread.getQ, Thread.getP]
    | p n =>
      by_cases hn : n < 7
      · simp only [Thread.setReg, hn, ite_true]
        cases r with
        | p m =>
          have hm : n ≠ m := by intro e; exact h (by rw [e])
          simp only [Thread.reg, Thread.getP]
          by_cases h7 : m = 7
          · simp [h7]
          · have : ((t.p &&& ~~~(1#8 <<< n)) ||| ((x.setWidth 8 &&& 1#8) <<< n)).getLsbD m = t.p.getLsbD m := by
              rcases Nat.lt_or_gt_of_ne hm with hlt | hgt
              · have h1 : m - n ≠ 0 := by omega
                by_cases h8 : m < 8
                · simp [h8, Nat.not_lt.mpr (Nat.le_of_lt hlt), h1]
                · rw [BitVec.getLsbD_of_ge _ _ (by omega), BitVec.getLsbD_of_ge _ _ (by omega)]
              · have : m < 8 := by omega
                simp [hgt, this]
            simp [h7, this]
        | _ => simp [Thread.reg, Thread.getV, Thread.getQ]
      · simp [Thread.setReg, hn]

theorem Thread.reg_write (t : Thread) (q r : RegId) (x : DWord) :
    (t.write q x).reg r = if q = r then r.holds (t.reg r) x else t.reg r := by
  have h : (t.farOwn q).reg r = t.reg r := by cases q <;> cases r <;> rfl
  rw [← h, ← (t.farOwn q).reg_setReg q r x]; cases r <;> rfl

/-- What each register holds after writes in order. -/
theorem Thread.reg_writes (ws : List (RegId × DWord)) (t : Thread) (r : RegId) : (t.writes ws).reg r = r.after (t.reg r) ws := by
  induction ws generalizing t with
  | nil => rfl
  | cons w ws ih => simp [Thread.writes, RegId.after, ih, Thread.reg_write]

/-- What each register holds once flags have been raised. -/
theorem Thread.reg_raiseFlags (t : Thread) (fl : Flags) (r : RegId) : (t.raiseFlags fl).reg r = t.raised fl r := by
  unfold Thread.raiseFlags Thread.raised
  by_cases h : fl &&& 31#6 = 0#6
  · simp [h]
  · by_cases hr : r = .f
    · subst hr; simp [h, Thread.reg_write, RegId.holds]
    · simp [h, hr, Thread.reg_write, Ne.symm hr]

end Sys2Proof.Machine
end

