-- ==== Sys2Proof/Laws/Issue.lean ====
section
/-!
SUPPORT. What issuing a group comes to (`State.Issues`), and everything a lane instruction does (`laneOp_done`).
-/
namespace Sys2Proof.Machine

/-- Moving past an instruction meets no error of itself. -/
@[simp] theorem State.moved_bad (s : State) (f : Form) (g : Issue) : (s.moved f g).bad = s.bad := by
  have key : ∀ (l : List Thread) (s : State),
      (l.foldl (fun s t => s.updThread t.cid t.tid (Thread.issued f)) s).bad = s.bad := by
    intro l
    induction l with
    | nil => exact fun s => rfl
    | cons t l ih => exact fun s => ih _
  exact key _ _

/-- A group that issues: the body acts on the participating threads in the moved state. -/
theorem State.runIssue_eq {s s1 : State} {f : Form} {ps : List Thread} (h : s.Issues f ps s1)
    (body : State → List Thread → State) (stall : State → List Thread → Option Wait)
    (hs : stall { s with issue := none } ps = none) : s.runIssue f body stall = body s1 ps := by
  obtain ⟨⟨g, hg, -, hm, hq, rfl, rfl⟩, ha, hb, hok⟩ := h
  have e1 : (f.mark && (({ s with issue := none } : State).members g).any fun t =>
      ({ s with issue := none } : State).resultsOut t.cid t.tid) = false := by
    cases hf : f.mark with
    | false => rfl
    | true => simp only [Bool.true_and, List.any_eq_false]; intro t ht; rw [Bool.not_eq_true]; exact hm hf t ht
  have e2 : (f.quiet && (({ s with issue := none } : State).members g).any fun t =>
      ({ s with issue := none } : State).releaseOut t.cid t.tid) = false := by
    cases hf : f.quiet with
    | false => rfl
    | true => simp only [Bool.true_and, List.any_eq_false]; intro t ht; rw [Bool.not_eq_true]; exact hq hf t ht
  have hs' : stall { s with issue := none } (((({ s with issue := none } : State).members g).filter Thread.passes).map
      (Thread.reads f ({ s with issue := none } : State).fresh)) = none := hs
  have hr : (s.moved f g).rivalsOf f g.word (((s.members g).filter Thread.passes).map (Thread.reads f s.fresh)) = [] := by
    have h1 : ((s.moved f g).bad == 2) = false := by rw [State.moved_bad]; simpa using hok
    have h2 : (f.uni && (s.moved f g).uniDiffers f (((s.members g).filter Thread.passes).map (Thread.reads f s.fresh))) = false := by
      cases hf : f.uni with
      | false => rfl
      | true => simpa using ha hf
    simp only [State.rivalsOf, h1, h2, Bool.false_eq_true, if_false, List.nil_append]
    cases hf : f.forbid with
    | false => rfl
    | true =>
      rw [if_pos rfl, List.map_eq_nil_iff, List.filter_eq_nil_iff]
      intro t ht; simp [hb hf t ht]
  simp only [State.runIssue, hg, e1, e2, hs', Bool.false_eq_true, if_false]
  change (match (s.moved f g).rivalsOf f g.word (((s.members g).filter Thread.passes).map (Thread.reads f s.fresh)) with
    | [] => _ | vs => _) = _
  rw [hr]; rfl

/-- The participating threads of a group bear different names. -/
theorem State.Issues.distinct {s s1 : State} {f : Form} {ps : List Thread} (h : s.Issues f ps s1) :
    ps.Pairwise fun t u => ¬(t.cid = u.cid ∧ t.tid = u.tid) := by
  obtain ⟨⟨g, -, hn, -, -, rfl, -⟩, -, -, -⟩ := h
  have hread : ∀ t, (Thread.reads f s.fresh t).cid = t.cid ∧ (Thread.reads f s.fresh t).tid = t.tid := by
    intro t; unfold Thread.reads; split
    · exact ⟨(t.marked.view_name _).1.trans t.land.settle_name.1, (t.marked.view_name _).2.trans t.land.settle_name.2⟩
    · exact t.view_name _
  rw [List.pairwise_map]
  apply List.Pairwise.filter
  apply List.Pairwise.filter
  generalize g.tids = l at hn
  induction l with
  | nil => simp
  | cons i l ih =>
    rw [List.nodup_cons] at hn
    cases hi : s.thread? g.cid i with
    | none => simpa [List.filterMap_cons, hi] using ih hn.2
    | some t =>
      rw [List.filterMap_cons, hi]
      refine List.Pairwise.cons ?_ (ih hn.2)
      intro u hu hc
      obtain ⟨j, hj, hu⟩ := List.mem_filterMap.mp hu
      have h1 := State.thread?_name hi
      have h2 := State.thread?_name hu
      rw [(hread t).2, (hread u).2, h1.2, h2.2] at hc
      exact hn.1 (hc.2 ▸ hj)

/-! ### Lane instructions -/

/-- States that agree but for registers agree on every byte off the on-chip windows. -/
theorem State.getLoc_of_bare {s s' : State} (h : s'.bare = s.bare) (l : Loc) (hl : l.offChip = true) :
    s'.getLoc l = s.getLoc l := by
  have hm : s'.mem = s.mem := by have := congrArg State.mem h; simpa only [State.bare] using this
  have hc : s'.companies = s.companies := by have := congrArg State.companies h; simpa only [State.bare] using this
  have hp : s'.parts = s.parts := by have := congrArg State.parts h; simpa only [State.bare] using this
  cases l with
  | phys a => simp [Loc.offChip] at hl; simp [State.getLoc, State.memByte, hl, hm]
  | foreign a | view a k c => simp [Loc.offChip] at hl
  | scratch c b => simp [State.getLoc, State.company?, hc]
  | sync p o => simp [State.getLoc, State.part, hp]

theorem MemOp.overtake_plain (c i : Nat) (rs : List RegId) (o : MemOp) : (o.overtake c i rs).plain = o.plain := by
  unfold MemOp.overtake
  split
  · simp only [MemOp.plain, List.map_map]
    congr 1
    apply List.map_congr_left
    intro l _
    simp only [Function.comp, OpLane.overtake]
    split <;> rfl
  · rfl

/-- What one thread's delivery does where no enabled flag is raised. -/
theorem State.deliver_done (s : State) (t : Thread) (w : Word) (o : LaneOut) (h : fpTrap w o.fl = none) :
    LaneDone s (s.deliver t w o) [t] fun _ => o := by
  have e : s.deliver t w o = (s.updThread t.cid t.tid fun u => u.raiseFlags o.fl).writeRegs t.cid t.tid o.writes := by
    simp [State.deliver, h]
  have hth : ∀ c i, (s.deliver t w o).thread? c i = (s.thread? c i).map fun u =>
      if c = t.cid ∧ i = t.tid then (u.raiseFlags o.fl).writes o.writes else u := by
    intro c i
    rw [e]
    change ((s.updThread t.cid t.tid fun u => u.raiseFlags o.fl).updThread t.cid t.tid fun u => u.writes o.writes).thread? c i = _
    rw [State.thread?_updThread _ _ _ _ _ _ fun u => u.writes_name o.writes,
      State.thread?_updThread _ _ _ _ _ _ fun u => u.raiseFlags_name o.fl, Option.map_map]
    congr 1; funext u; simp only [Function.comp]; split <;> rfl
  have hb : (s.deliver t w o).bare = s.bare := by
    rw [e]
    simp only [State.writeRegs, State.bare, State.updThread, List.map_map]
    congr 1
    · apply List.map_congr_left; intro u _
      simp only [Function.comp]
      by_cases hu : (u.cid == t.cid && u.tid == t.tid) = true
      · have hr : ((u.raiseFlags o.fl).cid == t.cid && (u.raiseFlags o.fl).tid == t.tid) = true := by
          rw [(u.raiseFlags_name o.fl).1, (u.raiseFlags_name o.fl).2]; exact hu
        simp only [hu, if_true, hr, Thread.writes_bare, Thread.raiseFlags_bare]
      · simp only [hu, Bool.false_eq_true, if_false]
    · apply List.map_congr_left; intro u _; exact MemOp.overtake_plain _ _ _ _
    · apply List.map_congr_left; intro m _
      simp only [Function.comp, MbOp.overtake]; split <;> rfl
  refine ⟨?_, ?_, hb, fun l hl => State.getLoc_of_bare hb l hl⟩
  · intro t' ht u hu
    rw [List.mem_singleton] at ht; subst ht
    refine ⟨(u.raiseFlags o.fl).writes o.writes, by rw [hth, hu]; simp, by rw [Thread.writes_bare, Thread.raiseFlags_bare], ?_⟩
    intro r; rw [Thread.reg_writes, Thread.reg_raiseFlags]
  · intro c i hn
    rw [hth]
    have : ¬(c = t.cid ∧ i = t.tid) := fun hc => hn t (by simp) ⟨hc.1.symm, hc.2.symm⟩
    simp [this]

theorem LaneDone.refl (s : State) (out : Thread → LaneOut) : LaneDone s s [] out :=
  ⟨by simp, fun _ _ _ => rfl, rfl, fun _ _ => rfl⟩

/-- Deliveries to different threads, one after the other. -/
theorem LaneDone.cons {s s1 s2 : State} {t : Thread} {ts : List Thread} {out : Thread → LaneOut}
    (h1 : LaneDone s s1 [t] out) (h2 : LaneDone s1 s2 ts out) (hd : ∀ u ∈ ts, ¬(t.cid = u.cid ∧ t.tid = u.tid)) :
    LaneDone s s2 (t :: ts) out := by
  refine ⟨?_, ?_, h2.rest.trans h1.rest, fun l hl => (h2.memory l hl).trans (h1.memory l hl)⟩
  · intro a ha u hu
    rcases List.mem_cons.mp ha with rfl | hx
    · obtain ⟨u', hu', hr⟩ := h1.result a (by simp) u hu
      exact ⟨u', by rw [h2.others a.cid a.tid fun b hb hc => hd b hb ⟨hc.1.symm, hc.2.symm⟩]; exact hu', hr⟩
    · refine h2.result a hx u ?_
      rw [h1.others a.cid a.tid]
      · exact hu
      · intro b hb hc; rw [List.mem_singleton] at hb; subst hb; exact hd a hx hc
  · intro c i hn
    rw [h2.others c i fun b hb => hn b (by simp [hb]), h1.others c i fun b hb => hn b (by simp_all)]

/-- Deliveries to a list of different threads. -/
theorem State.deliver_all_done (ts : List Thread) (w : Thread → Word) (out : Thread → LaneOut)
    (hd : ts.Pairwise fun t u => ¬(t.cid = u.cid ∧ t.tid = u.tid)) (ht : ∀ t ∈ ts, fpTrap (w t) (out t).fl = none) (s : State) :
    LaneDone s (ts.foldl (fun s t => s.deliver t (w t) (out t)) s) ts out := by
  induction ts generalizing s with
  | nil => exact LaneDone.refl s out
  | cons t ts ih =>
    rw [List.pairwise_cons] at hd
    refine LaneDone.cons ?_ (ih hd.2 (fun u hu => ht u (by simp [hu])) _) hd.1
    have := s.deliver_done t (w t) (out t) (ht t (by simp))
    exact ⟨fun a ha => by rw [List.mem_singleton] at ha; subst ha; exact this.result a (by simp), this.others, this.rest, this.memory⟩

/-- Everything a lane instruction does once its group issues and no enabled flag is raised. -/
theorem State.laneOp_done {s s1 : State} {f : Form} {ps : List Thread} (h : s.Issues f ps s1) (e : Thread → LaneOut)
    (ht : ∀ t ∈ ps, fpTrap (sourceOf f.uni ps t).fpcsr (e (sourceOf f.uni ps t)).fl = none) :
    LaneDone s1 (s.laneOp f e) ps fun t => e (sourceOf f.uni ps t) := by
  have hr : s.laneOp f e = s1.deliverAll f.uni ps e := State.runIssue_eq h _ _ rfl
  rw [hr]
  have key := State.deliver_all_done ps (fun t => (sourceOf f.uni ps t).fpcsr) (fun t => e (sourceOf f.uni ps t)) h.distinct ht s1
  cases hu : f.uni with
  | false =>
    simp only [hu, sourceOf, Bool.false_eq_true, if_false] at key ⊢
    exact key
  | true =>
    simp only [hu, sourceOf, if_true] at key ⊢
    cases hl : lowest ps with
    | none =>
      have : ps = [] := by
        cases ps with
        | nil => rfl
        | cons t r => simp only [lowest] at hl; split at hl <;> (try split at hl) <;> simp at hl
      subst this
      simpa [State.deliverAll, State.each, hl] using key
    | some l => simpa [State.deliverAll, State.each, hl] using key

/-- A meaning that is a lane instruction gives its results; form and function may be spelt in another way. -/
theorem Gives.of_laneOp {i : Instr} {f f' : Form} {e e' : Thread → LaneOut} (hx : ∀ s, exec i s = .next (s.laneOp f' e'))
    (hf : f' = f) (he : ∀ t, e' t = e t) : Gives i f e := by
  obtain rfl : e' = e := funext he
  subst hf
  intro s ps s1 h ht
  exact ⟨_, hx s, State.laneOp_done h e' ht⟩

end Sys2Proof.Machine
end

