-- ==== Sys2Proof/Laws/PerInstr.lean ====
section
/-!
SUPPORT. A family of lemmas with one for each instruction: what has no encoding is never well formed, so that no word
stands for a step the machine takes on its own (R53 to R63).
-/
namespace Sys2Proof.Laws.Unencoded

/-- An instruction without an encoding is not well formed. -/
def Statement (i : Instr) : Prop := encode i = none → i.wf = false

theorem iadd : ∀ x0 x1 x2 x3, Statement (.iadd x0 x1 x2 x3) := fun _ _ _ _ h => (Option.some_ne_none _ h).elim
theorem isub : ∀ x0 x1 x2 x3, Statement (.isub x0 x1 x2 x3) := fun _ _ _ _ h => (Option.some_ne_none _ h).elim
theorem iaddc : ∀ x0 x1 x2 x3, Statement (.iaddc x0 x1 x2 x3) := fun _ _ _ _ h => (Option.some_ne_none _ h).elim
theorem isubb : ∀ x0 x1 x2 x3, Statement (.isubb x0 x1 x2 x3) := fun _ _ _ _ h => (Option.some_ne_none _ h).elim
theorem ineg : ∀ x0 x1 x2, Statement (.ineg x0 x1 x2) := fun _ _ _ h => (Option.some_ne_none _ h).elim
theorem iabs : ∀ x0 x1 x2, Statement (.iabs x0 x1 x2) := fun _ _ _ h => (Option.some_ne_none _ h).elim
theorem imin : ∀ x0 x1 x2 x3, Statement (.imin x0 x1 x2 x3) := fun _ _ _ _ h => (Option.some_ne_none _ h).elim
theorem imax : ∀ x0 x1 x2 x3, Statement (.imax x0 x1 x2 x3) := fun _ _ _ _ h => (Option.some_ne_none _ h).elim
theorem umin : ∀ x0 x1 x2 x3, Statement (.umin x0 x1 x2 x3) := fun _ _ _ _ h => (Option.some_ne_none _ h).elim
theorem umax : ∀ x0 x1 x2 x3, Statement (.umax x0 x1 x2 x3) := fun _ _ _ _ h => (Option.some_ne_none _ h).elim
theorem and : ∀ x0 x1 x2 x3, Statement (.and x0 x1 x2 x3) := fun _ _ _ _ h => (Option.some_ne_none _ h).elim
theorem or : ∀ x0 x1 x2 x3, Statement (.or x0 x1 x2 x3) := fun _ _ _ _ h => (Option.some_ne_none _ h).elim
theorem xor : ∀ x0 x1 x2 x3, Statement (.xor x0 x1 x2 x3) := fun _ _ _ _ h => (Option.some_ne_none _ h).elim
theorem andn : ∀ x0 x1 x2 x3, Statement (.andn x0 x1 x2 x3) := fun _ _ _ _ h => (Option.some_ne_none _ h).elim
theorem orn : ∀ x0 x1 x2 x3, Statement (.orn x0 x1 x2 x3) := fun _ _ _ _ h => (Option.some_ne_none _ h).elim
theorem not : ∀ x0 x1 x2, Statement (.not x0 x1 x2) := fun _ _ _ h => (Option.some_ne_none _ h).elim
theorem shl : ∀ x0 x1 x2 x3, Statement (.shl x0 x1 x2 x3) := fun _ _ _ _ h => (Option.some_ne_none _ h).elim
theorem shr : ∀ x0 x1 x2 x3, Statement (.shr x0 x1 x2 x3) := fun _ _ _ _ h => (Option.some_ne_none _ h).elim
theorem sar : ∀ x0 x1 x2 x3, Statement (.sar x0 x1 x2 x3) := fun _ _ _ _ h => (Option.some_ne_none _ h).elim
theorem rol : ∀ x0 x1 x2 x3, Statement (.rol x0 x1 x2 x3) := fun _ _ _ _ h => (Option.some_ne_none _ h).elim
theorem ror : ∀ x0 x1 x2 x3, Statement (.ror x0 x1 x2 x3) := fun _ _ _ _ h => (Option.some_ne_none _ h).elim
theorem lea : ∀ x0 x1 x2 x3 x4, Statement (.lea x0 x1 x2 x3 x4) := fun _ _ _ _ _ h => (Option.some_ne_none _ h).elim
theorem mov : ∀ x0 x1 x2, Statement (.mov x0 x1 x2) := fun _ _ _ h => (Option.some_ne_none _ h).elim
theorem iaddImm : ∀ x0 x1 x2 x3, Statement (.iaddImm x0 x1 x2 x3) := fun _ _ _ _ h => (Option.some_ne_none _ h).elim
theorem andImm : ∀ x0 x1 x2 x3, Statement (.andImm x0 x1 x2 x3) := fun _ _ _ _ h => (Option.some_ne_none _ h).elim
theorem orImm : ∀ x0 x1 x2 x3, Statement (.orImm x0 x1 x2 x3) := fun _ _ _ _ h => (Option.some_ne_none _ h).elim
theorem xorImm : ∀ x0 x1 x2 x3, Statement (.xorImm x0 x1 x2 x3) := fun _ _ _ _ h => (Option.some_ne_none _ h).elim
theorem shlImm : ∀ x0 x1 x2 x3, Statement (.shlImm x0 x1 x2 x3) := fun _ _ _ _ h => (Option.some_ne_none _ h).elim
theorem shrImm : ∀ x0 x1 x2 x3, Statement (.shrImm x0 x1 x2 x3) := fun _ _ _ _ h => (Option.some_ne_none _ h).elim
theorem sarImm : ∀ x0 x1 x2 x3, Statement (.sarImm x0 x1 x2 x3) := fun _ _ _ _ h => (Option.some_ne_none _ h).elim
theorem rolImm : ∀ x0 x1 x2 x3, Statement (.rolImm x0 x1 x2 x3) := fun _ _ _ _ h => (Option.some_ne_none _ h).elim
theorem imul : ∀ x0 x1 x2 x3, Statement (.imul x0 x1 x2 x3) := fun _ _ _ _ h => (Option.some_ne_none _ h).elim
theorem imulh : ∀ x0 x1 x2 x3, Statement (.imulh x0 x1 x2 x3) := fun _ _ _ _ h => (Option.some_ne_none _ h).elim
theorem umulh : ∀ x0 x1 x2 x3, Statement (.umulh x0 x1 x2 x3) := fun _ _ _ _ h => (Option.some_ne_none _ h).elim
theorem imad : ∀ x0 x1 x2 x3, Statement (.imad x0 x1 x2 x3) := fun _ _ _ _ h => (Option.some_ne_none _ h).elim
theorem popc : ∀ x0 x1 x2, Statement (.popc x0 x1 x2) := fun _ _ _ h => (Option.some_ne_none _ h).elim
theorem clz : ∀ x0 x1 x2, Statement (.clz x0 x1 x2) := fun _ _ _ h => (Option.some_ne_none _ h).elim
theorem ctz : ∀ x0 x1 x2, Statement (.ctz x0 x1 x2) := fun _ _ _ h => (Option.some_ne_none _ h).elim
theorem brev : ∀ x0 x1 x2, Statement (.brev x0 x1 x2) := fun _ _ _ h => (Option.some_ne_none _ h).elim
theorem bfe : ∀ x0 x1 x2 x3, Statement (.bfe x0 x1 x2 x3) := fun _ _ _ _ h => (Option.some_ne_none _ h).elim
theorem ubfe : ∀ x0 x1 x2 x3, Statement (.ubfe x0 x1 x2 x3) := fun _ _ _ _ h => (Option.some_ne_none _ h).elim
theorem bfi : ∀ x0 x1 x2 x3, Statement (.bfi x0 x1 x2 x3) := fun _ _ _ _ h => (Option.some_ne_none _ h).elim
theorem bmix : ∀ x0 x1 x2 x3, Statement (.bmix x0 x1 x2 x3) := fun _ _ _ _ h => (Option.some_ne_none _ h).elim
theorem icmp : ∀ x0 x1 x2 x3 x4, Statement (.icmp x0 x1 x2 x3 x4) := fun _ _ _ _ _ h => (Option.some_ne_none _ h).elim
theorem isel : ∀ x0 x1 x2 x3 x4, Statement (.isel x0 x1 x2 x3 x4) := fun _ _ _ _ _ h => (Option.some_ne_none _ h).elim
theorem movi : ∀ x0 x1 x2, Statement (.movi x0 x1 x2) := fun _ _ _ h => (Option.some_ne_none _ h).elim
theorem lui : ∀ x0 x1 x2, Statement (.lui x0 x1 x2) := fun _ _ _ h => (Option.some_ne_none _ h).elim
theorem fadd : ∀ x0 x1 x2 x3 x4, Statement (.fadd x0 x1 x2 x3 x4) := fun _ _ _ _ _ h => (Option.some_ne_none _ h).elim
theorem fsub : ∀ x0 x1 x2 x3 x4, Statement (.fsub x0 x1 x2 x3 x4) := fun _ _ _ _ _ h => (Option.some_ne_none _ h).elim
theorem fmul : ∀ x0 x1 x2 x3 x4, Statement (.fmul x0 x1 x2 x3 x4) := fun _ _ _ _ _ h => (Option.some_ne_none _ h).elim
theorem fdiv : ∀ x0 x1 x2 x3 x4, Statement (.fdiv x0 x1 x2 x3 x4) := fun _ _ _ _ _ h => (Option.some_ne_none _ h).elim
theorem fmin : ∀ x0 x1 x2 x3, Statement (.fmin x0 x1 x2 x3) := fun _ _ _ _ h => (Option.some_ne_none _ h).elim
theorem fmax : ∀ x0 x1 x2 x3, Statement (.fmax x0 x1 x2 x3) := fun _ _ _ _ h => (Option.some_ne_none _ h).elim
theorem fabs : ∀ x0 x1 x2, Statement (.fabs x0 x1 x2) := fun _ _ _ h => (Option.some_ne_none _ h).elim
theorem fneg : ∀ x0 x1 x2, Statement (.fneg x0 x1 x2) := fun _ _ _ h => (Option.some_ne_none _ h).elim
theorem fcmp : ∀ x0 x1 x2 x3 x4, Statement (.fcmp x0 x1 x2 x3 x4) := fun _ _ _ _ _ h => (Option.some_ne_none _ h).elim
theorem fclass : ∀ x0 x1 x2, Statement (.fclass x0 x1 x2) := fun _ _ _ h => (Option.some_ne_none _ h).elim
theorem ffma : ∀ x0 x1 x2 x3 x4, Statement (.ffma x0 x1 x2 x3 x4) := fun _ _ _ _ _ h => (Option.some_ne_none _ h).elim
theorem fsqrt : ∀ x0 x1 x2 x3, Statement (.fsqrt x0 x1 x2 x3) := fun _ _ _ _ h => (Option.some_ne_none _ h).elim
theorem dfma : ∀ x0 x1 x2 x3 x4, Statement (.dfma x0 x1 x2 x3 x4) := fun _ _ _ _ _ h => (Option.some_ne_none _ h).elim
theorem dsqrt : ∀ x0 x1 x2 x3, Statement (.dsqrt x0 x1 x2 x3) := fun _ _ _ _ h => (Option.some_ne_none _ h).elim
theorem fscale : ∀ x0 x1 x2 x3, Statement (.fscale x0 x1 x2 x3) := fun _ _ _ _ h => (Option.some_ne_none _ h).elim
theorem frcp : ∀ x0 x1 x2, Statement (.frcp x0 x1 x2) := fun _ _ _ h => (Option.some_ne_none _ h).elim
theorem frsq : ∀ x0 x1 x2, Statement (.frsq x0 x1 x2) := fun _ _ _ h => (Option.some_ne_none _ h).elim
theorem fex2 : ∀ x0 x1 x2, Statement (.fex2 x0 x1 x2) := fun _ _ _ h => (Option.some_ne_none _ h).elim
theorem flg2 : ∀ x0 x1 x2, Statement (.flg2 x0 x1 x2) := fun _ _ _ h => (Option.some_ne_none _ h).elim
theorem fsin : ∀ x0 x1 x2, Statement (.fsin x0 x1 x2) := fun _ _ _ h => (Option.some_ne_none _ h).elim
theorem fcos : ∀ x0 x1 x2, Statement (.fcos x0 x1 x2) := fun _ _ _ h => (Option.some_ne_none _ h).elim
theorem ftanh : ∀ x0 x1 x2, Statement (.ftanh x0 x1 x2) := fun _ _ _ h => (Option.some_ne_none _ h).elim
theorem dadd : ∀ x0 x1 x2 x3 x4, Statement (.dadd x0 x1 x2 x3 x4) := fun _ _ _ _ _ h => (Option.some_ne_none _ h).elim
theorem dsub : ∀ x0 x1 x2 x3 x4, Statement (.dsub x0 x1 x2 x3 x4) := fun _ _ _ _ _ h => (Option.some_ne_none _ h).elim
theorem dmul : ∀ x0 x1 x2 x3 x4, Statement (.dmul x0 x1 x2 x3 x4) := fun _ _ _ _ _ h => (Option.some_ne_none _ h).elim
theorem ddiv : ∀ x0 x1 x2 x3 x4, Statement (.ddiv x0 x1 x2 x3 x4) := fun _ _ _ _ _ h => (Option.some_ne_none _ h).elim
theorem dmin : ∀ x0 x1 x2 x3, Statement (.dmin x0 x1 x2 x3) := fun _ _ _ _ h => (Option.some_ne_none _ h).elim
theorem dmax : ∀ x0 x1 x2 x3, Statement (.dmax x0 x1 x2 x3) := fun _ _ _ _ h => (Option.some_ne_none _ h).elim
theorem dabs : ∀ x0 x1 x2, Statement (.dabs x0 x1 x2) := fun _ _ _ h => (Option.some_ne_none _ h).elim
theorem dneg : ∀ x0 x1 x2, Statement (.dneg x0 x1 x2) := fun _ _ _ h => (Option.some_ne_none _ h).elim
theorem dcmp : ∀ x0 x1 x2 x3 x4, Statement (.dcmp x0 x1 x2 x3 x4) := fun _ _ _ _ _ h => (Option.some_ne_none _ h).elim
theorem hadd2 : ∀ x0 x1 x2 x3 x4, Statement (.hadd2 x0 x1 x2 x3 x4) := fun _ _ _ _ _ h => (Option.some_ne_none _ h).elim
theorem hsub2 : ∀ x0 x1 x2 x3 x4, Statement (.hsub2 x0 x1 x2 x3 x4) := fun _ _ _ _ _ h => (Option.some_ne_none _ h).elim
theorem hmul2 : ∀ x0 x1 x2 x3 x4, Statement (.hmul2 x0 x1 x2 x3 x4) := fun _ _ _ _ _ h => (Option.some_ne_none _ h).elim
theorem hfma2 : ∀ x0 x1 x2 x3 x4, Statement (.hfma2 x0 x1 x2 x3 x4) := fun _ _ _ _ _ h => (Option.some_ne_none _ h).elim
theorem hmin2 : ∀ x0 x1 x2 x3 x4, Statement (.hmin2 x0 x1 x2 x3 x4) := fun _ _ _ _ _ h => (Option.some_ne_none _ h).elim
theorem hmax2 : ∀ x0 x1 x2 x3 x4, Statement (.hmax2 x0 x1 x2 x3 x4) := fun _ _ _ _ _ h => (Option.some_ne_none _ h).elim
theorem hcmp2Eq : ∀ x0 x1 x2 x3 x4, Statement (.hcmp2Eq x0 x1 x2 x3 x4) := fun _ _ _ _ _ h => (Option.some_ne_none _ h).elim
theorem hcmp2Lt : ∀ x0 x1 x2 x3 x4, Statement (.hcmp2Lt x0 x1 x2 x3 x4) := fun _ _ _ _ _ h => (Option.some_ne_none _ h).elim
theorem hcmp2Le : ∀ x0 x1 x2 x3 x4, Statement (.hcmp2Le x0 x1 x2 x3 x4) := fun _ _ _ _ _ h => (Option.some_ne_none _ h).elim
theorem hcmp2Un : ∀ x0 x1 x2 x3 x4, Statement (.hcmp2Un x0 x1 x2 x3 x4) := fun _ _ _ _ _ h => (Option.some_ne_none _ h).elim
theorem cvt : ∀ x0 x1 x2 x3 x4 x5, Statement (.cvt x0 x1 x2 x3 x4 x5) := fun _ _ _ _ _ _ h => (Option.some_ne_none _ h).elim
theorem scx : ∀ x0 x1 x2 x3, Statement (.scx x0 x1 x2 x3) := fun _ _ _ _ h => (Option.some_ne_none _ h).elim
theorem q8 : ∀ x0 x1 x2 x3 x4, Statement (.q8 x0 x1 x2 x3 x4) := fun _ _ _ _ _ h => (Option.some_ne_none _ h).elim
theorem q4 : ∀ x0 x1 x2 x3 x4, Statement (.q4 x0 x1 x2 x3 x4) := fun _ _ _ _ _ h => (Option.some_ne_none _ h).elim
theorem dq8 : ∀ x0 x1 x2 x3 x4, Statement (.dq8 x0 x1 x2 x3 x4) := fun _ _ _ _ _ h => (Option.some_ne_none _ h).elim
theorem dq4 : ∀ x0 x1 x2 x3 x4, Statement (.dq4 x0 x1 x2 x3 x4) := fun _ _ _ _ _ h => (Option.some_ne_none _ h).elim
theorem q8Cs : ∀ x0 x1 x2 x3 x4, Statement (.q8Cs x0 x1 x2 x3 x4) := fun _ _ _ _ _ h => (Option.some_ne_none _ h).elim
theorem q4Cs : ∀ x0 x1 x2 x3 x4, Statement (.q4Cs x0 x1 x2 x3 x4) := fun _ _ _ _ _ h => (Option.some_ne_none _ h).elim
theorem dp4 : ∀ x0 x1 x2 x3, Statement (.dp4 x0 x1 x2 x3) := fun _ _ _ _ h => (Option.some_ne_none _ h).elim
theorem dp8 : ∀ x0 x1 x2 x3, Statement (.dp8 x0 x1 x2 x3) := fun _ _ _ _ h => (Option.some_ne_none _ h).elim
theorem fdp4E4m3 : ∀ x0 x1 x2 x3 x4, Statement (.fdp4E4m3 x0 x1 x2 x3 x4) := fun _ _ _ _ _ h => (Option.some_ne_none _ h).elim
theorem fdp4E5m2 : ∀ x0 x1 x2 x3 x4, Statement (.fdp4E5m2 x0 x1 x2 x3 x4) := fun _ _ _ _ _ h => (Option.some_ne_none _ h).elim
theorem fdp8 : ∀ x0 x1 x2 x3 x4, Statement (.fdp8 x0 x1 x2 x3 x4) := fun _ _ _ _ _ h => (Option.some_ne_none _ h).elim
theorem hdp2F16 : ∀ x0 x1 x2 x3, Statement (.hdp2F16 x0 x1 x2 x3) := fun _ _ _ _ h => (Option.some_ne_none _ h).elim
theorem hdp2Bf16 : ∀ x0 x1 x2 x3, Statement (.hdp2Bf16 x0 x1 x2 x3) := fun _ _ _ _ h => (Option.some_ne_none _ h).elim
theorem gen : ∀ x0 x1 x2 x3, Statement (.gen x0 x1 x2 x3) := fun _ _ _ _ h => (Option.some_ne_none _ h).elim
theorem gumbel : ∀ x0 x1 x2, Statement (.gumbel x0 x1 x2) := fun _ _ _ h => (Option.some_ne_none _ h).elim
theorem rndf : ∀ x0 x1 x2, Statement (.rndf x0 x1 x2) := fun _ _ _ h => (Option.some_ne_none _ h).elim
theorem bfx : ∀ x0 x1 x2 x3, Statement (.bfx x0 x1 x2 x3) := fun _ _ _ _ h => (Option.some_ne_none _ h).elim
theorem lget : ∀ x0 x1 x2 x3 x4, Statement (.lget x0 x1 x2 x3 x4) := fun _ _ _ _ _ h => (Option.some_ne_none _ h).elim
theorem pollCnt : ∀ x0 x1 x2, Statement (.pollCnt x0 x1 x2) := fun _ _ _ h => (Option.some_ne_none _ h).elim
theorem pollRank : ∀ x0 x1 x2, Statement (.pollRank x0 x1 x2) := fun _ _ _ h => (Option.some_ne_none _ h).elim
theorem pollMask : ∀ x0 x1 x2, Statement (.pollMask x0 x1 x2) := fun _ _ _ h => (Option.some_ne_none _ h).elim
theorem pollSame : ∀ x0 x1 x2, Statement (.pollSame x0 x1 x2) := fun _ _ _ h => (Option.some_ne_none _ h).elim
theorem redx : ∀ x0 x1 x2 x3, Statement (.redx x0 x1 x2 x3) := fun _ _ _ _ h => (Option.some_ne_none _ h).elim
theorem scanx : ∀ x0 x1 x2 x3, Statement (.scanx x0 x1 x2 x3) := fun _ _ _ _ h => (Option.some_ne_none _ h).elim
theorem plop : ∀ x0 x1 x2 x3 x4, Statement (.plop x0 x1 x2 x3 x4) := fun _ _ _ _ _ h => (Option.some_ne_none _ h).elim
theorem pmovToReg : ∀ x0 x1, Statement (.pmovToReg x0 x1) := fun _ _ h => (Option.some_ne_none _ h).elim
theorem pmovToPred : ∀ x0 x1, Statement (.pmovToPred x0 x1) := fun _ _ h => (Option.some_ne_none _ h).elim
theorem grd : ∀ x0 x1 x2, Statement (.grd x0 x1 x2) := fun _ _ _ h => (Option.some_ne_none _ h).elim
theorem gets : ∀ x0 x1 x2, Statement (.gets x0 x1 x2) := fun _ _ _ h => (Option.some_ne_none _ h).elim
theorem sets : ∀ x0 x1 x2, Statement (.sets x0 x1 x2) := fun _ _ _ h => (Option.some_ne_none _ h).elim
theorem nop : ∀ x0, Statement (.nop x0) := fun _ h => (Option.some_ne_none _ h).elim
theorem ld : ∀ x0 x1 x2 x3 x4 x5, Statement (.ld x0 x1 x2 x3 x4 x5) := fun _ _ _ _ _ _ h => (Option.some_ne_none _ h).elim
theorem ldt : ∀ x0 x1 x2, Statement (.ldt x0 x1 x2) := fun _ _ _ h => (Option.some_ne_none _ h).elim
theorem st : ∀ x0 x1 x2 x3 x4 x5, Statement (.st x0 x1 x2 x3 x4 x5) := fun _ _ _ _ _ _ h => (Option.some_ne_none _ h).elim
theorem ldp : ∀ x0 x1 x2 x3 x4 x5, Statement (.ldp x0 x1 x2 x3 x4 x5) := fun _ _ _ _ _ _ h => (Option.some_ne_none _ h).elim
theorem stp : ∀ x0 x1 x2 x3 x4 x5, Statement (.stp x0 x1 x2 x3 x4 x5) := fun _ _ _ _ _ _ h => (Option.some_ne_none _ h).elim
theorem ldacq : ∀ x0 x1 x2 x3 x4, Statement (.ldacq x0 x1 x2 x3 x4) := fun _ _ _ _ _ h => (Option.some_ne_none _ h).elim
theorem strel : ∀ x0 x1 x2 x3 x4, Statement (.strel x0 x1 x2 x3 x4) := fun _ _ _ _ _ h => (Option.some_ne_none _ h).elim
theorem cctlWb : ∀ x0 x1, Statement (.cctlWb x0 x1) := fun _ _ h => (Option.some_ne_none _ h).elim
theorem cctlWbinv : ∀ x0 x1, Statement (.cctlWbinv x0 x1) := fun _ _ h => (Option.some_ne_none _ h).elim
theorem cctlPf1 : ∀ x0 x1, Statement (.cctlPf1 x0 x1) := fun _ _ h => (Option.some_ne_none _ h).elim
theorem cctlPf2 : ∀ x0 x1, Statement (.cctlPf2 x0 x1) := fun _ _ h => (Option.some_ne_none _ h).elim
theorem cctlZero : ∀ x0 x1, Statement (.cctlZero x0 x1) := fun _ _ h => (Option.some_ne_none _ h).elim
theorem cctlIinv : ∀ x0 x1 x2, Statement (.cctlIinv x0 x1 x2) := fun _ _ _ h => (Option.some_ne_none _ h).elim
theorem fence : ∀ x0 x1 x2 x3 x4, Statement (.fence x0 x1 x2 x3 x4) := fun _ _ _ _ _ h => (Option.some_ne_none _ h).elim
theorem aliasf : ∀ x0 x1, Statement (.aliasf x0 x1) := fun _ _ h => (Option.some_ne_none _ h).elim
theorem evs : ∀ x0 x1, Statement (.evs x0 x1) := fun _ _ h => (Option.some_ne_none _ h).elim
theorem atom : ∀ x0 x1 x2 x3 x4, Statement (.atom x0 x1 x2 x3 x4) := fun _ _ _ _ _ h => (Option.some_ne_none _ h).elim
theorem red : ∀ x0 x1 x2 x3 x4, Statement (.red x0 x1 x2 x3 x4) := fun _ _ _ _ _ h => (Option.some_ne_none _ h).elim
theorem sadd : ∀ x0 x1 x2 x3, Statement (.sadd x0 x1 x2 x3) := fun _ _ _ _ h => (Option.some_ne_none _ h).elim
theorem sbadd : ∀ x0 x1 x2 x3, Statement (.sbadd x0 x1 x2 x3) := fun _ _ _ _ h => (Option.some_ne_none _ h).elim
theorem sincw : ∀ x0 x1 x2 x3, Statement (.sincw x0 x1 x2 x3) := fun _ _ _ _ h => (Option.some_ne_none _ h).elim
theorem scas : ∀ x0 x1 x2 x3, Statement (.scas x0 x1 x2 x3) := fun _ _ _ _ h => (Option.some_ne_none _ h).elim
theorem sexch : ∀ x0 x1 x2 x3, Statement (.sexch x0 x1 x2 x3) := fun _ _ _ _ h => (Option.some_ne_none _ h).elim
theorem smin : ∀ x0 x1 x2 x3, Statement (.smin x0 x1 x2 x3) := fun _ _ _ _ h => (Option.some_ne_none _ h).elim
theorem smax : ∀ x0 x1 x2 x3, Statement (.smax x0 x1 x2 x3) := fun _ _ _ _ h => (Option.some_ne_none _ h).elim
theorem waita : ∀ x0 x1 x2 x3, Statement (.waita x0 x1 x2 x3) := fun _ _ _ _ h => (Option.some_ne_none _ h).elim
theorem mon : ∀ x0 x1, Statement (.mon x0 x1) := fun _ _ h => (Option.some_ne_none _ h).elim
theorem mwait : ∀ x0 x1 x2, Statement (.mwait x0 x1 x2) := fun _ _ _ h => (Option.some_ne_none _ h).elim
theorem mbput : ∀ x0 x1 x2, Statement (.mbput x0 x1 x2) := fun _ _ _ h => (Option.some_ne_none _ h).elim
theorem mbget : ∀ x0 x1 x2, Statement (.mbget x0 x1 x2) := fun _ _ _ h => (Option.some_ne_none _ h).elim
theorem pladd : ∀ x0 x1 x2 x3 x4, Statement (.pladd x0 x1 x2 x3 x4) := fun _ _ _ _ _ h => (Option.some_ne_none _ h).elim
theorem mma : ∀ x0 x1 x2 x3 x4 x5, Statement (.mma x0 x1 x2 x3 x4 x5) := fun _ _ _ _ _ _ h => (Option.some_ne_none _ h).elim
theorem mmae : ∀ x0 x1 x2 x3 x4 x5, Statement (.mmae x0 x1 x2 x3 x4 x5) := fun _ _ _ _ _ _ h => (Option.some_ne_none _ h).elim
theorem mloop : ∀ x0 x1 x2, Statement (.mloop x0 x1 x2) := fun _ _ _ h => (Option.some_ne_none _ h).elim
theorem mzero : ∀ x0 x1, Statement (.mzero x0 x1) := fun _ _ h => (Option.some_ne_none _ h).elim
theorem mload : ∀ x0 x1 x2 x3, Statement (.mload x0 x1 x2 x3) := fun _ _ _ _ h => (Option.some_ne_none _ h).elim
theorem mdrain : ∀ x0 x1 x2 x3, Statement (.mdrain x0 x1 x2 x3) := fun _ _ _ _ h => (Option.some_ne_none _ h).elim
theorem mstat : ∀ x0 x1 x2, Statement (.mstat x0 x1 x2) := fun _ _ _ h => (Option.some_ne_none _ h).elim
theorem dexp : ∀ x0 x1 x2, Statement (.dexp x0 x1 x2) := fun _ _ _ h => (Option.some_ne_none _ h).elim
theorem dsplit : ∀ x0 x1 x2 x3, Statement (.dsplit x0 x1 x2 x3) := fun _ _ _ _ h => (Option.some_ne_none _ h).elim
theorem dmerge : ∀ x0 x1 x2 x3, Statement (.dmerge x0 x1 x2 x3) := fun _ _ _ _ h => (Option.some_ne_none _ h).elim
theorem tcopy : ∀ x0 x1 x2 x3, Statement (.tcopy x0 x1 x2 x3) := fun _ _ _ _ h => (Option.some_ne_none _ h).elim
theorem tcopy2 : ∀ x0 x1 x2 x3, Statement (.tcopy2 x0 x1 x2 x3) := fun _ _ _ _ h => (Option.some_ne_none _ h).elim
theorem tgath : ∀ x0 x1 x2 x3, Statement (.tgath x0 x1 x2 x3) := fun _ _ _ _ h => (Option.some_ne_none _ h).elim
theorem tscat : ∀ x0 x1 x2 x3, Statement (.tscat x0 x1 x2 x3) := fun _ _ _ _ h => (Option.some_ne_none _ h).elim
theorem tfill : ∀ x0 x1 x2 x3, Statement (.tfill x0 x1 x2 x3) := fun _ _ _ _ h => (Option.some_ne_none _ h).elim
theorem tnote : ∀ x0 x1 x2 x3, Statement (.tnote x0 x1 x2 x3) := fun _ _ _ _ h => (Option.some_ne_none _ h).elim
theorem twait : ∀ x0 x1 x2, Statement (.twait x0 x1 x2) := fun _ _ _ h => (Option.some_ne_none _ h).elim
theorem tcoll : ∀ x0 x1 x2 x3, Statement (.tcoll x0 x1 x2 x3) := fun _ _ _ _ h => (Option.some_ne_none _ h).elim
theorem rflush : ∀ x0 x1 x2 x3, Statement (.rflush x0 x1 x2 x3) := fun _ _ _ _ h => (Option.some_ne_none _ h).elim
theorem bra : ∀ x0 x1 x2, Statement (.bra x0 x1 x2) := fun _ _ _ h => (Option.some_ne_none _ h).elim
theorem call : ∀ x0 x1 x2, Statement (.call x0 x1 x2) := fun _ _ _ h => (Option.some_ne_none _ h).elim
theorem btab : ∀ x0 x1, Statement (.btab x0 x1) := fun _ _ h => (Option.some_ne_none _ h).elim
theorem ret : ∀ x0 x1, Statement (.ret x0 x1) := fun _ _ h => (Option.some_ne_none _ h).elim
theorem exit : ∀ x0, Statement (.exit x0) := fun _ h => (Option.some_ne_none _ h).elim
theorem join : ∀ x0 x1 x2, Statement (.join x0 x1 x2) := fun _ _ _ h => (Option.some_ne_none _ h).elim
theorem leave : ∀ x0 x1, Statement (.leave x0 x1) := fun _ _ h => (Option.some_ne_none _ h).elim
theorem waitk : ∀ x0 x1, Statement (.waitk x0 x1) := fun _ _ h => (Option.some_ne_none _ h).elim
theorem ksave : ∀ x0 x1 x2 x3, Statement (.ksave x0 x1 x2 x3) := fun _ _ _ _ h => (Option.some_ne_none _ h).elim
theorem kload : ∀ x0 x1 x2 x3, Statement (.kload x0 x1 x2 x3) := fun _ _ _ _ h => (Option.some_ne_none _ h).elim
theorem barArrive : ∀ x0 x1 x2 x3 x4, Statement (.barArrive x0 x1 x2 x3 x4) := fun _ _ _ _ _ h => (Option.some_ne_none _ h).elim
theorem barWait : ∀ x0 x1 x2 x3 x4, Statement (.barWait x0 x1 x2 x3 x4) := fun _ _ _ _ _ h => (Option.some_ne_none _ h).elim
theorem barSync : ∀ x0 x1 x2 x3 x4, Statement (.barSync x0 x1 x2 x3 x4) := fun _ _ _ _ _ h => (Option.some_ne_none _ h).elim
theorem sysr : ∀ x0 x1 x2, Statement (.sysr x0 x1 x2) := fun _ _ _ h => (Option.some_ne_none _ h).elim
theorem sysw : ∀ x0 x1 x2, Statement (.sysw x0 x1 x2) := fun _ _ _ h => (Option.some_ne_none _ h).elim
theorem trap : ∀ x0 x1, Statement (.trap x0 x1) := fun _ _ h => (Option.some_ne_none _ h).elim
theorem brk : ∀ x0 x1, Statement (.brk x0 x1) := fun _ _ h => (Option.some_ne_none _ h).elim
theorem rte : ∀ x0, Statement (.rte x0) := fun _ h => (Option.some_ne_none _ h).elim
theorem yield : ∀ x0, Statement (.yield x0) := fun _ h => (Option.some_ne_none _ h).elim
theorem prog : ∀ x0 x1, Statement (.prog x0 x1) := fun _ _ h => (Option.some_ne_none _ h).elim
theorem launch : ∀ x0 x1 x2, Statement (.launch x0 x1 x2) := fun _ _ _ h => (Option.some_ne_none _ h).elim
theorem tlbinv : ∀ x0 x1 x2, Statement (.tlbinv x0 x1 x2) := fun _ _ _ h => (Option.some_ne_none _ h).elim
theorem rxbegin : ∀ x0 x1 x2, Statement (.rxbegin x0 x1 x2) := fun _ _ _ h => (Option.some_ne_none _ h).elim
theorem rxprev : ∀ x0 x1, Statement (.rxprev x0 x1) := fun _ _ h => (Option.some_ne_none _ h).elim
theorem rxput : ∀ x0 x1 x2, Statement (.rxput x0 x1 x2) := fun _ _ _ h => (Option.some_ne_none _ h).elim
theorem rxend : ∀ x0, Statement (.rxend x0) := fun _ h => (Option.some_ne_none _ h).elim
theorem rxstat : ∀ x0 x1, Statement (.rxstat x0 x1) := fun _ _ h => (Option.some_ne_none _ h).elim
theorem lpost : ∀ x0 x1 x2, Statement (.lpost x0 x1 x2) := fun _ _ _ h => (Option.some_ne_none _ h).elim
theorem esc : ∀ x0 x1, Statement (.esc x0 x1) := fun _ _ h => (Option.some_ne_none _ h).elim
theorem lres : ∀ x0 x1, Statement (.lres x0 x1) := fun _ _ h => (Option.some_ne_none _ h).elim
theorem lstat : ∀ x0 x1 x2, Statement (.lstat x0 x1 x2) := fun _ _ _ h => (Option.some_ne_none _ h).elim
theorem gmload : ∀ x0 x1 x2, Statement (.gmload x0 x1 x2) := fun _ _ _ h => (Option.some_ne_none _ h).elim
theorem gmstep : ∀ x0 x1 x2, Statement (.gmstep x0 x1 x2) := fun _ _ _ h => (Option.some_ne_none _ h).elim
theorem gmmask : ∀ x0 x1 x2 x3, Statement (.gmmask x0 x1 x2 x3) := fun _ _ _ _ h => (Option.some_ne_none _ h).elim
theorem gmforce : ∀ x0 x1 x2, Statement (.gmforce x0 x1 x2) := fun _ _ _ h => (Option.some_ne_none _ h).elim
theorem snap : ∀ x0 x1 x2, Statement (.snap x0 x1 x2) := fun _ _ _ h => (Option.some_ne_none _ h).elim
theorem snapsel : ∀ x0 x1 x2, Statement (.snapsel x0 x1 x2) := fun _ _ _ h => (Option.some_ne_none _ h).elim
theorem snapfree : ∀ x0 x1 x2, Statement (.snapfree x0 x1 x2) := fun _ _ _ h => (Option.some_ne_none _ h).elim
theorem acall : ∀ x0 x1 x2 x3, Statement (.acall x0 x1 x2 x3) := fun _ _ _ _ h => (Option.some_ne_none _ h).elim
theorem poolGuard : ∀ x0, Statement (.poolGuard x0) := fun _ h => (Option.some_ne_none _ h).elim
theorem iadd16 : ∀ x0 x1 x2, Statement (.iadd16 x0 x1 x2) := fun _ _ _ h => (Option.some_ne_none _ h).elim
theorem isub16 : ∀ x0 x1 x2, Statement (.isub16 x0 x1 x2) := fun _ _ _ h => (Option.some_ne_none _ h).elim
theorem and16 : ∀ x0 x1 x2, Statement (.and16 x0 x1 x2) := fun _ _ _ h => (Option.some_ne_none _ h).elim
theorem or16 : ∀ x0 x1 x2, Statement (.or16 x0 x1 x2) := fun _ _ _ h => (Option.some_ne_none _ h).elim
theorem xor16 : ∀ x0 x1 x2, Statement (.xor16 x0 x1 x2) := fun _ _ _ h => (Option.some_ne_none _ h).elim
theorem shl16 : ∀ x0 x1 x2, Statement (.shl16 x0 x1 x2) := fun _ _ _ h => (Option.some_ne_none _ h).elim
theorem shr16 : ∀ x0 x1 x2, Statement (.shr16 x0 x1 x2) := fun _ _ _ h => (Option.some_ne_none _ h).elim
theorem mov16 : ∀ x0 x1 x2, Statement (.mov16 x0 x1 x2) := fun _ _ _ h => (Option.some_ne_none _ h).elim
theorem movi16 : ∀ x0 x1 x2, Statement (.movi16 x0 x1 x2) := fun _ _ _ h => (Option.some_ne_none _ h).elim
theorem imul16 : ∀ x0 x1 x2, Statement (.imul16 x0 x1 x2) := fun _ _ _ h => (Option.some_ne_none _ h).elim
theorem fadd16 : ∀ x0 x1 x2, Statement (.fadd16 x0 x1 x2) := fun _ _ _ h => (Option.some_ne_none _ h).elim
theorem fmul16 : ∀ x0 x1 x2, Statement (.fmul16 x0 x1 x2) := fun _ _ _ h => (Option.some_ne_none _ h).elim
theorem ffma16 : ∀ x0 x1 x2, Statement (.ffma16 x0 x1 x2) := fun _ _ _ h => (Option.some_ne_none _ h).elim
theorem fmin16 : ∀ x0 x1 x2, Statement (.fmin16 x0 x1 x2) := fun _ _ _ h => (Option.some_ne_none _ h).elim
theorem fmax16 : ∀ x0 x1 x2, Statement (.fmax16 x0 x1 x2) := fun _ _ _ h => (Option.some_ne_none _ h).elim
theorem isel16 : ∀ x0 x1 x2, Statement (.isel16 x0 x1 x2) := fun _ _ _ h => (Option.some_ne_none _ h).elim
theorem issueOpportunity : ∀ x0 x1 x2, Statement (.issueOpportunity x0 x1 x2) := fun _ _ _ _ => rfl
theorem hostAccess : ∀ x0 x1, Statement (.hostAccess x0 x1) := fun _ _ _ => rfl
theorem doorbell : ∀ x0 x1, Statement (.doorbell x0 x1) := fun _ _ _ => rfl
theorem powerOn : ∀ x0 x1 x2 x3, Statement (.powerOn x0 x1 x2 x3) := fun _ _ _ _ _ => rfl
theorem partition : ∀ x0 x1, Statement (.partition x0 x1) := fun _ _ _ => rfl
theorem role : ∀ x0 x1, Statement (.role x0 x1) := fun _ _ _ => rfl
theorem sched : ∀ x0 x1, Statement (.sched x0 x1) := fun _ _ _ => rfl
theorem fabric : ∀ x0 x1, Statement (.fabric x0 x1) := fun _ _ _ => rfl
theorem key : ∀ x0 x1, Statement (.key x0 x1) := fun _ _ _ => rfl
theorem resume : ∀ x0 x1, Statement (.resume x0 x1) := fun _ _ _ => rfl
theorem attest : ∀ x0 x1, Statement (.attest x0 x1) := fun _ _ _ => rfl
theorem move : ∀ x0 x1, Statement (.move x0 x1) := fun _ _ _ => rfl
theorem unknownCommand : ∀ x0 x1 x2, Statement (.unknownCommand x0 x1 x2) := fun _ _ _ _ => rfl
theorem diagnosticMailboxRequest : ∀ x0, Statement (.diagnosticMailboxRequest x0) := fun _ _ => rfl
theorem portFailure : ∀ x0, Statement (.portFailure x0) := fun _ _ => rfl
theorem thermalSample : ∀ x0 x1, Statement (.thermalSample x0 x1) := fun _ _ _ => rfl
theorem regulatorSample : ∀ x0 x1 x2, Statement (.regulatorSample x0 x1 x2) := fun _ _ _ _ => rfl
theorem pageMigrate : ∀ x0 x1 x2, Statement (.pageMigrate x0 x1 x2) := fun _ _ _ _ => rfl
theorem yieldExpiry : ∀ x0, Statement (.yieldExpiry x0) := fun _ _ => rfl
theorem loadDataArrive : ∀ x0 x1, Statement (.loadDataArrive x0 x1) := fun _ _ _ => rfl
theorem kloadDataArrive : ∀ x0 x1, Statement (.kloadDataArrive x0 x1) := fun _ _ _ => rfl
theorem storePerform : ∀ x0, Statement (.storePerform x0) := fun _ _ => rfl
theorem atomResultReturn : ∀ x0 x1, Statement (.atomResultReturn x0 x1) := fun _ _ _ => rfl
theorem redDataerrDeferred : ∀ x0, Statement (.redDataerrDeferred x0) := fun _ _ => rfl
theorem syncReply : ∀ x0 x1, Statement (.syncReply x0 x1) := fun _ _ _ => rfl
theorem acallReply : ∀ x0, Statement (.acallReply x0) := fun _ _ => rfl
theorem contributionEnter : ∀ x0, Statement (.contributionEnter x0) := fun _ _ => rfl
theorem waitaWake : ∀ x0 x1, Statement (.waitaWake x0 x1) := fun _ _ _ => rfl
theorem waitaTimeout : ∀ x0 x1 x2, Statement (.waitaTimeout x0 x1 x2) := fun _ _ _ _ => rfl
theorem mwaitWake : ∀ x0 x1, Statement (.mwaitWake x0 x1) := fun _ _ _ => rfl
theorem mwaitTimeout : ∀ x0 x1 x2, Statement (.mwaitTimeout x0 x1 x2) := fun _ _ _ _ => rfl
theorem mbputServe : ∀ x0, Statement (.mbputServe x0) := fun _ _ => rfl
theorem mbgetServe : ∀ x0, Statement (.mbgetServe x0) := fun _ _ => rfl
theorem tenderUnit : ∀ x0 x1, Statement (.tenderUnit x0 x1) := fun _ _ _ => rfl
theorem tenderComplete : ∀ x0, Statement (.tenderComplete x0) := fun _ _ => rfl
theorem tcollComplete : ∀ x0 x1, Statement (.tcollComplete x0 x1) := fun _ _ _ => rfl
theorem rflushEpochComplete : ∀ x0 x1, Statement (.rflushEpochComplete x0 x1) := fun _ _ _ => rfl
theorem matrixStep : ∀ x0 x1 x2, Statement (.matrixStep x0 x1 x2) := fun _ _ _ _ => rfl
theorem mloadDataArrive : ∀ x0 x1 x2, Statement (.mloadDataArrive x0 x1 x2) := fun _ _ _ _ => rfl
theorem drainStoresPerform : ∀ x0 x1, Statement (.drainStoresPerform x0 x1) := fun _ _ _ => rfl
theorem mloopStep : ∀ x0 x1 x2, Statement (.mloopStep x0 x1 x2) := fun _ _ _ _ => rfl
theorem mloopComplete : ∀ x0 x1, Statement (.mloopComplete x0 x1) := fun _ _ _ => rfl
theorem rxRegionStart : ∀ x0, Statement (.rxRegionStart x0) := fun _ _ => rfl
theorem rxPassEnd : ∀ x0, Statement (.rxPassEnd x0) := fun _ _ => rfl
theorem ladderStarveExpire : ∀ x0 x1 x2, Statement (.ladderStarveExpire x0 x1 x2) := fun _ _ _ _ => rfl
theorem escCopyComplete : ∀ x0 x1, Statement (.escCopyComplete x0 x1) := fun _ _ _ => rfl
theorem retireAdvance : ∀ x0, Statement (.retireAdvance x0) := fun _ _ => rfl
theorem snapCopyComplete : ∀ x0 x1, Statement (.snapCopyComplete x0 x1) := fun _ _ _ => rfl
theorem asyncTrapTake : ∀ x0 x1, Statement (.asyncTrapTake x0 x1) := fun _ _ _ => rfl
theorem barrierTimeout : ∀ x0 x1 x2, Statement (.barrierTimeout x0 x1 x2) := fun _ _ _ _ => rfl
theorem companyRelease : ∀ x0, Statement (.companyRelease x0) := fun _ _ => rfl
theorem queueServe : ∀ x0 x1, Statement (.queueServe x0 x1) := fun _ _ _ => rfl
theorem placeUnit : ∀ x0, Statement (.placeUnit x0) := fun _ _ => rfl
theorem launchComplete : ∀ x0, Statement (.launchComplete x0) := fun _ _ => rfl
theorem timeSliceExpire : ∀ x0 x1, Statement (.timeSliceExpire x0 x1) := fun _ _ _ => rfl
theorem drainTimeout : ∀ x0 x1, Statement (.drainTimeout x0 x1) := fun _ _ _ => rfl
theorem saveComplete : ∀ x0 x1, Statement (.saveComplete x0 x1) := fun _ _ _ => rfl
theorem companyResume : ∀ x0 x1, Statement (.companyResume x0 x1) := fun _ _ _ => rfl
theorem tsliceWrite : ∀ x0 x1 x2, Statement (.tsliceWrite x0 x1 x2) := fun _ _ _ _ => rfl
theorem tovrWrite : ∀ x0 x1 x2, Statement (.tovrWrite x0 x1 x2) := fun _ _ _ _ => rfl
theorem dbgctlWrite : ∀ x0 x1 x2, Statement (.dbgctlWrite x0 x1 x2) := fun _ _ _ _ => rfl
theorem grantcapWrite : ∀ x0 x1 x2, Statement (.grantcapWrite x0 x1 x2) := fun _ _ _ _ => rfl
theorem bartoWrite : ∀ x0 x1 x2, Statement (.bartoWrite x0 x1 x2) := fun _ _ _ _ => rfl
theorem asidWrite : ∀ x0 x1 x2, Statement (.asidWrite x0 x1 x2) := fun _ _ _ _ => rfl
theorem probeEnable : ∀ x0 x1 x2 x3, Statement (.probeEnable x0 x1 x2 x3) := fun _ _ _ _ _ => rfl
theorem probeDump : ∀ x0 x1 x2 x3, Statement (.probeDump x0 x1 x2 x3) := fun _ _ _ _ _ => rfl
theorem probeClear : ∀ x0 x1 x2 x3, Statement (.probeClear x0 x1 x2 x3) := fun _ _ _ _ _ => rfl
theorem probeDisable : ∀ x0 x1 x2 x3, Statement (.probeDisable x0 x1 x2 x3) := fun _ _ _ _ _ => rfl
theorem roleChangeTimeout : ∀ x0, Statement (.roleChangeTimeout x0) := fun _ _ => rfl
theorem pladdResultReturn : ∀ x0 x1, Statement (.pladdResultReturn x0 x1) := fun _ _ _ => rfl
theorem illegalInstructionWord : ∀ x0 x1, Statement (.illegalInstructionWord x0 x1) := fun _ _ _ => rfl

end Sys2Proof.Laws.Unencoded
end

