-- ==== Sys2Proof/Tests/Slice0.lean ====
section
/-!
SUPPORT. Tests: ill-formed terms that the well-formedness check refuses, words written out from the encodings of the manual (R53 to
R67), results and worked examples of the manual, and, for each statement of the certificates that has hypotheses, a concrete
state and operands that meet them together. Every eighth theorem is elaborated alone (`Elab.async false`), which bounds the memory that the
theorems before it need at once.
-/
open Sys2Proof Sys2Proof.Machine
namespace Sys2Proof.Tests

/-! ### Small states -/

/-- The loaded machine of `withFetchWord` with the table entries after its leaf not valid, a company with a scratchpad of 64 KiB, a side
buffer in mapped memory and a handler of its own at 0x4000. -/
def base : State :=
  let s := (State.reset.withFetchWord 32 0).setPhys 0x40002008 (List.replicate 24 0)
  { s with companies := s.companies.map fun c => { c with trapUsr := 0x4001, scrS := 0x10000 },
           parts := s.parts.setIfInBounds 0 { s.part 0 with sbarea := 0x200000 },
           cores := s.cores.setIfInBounds 0 { s.core 0 with trapSys := 0x8001 } }
/-- The loaded machine changed. -/
def lab (f : Thread → Thread := id) (c : Company → Company := id) (tids : List Nat := List.range 32) (g : State → State := id) : State :=
  g { base with threads := base.threads.map f, companies := base.companies.map c, issue := base.issue.map fun g => { g with tids := tids } }
/-- The same with thread 0 alone in the group. -/
def one (f : Thread → Thread := id) (c : Company → Company := id) (g : State → State := id) : State := lab f c [0] g
/-- A thread with some registers set. -/
def regs (rs : List (RegId × DWord)) (t : Thread) : Thread := rs.foldl (fun t r => t.setReg r.1 r.2) t
/-- A frame of thread 0, as trap entry leaves it. -/
def frame0 : TrapFrame := ⟨0x100000, false, none, List.replicate 12 ⟨0, false⟩, none, []⟩
/-- Thread 0 in a handler. -/
def handling (n : Nat) : State := one fun t => if t.tid = 0 then { t with frames := List.replicate n frame0, sys := true } else t
/-- Bytes in device memory, which the loaded tables map one to one. -/
def poke (a : Nat) (bs : List Byte) (s : State) : State := s.setPhys a bs
/-- The group of a state, its participating threads, and the state in which its instruction acts. -/
def grp (s : State) : Issue := s.issue.getD ⟨0, 0, 0, [], 0, 0⟩
@[inherit_doc grp] def parts (s : State) (f : Form) : List Thread := ((s.members (grp s)).filter Thread.passes).map (Thread.reads f s.fresh)
@[inherit_doc grp] def acts (s : State) (f : Form) : State := s.moved f (grp s)
/-- What `Issues` asks, to be decided. -/
abbrev asks (s : State) (f : Form) : Prop :=
  s.issue = some (grp s) ∧ (grp s).tids.Nodup ∧ (f.mark = true → ∀ t ∈ s.members (grp s), s.resultsOut t.cid t.tid = false) ∧
    (f.quiet = true → ∀ t ∈ s.members (grp s), s.releaseOut t.cid t.tid = false) ∧
    (f.uni = true → (acts s f).uniDiffers f (parts s f) = false) ∧ (∀ t ∈ parts s f, (acts s f).bodyOf t = none) ∧ s.bad ≠ 2
/-- A state whose group issues the instruction. -/
abbrev Iss (s : State) (f : Form) : Prop := s.Issues f (parts s f) (acts s f)
theorem iss {s : State} {f : Form} {p : Prop} (h : asks s f ∧ p) : Iss s f ∧ p :=
  ⟨⟨⟨grp s, h.1.1, h.1.2.1, h.1.2.2.1, h.1.2.2.2.1, rfl, rfl⟩, h.1.2.2.2.2.1, fun _ => h.1.2.2.2.2.2.1, h.1.2.2.2.2.2.2⟩, h.2⟩
/-- Thread 0 as an instruction reads it, and as the state holds it. -/
def t0 (s : State) (f : Form) : Thread := (parts s f).headD (placedThread 0 0)
@[inherit_doc t0] def u0 (s : State) : Thread := (s.thread? 0 0).getD (placedThread 0 0)
/-- Thread 0 issues alone. -/
abbrev Iss1 (s : State) (f : Form) : Prop := s.Issues f [t0 s f] (acts s f)
theorem iss1 {s : State} {f : Form} {p : Prop} (h : asks s f ∧ parts s f = [t0 s f] ∧ p) : Iss1 s f ∧ p :=
  ⟨by show s.Issues f [t0 s f] (acts s f); rw [← h.2.1]; exact (iss (p := True) ⟨h.1, trivial⟩).1, h.2.2⟩
/-- A check that passes. -/
def okOf (e : Except Trap Checked) : Checked := match e with | .ok k => k | .error _ => ⟨[], [], false⟩
/-- The check passes. -/
def isOk (e : Except Trap Checked) : Bool := match e with | .ok _ => true | .error _ => false
theorem okOf_spec {e : Except Trap Checked} (h : isOk e = true) : e = .ok (okOf e) := by cases e with | ok k => rfl | error _ => cases h
/-- The company of a state. -/
def co (s : State) : Company := (s.company? 0).getD (placedCompany 0)
/-- The checks of a thread's side-buffer entry. -/
def areaOf (s : State) (u : Thread) : Except Trap Checked :=
  s.check (s.whoIs u true) .store ((s.sideEntry u.cid u.tid + BitVec.ofNat 32 (u.frames.length * 32)).setWidth 64) 32 false
/-- Its handler's privilege and vector base. -/
def hsys (s : State) (u : Thread) (tr : Trap) : Bool :=
  u.sys || u.frames.length == 1 || (co s).deleg.getLsbD tr.cls || !(co s).trapUsr.getLsbD 0
@[inherit_doc hsys] def hbase (s : State) (u : Thread) (tr : Trap) : DWord :=
  if hsys s u tr then (s.core (co s).core).trapSys else (co s).trapUsr
/-- Storage in canonical form, to be decided. -/
abbrev canon (s : State) : Prop :=
  Memory.wf s.mem = true ∧ (∀ c ∈ s.companies, Memory.wf c.scratch = true) ∧
    (∀ p ∈ s.parts.toList, Memory.wf p.sync (inRanges p.zeroed) = true) ∧ ∀ k ∈ s.cores.toList, Memory.wf k.spare (inRanges k.known) = true
/-- Where no line is listed, no store meets one of another key. -/
theorem own {s : State} (h : s.lines = []) (w : Who) (va n : Nat) : s.OwnLines w va n := by
  intro line key _ m hm; simp [State.lineOf, h] at hm
@[inherit_doc own] theorem ownPart {s : State} (h : s.lines = []) (p a n : Nat) : s.PartLines p a n := by
  intro i _ m k hm; simp [State.lineOf, h] at hm
@[inherit_doc own] theorem ownFor {s : State} (h : s.lines = []) (c : Cmd) (va n : Nat) : s.OwnFor c va n := by
  unfold State.OwnFor; split
  · exact ownPart h _ _ _
  · exact own h _ _ _
/-- What `TrapPlace` asks of a thread, to be decided. -/
abbrev placed (s : State) (u : Thread) (tr : Trap) : Prop :=
  s.thread? u.cid u.tid = some u ∧ u.exited = false ∧ u.frames.length < 2 ∧ s.company? u.cid = some (co s) ∧
    (hbase s u tr).getLsbD 0 = true ∧ (tr.cls = cDebug → tr.sub ≠ 4 → (s.dbgctl u.cid).getLsbD 3 = false) ∧
    isOk (areaOf s u) = true ∧ (okOf (areaOf s u)).mig = false ∧ (okOf (areaOf s u)).locs.Nodup ∧ (∀ l ∈ (okOf (areaOf s u)).locs, l.offChip = true) ∧
    s.lines = [] ∧ s.ops = [] ∧ canon s
/-- A thread has a place for its trap. -/
abbrev Pl (s : State) (u : Thread) (tr : Trap) : Prop := TrapPlace s u tr (hbase s u tr) (hsys s u tr) (okOf (areaOf s u))
theorem pl {s : State} {u : Thread} {tr : Trap} {p : Prop} (h : placed s u tr ∧ p) : Pl s u tr ∧ p := by
  obtain ⟨⟨a, b, c, d, f, g, i, n, j, k, x, l, m⟩, q⟩ := h
  exact ⟨⟨a, b, c, ⟨co s, d, rfl, rfl⟩, f, g, okOf_spec i, n, ⟨j, k⟩, own x _ _ _, fun bs => by rw [l]; rfl, m⟩, q⟩
/-- The state in which thread 0 takes a precise trap. -/
def back (s : State) (f : Form) : State := (acts s f).backAt (t0 s f)
/-- What `Traps` asks of a state in which thread 0 issues alone. -/
abbrev Tr (s : State) (f : Form) (tr : Trap) : Prop :=
  Iss1 s f ∧ ((acts s f).backAt (t0 s f)).bodyOf (t0 s f) = none ∧ (u0 (back s f)).cid = (t0 s f).cid ∧
    (u0 (back s f)).tid = (t0 s f).tid ∧ Pl ((acts s f).backAt (t0 s f)) (u0 (back s f)) tr
/-- The same, to be decided. -/
abbrev traps (s : State) (f : Form) (tr : Trap) : Prop :=
  asks s f ∧ parts s f = [t0 s f] ∧ (back s f).bodyOf (t0 s f) = none ∧ (u0 (back s f)).cid = (t0 s f).cid ∧
    (u0 (back s f)).tid = (t0 s f).tid ∧ placed (back s f) (u0 (back s f)) tr
theorem tr {s : State} {f : Form} {t : Trap} {p : Prop} (h : traps s f t ∧ p) : Tr s f t ∧ p :=
  ⟨⟨(iss1 ⟨h.1.1, h.1.2.1, trivial⟩).1, h.1.2.2.1, h.1.2.2.2.1, h.1.2.2.2.2.1, (pl ⟨h.1.2.2.2.2.2, trivial⟩).1⟩, h.2⟩
/-! ### Ill-formed terms -/

/-- Refused: IALUI to ICMP: a shift of 32 or more, a condition of 10 or more. -/
theorem test_illFormed_1 : let h : Hd := ⟨false, false⟩
    ([.shlImm h 1 2 32,
      .shrImm h 1 2 40,
      .sarImm h 1 2 255,
      .rolImm h 1 2 32,
      .icmp h 10 3 1 2] : List Instr).all (fun i => !i.wf) = true := by decide

/-- Refused: a rounding mode of 5 or more, and an odd pair. -/
theorem test_illFormed_2 : let h : Hd := ⟨false, false⟩
    ([.fadd h 5 1 2 3,
      .fsub h 7 1 2 3,
      .fmul h 6 1 2 3,
      .fdiv h 5 1 2 3,
      .ffma h 5 1 2 3,
      .fsqrt h 5 1 2,
      .dadd h 5 2 4 6,
      .dadd h 0 1 4 6,
      .dsub h 0 2 5 6,
      .dmul h 0 2 4 7,
      .ddiv h 6 2 4 6,
      .dfma h 0 2 4 7,
      .dsqrt h 5 2 4,
      .dsqrt h 0 2 5,
      .dmin h 1 2 4,
      .dmax h 2 4 5,
      .dabs h 3 4,
      .dneg h 2 5,
      .dcmp h 0 1 3 4] : List Instr).all (fun i => !i.wf) = true := by decide

set_option Elab.async false in
/-- Refused: a conversion with an illegal mode, pair or group. -/
theorem test_illFormed_3 : let h : Hd := ⟨false, false⟩
    ([.cvt h 5 6 5 3 2,
      .cvt h 0 6 6 3 2,
      .cvt h 0 11 4 2 2,
      .cvt h 0 8 1 3 2,
      .cvt h 0 3 8 2 2,
      .cvt h 0 4 6 3 2,
      .cvt h 0 6 4 3 3] : List Instr).all (fun i => !i.wf) = true := by decide

/-- Refused: a quantised format, or a misaligned quad, octet or pair. -/
theorem test_illFormed_4 : let h : Hd := ⟨false, false⟩
    ([.q8 h 3 1 4 3,
      .q8 h 0 1 6 3,
      .q4 h 2 1 8 3,
      .q4 h 0 1 12 3,
      .dq8 h 3 4 1 3,
      .dq8 h 0 6 1 3,
      .dq4 h 2 8 1 3,
      .dq4 h 0 4 1 3,
      .q8Cs h 3 2 1 3,
      .q8Cs h 0 3 1 3,
      .q4Cs h 2 2 1 4,
      .q4Cs h 0 3 1 4,
      .q4Cs h 0 2 1 5,
      .fdp4E4m3 h 0 1 3 4,
      .fdp4E5m2 h 0 1 4 3,
      .fdp8 h 0 1 3 3,
      .gen h 1 2 4,
      .gen h 2 3 4,
      .gen h 2 4 5] : List Instr).all (fun i => !i.wf) = true := by decide

/-- Refused: a butterfly stage above 4; numbers without a special register, and the read-only one; an odd cycle pair. -/
theorem test_illFormed_5 : let h : Hd := ⟨false, false⟩
    ([.bfx false 5 1 2,
      .gets h 7 1,
      .gets h 0x1C 1,
      .gets h 0x10 3,
      .sets h 0 1,
      .sets h 0x10 2] : List Instr).all (fun i => !i.wf) = true := by decide

/-- Refused: accesses: a size, a group, a mode, a scope. -/
theorem test_illFormed_6 : let h : Hd := ⟨false, false⟩
    ([.ld h 0 7 0 1 2,
      .ld h 0 3 0 1 3,
      .ld h 0 4 0 1 6,
      .st h 0 5 0 1 4,
      .st h 0 3 0 1 3,
      .st h 0 4 0 1 2,
      .ldp h 0 1 0 6 1,
      .stp h 0 1 2 8 1,
      .stp h 0 1 0 9 1,
      .ldacq h 7 2 1 2,
      .ldacq h 1 3 1 3,
      .strel h 7 2 1 2,
      .strel h 1 3 1 5,
      .cctlIinv h 1 2,
      .cctlIinv h 7 2,
      .fence false 3 false false true,
      .fence false 7 true true false,
      .aliasf false 7] : List Instr).all (fun i => !i.wf) = true := by decide

/-- Refused: atomics and synchronisation: a size, an operation, a group. -/
theorem test_illFormed_7 : let h : Hd := ⟨false, false⟩
    ([.atom h 0 1 1 2,
      .atom h 16 2 1 2,
      .atom h 2 3 1 2,
      .atom h 15 2 1 2,
      .atom h 0 3 1 3,
      .atom h 14 3 1 2,
      .atom h 14 2 1 3,
      .red h 13 2 1 2,
      .red h 14 2 1 4,
      .red h 0 3 1 3,
      .sbadd h 1 2 3,
      .scas h 1 2 3,
      .waita h 6 4 1,
      .waita h 4 6 1,
      .mbput h 1 3,
      .mbget h 3 1,
      .pladd h 1 2 6 3] : List Instr).all (fun i => !i.wf) = true := by decide

/-- Refused: the matrix engine: a type, a register range, a group. -/
theorem test_illFormed_8 : 
    ([.mma false false 8 32 16 5,
      .mma false false 0 57 16 5,
      .mma false false 1 55 16 5,
      .mma false false 0 32 57 5,
      .mmae false false 8 32 16 5,
      .mmae false false 0 32 56 5,
      .mdrain false 6 1 5,
      .dexp false 1 3,
      .dsplit false 4 8 1,
      .dsplit false 8 12 1,
      .dmerge false 6 1 2,
      .dmerge false 8 1 3] : List Instr).all (fun i => !i.wf) = true := by decide

/-- Refused: masks above k11; a barrier of level 0, a number at another level, a count register without a count. -/
theorem test_illFormed_9 : 
    ([.join false 12 1,
      .leave false 12,
      .waitk false 63,
      .ksave false 0 12 1,
      .kload false 0 13 1,
      .barArrive false false 0 0 0,
      .barWait false false 3 0 1,
      .barSync false false 1 5 0] : List Instr).all (fun i => !i.wf) = true := by decide

/-- Refused: system registers and the rest: a number without a register, an odd pair, a misaligned quad. -/
theorem test_illFormed_10 : let h : Hd := ⟨false, false⟩
    ([.sysr h 4 2,
      .sysr h 0 3,
      .sysr h 0x30 5,
      .sysw h 0x42 2,
      .sysw h 1 3,
      .launch h 1 3,
      .tlbinv false 1 3,
      .rxstat false 6,
      .lres false 3,
      .lstat h 6 2,
      .lstat h 4 3,
      .gmload h 1 3,
      .snap h 1 6,
      .snapsel h 1 2,
      .snapfree h 1 5,
      .acall h 1 2 3] : List Instr).all (fun i => !i.wf) = true := by decide

set_option Elab.async false in
/-- Refused: steps without an encoding, one of each kind. -/
theorem test_illFormed_11 : 
    ([.issueOpportunity 0 0 1,
      .hostAccess 0 [],
      .doorbell 0 0,
      .powerOn 0 0 0 0,
      .partition 0 0,
      .thermalSample 0 0,
      .loadDataArrive 0 false,
      .matrixStep 0 0 false,
      .rxPassEnd 0,
      .companyResume 0 0,
      .tsliceWrite 0 0 0,
      .probeEnable 0 0 0 0,
      .illegalInstructionWord 0 0] : List Instr).all (fun i => !i.wf) = true := by decide

/-- The same terms with one operand within its limits are well formed. -/
theorem test_wellFormed_limits : let h : Hd := ⟨false, false⟩
    ([.shlImm h 1 2 31, .icmp h 9 3 1 2, .fadd h 4 1 2 3, .dadd h 4 2 4 6, .cvt h 0 6 4 3 2, .q4 h 1 1 8 3, .bfx false 4 1 2, .gets h 0x10 2, .sets h 0x1B 2,
      .ld h 0 6 0 1 2, .st h 0 4 0 1 4, .stp h 0 1 1 8 1, .ldacq h 6 3 1 2, .cctlIinv h 6 2, .atom h 14 3 1 4, .red h 12 2 1 3, .mma false false 0 56 56 5,
      .mmae false false 0 56 55 5, .mma false false 1 54 56 5, .join false 11 1, .barSync false true 2 5 15, .sysr h 0x37 4, .acall h 1 2 4] : List Instr).all Instr.wf = true := by decide

/-! ### Words that are no instruction (R63) -/

/-- Major 0x00, 0x13 and 0x33; minor 31 of IALU; a `b` field where `ineg` has none, a uniform branch, and 0xFFFFFFFF, whose POOL major has a
nonzero d field and U set (R62); a shift by 32; and a guard word, which decodes and traps when it executes. -/
theorem test_refused_words :
    decode 0x00000001 = .error 1 ∧ decode 0x00000099 = .error 1 ∧ decode 0x00000199 = .error 1 ∧ decode 0xF8000009 = .error 2 ∧
    decode 0x20281009 = .error 3 ∧ decode 0xFFFC1745 = .error 3 ∧ decode 0xFFFFFFFF = .error 3 ∧ decode 0x20881017 = .error 4 ∧
    decode 0x000181F9 = .ok (.poolGuard 3) := by decide

/-! ### Words written out from the encodings (R53 to R67) -/

/-- IADD to NOT. -/
theorem test_words_1 :
    decode 0x05081009 = .ok (.iadd ⟨false, false⟩ 8 16 40) ∧
    decode 0x0D08100B = .ok (.isub ⟨true, false⟩ 8 16 40) ∧
    decode 0x1508100D = .ok (.iaddc ⟨false, true⟩ 8 16 40) ∧
    decode 0x1D08100F = .ok (.isubb ⟨true, true⟩ 8 16 40) ∧
    decode 0x20081009 = .ok (.ineg ⟨false, false⟩ 8 16) ∧
    decode 0x2808100B = .ok (.iabs ⟨true, false⟩ 8 16) ∧
    decode 0x3508100D = .ok (.imin ⟨false, true⟩ 8 16 40) ∧
    decode 0x3D08100F = .ok (.imax ⟨true, true⟩ 8 16 40) ∧
    decode 0x45081009 = .ok (.umin ⟨false, false⟩ 8 16 40) ∧
    decode 0x4D08100B = .ok (.umax ⟨true, false⟩ 8 16 40) ∧
    decode 0x5508100D = .ok (.and ⟨false, true⟩ 8 16 40) ∧
    decode 0x5D08100F = .ok (.or ⟨true, true⟩ 8 16 40) ∧
    decode 0x65081009 = .ok (.xor ⟨false, false⟩ 8 16 40) ∧
    decode 0x6D08100B = .ok (.andn ⟨true, false⟩ 8 16 40) ∧
    decode 0x7508100D = .ok (.orn ⟨false, true⟩ 8 16 40) ∧
    decode 0x7808100F = .ok (.not ⟨true, true⟩ 8 16) :=
  ⟨rfl, rfl, rfl, rfl, rfl, rfl, rfl, rfl, rfl, rfl, rfl, rfl, rfl, rfl, rfl, rfl⟩
/-- SHL to IMUL. -/
theorem test_words_2 :
    decode 0x85081009 = .ok (.shl ⟨false, false⟩ 8 16 40) ∧
    decode 0x8D08100B = .ok (.shr ⟨true, false⟩ 8 16 40) ∧
    decode 0x9508100D = .ok (.sar ⟨false, true⟩ 8 16 40) ∧
    decode 0x9D08100F = .ok (.rol ⟨true, true⟩ 8 16 40) ∧
    decode 0xA5081009 = .ok (.ror ⟨false, false⟩ 8 16 40) ∧
    decode 0xBD08100B = .ok (.lea ⟨true, false⟩ 2 8 16 40) ∧
    decode 0xC808100D = .ok (.mov ⟨false, true⟩ 8 16) ∧
    decode 0x35081017 = .ok (.iaddImm ⟨true, true⟩ 8 16 53) ∧
    decode 0x35281011 = .ok (.andImm ⟨false, false⟩ 8 16 53) ∧
    decode 0x35481013 = .ok (.orImm ⟨true, false⟩ 8 16 53) ∧
    decode 0x35681015 = .ok (.xorImm ⟨false, true⟩ 8 16 53) ∧
    decode 0x13881017 = .ok (.shlImm ⟨true, true⟩ 8 16 19) ∧
    decode 0x13A81011 = .ok (.shrImm ⟨false, false⟩ 8 16 19) ∧
    decode 0x13C81013 = .ok (.sarImm ⟨true, false⟩ 8 16 19) ∧
    decode 0x13E81015 = .ok (.rolImm ⟨false, true⟩ 8 16 19) ∧
    decode 0x0508101F = .ok (.imul ⟨true, true⟩ 8 16 40) :=
  ⟨rfl, rfl, rfl, rfl, rfl, rfl, rfl, rfl, rfl, rfl, rfl, rfl, rfl, rfl, rfl, rfl⟩
/-- IMULH to FADD. -/
theorem test_words_3 :
    decode 0x0D081019 = .ok (.imulh ⟨false, false⟩ 8 16 40) ∧
    decode 0x1508101B = .ok (.umulh ⟨true, false⟩ 8 16 40) ∧
    decode 0x1D08101D = .ok (.imad ⟨false, true⟩ 8 16 40) ∧
    decode 0x00081027 = .ok (.popc ⟨true, true⟩ 8 16) ∧
    decode 0x08081021 = .ok (.clz ⟨false, false⟩ 8 16) ∧
    decode 0x10081023 = .ok (.ctz ⟨true, false⟩ 8 16) ∧
    decode 0x18081025 = .ok (.brev ⟨false, true⟩ 8 16) ∧
    decode 0x25081027 = .ok (.bfe ⟨true, true⟩ 8 16 40) ∧
    decode 0x2D081021 = .ok (.ubfe ⟨false, false⟩ 8 16 40) ∧
    decode 0x35081023 = .ok (.bfi ⟨true, false⟩ 8 16 40) ∧
    decode 0x3D081025 = .ok (.bmix ⟨false, true⟩ 8 16 40) ∧
    decode 0x15080A2F = .ok (.icmp ⟨true, true⟩ 2 5 16 40) ∧
    decode 0xAD081029 = .ok (.isel ⟨false, false⟩ 5 8 16 40) ∧
    decode 0xD1599233 = .ok (.movi true 9 107187) ∧
    decode 0xD159D231 = .ok (.lui false 9 107187) ∧
    decode 0x6508103F = .ok (.fadd ⟨true, true⟩ 3 8 16 40) :=
  ⟨rfl, rfl, rfl, rfl, rfl, rfl, rfl, rfl, rfl, rfl, rfl, rfl, rfl, rfl, rfl, rfl⟩
/-- FSUB to FRSQ. -/
theorem test_words_4 :
    decode 0x6D081039 = .ok (.fsub ⟨false, false⟩ 3 8 16 40) ∧
    decode 0x7508103B = .ok (.fmul ⟨true, false⟩ 3 8 16 40) ∧
    decode 0x7D08103D = .ok (.fdiv ⟨false, true⟩ 3 8 16 40) ∧
    decode 0xA508103F = .ok (.fmin ⟨true, true⟩ 8 16 40) ∧
    decode 0xAD081039 = .ok (.fmax ⟨false, false⟩ 8 16 40) ∧
    decode 0xB008103B = .ok (.fabs ⟨true, false⟩ 8 16) ∧
    decode 0xB808103D = .ok (.fneg ⟨false, true⟩ 8 16) ∧
    decode 0xD5080A3F = .ok (.fcmp ⟨true, true⟩ 2 5 16 40) ∧
    decode 0xE0081039 = .ok (.fclass ⟨false, false⟩ 8 16) ∧
    decode 0x65081043 = .ok (.ffma ⟨true, false⟩ 3 8 16 40) ∧
    decode 0x68081045 = .ok (.fsqrt ⟨false, true⟩ 3 8 16) ∧
    decode 0x75081047 = .ok (.dfma ⟨true, true⟩ 3 8 16 40) ∧
    decode 0x78081041 = .ok (.dsqrt ⟨false, false⟩ 3 8 16) ∧
    decode 0xA5081043 = .ok (.fscale ⟨true, false⟩ 8 16 40) ∧
    decode 0x0008104D = .ok (.frcp ⟨false, true⟩ 8 16) ∧
    decode 0x0808104F = .ok (.frsq ⟨true, true⟩ 8 16) :=
  ⟨rfl, rfl, rfl, rfl, rfl, rfl, rfl, rfl, rfl, rfl, rfl, rfl, rfl, rfl, rfl, rfl⟩
/-- FEX2 to HSUB2. -/
theorem test_words_5 :
    decode 0x10081049 = .ok (.fex2 ⟨false, false⟩ 8 16) ∧
    decode 0x1808104B = .ok (.flg2 ⟨true, false⟩ 8 16) ∧
    decode 0x2008104D = .ok (.fsin ⟨false, true⟩ 8 16) ∧
    decode 0x2808104F = .ok (.fcos ⟨true, true⟩ 8 16) ∧
    decode 0x30081049 = .ok (.ftanh ⟨false, false⟩ 8 16) ∧
    decode 0x65081053 = .ok (.dadd ⟨true, false⟩ 3 8 16 40) ∧
    decode 0x6D081055 = .ok (.dsub ⟨false, true⟩ 3 8 16 40) ∧
    decode 0x75081057 = .ok (.dmul ⟨true, true⟩ 3 8 16 40) ∧
    decode 0x7D081051 = .ok (.ddiv ⟨false, false⟩ 3 8 16 40) ∧
    decode 0xA5081053 = .ok (.dmin ⟨true, false⟩ 8 16 40) ∧
    decode 0xAD081055 = .ok (.dmax ⟨false, true⟩ 8 16 40) ∧
    decode 0xB0081057 = .ok (.dabs ⟨true, true⟩ 8 16) ∧
    decode 0xB8081051 = .ok (.dneg ⟨false, false⟩ 8 16) ∧
    decode 0xD5080A53 = .ok (.dcmp ⟨true, false⟩ 2 5 16 40) ∧
    decode 0x0D08105D = .ok (.hadd2 ⟨false, true⟩ true 8 16 40) ∧
    decode 0x1D08105F = .ok (.hsub2 ⟨true, true⟩ true 8 16 40) :=
  ⟨rfl, rfl, rfl, rfl, rfl, rfl, rfl, rfl, rfl, rfl, rfl, rfl, rfl, rfl, rfl, rfl⟩
set_option Elab.async false in
/-- HMUL2 to Q4_CS. -/
theorem test_words_6 :
    decode 0x2D081059 = .ok (.hmul2 ⟨false, false⟩ true 8 16 40) ∧
    decode 0x3D08105B = .ok (.hfma2 ⟨true, false⟩ true 8 16 40) ∧
    decode 0x4D08105D = .ok (.hmin2 ⟨false, true⟩ true 8 16 40) ∧
    decode 0x5D08105F = .ok (.hmax2 ⟨true, true⟩ true 8 16 40) ∧
    decode 0x6D081059 = .ok (.hcmp2Eq ⟨false, false⟩ true 8 16 40) ∧
    decode 0x7D08105B = .ok (.hcmp2Lt ⟨true, false⟩ true 8 16 40) ∧
    decode 0x8D08105D = .ok (.hcmp2Le ⟨false, true⟩ true 8 16 40) ∧
    decode 0x9D08105F = .ok (.hcmp2Un ⟨true, true⟩ true 8 16 40) ∧
    decode 0x6CA81061 = .ok (.cvt ⟨false, false⟩ 3 6 5 8 16) ∧
    decode 0x0508106B = .ok (.scx ⟨true, false⟩ 8 16 40) ∧
    decode 0x2D08106D = .ok (.q8 ⟨false, true⟩ 1 8 16 40) ∧
    decode 0x4D08106F = .ok (.q4 ⟨true, true⟩ 1 8 16 40) ∧
    decode 0x6D081069 = .ok (.dq8 ⟨false, false⟩ 1 8 16 40) ∧
    decode 0x8D08106B = .ok (.dq4 ⟨true, false⟩ 1 8 16 40) ∧
    decode 0xAD08106D = .ok (.q8Cs ⟨false, true⟩ 1 8 16 40) ∧
    decode 0xCD08106F = .ok (.q4Cs ⟨true, true⟩ 1 8 16 40) :=
  ⟨rfl, rfl, rfl, rfl, rfl, rfl, rfl, rfl, rfl, rfl, rfl, rfl, rfl, rfl, rfl, rfl⟩
/-- DP4 to POLL_SAME. -/
theorem test_words_7 :
    decode 0x05081071 = .ok (.dp4 ⟨false, false⟩ 8 16 40) ∧
    decode 0x25081073 = .ok (.dp8 ⟨true, false⟩ 8 16 40) ∧
    decode 0x55081075 = .ok (.fdp4E4m3 ⟨false, true⟩ 2 8 16 40) ∧
    decode 0x75081077 = .ok (.fdp4E5m2 ⟨true, true⟩ 2 8 16 40) ∧
    decode 0x95081071 = .ok (.fdp8 ⟨false, false⟩ 2 8 16 40) ∧
    decode 0xA5081073 = .ok (.hdp2F16 ⟨true, false⟩ 8 16 40) ∧
    decode 0xC5081075 = .ok (.hdp2Bf16 ⟨false, true⟩ 8 16 40) ∧
    decode 0x0508107F = .ok (.gen ⟨true, true⟩ 8 16 40) ∧
    decode 0x08081079 = .ok (.gumbel ⟨false, false⟩ 8 16) ∧
    decode 0x1008107B = .ok (.rndf ⟨true, false⟩ 8 16) ∧
    decode 0x00681081 = .ok (.bfx false 3 8 16) ∧
    decode 0x2D081083 = .ok (.lget true 1 8 16 40) ∧
    decode 0x40069081 = .ok (.pollCnt false 8 ⟨true, 5⟩) ∧
    decode 0x48069083 = .ok (.pollRank true 8 ⟨true, 5⟩) ∧
    decode 0x50069081 = .ok (.pollMask false 8 ⟨true, 5⟩) ∧
    decode 0x58080A83 = .ok (.pollSame true 5 16) :=
  ⟨rfl, rfl, rfl, rfl, rfl, rfl, rfl, rfl, rfl, rfl, rfl, rfl, rfl, rfl, rfl, rfl⟩
/-- REDX to STREL. -/
theorem test_words_8 :
    decode 0x70081081 = .ok (.redx false 2 8 16) ∧
    decode 0x90081083 = .ok (.scanx true 2 8 16) ∧
    decode 0x10668C8D = .ok (.plop ⟨false, true⟩ 2 6 ⟨true, 5⟩ ⟨false, 3⟩) ∧
    decode 0x2000108F = .ok (.pmovToReg ⟨true, true⟩ 8) ∧
    decode 0x28080089 = .ok (.pmovToPred ⟨false, false⟩ 16) ∧
    decode 0x40068A8B = .ok (.grd ⟨true, false⟩ ⟨true, 5⟩ 5) ∧
    decode 0x02201095 = .ok (.gets ⟨false, true⟩ 17 8) ∧
    decode 0x42280097 = .ok (.sets ⟨true, true⟩ 17 16) ∧
    decode 0x80000091 = .ok (.nop false) ∧
    decode 0xB5B430C3 = .ok (.ld ⟨true, false⟩ 45 3 1 40 24) ∧
    decode 0xAFAD30C5 = .ok (.ldt ⟨false, true⟩ 11098 24) ∧
    decode 0xB5B430CF = .ok (.st ⟨true, true⟩ 45 3 1 40 24) ∧
    decode 0xB53430D1 = .ok (.ldp ⟨false, false⟩ 45 2 1 40 24) ∧
    decode 0xB73430D3 = .ok (.stp ⟨true, false⟩ 45 2 1 40 24) ∧
    decode 0x0D1430DD = .ok (.ldacq ⟨false, true⟩ 3 2 40 24) ∧
    decode 0x0D3430DF = .ok (.strel ⟨true, true⟩ 3 2 40 24) :=
  ⟨rfl, rfl, rfl, rfl, rfl, rfl, rfl, rfl, rfl, rfl, rfl, rfl, rfl, rfl, rfl, rfl⟩
/-- CCTL_WB to SEXCH. -/
theorem test_words_9 :
    decode 0x005400D9 = .ok (.cctlWb ⟨false, false⟩ 40) ∧
    decode 0x205400DB = .ok (.cctlWbinv ⟨true, false⟩ 40) ∧
    decode 0x405400DD = .ok (.cctlPf1 ⟨false, true⟩ 40) ∧
    decode 0x605400DF = .ok (.cctlPf2 ⟨true, true⟩ 40) ∧
    decode 0x805400D9 = .ok (.cctlZero ⟨false, false⟩ 40) ∧
    decode 0xAC5400DB = .ok (.cctlIinv ⟨true, false⟩ 3 40) ∧
    decode 0x0D8000E1 = .ok (.fence false 3 false true true) ∧
    decode 0x2C0000E3 = .ok (.aliasf true 3) ∧
    decode 0x400800E1 = .ok (.evs false 16) ∧
    decode 0x159430EB = .ok (.atom ⟨true, false⟩ 5 3 40 24) ∧
    decode 0x15B430ED = .ok (.red ⟨false, true⟩ 5 3 40 24) ∧
    decode 0x050810F7 = .ok (.sadd ⟨true, true⟩ 8 16 40) ∧
    decode 0x0D0810F1 = .ok (.sbadd ⟨false, false⟩ 8 16 40) ∧
    decode 0x150810F3 = .ok (.sincw ⟨true, false⟩ 8 16 40) ∧
    decode 0x1D0810F5 = .ok (.scas ⟨false, true⟩ 8 16 40) ∧
    decode 0x250810F7 = .ok (.sexch ⟨true, true⟩ 8 16 40) :=
  ⟨rfl, rfl, rfl, rfl, rfl, rfl, rfl, rfl, rfl, rfl, rfl, rfl, rfl, rfl, rfl, rfl⟩
/-- SMIN to DEXP. -/
theorem test_words_10 :
    decode 0x2D0810F1 = .ok (.smin ⟨false, false⟩ 8 16 40) ∧
    decode 0x350810F3 = .ok (.smax ⟨true, false⟩ 8 16 40) ∧
    decode 0x3D0810F5 = .ok (.waita ⟨false, true⟩ 8 16 40) ∧
    decode 0x400800F7 = .ok (.mon ⟨true, true⟩ 16) ∧
    decode 0x4D0010F1 = .ok (.mwait ⟨false, false⟩ 8 40) ∧
    decode 0x550800F3 = .ok (.mbput ⟨true, false⟩ 16 40) ∧
    decode 0x580810F5 = .ok (.mbget ⟨false, true⟩ 8 16) ∧
    decode 0x150810FF = .ok (.pladd ⟨true, true⟩ 2 8 16 40) ∧
    decode 0x47420D01 = .ok (.mma false true 3 40 16 6) ∧
    decode 0x67420D03 = .ok (.mmae true true 3 40 16 6) ∧
    decode 0x015A8D09 = .ok (.mloop false 693 6) ∧
    decode 0x08000D0B = .ok (.mzero true 6) ∧
    decode 0x15080D09 = .ok (.mload false 40 16 6) ∧
    decode 0x1D080D0B = .ok (.mdrain true 40 16 6) ∧
    decode 0x20031109 = .ok (.mstat false 6 8) ∧
    decode 0x00081113 = .ok (.dexp true 8 16) :=
  ⟨rfl, rfl, rfl, rfl, rfl, rfl, rfl, rfl, rfl, rfl, rfl, rfl, rfl, rfl, rfl, rfl⟩
/-- DSPLIT to EXIT. -/
theorem test_words_11 :
    decode 0x0D081111 = .ok (.dsplit false 8 16 40) ∧
    decode 0x15048D13 = .ok (.dmerge true 40 9 6) ∧
    decode 0x0508111D = .ok (.tcopy ⟨false, true⟩ 8 16 40) ∧
    decode 0x0D08111F = .ok (.tcopy2 ⟨true, true⟩ 8 16 40) ∧
    decode 0x15081119 = .ok (.tgath ⟨false, false⟩ 8 16 40) ∧
    decode 0x1D08111B = .ok (.tscat ⟨true, false⟩ 8 16 40) ∧
    decode 0x2508111D = .ok (.tfill ⟨false, true⟩ 8 16 40) ∧
    decode 0x2D08111F = .ok (.tnote ⟨true, true⟩ 8 16 40) ∧
    decode 0x30081119 = .ok (.twait ⟨false, false⟩ 8 16) ∧
    decode 0x05081123 = .ok (.tcoll ⟨true, false⟩ 8 16 40) ∧
    decode 0x0D081125 = .ok (.rflush ⟨false, true⟩ 8 16 40) ∧
    decode 0xB4B4BB43 = .ok (.bra true 370085 ⟨true, 5⟩) ∧
    decode 0xB4B4BB49 = .ok (.call false 370085 ⟨true, 5⟩) ∧
    decode 0x00080153 = .ok (.btab true 16) ∧
    decode 0x08080151 = .ok (.ret false 16) ∧
    decode 0x10000153 = .ok (.exit true) :=
  ⟨rfl, rfl, rfl, rfl, rfl, rfl, rfl, rfl, rfl, rfl, rfl, rfl, rfl, rfl, rfl, rfl⟩
/-- JOIN to LAUNCH. -/
theorem test_words_12 :
    decode 0x00080559 = .ok (.join false 2 16) ∧
    decode 0x0800055B = .ok (.leave true 2) ∧
    decode 0x10000559 = .ok (.waitk false 2) ∧
    decode 0x1968055B = .ok (.ksave true 11 2 16) ∧
    decode 0x21680559 = .ok (.kload false 11 2 16) ∧
    decode 0x01480D63 = .ok (.barArrive true true 2 16 6) ∧
    decode 0x09480D61 = .ok (.barWait false true 2 16 6) ∧
    decode 0x11480D63 = .ok (.barSync true true 2 16 6) ∧
    decode 0x02201169 = .ok (.sysr ⟨false, false⟩ 17 8) ∧
    decode 0x2228016B = .ok (.sysw ⟨true, false⟩ 17 16) ∧
    decode 0x54A00169 = .ok (.trap false 165) ∧
    decode 0x74A0016B = .ok (.brk true 165) ∧
    decode 0x80000169 = .ok (.rte false) ∧
    decode 0xA000016B = .ok (.yield true) ∧
    decode 0xC008016D = .ok (.prog ⟨false, true⟩ 16) ∧
    decode 0xE008116F = .ok (.launch ⟨true, true⟩ 8 16) :=
  ⟨rfl, rfl, rfl, rfl, rfl, rfl, rfl, rfl, rfl, rfl, rfl, rfl, rfl, rfl, rfl, rfl⟩
/-- TLBINV to SNAPSEL. -/
theorem test_words_13 :
    decode 0xE0281169 = .ok (.tlbinv false 8 16) ∧
    decode 0x015A9183 = .ok (.rxbegin true 693 8) ∧
    decode 0x08001181 = .ok (.rxprev false 8) ∧
    decode 0x15080183 = .ok (.rxput true 16 40) ∧
    decode 0x18000181 = .ok (.rxend false) ∧
    decode 0x20001183 = .ok (.rxstat true 8) ∧
    decode 0x015A918D = .ok (.lpost ⟨false, true⟩ 693 8) ∧
    decode 0x0808018B = .ok (.esc true 16) ∧
    decode 0x10080189 = .ok (.lres false 16) ∧
    decode 0x1808118B = .ok (.lstat ⟨true, false⟩ 8 16) ∧
    decode 0x00081195 = .ok (.gmload ⟨false, true⟩ 8 16) ∧
    decode 0x08081197 = .ok (.gmstep ⟨true, true⟩ 8 16) ∧
    decode 0x15081191 = .ok (.gmmask ⟨false, false⟩ 8 16 40) ∧
    decode 0x18081193 = .ok (.gmforce ⟨true, false⟩ 8 16) ∧
    decode 0x20081195 = .ok (.snap ⟨false, true⟩ 8 16) ∧
    decode 0x28081197 = .ok (.snapsel ⟨true, true⟩ 8 16) :=
  ⟨rfl, rfl, rfl, rfl, rfl, rfl, rfl, rfl, rfl, rfl, rfl, rfl, rfl, rfl, rfl, rfl⟩
set_option Elab.async false in
/-- SNAPFREE to FFMA_16. -/
theorem test_words_14 :
    decode 0x30081191 = .ok (.snapfree ⟨false, false⟩ 8 16) ∧
    decode 0x3D081193 = .ok (.acall ⟨true, false⟩ 8 16 40) ∧
    decode 0x00AA81F9 = .ok (.poolGuard 341) ∧
    decode 0x0000AA42 = .ok (.iadd16 true 9 21) ∧
    decode 0x0000AA44 = .ok (.isub16 false 9 21) ∧
    decode 0x0000AA4A = .ok (.and16 true 9 21) ∧
    decode 0x0000AA4C = .ok (.or16 false 9 21) ∧
    decode 0x0000AA52 = .ok (.xor16 true 9 21) ∧
    decode 0x0000AA54 = .ok (.shl16 false 9 21) ∧
    decode 0x0000AA5A = .ok (.shr16 true 9 21) ∧
    decode 0x0000AA5C = .ok (.mov16 false 9 21) ∧
    decode 0x0000AA62 = .ok (.movi16 true 9 21) ∧
    decode 0x0000AA64 = .ok (.imul16 false 9 21) ∧
    decode 0x0000AA6A = .ok (.fadd16 true 9 21) ∧
    decode 0x0000AA6C = .ok (.fmul16 false 9 21) ∧
    decode 0x0000AA72 = .ok (.ffma16 true 9 21) :=
  ⟨rfl, rfl, rfl, rfl, rfl, rfl, rfl, rfl, rfl, rfl, rfl, rfl, rfl, rfl, rfl, rfl⟩
/-- FMIN_16 to ISEL_16. -/
theorem test_words_15 :
    decode 0x0000AA74 = .ok (.fmin16 false 9 21) ∧
    decode 0x0000AA7A = .ok (.fmax16 true 9 21) ∧
    decode 0x0000AA7C = .ok (.isel16 false 9 21) :=
  ⟨rfl, rfl, rfl⟩

/-! ### Witnesses -/

/-- A marked uniform instruction of a whole troupe; shift amount 31. -/
theorem test_witness_IntegerArithmeticResults : Iss lab (hdForm ⟨true, true⟩ [.v 1, .v 2]) ∧
    (parts lab (hdForm ⟨true, true⟩ [.v 1, .v 2])).length = 32 ∧ (31 : BitVec 8).toNat < 32 := iss (by decide +kernel)
/-- Zero and another word; bit fields with length 0, start 32, and start 31. -/
theorem test_witness_ProductAndBitFieldResults : Iss lab (hdForm ⟨false, false⟩ [.v 1, .v 2, .v 3]) ∧
    (0x1F : Word).toNat / 256 % 256 = 0 ∧ 32 ≤ (0x120 : Word).toNat % 256 ∧ (0x11F : Word).toNat % 256 = 31 ∧
    (0x11F : Word).toNat / 256 % 256 ≠ 0 := iss (by decide +kernel)
theorem test_witness_ComparesAndPredicates : Iss lab (hdForm ⟨true, false⟩ [.v 1, .v 2]) ∧ (9 : BitVec 5).toNat ≤ 9 := iss (by decide +kernel)
theorem test_witness_ShortFormResults : Iss lab (shortForm true [.f, .v 3, .v 7]) ∧
    ∀ t ∈ parts lab (shortForm true [.f, .v 3, .v 7]), fpTrap t.fpcsr 0 = none := iss (by decide +kernel)
/-- The exact value of an FP32 number whose significand is a power of two. -/
theorem rat_pow {x : Nat} {n : Bool} {e : Int} (h : fp32.input false x = .fin n 0x800000 e) :
    ((fp32.input false x).rat : ℚ) = (if n then -1 else 1) * (2 : ℚ) ^ (23 + e) := by
  rw [h, FV.rat, mul_assoc, zpow_add₀ (by norm_num)]; norm_num
/-- Rounding code 4; flags that no enable names; operands that are NaNs, infinities, zeros of both signs and finite; of the classes, the
smallest normal number and a subnormal one. -/
theorem test_witness_FloatingArithmeticResults : (let f := hdForm ⟨true, true⟩ [.f, .v 2, .v 3, .v 4, .v 5]
     Iss lab f ∧ (4 : BitVec 3).toNat ≤ 4 ∧ ∀ t ∈ parts lab f, fpTrap t.fpcsr 0x1F = none) ∧
    ((fp32.input true 0x7F800001).isNan = true ∧ (fp32.input true 0x3F800000).isNan = false ∧ fp32.input true 0xFF800000 = .inf true ∧
     fp32.input true 0x7F800000 = .inf false ∧ (fp32.input true 0x80000001).isZero = true ∧ (fp32.input true 0x80000001).neg = true ∧
     (fp32.input true 0).isZero = true ∧ (fp32.input true 0).neg = false ∧ (fp32.input true 0x3F800000).isFin = true ∧
     (fp32.input true 0x3F800000).isZero = false ∧ (fp32.value 1).isFin = true ∧ (fp32.value 1).isZero = false) ∧
    (2 : ℚ) ^ (-126 : ℤ) ≤ |((fp32.value 0x800000).rat : ℚ)| ∧ |((fp32.value 1).rat : ℚ)| < (2 : ℚ) ^ (-126 : ℤ) :=
  ⟨iss (by decide +kernel), by decide +kernel,
    by rw [show fp32.value 0x800000 = fp32.input false 0x800000 by decide +kernel, rat_pow (n := false) (e := -149) (by decide +kernel)]; norm_num,
    by rw [show fp32.value 1 = .fin false 1 (-149) by decide +kernel]; norm_num [FV.rat]⟩
/-- NaN operands, infinities of both signs, zeros, finite operands, and a rounding without overflow. -/
theorem test_witness_ExactThenRoundedOnce : (fp32.value 0x7FC00000).isNan = true ∧ fp32.input false 0xFF800000 = .inf true ∧
    fp32.input false 0x7F800000 = .inf false ∧ (fp32.input false 0x80000000).isZero = true ∧
    (fp32.input false 0x3F800000).isZero = false ∧ fp32.input false 0x3F800000 = .fin false 0x800000 (-23) ∧
    (fp32.round false .rne false 3 (-1)).fl.getLsbD 2 = false ∧ fp32.value 0x3FC00000 = .fin false 0xC00000 (-23) := by decide +kernel
set_option Elab.async false in
/-- A subnormal, the smallest normal, an infinity and a NaN of FP32; the NaN of E4M3; the largest code of E2M1, which is finite. -/
theorem test_witness_FormatsReadAsTheirTables : (0x7FFFFF : Nat) / 2 ^ 23 % 2 ^ 8 = 0 ∧ (0x800000 : Nat) / 2 ^ 23 % 2 ^ 8 = 1 ∧
    ((0x7F800000 : Nat) / 2 ^ 23 % 2 ^ 8 = 255 ∧ (0x7F800000 : Nat) % 2 ^ 23 = 0 ∧ (0x7F800001 : Nat) % 2 ^ 23 ≠ 0) ∧
    ((0x7F : Nat) / 2 ^ 3 % 2 ^ 4 = 15 ∧ (0x7F : Nat) % 2 ^ 3 = 7 ∧ (0x7E : Nat) % 2 ^ 3 ≠ 7) ∧ (7 : Nat) / 2 % 2 ^ 2 = 3 ∧ (254 : Nat) < 255 := by decide
/-- Operands of the special functions: a NaN, an infinity, a zero, a negative number, powers of two that are integers of each range and one
that is none, a number below 2^-40, and 32. -/
theorem test_witness_PackedAndSpecialResults : (let f := hdForm ⟨false, true⟩ [.f, .v 1, .v 2, .v 3]
     Iss lab f ∧ ∀ t ∈ parts lab f, fpTrap t.fpcsr 0x3F = none) ∧
    ((fp32.input false 0x7F800001).isNan = true ∧ fp32.input false 0xFF800000 = .inf true ∧ (fp32.input true 0x80000001).isZero = true ∧
     fp32.input false 0xBF800000 = .fin true 0x800000 (-23) ∧ fp32.input false 0x42000000 = .fin false 0x800000 (-18) ∧
     fp32.input false 0xC3160000 = .fin true 0x960000 (-16) ∧ fp32.input false 0xC2FE0000 = .fin true 0xFE0000 (-17) ∧
     fp32.input false 0x43000000 = .fin false 0x800000 (-16) ∧ fp32.input false 0x3F000000 = .fin false 0x800000 (-24) ∧
     fp32.input false 0x2B000000 = .fin false 0x800000 (-64)) ∧
    ((fp32.input false 0x42000000).rat : ℚ) = (2 : ℚ) ^ (5 : ℤ) ∧ ((fp32.input false 0x3F000000).rat : ℚ) = (2 : ℚ) ^ (-1 : ℤ) ∧
    ((fp32.input false 0x2B000000).rat : ℚ) = (2 : ℚ) ^ (-41 : ℤ) :=
  ⟨iss (by decide +kernel), by decide +kernel, by rw [rat_pow (n := false) (e := -18) (by decide +kernel)]; norm_num,
    by rw [rat_pow (n := false) (e := -24) (by decide +kernel)]; norm_num, by rw [rat_pow (n := false) (e := -64) (by decide +kernel)]; norm_num⟩
/-- Conversions of each kind are legal; sources that are a NaN, an infinity and finite; a scale of a finite number; an element of each format. -/
theorem test_witness_ConversionAndQuantisationResults : (let f := hdForm ⟨false, true⟩ (.f :: (groupRegs 8 8 ++ [.v 3]))
     Iss lab f ∧ (4 : BitVec 3).toNat ≤ 4 ∧ cvtLegal 5 4 = true ∧ cvtWide 4 = true ∧ (2 : BitVec 2).toNat ≤ 2 ∧
       ∀ t ∈ parts lab f, fpTrap t.fpcsr 0x3F = none) ∧
    (cvtLegal 8 5 = true ∧ cvtLegal 10 5 = true ∧ cvtLegal 0 5 = true ∧ cvtLegal 5 1 = true ∧ cvtLegal 2 0 = true ∧
     (fp64.value 0x7FF0000000000001).isSig = true ∧ fp64.value 0xFFF0000000000000 = .inf true ∧
     fp64.input false 0x3FF0000000000000 = .fin false 0x10000000000000 (-52)) ∧
    ((fp32.value 0xFF800001).isSig = true ∧ (fp32.value 0xFF800000).isInf = true ∧ (fp32.value 0x80000000).isZero = true ∧
     |((fp32.value 0xC0000000).rat : ℚ)| = (2 : ℚ) ^ (1 : ℤ)) ∧
    ((254 : Nat) < 255 ∧ 0x7F < 2 ^ (QFmt.fl e4m3).width ∧ ((QFmt.fl e4m3).value 0x7F).isNan = true ∧ ((QFmt.fl e5m2).value 0xFC) = .inf true ∧
     ((QFmt.int 4).value 0xF).isZero = false) :=
  ⟨iss (by decide +kernel), by decide +kernel, ⟨by decide +kernel, by decide +kernel, by decide +kernel, by
    rw [show fp32.value 0xC0000000 = fp32.input false 0xC0000000 by decide +kernel, rat_pow (n := true) (e := -22) (by decide +kernel)]; norm_num⟩, by decide +kernel⟩
/-- Nodes that are a NaN, an infinity, a zero and finite; a tree of two and of one; a scale of no number; accumulators of each kind. -/
theorem test_witness_DotProductsAndRandomNumbers : (let f := hdForm ⟨false, false⟩ [.f, .v 2, .v 3, .v 4, .v 5, .v 6]
     Iss lab f ∧ ∀ t ∈ parts lab f, fpTrap t.fpcsr 0x1F = none) ∧
    let x : FV := .fin true 3 (-1)
    (FV.nan true).isNan = true ∧ (FV.inf true).isInf = true ∧ (FV.fin true 0 0).isZero = true ∧ x.isFin = true ∧ x.isZero = false ∧
      ([⟨x, 0⟩, ⟨.inf true, 0⟩] : List Node).length = 2 ^ (0 + 1) ∧ tree 1 [⟨x, 0⟩, ⟨.inf true, 0⟩] = [⟨.inf true, 0⟩] ∧
      tree 0 [⟨x, 0⟩] = [⟨x, 0⟩] ∧ (255 : Nat) ≠ 254 ∧ (addNode (fp32.value 0x7F800000) (.inf true)).v.isNan = true ∧
      (addNode (fp32.value 0x3F800000) x).v.isNan = false := ⟨iss (by decide +kernel), by decide +kernel⟩
/-- A marked write of `fpcsr`; a uniform read of a level's value. -/
theorem test_witness_SpecialRegisterAccess : (Iss lab { hdForm ⟨false, true⟩ [.v 1] with mark := true } ∧ True) ∧ Iss lab (hdForm ⟨false, true⟩ []) ∧
    ((0x08 : BitVec 9) = BitVec.ofNat 9 (0x08 + (0 : Fin 6)) ∧ (0x0D : BitVec 9) = BitVec.ofNat 9 (0x08 + (5 : Fin 6))) :=
  ⟨iss (by decide +kernel), iss (by decide +kernel)⟩
/-- A butterfly of stage 4, a whole troupe with different home lanes, a reduction of FP32 values. -/
theorem test_witness_CrossLaneResults : let f := markForm true [.v 2]
    Iss lab f ∧ (4 : BitVec 3).toNat < 5 ∧ ((parts lab f).map Thread.lane).Nodup ∧ t0 lab f ∈ parts lab f ∧
      ∀ t ∈ parts lab f, fpTrap t.fpcsr (redxOf 1 2 (parts lab f)).2 = none := iss (by decide +kernel)
/-- Threads with a window of 8 instructions, one of which the guard keeps out. -/
def guarded : State := lab (fun t => { t with guard := some ⟨t.tid != 3, 8⟩ })
theorem test_witness_GroupMovesPastAndGuards : Iss guarded (hdForm ⟨true, false⟩ [.p 5]) ∧ guarded.issue = some (grp guarded) ∧
    (parts guarded (hdForm ⟨true, false⟩ [.p 5])).length = 31 := iss (by decide +kernel)
set_option Elab.async false in
/-- A trap that is taken; one at the third level, one without a vector base, and one whose side buffer is not mapped. -/
theorem test_witness_TrapEntryOrTermination :
    (Pl one (u0 one) { cls := 3, sub := 1 } ∧ Pl (handling 1) (u0 (handling 1)) { cls := 3, sub := 1 }) ∧
    (one.threads.map fun t => (t.cid, t.tid)).Nodup ∧ one.thread? 0 0 = some (u0 one) ∧ one.company? 0 = some (co one) ∧ (u0 one).exited = false ∧
    2 ≤ (u0 (handling 2)).frames.length ∧ (hbase (one id fun c => { c with trapUsr := 1 }) (u0 one) { cls := 3, sub := 1 }).getLsbD 0 = true ∧
    (hbase (one id (fun c => { c with trapUsr := 0 }) fun s => { s with cores := State.reset.cores }) (u0 one) { cls := 3, sub := 1 }).getLsbD 0 = false ∧
    isOk (areaOf (one id id fun s => { s with parts := s.parts.setIfInBounds 0 { s.part 0 with sbarea := 0x80000000 } }) (u0 one)) = false :=
  ⟨⟨(pl (p := True) (by decide +kernel)).1, (pl (p := True) (by decide +kernel)).1⟩, by decide +kernel⟩
/-- Thread 0 with a signalling NaN and its trap enable. -/
def snan : State := one (regs [(.v 1, 0x7F800001), (.f, 0x2000)])
/-- `trap`, `brk`, a guard word and a word that is no instruction; an enabled exception of `fadd`. -/
theorem test_witness_InstructionsThatTrap :
    Tr one (markForm true) { cls := 12, sub := 7 } ∧ Tr one (markForm true) { cls := 13, sub := 1, extra := 7 } ∧
    (Pl ({ one with issue := none } : State) (u0 one) { cls := 0, sub := 5, extra := 0x181F9 } ∧ one.members (grp one) = [u0 one] ∧
      one.bodyOf (u0 one) = none) ∧
    (let f := hdForm ⟨false, false⟩ [.f, .v 1, .v 2]
     let fl := (fp32.add false .rne 0x7F800001 0).fl
     Iss1 snan f ∧ fpTrap (t0 snan f).fpcsr fl = some 6 ∧
       Pl (((acts snan f).updThread 0 0 fun u => u.raiseFlags fl).backAt (t0 snan f))
         (u0 (((acts snan f).updThread 0 0 fun u => u.raiseFlags fl).backAt (t0 snan f))) { cls := 6, sub := 6 }) :=
  ⟨(tr (p := True) (by decide +kernel)).1, (tr (p := True) (by decide +kernel)).1, pl (by decide +kernel),
    iss1 ⟨by decide +kernel, by decide +kernel, by decide +kernel, (pl (p := True) (by decide +kernel)).1⟩⟩
/-- What an access asks that nothing holds back, to be decided, and that it has it. -/
abbrev granted (s : State) (l : Thread) (acc : Acc) (va : DWord) (n : Nat) (nat : Bool) : Prop :=
  isOk (s.check (s.whoIs l) acc va n nat) = true ∧ (okOf (s.check (s.whoIs l) acc va n nat)).mig = false ∧ s.bodyOf l = none ∧
    (∀ t ∈ [l], (s.dbgctl t.cid).getLsbD 4 = false) ∧ s.bad ≠ 3
@[inherit_doc granted] abbrev Gr (s : State) (l : Thread) (acc : Acc) (va : DWord) (n : Nat) (nat : Bool) : Prop :=
  Granted s l [l] acc va n nat (okOf (s.check (s.whoIs l) acc va n nat))
theorem gr {s : State} {l : Thread} {acc : Acc} {va : DWord} {n : Nat} {nat : Bool} {p : Prop} (h : granted s l acc va n nat ∧ p) :
    Gr s l acc va n nat ∧ p := ⟨⟨okOf_spec h.1.1, h.1.2.1, h.1.2.2.1, h.1.2.2.2.1, h.1.2.2.2.2⟩, h.2⟩
/-- Thread 0 issues alone an instruction that makes one access. -/
abbrev Ac (s : State) (f : Form) (acc : Acc) (va : DWord) (n : Nat) (nat : Bool) : Prop :=
  Iss1 s f ∧ Acts f [t0 s f] (t0 s f) [t0 s f] ∧ Gr (acts s f) (t0 s f) acc va n nat
theorem ac {s : State} {f : Form} {acc : Acc} {va : DWord} {n : Nat} {nat : Bool} {p : Prop}
    (h : asks s f ∧ parts s f = [t0 s f] ∧ f.uni = false ∧ granted (acts s f) (t0 s f) acc va n nat ∧ p) : Ac s f acc va n nat ∧ p :=
  ⟨⟨(iss1 ⟨h.1, h.2.1, trivial⟩).1, .inr ⟨h.2.2.1, rfl, rfl⟩, (gr ⟨h.2.2.2.1, trivial⟩).1⟩, h.2.2.2.2⟩
/-- An operation of thread 0 in flight. -/
def op (k : OpKind) (ls : List Loc) (n : Nat := 0) (lanes : List Nat := [0]) : MemOp :=
  { id := 7, grp := 3, cid := 0, tid := 0, lanes := lanes.map fun i => ⟨i, 0, 0, none, [], []⟩, kind := k, asid := 1, va := 0x8000, vas := [0x8000],
    locs := ls, kinds := [.rc], got := [], acq := false, rel := false, scope := 0, pc := 0x100000, d := 4, n := n, born := 0 }
/-- A machine with that operation in flight. -/
def flying (o : MemOp) : State := one id id fun s => { s with ops := [o] }
/-- Words of device memory. -/
def phys (a n : Nat) : List Loc := (List.range n).map fun i => .phys (a + i)
/-- Different bytes of device memory or of the company's scratchpad, to be decided. -/
def isPlain (s : State) : Loc → Bool
  | .phys a => (chipCore a).isNone
  | .foreign _ | .view .. => false
  | .scratch c _ => (s.company? c).isSome
  | .sync p _ => p < 4
theorem plain {s : State} {ls : List Loc} {p : Prop} (h : (ls.Nodup ∧ (∀ l ∈ ls, isPlain s l = true) ∧ canon s) ∧ p) : s.Plain ls ∧ p := by
  refine ⟨⟨h.1.1, fun l hl => ?_, h.1.2.2⟩, h.2⟩
  have := h.1.2.1 l hl
  cases l with
  | phys a => simpa [isPlain, State.holds] using this
  | foreign a => simp [isPlain] at this
  | view a k c => simp [isPlain] at this
  | scratch c b => simpa [isPlain, State.holds, Option.isSome_iff_ne_none] using this
  | sync p o => simpa [isPlain, State.holds] using this
/-- The same where no line is listed, so that no store meets one of another key. -/
theorem plainOwn {s : State} {ls : List Loc} {w : Who} {va n : Nat} {p : Prop}
    (h : (ls.Nodup ∧ (∀ l ∈ ls, isPlain s l = true) ∧ canon s) ∧ s.lines = [] ∧ p) : s.Plain ls ∧ s.OwnLines w va n ∧ p :=
  ⟨(plain (p := True) ⟨h.1, trivial⟩).1, own h.2.1 _ _ _, h.2.2⟩
@[inherit_doc plainOwn] theorem plainFor {s : State} {ls : List Loc} {c : Cmd} {va n : Nat} {p : Prop}
    (h : (ls.Nodup ∧ (∀ l ∈ ls, isPlain s l = true) ∧ canon s) ∧ s.lines = [] ∧ p) : s.Plain ls ∧ s.OwnFor c va n ∧ p :=
  ⟨(plain (p := True) ⟨h.1, trivial⟩).1, ownFor h.2.1 _ _ _, h.2.2⟩

/-- A company with little-endian words at a scratchpad address. -/
def scr (a : Nat) (ws : List Nat) (c : Company) : Company :=
  { c with scratch := ((ws.flatMap (bytesOf 4)).mapIdx fun i b => (a + i, b)).foldl (fun m x => cellPut m x.1 x.2) c.scratch }
/-- Thread 0 in a handler at `rte`, with its record in memory; the saved counter is the frame's. -/
def returning : State := one (fun t => if t.tid = 0 then { t with frames := [frame0], sys := true } else t) id (poke 0x200000 [0x00, 0x00, 0x10, 0, 0, 0, 0, 0])
theorem test_witness_TrapReturn : let f : Form := { markForm true with mark := true }
    let s1 := acts returning f
    Iss1 returning f ∧ rteHold { returning with issue := none } [t0 returning f] = none ∧ (t0 returning f).frames = [frame0] ∧
      s1.thread? 0 0 = some (u0 s1) ∧ (u0 s1).frames = [frame0] ∧ (u0 s1).wait = .none ∧ (u0 s1).exited = false ∧
      let e := s1.check (s1.whoIs (u0 s1) true) .load 0x200000 32 false
      isOk e = true ∧ (∀ l ∈ (okOf e).locs, l.offChip = true) ∧
        BitVec.ofNat 64 (natOf ((s1.getLocs (okOf e).locs).take 8) / 2 * 2) = frame0.pc := iss1 (by decide +kernel)

/-- A table of one entry behind `btab`; `ret` to an odd address; an index outside the table; a word that is no guard word. -/
def table : State := one id id (poke 0x100004 [0xF9, 0x81, 0x00, 0x00, 0x20, 0x00, 0x00, 0x00])
theorem test_witness_BranchesCallsAndExits :
    (Iss lab (markForm false) ∧ Iss lab (markForm false [.v 3]) ∧ ∀ t ∈ parts lab (markForm false [.v 3]), (t.getV 3).getLsbD 0 = false) ∧
    (let f := markForm false [.v 3]
     Iss1 table f ∧ (acts table f).fetchWord ((acts table f).whoIs (t0 table f)) 0x100004 = .ok (BitVec.ofNat 17 1 ++ 0x1F9#15) ∧
       ((t0 table f).getV 3).toNat < 1 ∧ (acts table f).fetchWord ((acts table f).whoIs (t0 table f)) 0x100008 = .ok 0x20 ∧
       (acts table f).tableStall ((acts table f).whoIs (t0 table f)) 0x100000 0 = none) ∧
    Tr one (markForm true) { cls := 9, sub := 5 } ∧ (t0 one (markForm true)).frames = [] ∧
    (let s := one (regs [(.v 3, 1)]); let f := markForm false [.v 3]
     Tr s f { cls := 9, sub := 3, extra := 1 } ∧ ((t0 s f).getV 3).getLsbD 0 = true) ∧
    (let s := one (regs [(.v 3, 1)]) id (poke 0x100004 [0xF9, 0x81, 0, 0]); let f := markForm false [.v 3]
     Tr s f { cls := 9, sub := 1, extra := 1 } ∧
       (acts s f).fetchWord ((acts s f).whoIs (t0 s f)) ((t0 s f).pc + 4) = .ok (BitVec.ofNat 17 1 ++ 0x1F9#15) ∧ 1 ≤ ((t0 s f).getV 3).toNat ∧
       (acts s f).tableStall ((acts s f).whoIs (t0 s f)) (t0 s f).pc ((t0 s f).getV 3) = none) ∧
    (let s := one id id (poke 0x100004 [0, 0, 0, 0]); let f := markForm false [.v 3]
     Tr s f { cls := 9, sub := 2 } ∧ (acts s f).fetchWord ((acts s f).whoIs (t0 s f)) ((t0 s f).pc + 4) = .ok 0 ∧
       (acts s f).tableStall ((acts s f).whoIs (t0 s f)) (t0 s f).pc ((t0 s f).getV 3) = none ∧
       (0 : Word).extractLsb' 0 15 ≠ 0x1F9#15) ∧
    (let s := one (regs [(.v 3, 1)]) id (poke 0x100004 [0xF9, 0x01, 0x01, 0x00, 0, 0, 0, 0, 0x21, 0, 0, 0]); let f := markForm false [.v 3]
     Tr s f { cls := 9, sub := 3, extra := 0x100021 } ∧
       (acts s f).fetchWord ((acts s f).whoIs (t0 s f)) ((t0 s f).pc + 4) = .ok (BitVec.ofNat 17 2 ++ 0x1F9#15) ∧ ((t0 s f).getV 3).toNat < 2 ∧
       (acts s f).fetchWord ((acts s f).whoIs (t0 s f)) ((t0 s f).pc + 8 + 4) = .ok 0x21 ∧ ((t0 s f).pc + (0x21 : Word).signExtend 64).getLsbD 0 = true ∧
       (acts s f).tableStall ((acts s f).whoIs (t0 s f)) (t0 s f).pc ((t0 s f).getV 3) = none) ∧
    (let f := (markForm true).barred
     Iss1 one f ∧ (acts one f).thread? 0 0 = some (u0 (acts one f)) ∧ (u0 (acts one f)).exited = false ∧ (u0 (acts one f)).item = none) :=
  ⟨⟨(iss (p := True) (by decide +kernel)).1, iss (by decide +kernel)⟩, iss1 ⟨by decide +kernel, by decide +kernel, by exact ⟨rfl, by decide +kernel, rfl, by decide +kernel⟩⟩,
    (tr (p := True) (by decide +kernel)).1, by decide +kernel, tr (by decide +kernel),
    ⟨(tr (p := True) (by decide +kernel)).1, by rfl, by decide +kernel⟩, ⟨(tr (p := True) (by decide +kernel)).1, by rfl, by decide⟩,
    ⟨(tr (p := True) (by decide +kernel)).1, by rfl, by decide +kernel, by rfl, by decide +kernel⟩, iss1 (by decide +kernel)⟩
/-- Threads 0 and 1 of `lab` alone in the group; a handler's copies of the masks. -/
def pairs : State := lab (tids := [0, 1])
/-- A barrier of level 2. -/
def bar0 : BarKey := ⟨0, 2, 0, 0⟩
/-- Troupe 0 with mask 3 expecting threads 0 and 1, of which thread 1 waits. -/
def waiting : State := one (fun t => if t.tid = 1 then { t with wait := .waitk 3 } else t) id fun s =>
  { s with troupes := s.troupes.map fun u => { u with k := u.k.setIfInBounds 3 3, arr := u.arr.setIfInBounds 3 2 } }
/-- Participants of one troupe outside handlers; a handler's own copy of mask 11; the last arrival at a mask, and one that waits;
a mask whose threads have all arrived, one that has nobody, and one that misses a thread. -/
theorem test_witness_ExpectedSetsOfMasks :
    (let f := (markForm true [.v 4]).barred
     Iss pairs f ∧ lowest (parts pairs f) = some (t0 pairs f) ∧ (∀ t ∈ parts pairs f, t.frames = [] ∧ t.cid = 0 ∧ t.tid / 32 = 0) ∧
       (acts pairs f).thread? 0 0 = some (u0 (acts pairs f)) ∧ (u0 (acts pairs f)).frames = [] ∧ ((acts pairs f).troupe? 0 0).isSome = true ∧
       (11 : Reg).toNat < 12) ∧
    (let f := (markForm true [.v 4]).barred; let s := handling 1
     Iss1 s f ∧ ((acts s f).threads.map fun t => (t.cid, t.tid)).Nodup ∧ (t0 s f).frames = [frame0] ∧ (acts s f).thread? 0 0 = some (u0 (acts s f)) ∧
       (u0 (acts s f)).frames = [frame0] ∧ frame0.masks[(11 : Reg).toNat]? = some ⟨0, false⟩) ∧
    (Tr (handling 1) (markForm false).barred { cls := 9, sub := 4 } ∧ (t0 (handling 1) (markForm false).barred).frames ≠ []) ∧
    (let f := (markForm true).barred
     Iss1 waiting f ∧ (acts waiting f).thread? 0 0 = some (u0 (acts waiting f)) ∧ (t0 waiting f).frames = [] ∧ (t0 waiting f).old = [] ∧
       ((acts waiting f).troupe? 0 0).map (fun u => (u.k.getD 3 0 &&& ~~~(u.arr.getD 3 0 ||| 1), u.k.getD 4 0)) = some (0, 0)) ∧
    ((waiting.troupe? 0 0).map (fun u => (u.k.getD 3 0 &&& ~~~(u.arr.getD 3 0), u.k.getD 4 0 &&& ~~~(u.arr.getD 4 0), u.arr.getD 4 0)) =
      some (1, 0, 0)) :=
  ⟨iss (by decide +kernel), iss1 (by decide +kernel), tr (by decide +kernel), iss1 (by decide +kernel), by decide +kernel⟩

/-- Thread 0 PENDING or DONE at the barrier of level 2. -/
def barred (st : Bool) : State := one (fun t => if t.tid = 0 then { t with bars := [(bar0, st)], v := t.v.setIfInBounds 6 2 } else { t with v := t.v.setIfInBounds 6 2 })
/-- What `BarReady` asks, to be decided. -/
abbrev barReady (s : State) (t : Thread) (l : BitVec 3) : Prop :=
  s.company? t.cid = some (co s) ∧ t.frames = [] ∧ s.barKey (co s) t.tid l.toNat 0 = some bar0 ∧
    (true = true → 0 < (t.getV 6).toNat ∧ (t.getV 6).toNat ≤ s.barSize (co s) l.toNat)
set_option Elab.async false in
theorem test_witness_BarrierActionsAndTraps :
    (let f := (markForm true [.v 6]).release.barred
     (∀ b, Iss1 (barred b) f ∧ BarReady (acts (barred b) f) (t0 (barred b) f) (co (acts (barred b) f)) true 2 6 0 bar0 ∧
       (acts (barred b) f).thread? 0 0 = some (u0 (acts (barred b) f)) ∧ (u0 (acts (barred b) f)).barState bar0 = some b) ∧
     ((acts (barred true) f).barrier bar0).arrived.length + 1 ≠ (acts (barred true) f).barExpected bar0 (some 2)) ∧
    (let f := (markForm true).barred
     Tr (handling 1) f { cls := 9, sub := 4 } ∧ (t0 (handling 1) f).frames ≠ [] ∧ (acts (handling 1) f).company? 0 ≠ none) ∧
    (let f := (markForm true).barred
     Tr one f { cls := 8, sub := 2, extra := 0x70 } ∧ (t0 one f).frames = [] ∧ (acts one f).company? 0 = some (co (acts one f)) ∧
       (acts one f).barKey (co (acts one f)) 0 7 0 = none) ∧
    (let f := (markForm true [.v 6]).barred
     Tr one f { cls := 8, sub := 4, extra := 0 } ∧ ((t0 one f).getV 6).toNat = 0 ∧ (acts one f).barKey (co (acts one f)) 0 2 0 = some bar0) ∧
    (let f := (markForm true).barred
     Tr one f { cls := 8, sub := 3, extra := 0x20 } ∧ BarReady (acts one f) (t0 one f) (co (acts one f)) false 2 6 0 bar0 ∧
       (acts one f).thread? 0 0 = some (u0 (acts one f)) ∧ (u0 (acts one f)).barState bar0 = none) :=
  ⟨⟨fun b => iss1 (by cases b <;> (unfold BarReady; decide +kernel)), by decide +kernel⟩, tr (by decide +kernel), tr (by decide +kernel),
    tr (by decide +kernel), tr (p := _ ∧ _ ∧ _) (by unfold BarReady; decide +kernel)⟩

/-- One of two arrivals, by thread 0, which waits with a limit of 1024 cycles. -/
def atBar (dumped : Bool) (n : Nat) : State := one (fun t => if t.tid = 0 then { t with wait := .bar bar0 .synced (some n) 0 1 } else t) id fun s =>
  { s with barriers := [{ key := bar0, form := some (some n), arrived := [(0, 0, 0)], dumped := dumped }] }
/-- A phase that misses an arrival, one that is complete, and a wait whose limit has just been reached. -/
theorem test_witness_BarriersCompleteOrTimeOut : let s := atBar true 2; let t := u0 s
    ((s.barrier bar0).form = some (some 2) ∧ (∀ t ∈ s.threads, (s.barrier bar0).has t = true → t.delayedAt bar0 = false) ∧
      (s.barrier bar0).arrived.length ≠ s.barExpected bar0 (some 2)) ∧
    ((atBar true 1).barrier bar0).arrived.length = (atBar true 1).barExpected bar0 (some 1) ∧
    ((s.threads.map fun t => (t.cid, t.tid)).Nodup ∧ s.thread? t.cid t.tid = some t ∧ s.company? t.cid = some (co s) ∧
      t.wait = .bar bar0 .synced (some 2) 0 1 ∧ (1 : Nat) ≠ 0 ∧ 0 + 1 * 1024 ≤ 1024 ∧ s.barPaused bar0 = false ∧ t.halt = none ∧
      (co s).onCore = true ∧ (s.barrier bar0).dumped = true ∧ ((s.barrier bar0).arrived.filter fun a => (a.1, a.2.1) ≠ (t.cid, t.tid)) = []) := by
  decide +kernel

/-- Wraps at the end of a buffer; the last byte of a scratchpad and the first beyond it; the end of the address space; a page that is
not mapped; a page without a permission; a RED page; accesses that fail. -/
def redPage : State := one id id (poke 0x40002008 [0x5F, 0x00, 0x00, 0x40, 0x00, 0x00, 0x1C, 0x00])
theorem test_witness_AccessesAreChecked :
    ((0x40 : Word) ≠ 0 ∧ (8 : Int).natAbs ≤ (0x40 : Word).toNat ∧ ((0x3C : DWord).toNat / (0x40 : Word).toNat + 1) * (0x40 : Word).toNat ≤ 2 ^ 64) ∧
    (let w := one.whoIs (u0 one)
     (true = true ∧ (0x102 : DWord).toNat % 4 ≠ 0) ∧ ((0xFFF0 : DWord).toNat < 0x60000 ∧ (0xFFF0 : DWord).toNat + 16 ≤ w.scr) ∧
       (w.scr < (0xFFF1 : DWord).toNat + 16) ∧ 2 ^ 49 ≤ (0x2000000000000 : DWord).toNat ∧
       one.translate w.part w.asid 0x80000000 = .error 1 ∧ isOk (one.check w .load 0x100000 4 true) = true ∧
       isOk (redPage.check w .store 0x40000000 4 false) = true ∧ (okOf (redPage.check w .store 0x40000000 4 false)).kinds = [.red] ∧
       isOk (redPage.check w .load 0x40000000 4 false) = false ∧ isOk (one.check { w with sys := false } .fetch 0x100000 2 false) = true) ∧
    (let w := one.whoIs (u0 one)
     let pos (a : Nat) : Nat := (a - Config.syncBase) / 2 ^ 22 / (one.part w.part).ndecks * 2 ^ 22 + (a - Config.syncBase) % 2 ^ 22
     let a := Config.syncBase + 0x3FFFF8
     0 < (one.part w.part).ndecks ∧ a < Config.syncEnd ∧ a % 4096 + 8 ≤ 4096 ∧ a % 8 = 0 ∧ pos a < 2 ^ 22 + (one.part w.part).syncovf * 2 ^ 20 ∧
       Config.syncEnd - 8 < Config.syncEnd ∧ ¬pos (Config.syncEnd - 8) < 2 ^ 22 + (one.part w.part).syncovf * 2 ^ 20) ∧
    (let w := one.whoIs (u0 one)
     4096 < 0x40000FFE % 4096 + 4 ∧ (redPage.translate w.part w.asid 0x40000FFE).toOption.map (fun l => pteKind l.entry) = some .red ∧
       one.translate w.part w.asid 0x80000FFE = .error 1 ∧ one.translate w.part w.asid 0x80001000 = .error 1 ∧
       (one.translate w.part w.asid 0x3FFFFFFE).toOption.map (fun l => (l.entry % 32 / 2, chipCore (l.phys 0x3FFFFFFE))) = some (15, none) ∧
       one.translate w.part w.asid 0x40000000 = .error 1) ∧
    (let f := hdForm ⟨false, false⟩ [.v 3]
     let s := one (regs [(.v 3, 0x20000)])
     let x : Trap := { cls := 4, sub := 2, addr := 0x20000 }
     Tr s f x ∧ (acts s f).check ((acts s f).whoIs (t0 s f)) .load ((t0 s f).mAddr 0 0 3 4).va 4 false = .error x) ∧
    (let f := (hdForm ⟨false, false⟩ [.v 3]).barred
     let s := one (regs [(.v 3, 0x102)])
     let x : Trap := { cls := 2, sub := 1, addr := 0x102 }
     Tr s f x ∧ (acts s f).check ((acts s f).whoIs (t0 s f)) .acquire ((t0 s f).base 3) 4 true = .error x) :=
  ⟨by decide, by refine ⟨?_, ?_, ?_, ?_, ?_, ?_⟩ <;> decide +kernel, by decide +kernel, by decide +kernel,
    ⟨(tr (p := True) (by decide +kernel)).1, by rfl⟩, ⟨(tr (p := True) (by decide +kernel)).1, by rfl⟩⟩

/-- An operation that straddles two pages of different kinds, whose upper part an earlier store holds back. -/
def mixed (k : OpKind) : State := one id id fun s => { s with
  ops := [{ op (.store [1]) (phys 0x9000 1) with id := 5, grp := 2, vas := [0x9000] }, { op k (phys 0x8FFF 2) 2 with va := 0x8FFF, vas := [0x8FFF, 0x9000], kinds := [.rc, .uo] }] }
/-- The part of it that may perform, and what is then left. -/
def pieceOf (s : State) : MemOp × MemOp := ((s.readyPart 7).map fun x => (x.1, x.2.getD x.1)).getD (op (.store []) [], op (.store []) [])
/-- A load of 16 bytes at a page's start with a base update, and one of 1 byte that has been issued; the first part of one that straddles;
and one that met an error, at once and after another instruction of its thread. -/
theorem test_witness_LoadsIssueAndReturn :
    (let s := one (regs [(.v 3, 0x1000)])
     Ac s (hdForm ⟨true, false⟩ (mSrc 1 1 3)) .load 0x1000 16 false ∧ ((t0 s (hdForm ⟨true, false⟩ (mSrc 1 1 3))).mAddr 1 1 3 16).va = 0x1000) ∧
    Ac one (hdForm ⟨true, false⟩ []) .load ((0x100000 &&& ~~~3) + (3 : BitVec 14).signExtend 64 * 4) 4 false ∧
    (let s := one (regs [(.v 3, 0x108)]); let f := (hdForm ⟨true, false⟩ (baseRegs 3)).barred
     Ac s f .acquire 0x108 8 true ∧ (t0 s f).base 3 = 0x108) ∧
    (let o := op (.load true) [.phys 0x8000] 1; let s := flying o
     s.readyPart 7 = some (o, none) ∧ o.vas.length = o.locs.length ∧ o.got = [] ∧
       ((o.vas.zip (s.getLocs o.locs)).map (·.1)) = List.range' 0x8000 o.n ∧ (o.lanes.map (·.tid)).Nodup) ∧
    (let s := mixed (.load true)
     s.readyPart 7 = some ((pieceOf s).1, some (pieceOf s).2) ∧ (pieceOf s).1.kind = .load true ∧ (pieceOf s).1.vas = [0x8FFF] ∧
       (pieceOf s).2.vas = [0x9000] ∧ (pieceOf s).1.vas.length = (pieceOf s).1.locs.length) ∧
    (∀ b : Bool, let o : MemOp := { op (.load true) [.phys 0x8000] 1 with lanes := [⟨0, if b then 0 else 1, 0, none, [], []⟩] }; let s := flying o
     let s2 := ({ s with ops := pruneFences [] (s.ops.filter fun x => x.id != o.id) } : State).updThread 0 0 fun t =>
        { t with pc := o.pc, guard := none, wait := .none }
     s.readyPart 7 = some (o, none) ∧ s.precise o = b ∧ s2.bodyOf (u0 s2) = none ∧ Pl s2 (u0 s2) { cls := 5, sub := 1, addr := o.va }) :=
  ⟨ac (by decide +kernel), (ac (p := True) (by decide +kernel)).1, ac (by decide +kernel), by decide +kernel, by decide +kernel,
    fun b => by cases b <;> exact ⟨by decide +kernel, by decide +kernel, by decide +kernel, (pl (p := True) (by decide +kernel)).1⟩⟩

/-- A running region of one step. -/
def runs : Region :=
  { pc := 0x100000, d := 4, running := true, steps := 1, w := 1, passes := 1, stall := false, tolabs := 0, tolrel := 0, endoff := 8, failoff := 12,
    guess := 0, init := [0], g := [some [0]], y := [], j := [], snap := [0], pass := 1, rmax := [], settled := 0, reads := [],
    buf := [], loads := [], stores := [], overflow := [], traps := [] }
/-- Thread 0 of its company in a handler. -/
def beside : State := one (fun t => if t.tid = 0 then regs [(.v 3, 0x1000)] { t with frames := [frame0], sys := true } else t) fun c => { c with region := some runs }
/-- Stores beside no region and beside one; stores that perform, whole and by parts. -/
theorem test_witness_StoresIssueAndPerform :
    (let s := one (regs [(.v 3, 0x1000)]); let f := hdForm ⟨true, false⟩ (mSrc 1 1 3 ++ groupRegs 8 4)
     Ac s f .store 0x1000 16 false ∧ ((t0 s f).mAddr 1 1 3 16).va = 0x1000 ∧ (4 : BitVec 3).toNat ≤ 4 ∧ (acts s f).besideRegion (t0 s f) = false) ∧
    (let f := hdForm ⟨true, false⟩ (mSrc 1 1 3 ++ groupRegs 8 4); let c := okOf ((acts beside f).check ((acts beside f).whoIs (t0 beside f)) .store 0x1000 16 false)
     (acts beside f).Plain c.locs ∧ (acts beside f).OwnLines ((acts beside f).whoIs (t0 beside f)) 0x1000 16 ∧ Ac beside f .store 0x1000 16 false ∧ ((t0 beside f).mAddr 1 1 3 16).va = 0x1000 ∧ (acts beside f).besideRegion (t0 beside f) = true ∧
       (∀ o ∈ (acts beside f).ops, o.cid ≠ 0) ∧ c.kinds ≠ [.red]) ∧
    (let s := one (regs [(.v 3, 0x108)]); let f := (hdForm ⟨true, false⟩ (baseRegs 3 ++ groupRegs 8 2)).barred
     Ac s f .release 0x108 8 true ∧ (okOf ((acts s f).check ((acts s f).whoIs (t0 s f)) .release 0x108 8 true)).kinds ≠ [.red]) ∧
    (let s := one (regs [(.v 3, 0x13F)]); let f := (hdForm ⟨true, false⟩ (baseRegs 3)).barred
     Ac s f .zero 0x100 64 false ∧ (t0 s f).base 3 &&& ~~~63 = 0x100) ∧
    (let o := op (.store [1, 2]) (phys 0x8000 2); let s := flying o
     s.Plain o.locs ∧ s.OwnLines (s.opWho o) 0x8000 1 ∧ s.readyPart 7 = some (o, none) ∧ s.ops.filter o.sameUnit = [o] ∧ o.locs.length = 2 ∧ o.vas = [0x8000]) ∧
    (let s := mixed (.store [1, 2])
     s.Plain (pieceOf s).1.locs ∧ s.OwnLines (s.opWho (pieceOf s).1) 0x8FFF 1 ∧ (pieceOf s).1.vas = [0x8FFF] ∧ s.readyPart 7 = some ((pieceOf s).1, some (pieceOf s).2) ∧ (pieceOf s).1.kind = .store [1] ∧ (pieceOf s).1.locs = [.phys 0x8FFF]) :=
  ⟨ac (by decide +kernel), plainOwn ⟨by decide +kernel, by decide +kernel, ac (by decide +kernel)⟩, ac (by decide +kernel), ac (by decide +kernel), plainOwn (by decide +kernel),
    plainOwn (by decide +kernel)⟩

theorem test_witness_MaskSpills :
    (let f := (markForm true [.v 3]).barred
     Ac one f .release 0xFC 4 true ∧ (acts one f).besideRegion (t0 one f) = false ∧ Ac one f .acquire 0xFC 4 true ∧ ((t0 one f).getV 3).setWidth 64 + (63 : BitVec 6).setWidth 64 * 4 = 0xFC) ∧
    (let o := op (.kload 0 11 true) (phys 0x8000 4); let s := flying o
     s.readyOp 7 = some o ∧ s.ops.filter o.kloadMate = [o] ∧ (o.lanes.map (·.depth)) = [0] ∧ (u0 s).frames = [] ∧ s.thread? 0 0 = some (u0 s) ∧ (s.troupe? 0 0).isSome = true ∧ o.locs.length = 4) ∧
    (let o : MemOp := { op (.kload 0 11 true) (phys 0x8000 4) with lanes := [⟨0, 1, 0, none, [], [.k 11]⟩] }; (flying o).readyOp 7 = some o ∧ (flying o).precise o = false) :=
  ⟨⟨(ac (p := True) (by decide +kernel)).1, by decide +kernel, ac (by decide +kernel)⟩, by decide +kernel, by decide +kernel⟩
/-- A tensor of 32 elements at 0x1000, with element 31, whose bytes are zeros. -/
def tensor (rs : List (RegId × DWord) := []) : State := one (regs ([(.v 8, 0x1000), (.v 10, 32), (.v 11, 31)] ++ rs))
  fun c => { c with scratch := [0x1000, 0x105F, 0x107F, 0x109F, 0x10BF].map fun a => (a, 0) }
/-- Bytes of the tensor that a plane access names, as its checks give them. -/
def planes (s : State) (l : Thread) (i : Word) (k : Nat) (a b : Acc) : Checked :=
  okOf (s.planeCheck (s.whoIs l) ⟨l.getPair 8, (l.getV 10).toNat, l.getV 11⟩ i k a b)
/-- `ldp` of the last element, truncated, and rounded where an overflow would trap; `stp` of a number and of a NaN; `pladd`; a `pladd` of four
planes and an `ldp` of three that have been issued, and a changed unit; an element whose next plane ties; and FP32 values of each kind. -/
theorem test_witness_PlaneAccessesAndUpdates :
    (let f := hdForm ⟨true, false⟩ (groupRegs 8 4); let s := acts tensor f; let l := t0 tensor f
     let c := planes s l 31 2 .planeR .planeR
     Iss1 tensor f ∧ isOk (s.planeCheck (s.whoIs l) ⟨l.getPair 8, (l.getV 10).toNat, l.getV 11⟩ 31 2 .planeR .planeR) = true ∧ c.mig = false ∧
       s.bodyOf l = none ∧ s.bad ≠ 3) ∧
    (let f := hdForm ⟨true, false⟩ (.f :: groupRegs 8 4); let z := tensor [(.f, 0x400)]; let s := acts z f; let l := t0 z f
     let c := planes s l 31 3 .planeR .planeR
     Iss1 z f ∧ isOk (s.planeCheck (s.whoIs l) ⟨l.getPair 8, (l.getV 10).toNat, l.getV 11⟩ 31 3 .planeR .planeR) = true ∧ c.mig = false ∧
       s.bodyOf l = none ∧ s.bad ≠ 3 ∧ l.fpcsr.getLsbD 10 = true ∧ s.mayRead l (planeAddrs 0x1000 32 31 3) c = true ∧
       fpTrap l.fpcsr (nfRead true ((s.getLocs c.locs).headD 0).toNat 2 (s.getLocs c.locs).tail).fl = none) ∧
    (∀ x ∈ [0, 0x7FC00000], let f := hdForm ⟨true, false⟩ (.f :: .v 4 :: groupRegs 8 4); let z := tensor [(.v 4, x)]; let s := acts z f; let l := t0 z f
     let c := planes s l 31 2 .planeR .planeW
     let w := stpBytes l.fpcsr 2 (l.getV 4).toNat 0
     Iss1 z f ∧ isOk (s.planeCheck (s.whoIs l) ⟨l.getPair 8, (l.getV 10).toNat, l.getV 11⟩ 31 2 .planeR .planeW) = true ∧ c.mig = false ∧
       s.mayRead l ((planeAddrs 0x1000 32 31 2).take 1) ⟨c.locs.take 1, c.kinds.take 1, false⟩ = true ∧ fpTrap l.fpcsr w.2 = none ∧
       (match s.checkBytes (s.whoIs l) [(0x1000, .planeW)] with | .ok _ => true | .error _ => false) = true ∧ s.besideRegion l = false ∧ ((s.getLocs (c.locs.take 1)).headD 0).toNat = 0) ∧
    (let f := (hdForm ⟨true, false⟩ (.f :: .v 4 :: groupRegs 8 4)).barred; let s := acts tensor f; let l := t0 tensor f
     Iss1 tensor f ∧ isOk (s.planeCheck (s.whoIs l) ⟨l.getPair 8, (l.getV 10).toNat, l.getV 11⟩ 31 4 .planeRW .planeRW) = true ∧
       (planes s l 31 4 .planeRW .planeRW).mig = false ∧ l.fpcsr.getLsbD 13 = false) ∧
    (let o : MemOp := { op (.pladd 4 31 0x3F800000) (.phys 0x1000 :: phys 0x105F 4) with vas := 0x1000 :: List.range' 0x105F 4 }
     let s : State := { flying o with nextId := 8 }
     s.Plain o.locs ∧ s.readyOp 7 = some o ∧ s.ops = [o] ∧ o.id < s.nextId ∧ o.kind = .pladd 4 31 0x3F800000 ∧ o.locs.length = 4 + 1 ∧
       o.vas.length = 4 + 1 ∧ (o.lanes.map (·.tid)).Nodup ∧ s.pladdGroup o = [o]) ∧
    (let o : MemOp := { op (.unit (.phys 0x1000) (List.replicate 32 7)) (phys 0x1040 32) with vas := List.range' 0x1040 32 }; let s := flying o
     s.Plain o.locs ∧ s.OwnLines (s.opWho o) 0x1040 32 ∧ s.readyPart 7 = some (o, none) ∧ s.ops.filter o.sameUnit = [o] ∧ o.locs.length = 32) ∧
    (let o : MemOp := { op (.ldp 2 true) [.scratch 0 0x109F] with vas := [0x109F], got := [(0x1000, 0), (0x105F, 0), (0x107F, 0)] }
     let s : State := { tensor with ops := [o] }; let bs : List (Nat × Byte) := o.got ++ o.vas.zip (s.getLocs o.locs)
     s.readyPart 7 = some (o, none) ∧ o.vas.length = o.locs.length ∧ (o.got.map (·.1)).Pairwise (· < ·) ∧ (bs.map (·.1)).Pairwise (· < ·) ∧
       o.vas.Pairwise (· < ·) ∧ (o.lanes.map (·.tid)).Nodup) ∧
    ((0x80 : Nat) = (([0x3F, 0xFF, 0x80] : List Byte).getD 2 0).toNat ∧ natOf (([0x3F, 0xFF, 0x80] : List Byte).take 2).reverse % 2 ^ 15 % 2 = 1 ∧
      (fp32.input false 0x7FC00000).isNan = true ∧ fp32.input false 0xFF800000 = .inf true ∧ (fp32.input false 0x80000000).isFin = true ∧ (fp32.value 1).isFin = true) :=
  ⟨iss1 (by decide +kernel), iss1 (by decide +kernel), fun x h => by
      simp only [List.mem_cons, List.mem_nil_iff, or_false] at h
      rcases h with rfl | rfl <;> exact iss1 (by decide +kernel),
    iss1 (by decide +kernel), plain (by decide +kernel), plainOwn (by decide +kernel), by decide +kernel, by decide +kernel⟩

/-- Hints; `iinv` of a line that nothing writes and of one that a store of the thread writes; a fence of a thread without and with an access in flight; `evs`. -/
theorem test_witness_HintsFencesSchedules : Iss1 one (hdForm ⟨true, false⟩ (baseRegs 3)).barred ∧
    (let s := one (regs [(.v 3, 0x60000)]); let f := (hdForm ⟨true, false⟩ (baseRegs 3)).barred
     Iss1 s f ∧ ((acts s f).translate ((acts s f).whoIs (t0 s f)).part ((acts s f).whoIs (t0 s f)).asid 0x60000).toOption.map (fun l => l.phys 0x60000) = some 0x60000 ∧
       (t0 s f).base 3 = 0x60000 ∧ s.lineBusy (t0 s f) 0x60000 = false) ∧
    (let s := one (regs [(.v 3, 0x61000)]) id fun s => { s with ops := [op (.store [1]) [.phys 0x61020] 0 []] }
     let f := (hdForm ⟨false, false⟩ (baseRegs 3)).barred; Iss1 s f ∧ s.lineBusy (t0 s f) ((t0 s f).base 3) = true) ∧
    (Iss1 one (markForm false).barred ∧ (acts one (markForm false).barred).accessesOut 0 0 = false) ∧
    (let s := flying (op (.store [1]) [.phys 0x8000])
     Iss1 s (markForm false).barred ∧ (acts s (markForm false).barred).accessesOut 0 0 = true) ∧
    Iss1 one (markForm false [.v 3]).barred ∧ (acts one (markForm false [.v 3]).barred).partOf 0 < 4 :=
  ⟨(iss1 (p := True) (by decide +kernel)).1, iss1 (by decide +kernel), iss1 (by decide +kernel), iss1 (by decide +kernel), iss1 (by decide +kernel), iss1 (by decide +kernel)⟩

set_option Elab.async false in
/-- Atomics and reductions that issue; a sum that performs; halves of a packed sum, of which another half is left or not; and operands: a
comparand that is found or not, NaNs, infinities and finite numbers. -/
theorem test_witness_AtomicsIssueAndReturn :
    (let s := one (regs [(.v 3, 0x108)]); let f := (hdForm ⟨true, false⟩ (.f :: baseRegs 3 ++ atomRegs 14 8 8)).barred
     Ac s f .atom 0x108 8 true ∧ (t0 s f).base 3 = 0x108 ∧ (t0 s f).fpcsr.getLsbD 13 = false) ∧
    (let s := one (regs [(.v 3, 0x104)]); let f := (hdForm ⟨true, false⟩ (.f :: baseRegs 3 ++ atomRegs 0 4 8)).barred
     Ac s f .red 0x104 4 true ∧ (t0 s f).base 3 = 0x104 ∧ (t0 s f).fpcsr.getLsbD 13 = false) ∧
    (∀ b : Bool, let o := op (.atom b 0 4 1 0) (phys 0x8000 4); let s := flying o
     s.Plain o.locs ∧ s.OwnLines (s.opWho o) 0x8000 1 ∧ s.readyPart 7 = some (o, none) ∧ s.readyOp 7 = some o ∧ o.locs.length = 4 ∧ (o.lanes.map (·.tid)).Nodup ∧
       s.thread? 0 0 = some (u0 s) ∧ (u0 s).exited = false) ∧
    (∀ b : Bool, let o : MemOp := { op (.atom b 2 4 1 0) (phys 0x8000 4) with vas := List.range' 0x8000 4 }
     let s : State := one id id fun s => { s with ops := [{ op (.store [1]) (phys 0x8002 1) with id := 5, grp := 2, vas := [0x8002] }, o] }
     s.Plain (pieceOf s).1.locs ∧ s.OwnLines (s.opWho (pieceOf s).1) 0x8000 2 ∧ s.readyPart 7 = some ((pieceOf s).1, some (pieceOf s).2) ∧ (pieceOf s).1.kind = .half b 2 false 1 none ∧
       (pieceOf s).2.kind = .half b 2 true 0 none ∧ (pieceOf s).1.locs.length = 2 ∧ ((pieceOf s).1.lanes.map (·.tid)).Nodup) ∧
    (∀ b : Bool, let o : MemOp := { op (.half b 3 true 1 (some 5)) (phys 0x8002 2) with vas := List.range' 0x8002 2 }
     (flying o).Plain o.locs ∧ (flying o).OwnLines ((flying o).opWho o) 0x8002 2 ∧ (flying o).readyPart 7 = some (o, none) ∧ o.locs.length = 2) ∧
    (2 ^ 31 < 2 ^ (8 * 4) ∧ (fp32.value 0x7FC00000).isNan = true ∧ fp32.value 0xFF800000 = .inf true ∧ (fp32.value 0x80000000).isNan = false ∧
      (fp32.value 0x80000000).isFin = true ∧ fp64.value 0x7FF0000000000000 = .inf false) :=
  ⟨ac (by decide +kernel), ac (by decide +kernel), fun b => plainOwn (by cases b <;> decide +kernel), fun b => plainOwn (by cases b <;> decide +kernel),
    fun b => plainOwn (by cases b <;> decide +kernel), by decide +kernel⟩

/-- The last sync variable of a deck. -/
theorem test_witness_SyncVariables :
    (let s := one (regs [(.v 3, 0x3FFFF8)]); let f := (hdForm ⟨true, false⟩ (.v 3 :: [.v 4, .v 5])).barred
     Iss1 s f ∧ ((t0 s f).getV 3).toNat % 8 = 0 ∧ syncIn ((acts s f).part ((acts s f).whoIs (t0 s f)).part) ((t0 s f).getV 3).toNat = true ∧
       ((acts s f).dbgctl 0).getLsbD 4 = false) ∧
    (let o := op (.sync 6 5 0) [.sync 0 8, .sync 0 9, .sync 0 10, .sync 0 11]; let s := flying o
     s.Plain o.locs ∧ s.readyOp 7 = some o ∧ (o.lanes.map (·.tid)).Nodup ∧ s.precise o = true) :=
  ⟨iss1 (by decide +kernel), plain (by decide +kernel)⟩

/-- A thread that has armed a word of the scratchpad, hit or not. -/
def armed (hit : Bool) : State := one fun t => if t.tid = 0 then
  { t with wait := .waita, waita := some ⟨[⟨0, [.scratch 0 0, .scratch 0 1, .scratch 0 2, .scratch 0 3], 0, hit⟩], [0, 0, 0, 0], [0], 4, 0, 1024⟩ } else t
/-- Armed words of a `waita` without a difference, with one, and without an armed word. -/
theorem test_witness_WaitsOnWords : let f := (hdForm ⟨true, false⟩ (groupRegs 8 4 ++ groupRegs 4 4 ++ [.v 12])).barred
    let s : State := one (regs [(.v 8, 0xFFFC), (.v 9, 8), (.v 12, 0x21)]) (scr 0xFFFC [0])
    let d : State := one (regs [(.v 8, 0xFFFC), (.v 4, 1), (.v 12, 1)]) (scr 0xFFFC [0])
    (Iss1 s f ∧ ((acts s f).armAll ((acts s f).whoIs (t0 s f)) [(0, false, 0xFFFC)]).toOption =
        some [⟨0, (List.range 4).map fun i => .scratch 0 (0xFFFC + i), 0, false⟩] ∧
      (acts s f).mayRead (t0 s f) ((List.range 4).map fun i => BitVec.ofNat 64 (0xFFFC + i)) ⟨(List.range 4).map fun i => .scratch 0 (0xFFFC + i), [.rc], false⟩ = true ∧
      (acts s f).bad ≠ 3 ∧ (t0 s f).getV 4 = 0) ∧
    (Iss1 d f ∧ (t0 d f).getV 4 = 1) ∧ (Iss1 one f ∧ (t0 one f).getV 12 = 0) ∧
    (armed true).thread? 0 0 = some (u0 (armed true)) ∧ (u0 (armed true)).wait = .waita ∧ (armed true).company? 0 = some (co (armed true)) ∧
      (co (armed true)).onCore = true ∧ (u0 (armed true)).halt = none ∧ (u0 (armed true)).waita.map (fun w => (w.words.map Armed.hit, w.mates)) = some ([true], [0]) ∧
      (u0 (armed false)).waita.map (fun w => (w.words.map Armed.hit, w.start + w.tmo)) = some ([false], 1024) :=
  ⟨iss1 (by decide +kernel), iss1 (by decide +kernel), iss1 (by decide +kernel), by decide +kernel⟩

/-- A monitor of thread 0. -/
def monitor (lost : Bool) : Monitor := ⟨0x8000, 1, 0, phys 0x8000 64, [], lost⟩
/-- Thread 0 with that monitor, waiting on it or not. -/
def watching (w : Bool) (lost : Bool) : State := one fun t => if t.tid = 0 then { t with mon := some (monitor lost), wait := if w then .mwait 4 0 5 0 1024 else .none, watched := if w then some (monitor lost) else none } else t
theorem test_witness_MonitorWaits :
    (let s := one (regs [(.v 3, 0x8020)]); let f := (hdForm ⟨true, false⟩ (baseRegs 3)).barred
     Ac s f .monitor 0x8000 64 false ∧ (t0 s f).base 3 &&& ~~~63 = 0x8000) ∧
    (let f := (hdForm ⟨true, false⟩ [.v 5]).barred
     (Iss1 one f ∧ (u0 (acts one f)).mon = none) ∧
     ∀ b, Iss1 (watching false b) f ∧ (acts (watching false b) f).thread? 0 0 = some (u0 (acts (watching false b) f)) ∧
       (u0 (acts (watching false b) f)).mon = some (monitor b)) ∧
    ∀ b, let s := watching true b
      (s.threads.map fun t => (t.cid, t.tid)).Nodup ∧ s.thread? 0 0 = some (u0 s) ∧ (u0 s).wait = .mwait 4 0 5 0 1024 ∧ (u0 s).watched = some (monitor b) ∧
        s.company? 0 = some (co s) ∧ (co s).onCore = true ∧ (u0 s).halt = none :=
  ⟨ac (by decide +kernel), ⟨iss1 (by decide +kernel), fun b => iss1 (by cases b <;> decide +kernel)⟩, fun b => by cases b <;> decide +kernel⟩

/-- A ring of two messages at 0x80 with its header at 0x40, which holds `n` messages, and an operation that waits at it. -/
def ringed (k : MbKind) (n : Nat) : State := one (regs [(.v 3, 0x40)]) (scr 0x40 [0x80, 2, 0, n]) fun s =>
  { s with mbox := [⟨7, k, 0, 0, [0], 0, 0x40, false, false, 5, 4, []⟩] }
/-- The same without an operation. -/
def ring (n : Nat) : State := one (regs [(.v 3, 0x40)]) (scr 0x40 [0x80, 2, 0, n])
theorem test_witness_MailboxesAndAsynchronousCalls :
    (let f := (hdForm ⟨true, false⟩ [.v 3, .v 4, .v 5]).release.barred; let s := acts (ring 1) f; let l := t0 (ring 1) f
     Iss1 (ring 1) f ∧ s.company? 0 = some (co s) ∧ (s.mailbox (co s) (l.getV 3)).toOption = some (co s, 0x40, false) ∧ (s.ring 0 0x40).ok (co s) = true ∧
       s.mayRead l ((List.range 16).map fun i => BitVec.ofNat 64 (0x40 + i)) ⟨(List.range 16).map fun i => .scratch 0 (0x40 + i), [.rc], false⟩ = true ∧ s.bad ≠ 3) ∧
    (∀ k : Bool, ∀ n : Fin 3, let s := ringed (if k then .put else .get) n
      s.mbFirst 7 = (s.mbox.find? fun m => m.id == 7).map (·, co s) ∧ canon s ∧ (∀ x ∈ s.mbox, x.spoiled = false ∧ x.lanes.Nodup) ∧
        (s.ring 0 0x40).ok (co s) = true ∧ (s.ring 0 0x40).used = n ∧ 0x40 + 16 ≤ (s.ring 0 0x40).base + (s.ring 0 0x40).tail % 2 * 8) ∧
    (let s := ringed .call 1
     (s.mbox.find? fun m => m.id == 7).map (fun m => (m.kind, m.lanes)) = some (.call, [0]) ∧ s.company? 0 = some (co s) ∧ canon s ∧
       s.mbox.find? (MbOp.sameLine ⟨7, .call, 0, 0, [0], 0, 0x40, false, false, 5, 4, []⟩) = s.mbox.find? (fun m => m.id == 7)) :=
  ⟨iss1 (by decide +kernel), fun k n => by revert n; cases k <;> decide +kernel, by decide +kernel⟩

/-- Thread 0 with the block of a command at the end of the scratchpad, whose other words are 0. -/
def blocked (ws : List Nat) (ctl : DWord := 0) (a : DWord := 0xFFC0) : State :=
  one (regs [(.v 3, a), (.v 4, ctl)]) (scr 0xFFC0 (ws ++ List.replicate (16 - ws.length) 0))
/-- The block that a command reads. -/
def blockOf (s : State) : Block :=
  (List.range 16).map fun j => BitVec.ofNat 32 (natOf (s.getLocs ((List.range 4).map fun i => .scratch 0 (0xFFC0 + 4 * j + i))))
/-- A command of thread 0 of a state. -/
def cmd (k : CmdKind) (st : CmdState) (w : List Word) (src dst : DWord) : Cmd :=
  { id := 7, core := 0, cid := 0, trp := 0, tid := 0, launch := 0, ticket := 1, kind := k, state := st, asid := 1, sys := false, physAddr := false, cw := true,
    rel := false, acq := false, blk := 0, src := src, dst := dst, cwaddr := 0xFFFC, cwval := 9, w := w, cursor := 0, status := 0, fva := 0 }
/-- A state with that command. -/
def commanded (c : Cmd) : State := one id id fun s => { s with cmds := [c] }
theorem test_witness_CommandsTakeTickets : let f := (hdForm ⟨true, false⟩ [.v 3, .v 4]).barred
    let s := acts (blocked [0x1000, 0, 0x2000, 0, 0, 0, 64]) f; let l := t0 (blocked [0x1000, 0, 0x2000, 0, 0, 0, 64]) f
    (Iss1 (blocked [0x1000, 0, 0x2000, 0, 0, 0, 64]) f ∧ s.company? 0 = some (co s) ∧ (s.troupe? 0 0).isSome = true ∧ (l.getV 3).toNat % 64 = 0 ∧
      (l.getV 3).toNat + 64 ≤ (co s).scrS ∧ (l.getV 4).getLsbD 7 = false ∧ (l.getV 4).toNat / 256 = 0 ∧ (l.getV 4).getLsbD 3 = false ∧
      (l.getV 4).toNat % 8 ≠ 7 ∧ s.bad ≠ 3 ∧
      s.mayRead l ((List.range 64).map fun i => (l.getV 3).setWidth 64 + BitVec.ofNat 64 i) ⟨(List.range 64).map fun i => .scratch 0 (0xFFC0 + i), [.rc], false⟩ = true ∧
      blockBad .copy false (co s).scrS (blockOf s) = none ∧ s.tenderLoad (co s).core < 64) ∧
    (let f := (hdForm ⟨true, false⟩ [.v 3]).barred
     Iss1 one f ∧ (acts one f).thread? 0 0 = some (u0 (acts one f)) ∧ ((acts one f).troupe? 0 0).isSome = true ∧
       ((acts one f).cmds.any fun c => c.cid == 0 && c.trp == 0 && ((t0 one f).getV 3 - c.ticket).toNat < 2 ^ 31) = false) ∧
    (let s := commanded (cmd .note .run [] 0 0); let f := (hdForm ⟨true, false⟩ [.v 3]).barred
     Iss1 s f ∧ ((acts s f).cmds.any fun c => c.cid == 0 && c.trp == 0 && (1 - c.ticket).toNat < 2 ^ 31) = true) :=
  ⟨iss1 (by decide +kernel), iss1 (by decide +kernel), iss1 (by decide +kernel)⟩

/-- PHYS in user mode; a misplaced block; a block beyond the scratchpad; an illegal field; a register and `tlbinv` of system mode. -/
theorem test_witness_CommandAndPrivilegeTraps : let f := (hdForm ⟨true, false⟩ [.v 3, .v 4]).barred
    (let s := blocked [] 0x80
     Tr s f { cls := 1, sub := 3 } ∧ (acts s f).company? 0 ≠ none ∧ ((t0 s f).getV 4).getLsbD 7 = true ∧ (t0 s f).sys = false) ∧
    (let s := blocked [] 0 0x20
     Tr s f { cls := 2, sub := 1, addr := 0x20 } ∧ ((t0 s f).getV 3).toNat % 64 ≠ 0) ∧
    (let s := blocked [] 0 0x10000
     Tr s f { cls := 4, sub := 2, addr := 0x10000 } ∧ ((t0 s f).getV 3).toNat % 64 = 0 ∧ (acts s f).company? 0 = some (co (acts s f)) ∧
       (co (acts s f)).scrS < ((t0 s f).getV 3).toNat + 64) ∧
    (let s := blocked [0, 0, 0, 0, 0, 0, 64, 1]
     Tr s f { cls := 10, sub := 1, extra := 28 } ∧ (acts s f).bad ≠ 3 ∧ (acts s f).ops = [] ∧ ((t0 s f).getV 3).toNat + 64 ≤ (co (acts s f)).scrS ∧
       blockBad .copy false (co (acts s f)).scrS (blockOf (acts s f)) = some 28) ∧
    (Tr one (hdForm ⟨true, false⟩ []) { cls := 1, sub := 1 } ∧ (t0 one (hdForm ⟨true, false⟩ [])).sys = false) ∧
    (let f : Form := { hdForm ⟨true, false⟩ [.v 3, .v 4] with mark := true }
     Tr one f { cls := 1, sub := 1 } ∧ (t0 one f).sys = false) ∧
    (let f := markForm true [.v 2, .v 4, .v 5]
     Tr one f { cls := 1, sub := 2 } ∧ (t0 one f).sys = false) :=
  ⟨tr (by decide +kernel), tr (by decide +kernel), tr (by decide +kernel), tr (by decide +kernel), tr (by decide +kernel), tr (by decide +kernel),
    tr (by decide +kernel)⟩
/-- A copy of 64 bytes from 0x1000 to 0x2000, one of a pattern at an unaligned place, and ended commands; a contribution to a RED region;
an `rflush` and a `tcoll` of a group of one rank (no line is listed, so that no store meets one of another key): a word contributed whole and by a half, a port that is up, one down, and a root beyond the ranks. -/
def redRegion : State → State := fun s =>
  { s with parts := s.parts.setIfInBounds 0 { s.part 0 with reds := [⟨0x9000, 0x100, 0, 0xA000, [(0x9000, [1, 2, 3, 4]), (0x9006, [5, 6])]⟩], groups := [⟨1, 0⟩] }, status := s.status.setIfInBounds 3 0xFF }
/-- Those commands. -/
def copyCmd : Cmd := cmd .copy .run [0x1000, 0, 0x2000, 0, 0, 0, 64] 0x1000 0x2000
@[inherit_doc copyCmd] def fillCmd : Cmd := cmd .fill .run [0, 0, 0x2008, 0, 0, 0, 64, 0, 1, 2] 0 0x2008
@[inherit_doc copyCmd] def collCmd : Cmd := cmd .coll .run [0x1000, 0, 0x2000, 0, 0, 0, 0x20, 4] 0x1000 0x2000
@[inherit_doc copyCmd] def flushCmd : Cmd := { cmd .rflush .run [0x9000] 0x9000 0 with physAddr := true, cw := false }
theorem test_witness_CommandsRunAndComplete :
    (let s := commanded copyCmd; let x := s.cmdCheck copyCmd .load 0x1000 64; let y := s.cmdCheck copyCmd .engineW 0x2000 64
     s.Plain (okOf y).locs ∧ s.OwnFor copyCmd 0x2000 64 ∧ s.cmds.find? (fun c => c.id == 7) = some copyCmd ∧ copyCmd.cursor < copyCmd.units ∧ s.cmdReady copyCmd copyCmd.indexRange = true ∧
       (s.cmdIndex copyCmd).toOption = some (0, false) ∧ copyCmd.unitAt 0 0 = ⟨some 0x1000, 0x2000, 64⟩ ∧ s.cmdReady copyCmd [(0x1000, 64), (0x2000, 64)] = true ∧
       isOk x = true ∧ (okOf x).mig = false ∧ isOk y = true ∧ (okOf y).mig = false ∧ (okOf y).kinds ≠ [.red] ∧ (s.getLocs (okOf x).locs).length = 64 ∧
       0x2000 % 4096 + 64 ≤ 4096) ∧
    (let s := commanded fillCmd; let y := s.cmdCheck fillCmd .engineW 0x2008 56
     s.Plain (okOf y).locs ∧ s.OwnFor fillCmd 0x2008 56 ∧ fillCmd.cursor < fillCmd.units ∧ fillCmd.unitAt 0 0 = ⟨none, 0x2008, 56⟩ ∧ isOk y = true ∧ (okOf y).mig = false) ∧
    (∀ k ∈ [CmdKind.copy, .coll, .rflush], let c := cmd k .ended [] 0 0; let s := commanded c
      s.cmds.find? (fun c => c.id == 7) = some c ∧ s.cmdReady c [] true = true ∧ (s.troupe? 0 0).isSome = true ∧ canon s ∧ s.company? 0 = some (co s) ∧
        c.cw = true ∧ c.cwaddr + 4 ≤ (co s).scrS ∧ (s.threads.all fun t => !(match t.wait with | .twait .. => true | _ => false)) = true) ∧
    (let o := op (.contrib 0x90FC [1, 2, 3, 4]) (phys 0x90FC 4); let s := redRegion (flying o)
     s.readyOp 7 = some o ∧ s.partOf 0 = 0 ∧ (s.part 0).reds.map (fun r => (decide (r.base ≤ 0x90FC) && decide (0x90FC < r.base + r.len))) = [true]) ∧
    (let s := redRegion (commanded flushCmd)
     s.fabricReady 7 = some flushCmd ∧ s.contribOut flushCmd = false ∧ (s.redAddr flushCmd).toOption = some (0x9000, false) ∧
       ((s.part 0).regionAt 0x9000).map Prod.fst = some 0 ∧ s.cmdReady flushCmd [] true = true ∧ canon s ∧ s.lines = [] ∧ s.portLost flushCmd = false ∧
       (∀ j < 0x100, chipCore (0xA000 + j) = none) ∧
       (∀ r ∈ (s.part 0).reds, (r.entered.filter fun y => y.1 == 0x9000).map (·.2.length) = [4] ∧ (r.entered.filter fun y => y.1 == 0x9006).map (·.2.length) = [2])) ∧
    (∀ b : Bool, let root : Word := if b then 1 else 0; let c : Cmd := { collCmd with cw := false, w := [0x1000, 0, 0x2000, 0, 0, 0, 0x23 + 0x100 * root, 4, 0] }
     let s := redRegion (commanded c); let y := okOf (s.cmdCheck c .engineW 0x2000 16)
     s.groupOf c c.coll.group = some ⟨1, 0⟩ ∧ s.portLost c = false ∧ (∀ k ∈ y.kinds, k ≠ .red) ∧ (y.locs.Nodup ∧ (∀ l ∈ y.locs, isPlain s l = true) ∧ canon s) ∧
       0x2000 % 4096 + 16 ≤ 4096 ∧ c.coll.kind = 3 ∧ c.coll.root = root.toNat) ∧
    (let s := redRegion (commanded collCmd); let x := s.cmdCheck collCmd .load 0x1000 16; let y := s.cmdCheck collCmd .engineW 0x2000 16
     s.fabricReady 7 = some collCmd ∧ collCmd.coll = ⟨0, 2, 0, 4, 0⟩ ∧ isOk x = true ∧ isOk y = true ∧ (okOf x).mig = false ∧ (okOf y).mig = false ∧
       s.cmdReady collCmd [(0x1000, 16), (0x2000, 16)] true = true ∧ s.lines = []) :=
  ⟨plainFor (by decide +kernel), plainFor (by decide +kernel), by decide +kernel, by decide +kernel,
    by refine ⟨?_, ?_, ?_, ?_, ?_, ?_, ?_, ?_, ?_, ?_⟩ <;> decide +kernel, fun b => by cases b <;> decide +kernel, by decide +kernel⟩

/-- A thread in system mode. -/
def system (g : State → State := id) : State := one (fun t => { t with sys := true }) id g
set_option Elab.async false in
theorem test_witness_SystemRegisterReads : let f := hdForm ⟨true, false⟩ []
    (Iss1 one f ∧ (acts one f).company? 0 = some (co (acts one f)) ∧ (0x37 : BitVec 8).toNat ≤ 0x37) ∧
    Iss1 (system) f ∧ (acts (system) f).company? 0 = some (co (acts (system) f)) ∧ (t0 (system) f).sys = true := ⟨iss1 (by decide +kernel), iss1 (by decide +kernel)⟩
/-- A probe that starts, and one that is enabled. -/
theorem test_witness_SystemRegisterWrites :
    (let f : Form := { (hdForm ⟨true, false⟩ [.v 3, .v 4]).barred with mark := true }
     Iss1 (system) f ∧ (acts (system) f).company? 0 = some (co (acts (system) f)) ∧ (t0 (system) f).sys = true ∧
       (system).ops = [] ∧ ({ system with issue := none } : State).writeStall (t0 (system) f) (.probe 7) ((t0 (system) f).getPair 3) = none ∧
       ({ system with issue := none } : State).writeStall (t0 (system) f) .dbgctl 0x10 = none ∧ ((acts (system) f).writeProbe (t0 (system) f) (co (acts (system) f)) 7 ((t0 (system) f).getPair 3)).toOption.isSome = true) ∧
    (let s := system; let t := u0 (system)
     s.thread? 0 0 = some t ∧ t.exited = false ∧ t.sys = true ∧ (co s).core < 384 ∧ ((s.core 0).probes.getD 7 Probe.reset).en = false ∧
       isOk (s.check (s.whoIs t) .load 0x8000 8 false) = true ∧ s.writeStall t (.probe 7) 0x8001 = none ∧ s.writeStall t .dbgctl 0x10 = none) ∧
    (let s := system fun s => s.updCore 0 fun k => { k with probes := k.probes.setIfInBounds 7 { Probe.reset with block := 0x8000, en := true } }
     ((s.core 0).probes.getD 7 Probe.reset).en = true ∧ s.writeStall (u0 s) (.probe 7) 0x8004 = none ∧ (s.storesAt (s.whoIs (u0 s)) [(0x8010, bytesOf 4 1)]).toOption.isSome = true) :=
  ⟨iss1 (by decide +kernel), by decide +kernel⟩

/-- A queue 63 of two records with ASID 1, enabled, in system mode; its descriptor and its slots. -/
def queued (tail : Nat) : State := one id id fun s =>
  poke (0x300000 + 32 * 63) ([0x310000, 0, 2, 0, tail, 0x10300, 0].flatMap (bytesOf 4))
    { s with parts := s.parts.setIfInBounds 0 { s.part 0 with qtab := 0x300000 } }
/-- A region of no running pass that buffers a store. -/
def buffering : Region :=
  { pc := 0x100000, d := 4, running := false, steps := 1, w := 1, passes := 1, stall := false, tolabs := 0, tolrel := 0, endoff := 8, failoff := 12,
    guess := 0, init := [0], g := [some [0]], y := [], j := [], snap := [0], pass := 1, rmax := [], settled := 0, reads := [],
    buf := [⟨0, 1, [0x8000], [.phys 0x8000], [9]⟩], loads := [], stores := [], overflow := [], traps := [] }
/-- `launch` into a queue with room, a full one and a bad one; one thread that has yielded, due or not. -/
theorem test_witness_YieldsNotesAndLaunches :
    (let s := one; Iss1 s (markForm true).barred ∧ s.bad = 0) ∧
    (let s : State := { one with threads := [{ u0 one with wait := .yield 5 }] }
     s.companies.any (fun c => c.cid == 0 && c.core == 0 && c.onCore) = true ∧ ¬5 ≤ (s.core 0).opps ∧ 0 ≤ (s.core 0).opps) ∧
    (∀ n ∈ [1, 2], let s : State := { queued n with threads := (queued n).threads.map (regs [(.v 3, 63), (.v 4, 0x1000)]) }
      let f := (hdForm ⟨true, false⟩ [.v 3, .v 4, .v 5]).release.barred
      Iss1 s f ∧ ((t0 s f).getPair 4).toNat % 64 = 0 ∧ ((acts s f).queue 0 63).count = 2 ^ 1 ∧ ((acts s f).queue 0 63).head = 0 ∧ ((acts s f).queue 0 63).tail = n) ∧
    (let s := acts (queued 1) (hdForm ⟨true, false⟩ [.v 3, .v 4, .v 5]).release.barred
     let c := okOf (s.check ⟨0, 0, 1, true, 0, none⟩ .store 0x310008 8 false)
     s.Plain c.locs ∧ s.OwnLines ⟨0, 0, 1, true, 0, none⟩ 0x310008 8 ∧ isOk (s.check ⟨0, 0, 1, true, 0, none⟩ .store 0x310008 8 false) = true ∧ c.mig = false ∧ c.kinds ≠ [.red] ∧
       (∀ z ∈ phys (0x300000 + 32 * 63 + 16) 4, z.offChip = true ∧ z ∉ c.locs) ∧ (63, true) ∉ (s.part 0).makers) ∧
    (let f := (hdForm ⟨true, false⟩ [.v 3, .v 4, .v 5]).release.barred
     let s := one id id fun s => poke 0x300000 (List.replicate 32 0) { s with parts := s.parts.setIfInBounds 0 { s.part 0 with qtab := 0x300000 } }
     Iss1 s f ∧ ((acts s f).queue 0 0).count = 0) ∧
    (let f := (markForm true [.v 2, .v 4, .v 5]).barred
     Iss1 (system) f ∧ (system).ops = [] ∧ (t0 (system) f).sys = true ∧ ∀ c ∈ (system).companies, c.region = none) ∧
    (let f := (markForm true [.v 2, .v 4, .v 5]).barred
     let s : State := { system with threads := (system).threads.map (regs [(.v 2, 0x2000)]),
                                    companies := (system).companies.map fun c => { c with region := some buffering } }
     Iss1 s f ∧ s.ops = [] ∧ (t0 s f).sys = true ∧ ((t0 s f).getV 2).getLsbD 13 = true ∧ ∀ c ∈ s.companies, c.part = s.partOf 0) :=
  ⟨iss1 (by decide +kernel), by decide +kernel, fun n h => by
      simp only [List.mem_cons, List.mem_nil_iff, or_false] at h
      rcases h with rfl | rfl <;> exact iss1 (by decide +kernel),
    plainOwn (by decide +kernel), iss1 (by decide +kernel), iss1 (by decide +kernel), iss1 (by decide +kernel)⟩

/-- An automaton of two states and 512 tokens: image, actions, classes, mask rows. -/
def automaton : Automaton := ⟨0x80000, 0x90000, 0xA0000, 0xB0000, 2, 512, 1, 64, false, 1, 0⟩
/-- Thread 0 with a cleared context block at the end of the scratchpad and the automaton's image in memory, with an entry of each table. -/
def grammatical (c : Company → Company := fun c => { c with automaton := some automaton }) (rs : List (RegId × DWord) := []) : State :=
  one (regs ([(.v 3, 0xFFB0), (.v 4, 0x80000), (.v 6, 0xFF40)] ++ rs)) (fun x => c (scr 0xFFB0 (List.replicate 20 0) x))
    fun s => poke 0x80000 ([0x90000, 0, 0xA0000, 0, 0xB0000, 0, 2, 512, 0x400001, 1, 0, 0, 0, 0, 0, 0].flatMap (bytesOf 4)) (poke 0x90000 [0, 0, 0, 0] (poke 0xA01FF [0] s))
/-- The context block of thread 0. -/
def ctxBlk : List Loc := (List.range 80).map fun i => .scratch 0 (0xFFB0 + i)
@[inherit_doc ctxBlk] def ctxVas : List DWord := (List.range 80).map fun i => (0xFFB0 : Word).setWidth 64 + BitVec.ofNat 64 i
/-- `gmload` of an image that is legal and of the one installed; `gmstep` of the last token and of the first beyond; `gmmask`, `gmforce`; a
company without an automaton, misplaced and damaged contexts, and an illegal image. -/
theorem test_witness_GrammarInstructions :
    (let f := (hdForm ⟨true, false⟩ [.v 3, .v 4, .v 5]).barred; let x := grammatical id; let s := acts x f; let l := t0 x f
     let k := s.checkRange (s.whoIs l) .load 0x80000 64 2
     Iss1 x f ∧ s.company? 0 = some (co s) ∧ canon s ∧ s.bad ≠ 3 ∧ (s.dbgctl 0).getLsbD 4 = false ∧ (l.getV 3).toNat % 16 = 0 ∧
       (l.getV 3).toNat + 80 ≤ (co s).scrS ∧ s.mayRead l ctxVas ⟨ctxBlk, [.rc], false⟩ = true ∧ s.mayWrite l ctxVas ⟨ctxBlk, [.rc], false⟩ = true ∧ (co s).automaton = none ∧ (l.getPair 4).toNat % 64 = 0 ∧
       isOk k = true ∧ (okOf k).mig = false ∧ s.mayRead l ((List.range 64).map fun i => 0x80000 + BitVec.ofNat 64 i) (okOf k) = true ∧
       ((imageChecks (s.getLocs (okOf k).locs)).all fun x => x.2) = true ∧ automatonOf 0x80000 (s.getLocs (okOf k).locs) s.fresh = { automaton with born := s.fresh }) ∧
    (let f := (hdForm ⟨true, false⟩ [.v 3, .v 4, .v 5]).barred
     Iss1 (grammatical) f ∧ (co (acts (grammatical) f)).automaton = some automaton ∧ (t0 (grammatical) f).getPair 4 = automaton.image) ∧
    (let f := (hdForm ⟨true, false⟩ [.v 7, .v 3]).barred; let x := grammatical (rs := [(.v 7, 511)]); let s := acts x f; let l := t0 x f
     let k := s.checkRange (s.whoIs l) .load 0xA01FF 1 2; let e := s.checkRange (s.whoIs l) .load 0x90000 4 2
     Iss1 x f ∧ s.mayRead l ctxVas ⟨ctxBlk, [.rc], false⟩ = true ∧ s.mayWrite l ctxVas ⟨ctxBlk, [.rc], false⟩ = true ∧ (l.getV 7).toNat < automaton.vocab ∧
       natOf (s.getLocs (ctxBlk.take 4)) = 0 ∧ isOk k = true ∧ (okOf k).mig = false ∧
       natOf ((okOf k).locs.map (s.tableByte 0)) = 0 ∧ isOk e = true ∧ natOf ((okOf e).locs.map (s.tableByte 0)) = 0) ∧
    (let s : State := { one with marks := [⟨0x90000, [⟨7, none, 1⟩, ⟨6, none, 2⟩]⟩] }
     ((s.writesOf 0x90000).takeWhile fun w => 6 ≤ w.time).dropLast.map Write.old = [1] ∧ s.writesOf 0x90001 = []) ∧
    (let x := grammatical (rs := [(.v 7, 512)]); automaton.vocab ≤ ((t0 x (hdForm ⟨true, false⟩ [.v 7, .v 3]).barred).getV 7).toNat) ∧
    (let f := (hdForm ⟨true, false⟩ [.v 7, .v 3, .v 6]).barred; let x := grammatical; let s := acts x f; let l := t0 x f
     let k := s.checkRange (s.whoIs l) .load 0xB0000 64 2
     Iss1 x f ∧ (l.getV 6).toNat % 64 = 0 ∧ (l.getV 6).toNat + 64 ≤ (co s).scrS ∧ (l.getV 7).toNat < automaton.vocab / 512 ∧ isOk k = true ∧ (okOf k).mig = false ∧
       s.mayRead l ((List.range 64).map fun i => 0xB0000 + BitVec.ofNat 64 i) (okOf k) = true) ∧
    (let f := (hdForm ⟨true, false⟩ [.v 3]).barred
     Tr (grammatical id) f { cls := 11, sub := 2, addr := 0xFFB0, extra := 3 } ∧ (co (acts (grammatical id) f)).automaton = none) ∧
    (let f := (hdForm ⟨true, false⟩ [.v 3]).barred; let x := grammatical (rs := [(.v 3, 8)])
     Tr x f { cls := 2, sub := 1, addr := 8 } ∧ ((t0 x f).getV 3).toNat % 16 ≠ 0) ∧
    (let f := (hdForm ⟨true, false⟩ [.v 3]).barred; let x := grammatical (rs := [(.v 3, 0xFFC0)])
     Tr x f { cls := 4, sub := 2, addr := 0xFFC0 } ∧ (co (acts x f)).scrS < ((t0 x f).getV 3).toNat + 80) ∧
    (let f := (hdForm ⟨true, false⟩ [.v 3]).barred; let x := grammatical fun c => scr 0xFFB0 [2] { c with automaton := some automaton }
     Tr x f { cls := 11, sub := 2, addr := 0xFFB0, extra := 2 } ∧ (acts x f).ops = [] ∧ (acts x f).bad ≠ 3 ∧
       automaton.nstates ≤ natOf ((acts x f).getLocs (ctxBlk.take 4)) % 2 ^ 12) ∧
    (let f := (hdForm ⟨true, false⟩ [.v 3, .v 4, .v 5]).barred; let x := poke 0x80004 [0, 0, 0, 0] (poke 0x80000 [2] (grammatical id))
     let k := (acts x f).checkRange ((acts x f).whoIs (t0 x f)) .load 0x80000 64 2
     Tr x f { cls := 10, sub := 1, extra := 0 } ∧ isOk k = true ∧ ((imageChecks ((acts x f).getLocs (okOf k).locs)).find? fun x => !x.2) = some (0, false)) :=
  ⟨iss1 (by decide +kernel), iss1 (by decide +kernel), iss1 (by decide +kernel), by decide +kernel, by decide +kernel, iss1 (by decide +kernel), tr (by decide +kernel),
    tr (by decide +kernel), tr (by decide +kernel), tr (by decide +kernel), tr (by decide +kernel)⟩
/-- A snapshot pool of two slots at 0x80000, bound by launch 0 or another; slot 1 is full with 32 bytes. -/
def pool (launch : Nat) : Pool := ⟨3, 0, 0, launch, 1, 0x80000, 0x81000, 0x82000, 256, 2, [(1, 32)], none⟩
/-- Thread 0 with the quad of a snapshot instruction: node and SIZE; the pools and waiting operations. -/
def snapping (node x : Nat) (ps : List Pool) (os : List SnapOp) : State :=
  one (regs [(.v 8, 0x80000), (.v 10, BitVec.ofNat 64 node), (.v 11, BitVec.ofNat 64 x)]) id fun s => { s with pools := ps, snaps := os }
/-- An operation that waits at the pool for thread 0. -/
def snapOp (k : SnapKind) : SnapOp := ⟨7, k, 0, 1, 0x80000, 1, 32, 0, 0, [0], 4, none, false⟩
/-- A copy that an operation comes to. -/
def isCopy : SnapRes → Option (Pool × Nat × Checked × Checked) | .copy p n x y => some (p, n, x, y) | _ => none
/-- The bytes of a pool's object. -/
def poolObj : List Byte := bytesOf 8 0x81000 ++ bytesOf 8 0x82000 ++ bytesOf 4 256 ++ bytesOf 4 2 ++ List.replicate 40 0
/-- Another operation waits; no pool; a pool of another launch; copies in and out; a missing node and an empty one; `snapfree` of a node and of
all; an object to bind, with room for its pool and without; an illegal SIZE. -/
theorem test_witness_SnapshotsWaitAndCopy : let f := (hdForm ⟨true, false⟩ [.v 8, .v 9, .v 10, .v 11]).release.barred
    let a (x : State) : State := acts x f
    let t (x : State) : Thread := t0 x f
    let mine := snapping 1 32 [pool 0] []
    (Iss1 mine f ∧ (a mine).company? 0 = some (co (a mine)) ∧ ((t mine).getPair 8).toNat % 64 = 0 ∧ (a mine).poolFor (t mine) 0x80000 = some (pool 0) ∧
      (pool 0).launch = (co (a mine)).launch ∧ (1 : Nat) < (pool 0).nslot ∧ (pool 0).size 1 = some 32 ∧
      (isCopy ((a mine).snapCopy (t mine) (pool 0) 32 0x81100 0x82000)).map (fun x => x.2.1) = some 32 ∧
      (isCopy ((a mine).snapCopy (t mine) (pool 0) 32 0x82000 0x81100)).map (fun x => x.2.1) = some 32) ∧
    (let x := snapping 1 32 [] [snapOp .sel]; Iss1 x f ∧ (a x).snaps.any (fun o => o.part == 0 && o.asid == 1 && o.obj == 0x80000) = true) ∧
    (let x := snapping 1 32 [] [{ snapOp .sel with obj := 0x70000, place := some (.phys 0x80000) }]
     Iss1 x f ∧ (a x).objectLoc ((a x).whoIs (t x)) 0x80000 = some (.phys 0x80000)) ∧
    (∀ n ∈ [0, 16], let x := poke 0x80000 poolObj (snapping 1 32 ((List.range n).map fun i => { pool 0 with id := i, obj := 0 }) [])
     let k := (a x).check ((a x).whoIs (t x)) .load 0x80000 64 false
     let p : Pool := { pool 0 with id := (a x).nextId, slots := [], place := (a x).objectLoc ((a x).whoIs (t x)) 0x80000 }
     Iss1 x f ∧ (a x).poolFor (t x) 0x80000 = none ∧ (a x).snaps = [] ∧ isOk k = true ∧ (okOf k).mig = false ∧ (a x).bad ≠ 3 ∧
       (a x).mayRead (t x) ((List.range 64).map fun i => 0x80000 + BitVec.ofNat 64 i) (okOf k) = true ∧ (a x).getLocs (okOf k).locs = poolObj ∧
       0 < ((a x).part 0).ndecks ∧ ((a x).part 0).deckList.getD 0 0 = 0 ∧ (a x).pools.countP (fun q => q.deck = 0) = n ∧
       (isCopy ((a x).snapCopy (t x) p 32 0x82000 0x81100)).map (fun x => x.2.1) = some 32) ∧
    (let x := snapping 1 32 [pool 9] []
     Iss1 x f ∧ (a x).poolFor (t x) 0x80000 = some (pool 9) ∧ (pool 9).launch ≠ (co (a x)).launch ∧ (pool 9).size 1 = some 32) ∧
    (∀ n ∈ [0, 2], let x := snapping n 16 [pool 0] []
     Iss1 x f ∧ (∀ q ∈ (a x).pools, q.slots ≠ []) ∧ (a x).snaps = [] ∧ (t x).getV 10 = BitVec.ofNat 32 n ∧ (pool 0).size n = none ∧ ((t x).getV 11).toNat = 16) ∧
    (let x := snapping 1 8 [pool 0] []; Tr x f { cls := 10, sub := 1, extra := 12 } ∧ (a x).poolFor (t x) 0x80000 = some (pool 0) ∧ (a x).snaps = [] ∧
       (co (a x)).launch = (pool 0).launch ∧ ((t x).getV 11).toNat < 16) ∧
    (let x := snapping 0xFFFFFFFF 1 [pool 0] []; Iss1 x f ∧ ((t x).getV 10).toNat = 0xFFFFFFFF) ∧
    (∀ k ∈ [SnapKind.snap, .sel], let s := { one with pools := [pool 0], snaps := [snapOp k] }
      s.snaps.find? (fun o => o.id == 7) = some (snapOp k) ∧ s.snaps.find? (snapOp k).sameLine = some (snapOp k) ∧ s.thread? 0 0 = some (u0 s) ∧
        (snapOp k).lanes.Nodup ∧ (isCopy (s.snapEval (snapOp k) (u0 s))).map (fun x => (x.2.1, x.2.2.1.locs.length, x.2.2.2.locs)) =
          some (32, 32, phys (if k == .snap then 0x81100 else 0x82000) 32)) ∧
    one.Plain (phys 0x81100 32) ∧ one.OwnLines (one.whoIs (u0 one) true) 0x81100 32 ∧ one.lines = [] :=
  ⟨iss1 (by decide +kernel), iss1 (by decide +kernel), iss1 (by decide +kernel), fun n h => by
      simp only [List.mem_cons, List.mem_nil_iff, or_false] at h
      rcases h with rfl | rfl <;> exact iss1 (by decide +kernel),
    iss1 (by decide +kernel), fun n h => by
      simp only [List.mem_cons, List.mem_nil_iff, or_false] at h
      rcases h with rfl | rfl <;> exact iss1 (by decide +kernel),
    tr (by decide +kernel), iss1 (by decide +kernel), by decide +kernel, plainOwn (by decide +kernel)⟩

/-- A tile of zeros. -/
def tile0 : Tile := ⟨Vector.replicate 1024 0, 0, false⟩
/-- A troupe with two tiles of its own and some queued work. -/
def tiled (work : List MWork := []) (rs : List (RegId × DWord) := []) (ts : List Tile := [tile0, tile0]) (g : State → State := id) : State :=
  lab (regs rs) (fun c => { c with tileT := 2 }) (List.range 32) fun s => g { s with troupes := s.troupes.map fun u => { u with tiles := ts, work := work } }
/-- A matrix instruction of the whole troupe, of the tiles `ns`. -/
abbrev Wh (s : State) (f : Form) (ns : List Nat) : Prop := s.Whole f (parts s f) (acts s f) ns (t0 s f) (parts s f)
theorem wh {s : State} {f : Form} {ns : List Nat} {p : Prop}
    (h : asks s f ∧ (fullTroupe (parts s f) = some (parts s f) ∧ (parts s f).head? = some (t0 s f) ∧ s.heldBack s.group = false ∧
      s.tileBusy (t0 s f).cid (t0 s f).trp ns = false) ∧ p) : Wh s f ns ∧ p :=
  ⟨⟨(iss ⟨h.1, trivial⟩).1, h.2.1.1, h.2.1.2.1, h.2.1.2.2.1, h.2.1.2.2.2, h.1.2.2.2.2.2.1⟩, h.2.2⟩
/-- The threads of a group hold no other thread of the company apart. -/
theorem test_witness_MatrixWorkQueuesOrTraps :
    (Wh (tiled) (markForm true (mmaSrc true 1 16 8)) [] ∧ (1 : Nat) < (acts (tiled) (markForm true (mmaSrc true 1 16 8))).tileCount 0) ∧
    (let f := markForm true [.v 8, .v 9, .v 10]; Wh (tiled) f [0, 1, 1] ∧ (acts (tiled) f).tilesErr 0 0 [1, 0, 1] = false) ∧
    (let f := markForm true [.v 8, .v 9, .v 10]
     Tr one f { cls := 7, sub := 1, extra := 1 } ∧ ∀ u ∈ (acts one f).threads, u.cid = 0 → u.exited = false → u.frames = [] ∧ u.halt = none) ∧
    (let f := markForm true []; Wh lab f [] ∧ (acts lab f).tileCount 0 ≤ 0) ∧
    (let f := markForm true [.v 8, .v 9, .v 10]; Wh (tiled) f [1, 2, 0] ∧ (acts (tiled) f).tileCount 0 ≤ 1 + 1 ∧ Wh (tiled) f [0, 1, 2] ∧ (acts (tiled) f).tileCount 0 ≤ 2) ∧
    (let s := tiled (ts := [{ tile0 with err := true }, tile0]); let f := markForm true [.f]
     Wh s f [0] ∧ 0 < (acts s f).tileCount 0 ∧ (acts s f).tilesErr 0 0 [0] = true) ∧
    (let f := markForm true (baseRegs 3 ++ [.v 4]); let s := tiled (rs := [(.v 4, 0x2103)])
     Wh s f [] ∧ loadRefused ((t0 s f).getV 4) 0 = true) ∧
    (let f := markForm true (.f :: baseRegs 3 ++ [.v 4, .v 6, .v 7]); let s := tiled (rs := [(.v 4, 0x10)])
     Wh s f (drainWaits 0 0x10) ∧ drainRefused ((t0 s f).getV 4) 0 = true) :=
  ⟨wh (by decide +kernel), wh (by decide +kernel), tr (by decide +kernel), wh (by decide +kernel),
    ⟨(wh (p := True) (by decide +kernel)).1, by decide +kernel, wh (by decide +kernel)⟩, wh (by decide +kernel), wh (by decide +kernel),
    wh (by decide +kernel)⟩

/-- The words of a legal `mloop` block: two steps of FP8 fragments in a scratchpad. -/
def loopWords : List Nat := [0x10002, 0x20201008, 0x1000, 32, 0x400, 0x2000, 32, 0x400, 0x3000, 4, 0x3800, 4, 0, 0, 0, 0]
/-- The loop that it describes. -/
def loop0 : MLoop := loopOf 0 0 (placedThread 0 0) (loopWords.map (BitVec.ofNat 32))
/-- A step, a zero, a merge and a loop as next work, and a merge that meets an error; `mloop` with its block behind a guard word; a loop step
that may go, a loop whose steps are over, with a completion word, and a step whose read lies beyond the scratchpad; words of a merge. -/
theorem test_witness_MatrixStepsAndLoops :
    (∀ w ∈ [MWork.step 0 6 false 32 32 (List.replicate 32 []) (List.replicate 32 []) [] [], .zero 1, .merge 0 1 [] [] 0 false, .loop loop0,
        .loop { loop0 with next := 2 }], let s := tiled [w]
      s.work? 0 0 = some w ∧ (s.troupe? 0 0).map (·.tiles.length) = some 2 ∧ (∀ t ∈ s.threads, t.farTiles = []) ∧ 0 < s.tileCount 0 ∧ (match exec (.matrixStep 0 0 false) s with | .next _ => true | _ => false) = true) ∧
    (let s := tiled [.merge 0 1 [] [] 0 true] [] [tile0, { tile0 with err := true }]
     s.work? 0 0 = some (.merge 0 1 [] [] 0 true) ∧ (s.troupe? 0 0).map (fun u => u.tiles.map Tile.err) = some [false, true] ∧ ∀ t ∈ s.threads, t.farTiles = []) ∧
    (let s := tiled (g := poke 0x100010 (((0x801F9 : Nat) :: loopWords).flatMap (bytesOf 4))); let f := markForm true [.q 0, .q 1, .q 2, .q 3]
     Wh s f [] ∧ s.group.head? = some (u0 s) ∧
       ((acts s f).params ((acts s f).whoIs (u0 s)) (u0 s).pc 5 16 s.word).toOption = some (loopWords.map (BitVec.ofNat 32)) ∧
       (acts s f).fetchStall ((acts s f).whoIs (u0 s)) (paramVas (u0 s).pc 5 16) = none ∧
       ((loopChecks ((acts s f).whoIs (t0 s f)).scr (loopWords.map (BitVec.ofNat 32))).all fun x => x.2) = true) ∧
    (let s := tiled [.loop loop0]
     s.company? 0 = some (co s) ∧ loop0.next < loop0.steps ∧ loop0.allReads.findSome? (readBad (co s).scrS) = none ∧ s.loopReady 0 0 loop0 = true ∧
       loop0.aaddr.length = 32 ∧ loop0.baddr.length = 32 ∧ (∀ i, i < 32 → s.thread? 0 (0 * 32 + i) ≠ none) ∧ loop0.abase + 8 ≤ loop0.bbase ∧
       loop0.bbase + 10 ≤ 64 ∧ ∀ t ∈ s.threads, t.farTiles = []) ∧
    (let k : MLoop := { loop0 with next := 2, cw := some (0x40, 9) }; let s := tiled [.loop k]
     s.work? 0 0 = some (.loop k) ∧ k.steps ≤ k.next ∧ canon s ∧ s.company? 0 ≠ none) ∧
    (let k : MLoop := { loop0 with aaddr := List.replicate 32 0x10000 }; let s := tiled [.loop k]
     s.company? 0 = some (co s) ∧ s.work? 0 0 = some (.loop k) ∧ k.next < k.steps ∧ (k.allReads.findSome? (readBad (co s).scrS)).isSome = true) ∧
    fp64.value 0xFFF0000000000001 = .nan true ∧ fp64.value 0xFFF0000000000000 = .inf true ∧ (fp64.value 1).isFin = true ∧ (0x80000000 : Word) ≠ 0x7FFFFFFF :=
  ⟨by decide +kernel, by decide +kernel, wh (by decide +kernel), by decide +kernel, by decide +kernel, by decide +kernel, by decide +kernel⟩

/-- An `mload` of one row from a scratchpad; a row in flight; a load whose rows have all arrived; `mstat`. -/
def loading : State := lab (fun t => (regs [(.v 3, 0xFF80), (.v 4, 0x100)] t)) (fun c => { c with tileT := 2 })
  (List.range 32) fun s => { s with troupes := s.troupes.map fun u => { u with tiles := [tile0, tile0] } }
/-- The check of one element of a row. -/
def elemAt (s : State) (acc : Acc) (t : Thread) (j : Nat) : Except Trap Checked := s.check (s.whoIs t) acc (t.base 3 + BitVec.ofNat 64 (j * 4)) 4 false
set_option Elab.async false in
theorem test_witness_MatrixLoadsAndStatus :
    (let f := markForm true (baseRegs 3 ++ [.v 4]); let s := acts loading f
     Wh loading f [] ∧ 0 + 0 < s.tileCount 0 ∧ ((t0 loading f).getV 4).toNat = 0x100 ∧
       ∀ t ∈ parts loading f, t.lane < 1 → (t.base 3).toNat % 4 = 0 ∧ ∀ j, j < 32 → isOk (elemAt s .load t j) = true ∧ (okOf (elemAt s .load t j)).mig = false ∧
         (okOf (elemAt s .load t j)).locs.length = 4 ∧ (okOf (elemAt s .load t j)).kinds.length = 1) ∧
    (let o := op (.mload 0 0 4 [0, 31]) (phys 0x80000 8); let s := flying o
     s.readyOp 7 = some o ∧ [0, 31] ≠ ([] : List Nat) ∧ ([0, 31] : List Nat).Nodup ∧ (s.troupe? 0 0).isSome = true) ∧
    (let s := tiled [.load 0 1 3 [(0, 31, 5)] false]; s.work? 0 0 = some (.load 0 1 3 [(0, 31, 5)] false) ∧ ∀ o ∈ s.ops, o.cid ≠ 0) ∧
    (let f := markForm true [.f]
     Wh (tiled) f [1] ∧ ((acts (tiled) f).tile? 0 0 1).map (fun t => (t.err, t.flags)) = some (false, 0) ∧ ∀ w ∈ parts (tiled) f, fpTrap w.fpcsr 0 = none) :=
  ⟨wh (by decide +kernel), by decide +kernel, by decide +kernel, wh (by decide +kernel)⟩

/-- `mdrain` of a row of FP32 with the max word; stores and keys in flight; words of each kind. -/
theorem test_witness_MatrixDrains :
    (let f := markForm true (.f :: baseRegs 3 ++ [.v 4, .v 6, .v 7])
     let s0 : State := { loading with threads := loading.threads.map (regs [(.v 4, 0x7F200120), (.v 6, 0x90000)]) }
     let s := acts s0 f; let c := (t0 s0 f).getV 4; let m := s.check (s.whoIs (t0 s0 f)) .red ((t0 s0 f).getPair 6) 4 true
     Wh s0 f (drainWaits 0 0x7F200120) ∧ drainRefused c 0 = false ∧ (drainOf c).rows = 1 ∧ (drainOf c).max = true ∧ 0 + 0 < s.tileCount 0 ∧
       (s.tile? 0 0 0).map (fun t => (t.err, t.flags)) = some (false, 0) ∧
       (∀ x ∈ parts s0 f, x.lane < 1 → (x.base 3).toNat % 4 = 0 ∧ ∀ j, j < 32 → isOk (elemAt s .store x j) = true ∧ (okOf (elemAt s .store x j)).mig = false ∧
         (okOf (elemAt s .store x j)).kinds.length = 1) ∧
       isOk m = true ∧ (okOf m).mig = false ∧ (∀ x ∈ parts s0 f, fpTrap x.fpcsr 0 = none) ∧ ∀ x ∈ s.threads, x.farTiles = []) ∧
    (let o := op (.drain 0 [(31, phys 0x80000 4, [1, 2, 3, 4])]) (phys 0x80000 4); let s := flying o
     s.Plain o.locs ∧ s.OwnLines (s.opWho o) (o.va.toNat + 31 * 4) 4 ∧ s.ops = [o] ∧ o.kinds ≠ [.red]) ∧
    (let o := op (.drainMax 0 [5]) (phys 0x90000 4); let s := flying o
     s.Plain o.locs ∧ s.OwnLines (s.opWho o) 0x8000 1 ∧ s.ops = [o] ∧ o.locs.length = 4) ∧
    fp32.value 0xFF800001 = .nan true ∧ fp32.value 0x7F800000 = .inf false ∧ (fp32.value 0x80000000).isFin = true ∧ [fp32, bf16, fp16, e4m3, e5m2][4]? = some e5m2 :=
  ⟨wh (by decide +kernel), plainOwn (by decide +kernel), plainOwn (by decide +kernel), by decide +kernel⟩

/-- `dsplit` of a troupe; a double in [1/2, 1), and a slice exponent that admits it. -/
theorem test_witness_DoublePrecisionSlices :
    (let f := markForm true (.f :: groupRegs 8 8 ++ [.v 3]); Wh lab f [] ∧ ∀ t ∈ parts lab f, fpTrap t.fpcsr 0 = none) ∧
    fp64.value 0x3FE0000000000000 = .fin false (2 ^ 52) (-53) ∧ (2 : ℚ) ^ ((0 : ℤ) - 1) ≤ |(FV.fin false (2 ^ 52) (-53)).rat| ∧
    |(FV.fin false (2 ^ 52) (-53)).rat| < (2 : ℚ) ^ (0 : ℤ) ∧ (0x80000000 : Word) ≠ 0x7FFFFFFF ∧
    |(FV.fin false (2 ^ 52) (-53)).rat| * (2 : ℚ) ^ (-(0 : ℤ)) < 1 ∧ 1 ≤ |(FV.fin false (2 ^ 52) (-53)).rat| * (2 : ℚ) ^ (-(-1 : ℤ)) :=
  ⟨wh (by decide +kernel), by decide +kernel, by norm_num [FV.rat], by norm_num [FV.rat], by decide, by norm_num [FV.rat], by norm_num [FV.rat]⟩
/-- Thread 0 at a region of one step of one word, in the pass of number `p`, with the guess 0. -/
def region (running : Bool) (y : Option (List Word)) : Region :=
  { pc := 0x100000, d := 4, running := running, steps := 1, w := 1, passes := 1, stall := false, tolabs := 0, tolrel := 0, endoff := 8, failoff := 12,
    guess := 0, init := [0], g := if running then [some [0]] else [], y := if running then [y] else [], j := if running then [[0]] else [], snap := [0], pass := 1,
    rmax := [], settled := 0, reads := [], buf := if running then [⟨0, 1, [8], [.scratch 0 8], [9]⟩] else [], loads := [], stores := [], overflow := [], traps := [] }
/-- A company with that region; its threads wait with `w` or the region's step thread runs. -/
def regional (r : Region) (w : Wait) : State := one (fun t => { t with wait := w }) fun c => { c with region := some r }
/-- The words of a legal region block, behind a guard word. -/
def rxWords : List Nat := [0x10001, 0, 0, 8, 12, 0, 0, 0]
/-- A pass of two steps that neither ends the region nor is the last one. -/
def again : Region := { region true (some [5]) with steps := 2, passes := 2, g := [some [0], some [0]], y := [some [5], some [6]], j := [[0], [0]], snap := [0, 0] }
/-- Stores below the end of the scratchpad window take no line of device memory. -/
theorem ownAllLow {s : State} {xs : List (Who × Nat × Nat)} (hl : s.lines = []) (hx : ∀ x ∈ xs, x.2.1 + x.2.2 ≤ Config.scratchEnd) : s.OwnAll xs := by
  refine fun x h => ⟨own hl _ _ _, fun y _ line k k' hk => ?_⟩
  obtain ⟨v, l, i, -, -, hi, hs, -⟩ := hk
  have := hx x h
  omega
/-- A pass of number `p` of those two steps with some outputs and derivatives. -/
def pass (p : Nat) (y j : List Word) (f : Region → Region := id) : Region := f { again with passes := 5, pass := p, y := y.map fun x => some [x], j := j.map fun x => [x] }
/-- The step whose trap ends a region, with the trap and its word. -/
def stepTrap : Nat × Trap × DWord := (1, { cls := 5, sub := 1 }, 7)
set_option Elab.async false in
theorem test_witness_RegionsStartPassAndEnd :
    (let s := one id id (poke 0x100010 ((0x401F9 :: rxWords).flatMap (bytesOf 4))); let f := (markForm true [.v 4]).release.barred; let w := rxWords.map (BitVec.ofNat 32)
     Iss s f ∧ parts s f ≠ [] ∧ (∀ t ∈ parts s f, (acts s f).company? t.cid = some (co (acts s f)) ∧ t.pc = 0x100000) ∧
       s.group.head? = some (u0 s) ∧ ((acts s f).params ((acts s f).whoIs (u0 s)) (u0 s).pc 5 8 s.word).toOption = some w ∧
       (acts s f).fetchStall ((acts s f).whoIs (u0 s)) (paramVas (u0 s).pc 5 8) = none ∧ (co (acts s f)).region = none ∧
       (w.getD 1 0).msb = false ∧ (w.getD 1 0).toNat / 2 ^ 23 % 2 ^ 8 ≠ 255 ∧ (4 : Reg).toNat + 1 ≤ 64 ∧ 1 ≤ (co (acts s f)).ntr * 32) ∧
    (let s := regional (region false none) .rxbegin; let r := region false none
     s.company? 0 = some (co s) ∧ (co s).region = some r ∧ s.rxMet 0 = true ∧ s.runs 0 = true ∧ s.sequencerFree (co s).core 0 = true ∧ s.rxBroken 0 r = false ∧
       s.thread? 0 0 = some (u0 s) ∧ (u0 s).old = [] ∧ (u0 s).far = [] ∧ 0 < r.steps) ∧
    (again.settledCount = 2 ∧ again.endOfPass = .again [[5], [6]] ∧ (region true (some [0])).endOfPass = .stop 0 1 ∧ (region true (some [5])).endOfPass = .stop 1 1 ∧
      { region true (some [0]) with overflow := [0] }.endOfPass = .stop 6 0) ∧
    (let r := pass 3 [5, 6] [0, 0] fun r => { r with stall := true, rmax := [again.largest, again.largest] }
     r.largest = again.largest ∧ r.largest.isSome = true ∧ r.allPass = false ∧ r.pass ≠ r.passes ∧ r.endOfPass = .stop 2 2) ∧
    (let r := pass 2 [0x7F000000, 0] [0, 0x7F000000]
     r.allPass = false ∧ r.pass ≠ r.passes ∧ r.stall = false ∧ (r.scan.getD 1 []).map (fun x => (fp32.value x.toNat).isFin) = [false] ∧ r.endOfPass = .stop 3 2) ∧
    (∀ r ∈ [region true (some [0]), again, { again with traps := [stepTrap] }], let s := regional r .rxend
     s.company? 0 = some (co s) ∧ (co s).region = some r ∧ s.passOver 0 r = true ∧ s.runs 0 = true ∧ canon s ∧
       ∀ b ∈ r.buf, b.locs.Nodup ∧ b.locs.length = b.data.length ∧ (∀ l ∈ b.locs, isPlain s l = true) ∧ s.ops = [] ∧ s.lines = []) ∧
    { again with traps := [stepTrap] }.endOfPass = .stop 5 1 ∧
    ∀ w, (regional (region true (some [0])) .rxend).OwnAll [(w, 8, 1)] ∧ (regional (region true (some [0])) .rxend).Steady w 8 [.scratch 0 8] :=
  ⟨iss (by decide +kernel), by decide +kernel, by decide +kernel, by decide +kernel, by decide +kernel, by decide +kernel, by decide +kernel,
    fun w => ⟨ownAllLow (by decide +kernel) (by simp [Config.scratchEnd]), fun h => by simp [Config.scratchEnd] at h⟩⟩

/-- What `Issues` asks of an instruction that a body may execute, to be decided. -/
theorem issBody {s : State} {f : Form} {p : Prop} (h : (s.issue = some (grp s) ∧ (grp s).tids.Nodup ∧
    (f.mark = true → ∀ t ∈ s.members (grp s), s.resultsOut t.cid t.tid = false) ∧ (f.quiet = true → ∀ t ∈ s.members (grp s), s.releaseOut t.cid t.tid = false) ∧
    (f.uni = true → (acts s f).uniDiffers f (parts s f) = false) ∧ s.bad ≠ 2) ∧ f.forbid = false ∧ parts s f = [t0 s f] ∧ p) : Iss1 s f ∧ p :=
  ⟨by show s.Issues f [t0 s f] (acts s f)
      rw [← h.2.2.1]
      exact ⟨⟨grp s, h.1.1, h.1.2.1, h.1.2.2.1, h.1.2.2.2.1, rfl, rfl⟩, h.1.2.2.2.2.1, (fun q => by rw [h.2.1] at q; cases q), h.1.2.2.2.2.2⟩, h.2.2.2⟩
/-- Instructions of a body, an `rxend` with and without output, outside a region, and `rxstat`. -/
theorem test_witness_RegionBodies :
    (∀ fy ∈ [(markForm true, none), (markForm true, some [5]), (markForm true [.v 3, .v 4], none)], let f : Form := fy.1; let r := region true fy.2; let s := regional r .none
     Iss1 s f ∧ (acts s f).company? 0 = some (co s) ∧ (t0 s f).cid = 0 ∧ (acts s f).bodyOf (t0 s f) = some r ∧ (63 : Reg).toNat + r.w ≤ 64 ∧ (t0 s f).tid = 0 ∧
       r.init.length = r.w ∧ r.y[(t0 s f).tid]? = some fy.2) ∧
    (let f := markForm true
     Tr one f { cls := 11, sub := 3 } ∧ Tr one (markForm true [.v 3, .v 4]) { cls := 11, sub := 3 } ∧
      (Iss lab f ∧ ∀ t ∈ parts lab f, (acts lab f).company? t.cid = some (co (acts lab f)))) :=
  ⟨fun fy h => by
      simp only [List.mem_cons, List.mem_nil_iff, or_false] at h
      rcases h with rfl | rfl | rfl <;> exact issBody (by decide +kernel),
    (tr (p := True) (by decide +kernel)).1, (tr (p := True) (by decide +kernel)).1, iss (by decide +kernel)⟩

/-- A ladder of launch 0 with two rungs: object at 0x80000, results, frames; `n` items posted. -/
def ladder (launch n : Nat) : Ladder :=
  { id := 5, part := 0, deck := 0, launch := launch, asid := 1, obj := 0x80000, res := 0x81000, frames := 0x82000, params := 0, cap := 32, retvar := 8, prio := 0,
    rungs := [⟨0x100000, 0, 0, 0, false, 0x10000⟩, ⟨0x100000, 0, 0, 256, false, 10⟩], posted := BitVec.ofNat 32 n, retired := 0,
    waiting := [[(0, 1, 0)], []], args := [(0, 1)], done := [], slotloss := 0, packs := [] }
/-- Thread 0 of a company that posts to it, or holds its item 0. -/
def laddered (ls : List Ladder) (item : Option (Nat × Nat) := none) (g : State → State := id) : State :=
  one (fun t => { regs [(.v 3, 0x1000), (.v 8, 0x80000)] t with item := item }) id fun s => g { s with ladders := ls }
/-- A legal object: two rungs, home deck 0. -/
def ladderObj : List Nat := [0x81000, 0, 0x82000, 0, 0, 0, 32, 8, 1, 0, 0, 0, 0, 0, 0, 0, 0x100000, 0, 0, 0, 10, 0, 0, 0, 0x100000, 0, 0, 0x1000000, 10, 0, 0, 0]
/-- A posting to a bound ladder with room, full, and of another launch, and one that binds its object; `esc` with and without an item and at the
top rung; the copy of an escalation. -/
theorem test_witness_LaddersTakeAndEscalateItems :
    (let f := (hdForm ⟨true, false⟩ [.v 4]).release.barred; let blk := poke 0x100010 ([0x201F9, 0x80000, 0, 0, 0].flatMap (bytesOf 4))
     (∀ x ∈ [ladder 0 31, ladder 0 32, ladder 9 0], let s := laddered [x] none blk
       Iss1 s f ∧ (acts s f).company? 0 = some (co (acts s f)) ∧ s.group.head? = some (u0 s) ∧
         ((acts s f).params ((acts s f).whoIs (u0 s)) (u0 s).pc 5 4 s.word).toOption = some [0x80000, 0, 0, 0] ∧
         (acts s f).fetchStall ((acts s f).whoIs (u0 s)) (paramVas (u0 s).pc 5 4) = none ∧
         (acts s f).ladderFor (t0 s f) 0x80000 = some x ∧ 0 < x.waiting.length ∧ (x.waiting.getD 0 []).head? = some (0, 1, 0) ∧ x.rungs[0]?.map Rung.starve = some 65536) ∧
     (ladder 0 32).posted - (ladder 0 32).retired = 32 ∧
     (let s := laddered [] none fun s => poke 0x80000 (ladderObj.flatMap (bytesOf 4)) (blk s); let s1 := acts s f
      let k := s1.check (s1.whoIs (t0 s f)) .load 0x80000 192 false
      Ac s f .load 0x80000 192 false ∧ s1.ladderFor (t0 s f) 0x80000 = none ∧
        s1.mayRead (t0 s f) ((List.range 192).map fun i => 0x80000 + BitVec.ofNat 64 i) (okOf k) = true ∧ s1.bad ≠ 3 ∧
        ((ladderChecks (s1.part 0).ndecks (s1.getLocs (okOf k).locs)).all fun x => x.2) = true ∧ (∀ y ∈ s1.ladders, y.id < s1.nextId))) ∧
    (let f := (markForm true [.v 3]).release.barred; let s := laddered [ladder 0 1] (some (5, 0)); let s1 := acts s f
     let x := s1.checkRange (s1.whoIs (t0 s f)) .load 0x1000 256 3; let y := s1.checkRange (s1.whoIs (t0 s f)) .engineW 0x82000 256 3
     Iss1 s f ∧ (t0 s f).item = some (5, 0) ∧ s1.company? 0 = some (co s1) ∧ s1.rungHere 0 = 0 ∧ s1.ladder? 5 = some (ladder 0 1) ∧ s1.thread? 0 0 = some (u0 s1) ∧
       ((t0 s f).base 3).toNat = 0x1000 ∧ isOk x = true ∧ isOk y = true ∧ (okOf x).mig = false ∧ (okOf y).mig = false ∧ s1.tenderLoad 0 < 64) ∧
    (let f := (markForm true [.v 3]).release.barred; Tr (laddered []) f { cls := 11, sub := 4 } ∧ (t0 (laddered []) f).item = none) ∧
    (let f := (markForm true [.v 3]).release.barred; let l : Ladder := { ladder 0 1 with rungs := [⟨0x100000, 0, 0, 0, false, 10⟩] }; let s := laddered [l] (some (5, 0))
     Tr s f { cls := 11, sub := 1 } ∧ (acts s f).ladder? 5 = some l ∧ l.rungs.length ≤ (acts s f).rungHere 0 + 1) ∧
    (let z : Cmd := { cmd (.esc 5 0 1) .run ((List.replicate 16 (0 : Word)).set 6 256) 0x1000 0x82000 with cw := false }; let s : State := { commanded z with ladders := [ladder 0 1] }
     let x := s.cmdCheck z .load 0x1000 256; let y := s.cmdCheck z .engineW 0x82000 256
     s.Plain (okOf y).locs ∧ s.OwnLines (s.cmdWho z) 0x82000 256 ∧ s.cmds.find? (fun c => c.id == 7) = some z ∧ bw z.w 24 = 256 ∧ s.cmdReady z [(0x1000, 256), (0x82000, 256)] = true ∧ isOk x = true ∧ isOk y = true ∧
       (okOf x).mig = false ∧ (okOf y).mig = false ∧ (okOf y).kinds ≠ [.red] ∧ (okOf x).locs.length = 256 ∧ (okOf y).locs.length = 256 ∧
       (ladder 0 1).args.find? (fun q => q.1 == 0) = some (0, 1) ∧ ((ladder 0 1).waiting.getD 1 []).length < 31 ∧ ((ladder 0 1).waiting.getD 1 []).head? = none) :=
  ⟨⟨fun x h => by
      simp only [List.mem_cons, List.mem_nil_iff, or_false] at h
      rcases h with rfl | rfl | rfl <;> exact iss1 (by decide +kernel),
    by decide, ac (by decide +kernel)⟩, iss1 (by decide +kernel), tr (by decide +kernel), tr (by decide +kernel), plainOwn (by decide +kernel)⟩

/-- `lres` with an item and without; its slot's store; cursors that pass an item, and the last one; `lstat` of a bound ladder and of an object; a rung
whose oldest item has waited its time and one that waits on, and 32 items at a higher rung. -/
theorem test_witness_LaddersRetireItems :
    (let f := (markForm true [.v 4, .v 5]).release.barred; let s := laddered [ladder 0 1] (some (5, 0)); let s1 := acts s f
     Iss1 s f ∧ (t0 s f).item = some (5, 0) ∧ s1.ladder? 5 = some (ladder 0 1) ∧ Gr s1 (t0 s f) .store 0x81000 16 false ∧ (1 : Nat) = 1) ∧
    (Tr (laddered []) (markForm true [.v 4, .v 5]).release.barred { cls := 11, sub := 4 } ∧ (t0 (laddered []) (markForm true [.v 4, .v 5]).release.barred).item = none) ∧
    (let o := op (.slot 5 0 (List.replicate 16 1)) (phys 0x81000 16); let s : State := { flying o with ladders := [ladder 0 1] }
     s.Plain o.locs ∧ s.OwnLines (s.opWho o) 0x8000 1 ∧ s.readyOp 7 = some o ∧ o.kinds ≠ [.red] ∧ o.locs ≠ [] ∧ s.ladder? 5 = some (ladder 0 1)) ∧
    (let l : Ladder := { ladder 0 1 with done := [0] }; let s := laddered [l]; let k := s.check (s.ladderWho l) .store (l.obj + 36) 8 false
     s.Plain ([.sync 0 8, .sync 0 9, .sync 0 10, .sync 0 11] ++ (okOf k).locs) ∧ s.OwnLines (s.ladderWho l) 0x80024 8 ∧ s.ladder? 5 = some l ∧ l.done.Nodup ∧ l.retired ≠ 1 ∧ l.posted = 1 ∧ (0 : Word).toNat ∈ l.done ∧
       (1 : Word).toNat ∉ l.done ∧ l.retvar % 8 = 0 ∧ syncIn (s.part 0) l.retvar = true ∧ isOk k = true ∧ (okOf k).mig = false ∧ (okOf k).locs.length = 8 ∧
       ({ l with posted := 2 } : Ladder).posted ≠ 1) ∧
    (let f := (hdForm ⟨true, false⟩ [.v 8, .v 9]).barred
     ∀ b : Bool, let s := laddered (if b then [ladder 0 1] else []); let s1 := acts s f
     Ac s f .load 0x80000 64 false ∧ ((t0 s f).getPair 8).toNat % 64 = 0 ∧
       s1.mayRead (t0 s f) ((List.range 64).map fun i => 0x80000 + BitVec.ofNat 64 i) (okOf (s1.check (s1.whoIs (t0 s f)) .load 0x80000 64 false)) = true ∧ s1.bad ≠ 3 ∧
       s1.ladderFor (t0 s f) 0x80000 = if b then some (ladder 0 1) else none) ∧
    (let l : Ladder := { ladder 0 1 with waiting := [[], (List.range 32).map fun i => (i, 1, 3)] }; let s := laddered [l]
     s.ladder? 5 = some l ∧ l.waiting[1]? = some ((0, 1, 3) :: (List.range 31).map fun i => (i + 1, 1, 3)) ∧ ((ladder 0 1).rungs[1]?).map Rung.starve = some 10 ∧
       (s.deck 0).clk ≤ 3 ∧ 4 / 65536 = (s.deck 0).clk / 65536 ∧ l.deck < 24) ∧
    (let l : Ladder := { ladder 0 1 with waiting := [[], [(0, 1, 3)]] }; let s := laddered [l]
     s.ladder? 5 = some l ∧ l.waiting[1]? = some [(0, 1, 3)] ∧ (s.deck 0).clk ≤ 13 ∧ 14 / 65536 = (s.deck 0).clk / 65536) :=
  ⟨iss1 ⟨by decide +kernel, by decide +kernel, by decide +kernel, by decide +kernel, gr (by decide +kernel)⟩, tr (by decide +kernel), plainOwn (by decide +kernel),
    plainOwn (by decide +kernel), fun b => by cases b <;> exact ac (by decide +kernel), by decide +kernel, by decide +kernel⟩
/-- A machine between groups. -/
def idle (s : State) : State := { s with issue := none }
/-- Its core 0 changed. -/
def core0 (f : Core → Core) (s : State) : State := { s with cores := s.cores.setIfInBounds 0 (f (s.core 0)) }
set_option Elab.async false in
/-- Thread identifiers are distinct, to be decided. -/
theorem named_of {s : State} {p : Prop} (h : (s.threads.map fun t => (t.cid, t.tid)).Nodup ∧ p) : s.Named ∧ p := h
/-- A pending integrity trap of thread 0. -/
def pending : State := lab fun t => if t.tid = 0 then { t with asyncs := [⟨{ cls := 5, sub := 1 }, 0, none⟩] } else t
/-- An opportunity with a ready troupe; one that heat or the register-read limiter withholds; and a pending trap that is taken. -/
theorem test_witness_IssueAndPendingTraps :
    (let s := idle lab; s.powered 0 = true ∧ s.issue = none ∧ s.Named ∧ (s.core 0).need ≤ (s.core 0).eff ∧ ((s.core 0).clk + max 1 0) % 256 < (s.core 0).allow ∧
      placedTroupe 0 ∈ s.troupes ∧ (placedTroupe 0).active = true ∧ co s ∈ s.companies ∧ (co s).cid = 0 ∧ (co s).core = 0 ∧ (co s).state = .resident ∧
      placedThread 0 0 ∈ s.threads ∧ (placedThread 0 0).wait = .none ∧ (placedThread 0 0).halt = none ∧ (placedThread 0 0).asyncs = [] ∧ (placedThread 0 0).exited = false ∧
      (∀ v ∈ s.threads, s.resultsOut v.cid v.tid = false) ∧ (∀ v ∈ s.troupes, v.work = []) ∧ ∀ v ∈ s.threads, v.frames = [] ∧ v.halt = none) ∧
    (let s := core0 (fun k => { k with clk := 254, allow := 255 }) (idle lab)
     s.powered 0 = true ∧ s.issue = none ∧ s.Named ∧ (s.core 0).need ≤ (s.core 0).eff ∧ (s.core 0).allow ≤ ((s.core 0).clk + max 1 0) % 256) ∧
    (let s := core0 (fun k => { k with need := 40 }) (idle lab)
     s.powered 0 = true ∧ s.issue = none ∧ s.Named ∧ (s.core 0).eff < (s.core 0).need) ∧
    (let s := idle pending; let t := u0 s; let a : Async := ⟨{ cls := 5, sub := 1 }, 0, none⟩
     let s2 := s.updThread t.cid t.tid fun u => { u with asyncs := u.asyncs.erase a }; let u := u0 s2
     Pl s2 u a.trap ∧ s.thread? t.cid t.tid = some t ∧ s.company? t.cid = some (co s) ∧ (co s).state = .resident ∧ t.exited = false ∧ t.halt = none ∧ a ∈ t.asyncs ∧
       (∀ b ∈ t.asyncs, a = b ∨ a.trap.cls < b.trap.cls ∨ (a.trap.cls = b.trap.cls ∧ a.ticket < b.ticket)) ∧ s.bodyOf t = none ∧ u.cid = t.cid ∧ u.tid = t.tid) :=
  ⟨by unfold State.Named; decide +kernel, by unfold State.Named; decide +kernel, by unfold State.Named; decide +kernel, pl (by decide +kernel)⟩

/-- A host store of two bytes to device memory and to host memory, one that reaches nothing; an access of BAR0 with no command running; power-on, heat
and current. -/
theorem test_witness_HostBringUpAndSamples :
    (let s : State := { base with status := base.status.setIfInBounds 0 1 }
     s.Plain (phys 0x300000 2) ∧ s.Plain (phys Config.hostBase 2) ∧ s.status.getD 0 0 = 1 ∧ 0x300000 + 2 ≤ 224 * 2 ^ 30 ∧ Config.hostBase + 2 ≤ Config.hostBase + Config.hostSize) ∧
    (base.window.status ≠ 0 ∧ ([1] : List Byte) ≠ [] ∧ (0x2000 : Nat) = 0x2000 + 0 * 0x200 + 0 * 8) ∧
    (base.status.getD 0 0 ≠ 1 ∧ 0x300000 < Config.hostBase ∧ 0x300000 < Config.bar0Base ∧ State.reset.status.getD 0 0 = 0) ∧
    (let s : State := { base with parts := base.parts.setIfInBounds 0 { base.part 0 with regs := 2 } }
     (0 : Nat) < 24 ∧ (1 : Nat) < 4 ∧ (∃ p ∈ s.parts.toList, p.defined = true ∧ 0 / 16 ∈ p.feeds 1) ∧ (s.core 0).auto = true ∧
       ¬∃ p ∈ s.parts.toList, p.defined = true ∧ 0 / 16 ∈ p.feeds 0) :=
  ⟨plain ⟨by decide +kernel, plain (by decide +kernel)⟩, by decide +kernel, by decide +kernel, by decide +kernel⟩
/-- A running module whose partition 0 has its queues at 0x300000; queue 0 is of ASID 1, has two entries and its bell rung. -/
def ringing (head tail entry : Nat) (record : List Nat) : State :=
  let s := lab id id (List.range 32) fun s => poke 0x302000 (record.flatMap (bytesOf 4)) (poke 0x301000 (bytesOf 8 entry)
    (poke 0x300000 ([0x301000, 0, 2, head, tail, 0x10300, 0, 0].flatMap (bytesOf 4)) s))
  { s with status := s.status.setIfInBounds 0 1,
           parts := s.parts.setIfInBounds 0 { s.part 0 with qtab := 0x300000, bells := [0] } }
/-- A record of one company of `n` troupes (R294). -/
def record (n : Nat) : List Nat := [0x100000, 0, 7, 0, 0, 0, 0, 0, 0x100, 0x302, 8, 0, 0, 1, 0, 0, 1, 0, 0x110020, 0, 0x220000 + n, 0]
/-- The record that the device has read. -/
def readAt (s : State) (va : DWord) (n : Nat) : Except Trap Checked := s.check { cid := 0, part := 0, asid := 1, sys := true, scr := 0 } .load va n false
/-- What stands at the head of a queue that is served. -/
abbrev served (s : State) : Prop :=
  (s.part 0).defined = true ∧ (s.part 0).bells.contains 0 = true ∧ (s.queue 0 0).en = true ∧ (s.queue 0 0).countOk = true ∧ (s.queue 0 0).asid = 1 ∧
    ∀ l ∈ s.launches, l.part = 0 → l.queue = 0 → l.units ≠ 0
/-- A unit that waits, with room for it; the end of a company and of its launch. -/
def unitWaits : State := let s := ringing 0 1 0x302000 (record 1); { s with launches := s.launches ++ [{ placedLaunch 5 with units := 0, instances := 1 }], nextId := 7 }
theorem test_witness_LaunchesRun :
    (let s := ringing 0 1 0x302000 (record 1)
     s.status.getD 0 0 = 1 ∧ (s.part 0).defined = true ∧ (s.part 0).makers.contains (0, false) = false ∧ base.status.getD 0 0 ≠ 1) ∧
    (served (ringing 1 1 0x302000 []) ∧ (ringing 1 1 0x302000 []).queue 0 0 = { (ringing 1 1 0x302000 []).queue 0 0 with head := 1, tail := 1 }) ∧
    (let s : State := ringing 0 1 0x302000 []; let t := poke 0x300000 (bytesOf 8 0x80000000) s
     served t ∧ (t.queue 0 0).head ≠ (t.queue 0 0).tail ∧ isOk (readAt t (BitVec.ofNat 64 ((t.queue 0 0).base + (t.queue 0 0).head % (t.queue 0 0).count * 8)) 8) = false) ∧
    (∀ e ∈ [0x302004, 0x80000000, 0x302000], let s := ringing 0 1 e (record 1); let k := okOf (readAt s (BitVec.ofNat 64 ((s.queue 0 0).base + (s.queue 0 0).head % (s.queue 0 0).count * 8)) 8)
     served s ∧ (s.queue 0 0).head ≠ (s.queue 0 0).tail ∧ isOk (readAt s (BitVec.ofNat 64 ((s.queue 0 0).base + (s.queue 0 0).head % (s.queue 0 0).count * 8)) 8) = true ∧ k.mig = false ∧
       natOf (s.getLocs k.locs) = e ∧ isOk (readAt s (BitVec.ofNat 64 e) 128) = (e != 0x80000000)) ∧
    (∀ x ∈ [(record 33, some 80, false), (record 1, none, false), ((record 32).set 9 0x305, none, true)], let s := ringing 0 1 0x302000 x.1; let r := okOf (readAt s 0x302000 128)
     let l := launchOf 0 0 (s.queue 0 0) 0x302000 (s.getLocs r.locs)
     served s ∧ r.mig = false ∧ s.depsStall (deviceWho 0 (s.queue 0 0).asid) (s.getLocs r.locs) = false ∧ recordBad (s.part 0) l (s.getLocs r.locs) = x.2.1 ∧ (x.2.1 = none → s.tooBig l = x.2.2 ∧ s.readDeps l (s.getLocs r.locs) = some [])) ∧
    (let s := unitWaits; let l := { placedLaunch 5 with units := 0, instances := 1 }
     (s.part 0).defined = true ∧ (∀ p ∈ [1, 2, 3], ∀ x ∈ List.range 65, s.turn 0 p x = .idle) ∧ (∀ x ∈ List.range 65, x ≠ 0 → s.turn 0 0 x = .idle) ∧ s.nextLaunch 0 0 0 = some l ∧
       l.part = 0 ∧ l.queue = 0 ∧ l.upper = [] ∧ (s.ranked 0).find? (fun c => (s.room c l.ntr l.scr l.tiles).isSome) = some 0 ∧ (s.room 0 l.ntr l.scr l.tiles).isSome = true ∧
       (∀ t ∈ s.threads, t.cid ≠ s.nextId) ∧ (∀ c ∈ s.companies, c.cid ≠ s.nextId) ∧ ∀ u ∈ s.troupes, u.cid ≠ s.nextId) ∧
    (let s := lab fun t => { t with exited := true }
     s.company? 0 = some (co s) ∧ (co s).onCore = true ∧ (∀ t ∈ s.threads, t.cid = 0 → t.exited = true) ∧ s.quietCompany 0 = true ∧ s.launch? (co s).launch = some (placedLaunch 0)) ∧
    (let s : State := { lab id fun c => { c with state := .ended } with launches := [{ placedLaunch 0 with record := 0x302000, cvar := 8 }] }
     let l : Launch := { placedLaunch 0 with record := 0x302000, cvar := 8 }; let k := s.check { cid := 0, part := l.part, asid := l.asid.toNat, sys := true, scr := 0 } .store (l.record + 56) 4 false
     s.Plain ((okOf k).locs ++ (List.range 4).map fun i => .sync l.part (l.cvar + i)) ∧
       s.OwnLines { cid := 0, part := l.part, asid := l.asid.toNat, sys := true, scr := 0 } 0x302038 4 ∧ s.launch? 0 = some l ∧ l.units = l.instances ∧ s.outZero 0 = true ∧
       (∀ c ∈ s.companies, c.launch = 0 → c.state = .ended) ∧ (∀ x ∈ s.ladders, x.launch ≠ 0) ∧ isOk k = true ∧ (okOf k).mig = false ∧ l.cvar % 8 = 0 ∧ syncIn (s.part l.part) l.cvar = true ∧ (okOf k).locs.length = 4) :=
  ⟨by decide +kernel, by decide +kernel, by decide +kernel, by decide +kernel, by decide +kernel, by decide +kernel, by decide +kernel, plainOwn (by decide +kernel)⟩
/-- A company on core 0 with a slice of 1,024 cycles, `n` of its threads exited, beside one that waits for room. -/
def sliced (n : Nat) (st : Residency) (idem : Bool) : State :=
  core0 (fun k => { k with tslice := 1 }) (lab (fun t => if t.tid < n then { t with exited := true } else t) (fun c => { c with state := st, idem := idem }) (List.range 32) fun s =>
    { s with companies := s.companies ++ [{ placedCompany 9 with state := .saved, ntr := 33 }] })
/-- The ends of a slice, of a drain, of a save and of a flush, and the two ways to resume. -/
theorem test_witness_PreemptionAndResumption :
    (∀ x ∈ [(24, false), (10, true), (0, false), (0, true)], let s := sliced x.1 .resident x.2
     s.company? 0 = some (co s) ∧ (co s).core < 384 ∧ s.launch? (co s).launch = some (placedLaunch 0) ∧ (co s).state = .resident ∧ (placedLaunch 0).pin = false ∧
       (s.core 0).tslice.toNat % 2 ^ 24 * 1024 ≠ 0 ∧ (co s).start + 1024 ≤ 2000 ∧ (s.core 0).clk ≤ 2000 ∧ s.waitsForRoom (co s).part (co s).prio = true ∧ (placedLaunch 0).phint = 0 ∧
       ((s.threads.filter fun t => t.cid == 0 && t.exited).length) * 256 / (32 * (co s).ntr) = 8 * x.1 ∧ (co s).idem = x.2) ∧
    (let s := sliced 1 (.draining 0) false
     s.company? 0 = some (co s) ∧ (co s).state = .draining 0 ∧ 0 + 1024 < 2000 ∧ (s.core 0).clk ≤ 2000 ∧ ∃ t ∈ s.threads, t.cid = 0 ∧ t.exited = false) ∧
    ((co (sliced 1 .saving false)).state = .saving ∧ (sliced 1 .saving false).saveReady (co (sliced 1 .saving false)) = true ∧ (sliced 1 .saving false).recordsStall .load 0 = false ∧
      (co (sliced 1 .flushing false)).state = .flushing ∧ (sliced 1 .flushing false).flushReady 0 = true) ∧
    (∀ st ∈ [Residency.saved, .flushed], let s := sliced 1 st true
     s.company? 0 = some (co s) ∧ (co s).core < 384 ∧ (co s).state = st ∧ (s.resumeRoom (co s)).isSome = true ∧ (∀ t ∈ s.threads, t.cid = 0 → t.frames = []) ∧
       s.launch? (co s).launch = some (placedLaunch 0) ∧ (co s).packed = none ∧ (placedLaunch 0).ntr = (co s).ntr) :=
  ⟨by decide +kernel, by decide +kernel, by decide +kernel, by decide +kernel⟩

/-- A module that runs or not, whose host memory begins with some bytes, and that no command holds. -/
def hosted (st : Word) (bs : List Byte) (p : Part → Part := id) : State :=
  let s := poke Config.hostBase bs base
  { s with status := s.status.setIfInBounds 0 st, parts := s.parts.setIfInBounds 0 (p (s.part 0)), companies := s.companies.map fun c => { c with state := .ended }, threads := [] }
/-- The bytes of an argument. -/
def argument (s : State) (n : Nat) : List Byte := s.physBytes (Config.hostBase + (0 : DWord).toNat) n
/-- A block that may be installed: deck 0 with its role, regulator 0, one key. -/
def block : List Byte := bytesOf 4 1 ++ bytesOf 4 1 ++ bytesOf 4 1 ++ bytesOf 8 2 ++ List.replicate 56 0
/-- A page that a `move` has marked; the partition's table of ASIDs lies where a wash has left zeros. -/
def moves : State := { base with window := ⟨8, 0, 0, 0, 0, [], false⟩, companies := [],
                                 cores := base.cores.setIfInBounds 0 { base.core 0 with known := [(0x40000, 0x60000)] },
                                 parts := base.parts.setIfInBounds 0 { base.part 0 with moving := [(0x500000, 0x600000, false)], asidtab := BitVec.ofNat 64 (Config.chipBase + 0x40000) } }
/-- Low addresses are device memory. -/
theorem low {a : Nat} (h : a < 0x80000000) : chipCore a = none := by
  have : ¬Config.chipBase ≤ a := by rw [Config.chipBase]; omega
  simp [chipCore, this]
/-- The bytes of its new frame. -/
def newBytes : List Loc := (List.range 4096).map fun i => .phys (0x600000 + i)
theorem newBytes_phys {l : Loc} (h : l ∈ newBytes) : ∃ a, l = .phys a ∧ chipCore a = none := by
  simp only [newBytes, List.mem_map, List.mem_range] at h
  obtain ⟨i, hi, rfl⟩ := h
  exact ⟨_, rfl, low (by omega)⟩
theorem moves_plain : moves.Plain newBytes :=
  ⟨List.nodup_range.map fun a b h => by simpa using h, fun l h => by obtain ⟨a, rfl, ha⟩ := newBytes_phys h; exact ha,
    by decide +kernel, by decide +kernel, by decide +kernel, by decide +kernel⟩
set_option Elab.async false in
/-- Bytes stored to device memory change only that. -/
theorem mem_setLocs (ls : List Loc) (bs : List Byte) : ∀ s : State, (∀ l ∈ ls, ∃ a, l = .phys a ∧ chipCore a = none) →
    ∃ m, s.setLocs ls bs = { s with mem := m } := by
  induction ls generalizing bs with
  | nil => intro s _; exact ⟨s.mem, rfl⟩
  | cons l ls ih =>
    intro s hl
    cases bs with
    | nil => exact ⟨s.mem, rfl⟩
    | cons b bs =>
      obtain ⟨a, rfl, ha⟩ := hl l (List.mem_cons_self ..)
      obtain ⟨m, hm⟩ := ih bs { s with mem := cellPut s.mem a b } fun l h => hl l (List.mem_cons_of_mem _ h)
      exact ⟨m, by rw [State.setLocs, show s.setLoc (.phys a) b = { s with mem := cellPut s.mem a b } by simp [State.setLoc, ha], hm]⟩
/-- What a frame's copy leaves as it is. -/
theorem copyMarks_keeps (s : State) (a b : Nat) : (s.copyMarks a b).companies = s.companies ∧ (s.copyMarks a b).cores = s.cores ∧
    (s.copyMarks a b).parts = s.parts := ⟨rfl, rfl, rfl⟩
/-- A byte of core 0's storage that a wash has left reads as 0 where no company is on the core. -/
theorem washed {s : State} (hc : s.companies = []) (h : (s.core 0).spare = [] ∧ (s.core 0).known = [(0x40000, 0x60000)]) {k : Nat} (hk : k < 0x60000) :
    s.getLoc (.phys (Config.chipBase + (0x40000 + k))) = 0 := by
  have h1 : chipCore (Config.chipBase + (0x40000 + k)) = some 0 := by
    rw [chipCore, if_pos (by simp only [Bool.and_eq_true, decide_eq_true_eq]; constructor <;> simp only [Config.chipBase, Config.chipSize] <;> omega)]
    simp only [Config.chipBase, Config.chipSize, Option.some.injEq]
    omega
  have h2 : (Config.chipBase + (0x40000 + k) - Config.chipBase) % Config.chipSize = 0x40000 + k := by
    rw [Nat.add_sub_cancel_left, Nat.mod_eq_of_lt (by simp only [Config.chipSize]; omega)]
  have h3 : s.chipItem 0 (0x40000 + k) = .empty 0 (0x40000 + k) := by
    simp only [State.chipItem, hc, List.filter_nil, List.find?_nil]
    rw [if_neg (by omega), if_pos (by omega)]
  have h4 : inRanges [(0x40000, 0x60000)] (0x40000 + k) = true := by
    simp only [inRanges, List.any_cons, List.any_nil, Bool.or_false, Bool.and_eq_true, decide_eq_true_eq]; omega
  rw [State.getLoc, h1]
  show s.chipGet 0 ((Config.chipBase + (0x40000 + k) - Config.chipBase) % Config.chipSize) = 0
  rw [h2, State.chipGet, h3]
  show (s.core 0).spareGet s.fresh 0 (0x40000 + k) = 0
  rw [Core.spareGet, h.1, h.2, h4]
  rfl
theorem moves_leaves : ((moves.copyMarks 0x500000 0x600000).perform newBytes (moves.physBytes 0x500000 4096)).leaves 0 = [] := by
  obtain ⟨m, hm⟩ := mem_setLocs newBytes (moves.physBytes 0x500000 4096) (moves.copyMarks 0x500000 0x600000) fun l h => newBytes_phys h
  obtain ⟨h1, h2, h3⟩ := copyMarks_keeps moves 0x500000 0x600000
  generalize moves.copyMarks 0x500000 0x600000 = u at *
  generalize moves.physBytes 0x500000 4096 = bs at *
  have hn : (u.perform newBytes bs).companies = u.companies ∧ (u.perform newBytes bs).cores = u.cores ∧ (u.perform newBytes bs).parts = u.parts := by
    rw [State.perform, hm, State.notify]
    split <;> exact ⟨rfl, rfl, rfl⟩
  rw [h1, h2, h3] at hn
  generalize u.perform newBytes bs = s' at hn
  have hk : s'.core 0 = moves.core 0 := by rw [State.core, hn.2.1]; rfl
  have hp : (s'.part 0).asidtab = (moves.part 0).asidtab := by rw [State.part, hn.2.2]; rfl
  have hz (i : Nat) (hi : i < 4096) : s'.physNat ((s'.part 0).asidtab.toNat + 8 * i) 8 = 0 := by
    rw [State.physNat, show s'.physBytes ((s'.part 0).asidtab.toNat + 8 * i) 8 = List.replicate 8 0 from ?_]
    · rfl
    · refine List.ext_getElem (by simp [State.physBytes]) fun j hj _ => ?_
      simp only [State.physBytes, List.length_map, List.length_range] at hj
      simp only [State.physBytes, List.getElem_map, List.getElem_range, List.getElem_replicate]
      rw [hp, show (moves.part 0).asidtab.toNat = Config.chipBase + 0x40000 by decide +kernel, Nat.add_assoc, Nat.add_assoc]
      exact washed hn.1 (by rw [hk]; decide +kernel) (by omega)
  simp only [State.leaves, List.flatMap_eq_nil_iff, List.mem_range]
  intro i hi
  simp [hz i hi, pteV]
/-- The commands with an argument at the start of host memory: a module that does not run; each that is refused and each that is not. The tables of `fabric` and
`move` and the frames of a migration and of a PARTITION have no layout in the manual: no state decides what they hold (log 76). -/
theorem test_witness_HostCommandsAndMigration :
    (let s := hosted 0 []; s.window.status ≠ 0 ∧ s.status.getD 0 0 ≠ 1) ∧
    (let s := hosted 1 block; s.window.status ≠ 0 ∧ s.status.getD 0 0 = 1 ∧ (0 : DWord).toNat + 80 ≤ Config.hostSize ∧ (0 : Nat) < 4) ∧
    (let get (s : State) (o n : Nat) : List Byte := s.physBytes (Config.hostBase + (0 : DWord).toNat + o) n
     evImage (get (hosted 1 (bytesOf 8 0x10001 ++ List.replicate 16 0))) = none ∧
       (evImage (get (hosted 1 (bytesOf 8 0x10001 ++ bytesOf 8 0x1000000 ++ bytesOf 4 1 ++ bytesOf 4 0)))).isSome = true) ∧
    ((hosted 1 [1]).part 0).keys.getLsbD ((argument (hosted 1 [1]) 72).headD 0).toNat = true ∧ ((hosted 1 [9]).part 0).keys.getLsbD ((argument (hosted 1 [9]) 72).headD 0).toNat = false ∧
    (let s : State := { handling 1 with threads := (handling 1).threads.map fun t => { t with halt := some (.frozen, 0) } }
     s.company? 0 = some (co s) ∧ (co s).core = 0 ∧ (co s).onCore = true ∧ (s.part 0).decks.testBit (0 / 16) = true ∧ (s.part 0).decks.testBit (16 / 16) = false ∧
       s.haltStalls 0 = false ∧ (∀ v ∈ s.threads, v.halt ≠ none → v.halt = some (.frozen, 0)) ∧ (s.threads.map fun t => (t.cid, t.tid)).Nodup) ∧
    ((let s := hosted 1 []; s.Plain ((List.range 260).map fun i => .phys (Config.hostBase + 0 + i))) ∧ 0 + 260 ≤ Config.hostSize ∧ Config.hostSize < 2 ^ 60 + 260) ∧
    ((hosted 1 (List.replicate 80 0)).partitionRefused 0 (argument (hosted 1 (List.replicate 80 0)) 80) = true ∧
      (let s := hosted 1 block fun p => { p with defined := false }
       s.partitionRefused 0 (argument s 80) = false ∧ (s.part 0).defined = false ∧
         ∀ d ∈ List.range 24, (1 : Nat).testBit d = true → (s.ladders.all (fun l => l.deck != d) && s.pools.all (fun p => p.deck != d) &&
           s.companies.all fun c => !c.onCore || c.core / 16 != d) = true)) ∧
    (let s := hosted 1 [1]; let r := (s.part 0).newRoles 1
     let q : State := { s with window := ⟨2, 0, 0, 0, 0, bytesOf 4 1, false⟩ }
     (s.part 0).defined = true ∧ s.rolesOk 0 (s.part 0).decks r = true ∧ q.quiet q.quiescing = true) ∧
    (let s := hosted 1 [] fun p => { p with decks := 63 }; (s.part 0).defined = true ∧ s.rolesOk 0 (s.part 0).decks ((s.part 0).newRoles 63) = false) ∧
    (let s : State := { hosted 1 [] with window := ⟨2, 0, 0, 0, 0, bytesOf 4 0, false⟩, companies := [placedCompany 0] }
     let t : State := { s with decks := s.decks.setIfInBounds 0 { s.deck 0 with clk := 2 ^ 24 } }
     (s.quiescing = [0] ∧ (s.deck 0).clk ≤ 100 ∧ 100 / 65536 = (s.deck 0).clk / 65536 ∧ s.quiet s.quiescing = false ∧ 100 < s.window.since + 2 ^ 24) ∧
       t.quiescing = [0] ∧ (t.deck 0).clk ≤ 2 ^ 24 ∧ 2 ^ 24 / 65536 = (t.deck 0).clk / 65536 ∧ t.quiet t.quiescing = false ∧ t.window.since + 2 ^ 24 ≤ 2 ^ 24 ∧
       (t.part t.window.part.toNat).moving = []) ∧
    (let s := hosted 1 block fun p => { p with defined := true, decks := 1 }
     s.partitionRefused 0 (argument s 80) = false ∧ (s.part 0).defined = true ∧ natOf ((argument s 80).take 4) = (s.part 0).decks) ∧
    (moves.window.status = 0 ∧ moves.window.op = 8 ∧ (moves.part 0).moving = [(0x500000, 0x600000, false)] ∧ moves.frameBusy 0x500000 = false ∧
      ({ moves with ops := [op (.store [1]) [.phys 0x500000]] } : State).frameBusy 0x500000 = true ∧
      moves.Plain newBytes ∧
      ((moves.copyMarks 0x500000 0x600000).perform newBytes (moves.physBytes 0x500000 4096)).leaves 0 = []) ∧
    (let s := base; (s.part 0).defined = true ∧ (s.part 0).moving = [] ∧ (s.walk (s.part 0) 1 0x100000).toOption.isSome = true ∧ (s.part 0).migok = false) :=
  ⟨by decide +kernel, by decide +kernel, by decide +kernel, by decide +kernel, by decide +kernel, by decide +kernel,
    ⟨(plain (p := True) (by decide +kernel)).1, by decide +kernel⟩, by decide +kernel, by decide +kernel, by decide +kernel, by decide +kernel,
    by decide +kernel, ⟨by decide +kernel, by decide +kernel, by decide +kernel, by decide +kernel, by decide +kernel,
      moves_plain, moves_leaves⟩, by decide +kernel⟩
/-- What a group's fetch of a halfword gives. -/
def half (s : State) (o : DWord) : Except Trap Checked := s.fetchBytes (s.whoIs (u0 s)) ((grp s).pc + o) 2
/-- A placed word of 32 or of 16 bits and one that is no instruction; a fetch that faults at its first or its second halfword, or finds an error of the word; a word
that waits for a loop to be staged is not met; and an event of the agenda. -/
theorem test_witness_StepRunsTheDecodedInstruction :
    (∀ w ∈ [0x0505940D, 0x38C2, 0x7FF, 0xE960], let s := State.reset.withFetchWord 32 w; let c := okOf (half s 0); let c' := okOf (half s 2); let lo := natOf (s.getLocs c.locs)
     let x : Word := if lo % 2 = 0 then BitVec.ofNat 32 lo else BitVec.ofNat 32 (lo + 65536 * natOf (s.getLocs c'.locs))
     let g' : Issue := { grp s with word := x, len := if lo % 2 = 0 then 2 else 4 }
     s.issue = some (grp s) ∧ (s.members (grp s)).head? = some (u0 s) ∧ (s.members (grp s)).length = 32 ∧ isOk (half s 0) = true ∧ c.mig = false ∧ s.bad = 0 ∧
       isOk (half s 2) = true ∧ c'.mig = false ∧ x.toNat = w % 2 ^ (if w % 2 = 0 then 16 else 32) ∧
       (match decode x with | .ok i => !s.waitsForLoop g' i && ((s.ready g' i).toOption).isSome | .error _ => w == 0x7FF) = true) ∧
    (let s : State := { base with issue := none, agenda := [.doorbell 0 3] }; s.agenda = [.doorbell 0 3] ∧ encode (.doorbell 0 3) = none) ∧
    (let s := lab (fun t => { t with pc := 0x80000000 }) id (List.range 32) fun s => { s with issue := s.issue.map fun g => { g with pc := 0x80000000 } }
     s.issue = some (grp s) ∧ (s.members (grp s)).length = 32 ∧ isOk (half s 0) = false) ∧
    (let s : State := { State.reset.withFetchWord 32 0x0505940D with bad := 1 }
     (s.members (grp s)).length = 32 ∧ isOk (half s 0) = true ∧ (okOf (half s 0)).mig = false ∧ s.bad = 1 ∧ isOk (half s 2) = true ∧ (okOf (half s 2)).mig = false) ∧
    (let s := lab (fun t => { t with pc := 0x3FFFFFFE }) id (List.range 32) fun s => { poke 0x3FFFFFFE [1, 0] s with issue := s.issue.map fun g => { g with pc := 0x3FFFFFFE } }
     (s.members (grp s)).length = 32 ∧ isOk (half s 0) = true ∧ (okOf (half s 0)).mig = false ∧ natOf (s.getLocs (okOf (half s 0)).locs) % 2 = 1 ∧
       isOk (half s 2) = false) :=
  ⟨by decide +kernel, by decide +kernel, by decide +kernel, by decide +kernel, by decide +kernel⟩

/-- Two bytes of device memory, of a scratchpad and of a window of synchronisation variables; a canonical state that steps. -/
theorem test_witness_StorageReadsBackAndResetValues :
    (base.Plain ([.phys 0x300000, .phys 0x300001, .scratch 0 8, .scratch 0 9, .sync 0 8, .sync 0 9]) ∧ [Loc.phys 0x300000, .phys 0x300001, .scratch 0 8, .scratch 0 9, .sync 0 8, .sync 0 9].length = [1, 2, 3, 4, 5, (6 : Nat)].length) :=
  plain (by decide +kernel)
theorem test_witness_StepsKeepStorageCanonical : let s := State.reset.withFetchWord 32 0x0505940D
    canon s ∧ (match step s with | .next s' => decide (canon s') | _ => false) = true := by decide +kernel
/-- A well-formed instruction with every operand at its largest value; its word decodes. -/
theorem test_witness_DecodingUndoesEncoding : (Instr.iadd ⟨true, true⟩ 63 63 63).wf = true ∧ encode (.iadd ⟨true, true⟩ 63 63 63) ≠ none := by decide
theorem test_witness_EncodingUndoesDecoding : decode 0x0505940D = .ok (.iadd ⟨false, true⟩ 10 11 40) ∧ decode 0x1234E960 = .ok (.movi16 false 5 29) := by decide
/-! ### Results: the manual's worked examples, and corners of its tables -/

/-- Thread `tid` after one instruction. -/
def thenThread (i : Instr) (s : State) (tid : Nat) : Thread :=
  match exec i s with
  | .next s' => (s'.thread? 0 tid).getD (placedThread 9 9)
  | _ => placedThread 9 9
/-- Thread 0 with these registers before has these after one instruction. -/
def gives (i : Instr) (before after : List (RegId × DWord)) : Bool :=
  let t := thenThread i (one (regs before)) 0
  after.all fun r => t.reg r.1 == r.2
/-- Plain flags: neither marked nor uniform. -/
def h0 : Hd := ⟨false, false⟩

set_option Elab.async false in
/-- R107: the low and the high link of the chain of "A 64-bit result from pairs", and a borrow. -/
theorem test_iaddc_carry : gives (.iaddc h0 6 4 8) [(.v 4, 0xFFFFFFFE), (.v 8, 3), (.p 6, 0)] [(.v 6, 1), (.p 6, 1)] = true ∧
    gives (.iaddc h0 7 5 9) [(.v 5, 1), (.v 9, 0), (.p 6, 1)] [(.v 7, 2), (.p 6, 0)] = true ∧
    gives (.isubb h0 7 5 9) [(.v 5, 3), (.v 9, 3), (.p 6, 1)] [(.v 7, 0xFFFFFFFF), (.p 6, 1)] = true := by decide +kernel
/-- The products of the same listing, and the signed high word of (−1) × (−1). -/
theorem test_imul_words : gives (.imul h0 4 2 3) [(.v 2, 0xFFFFFFFF), (.v 3, 2)] [(.v 4, 0xFFFFFFFE)] = true ∧
    gives (.umulh h0 5 2 3) [(.v 2, 0xFFFFFFFF), (.v 3, 2)] [(.v 5, 1)] = true ∧
    gives (.imulh h0 5 2 3) [(.v 2, 0xFFFFFFFF), (.v 3, 0xFFFFFFFF)] [(.v 5, 0)] = true := by decide +kernel
/-- R106: `iabs` of 0x80000000, and a destination that is a source. -/
theorem test_iabs_corner : gives (.iabs h0 1 1) [(.v 1, 0x80000000)] [(.v 1, 0x80000000)] = true ∧
    gives (.isub h0 1 2 1) [(.v 1, 1), (.v 2, 0)] [(.v 1, 0xFFFFFFFF)] = true := by decide +kernel
/-- R108: shifts by 32 and more, and a rotation by 33. -/
theorem test_shift_overlong : gives (.shl h0 1 2 3) [(.v 2, 0xFFFFFFFF), (.v 3, 32)] [(.v 1, 0)] = true ∧
    gives (.sar h0 1 2 3) [(.v 2, 0x80000000), (.v 3, 0x100)] [(.v 1, 0xFFFFFFFF)] = true ∧
    gives (.ror h0 1 2 3) [(.v 2, 1), (.v 3, 33)] [(.v 1, 0x80000000)] = true := by decide +kernel
/-- R113: the example of `bmix` and its two sign extensions. -/
theorem test_bmix_example : gives (.bmix h0 1 2 3) [(.v 2, 0x44332211), (.v 1, 0x88776655), (.v 3, 0x00048039)] [(.v 1, 0x00FF8822)] = true ∧
    gives (.bmix h0 1 2 3) [(.v 2, 0x44332281), (.v 3, 0x000E0000)] [(.v 1, 0xFFFFFF81)] = true ∧
    gives (.bmix h0 1 2 3) [(.v 2, 0x44332211), (.v 3, 0x000C0008)] [(.v 1, 0x00002211)] = true := by decide +kernel
/-- R112: a field that the word's end cuts short, read with its sign, and inserted. -/
theorem test_bit_fields_cut : gives (.bfe h0 1 2 3) [(.v 2, 0x90000000), (.v 3, 0x0A1C)] [(.v 1, 0xFFFFFFF9)] = true ∧
    gives (.ubfe h0 1 2 3) [(.v 2, 0x90000000), (.v 3, 0x0A1C)] [(.v 1, 9)] = true ∧
    gives (.bfi h0 1 2 3) [(.v 2, 0x35), (.v 1, 0x12345678), (.v 3, 0x0A1C)] [(.v 1, 0x52345678)] = true := by decide +kernel
/-- "Fused or separate rounding": the product ties to even and raises NX; the fused form is exact. -/
theorem test_ffma_fused : gives (.fmul h0 0 3 1 1) [(.v 1, 0x3F800800)] [(.v 3, 0x3F801000), (.f, 0x80)] = true ∧
    gives (.ffma h0 0 2 1 1) [(.v 1, 0x3F800800), (.v 2, 0xBF801000)] [(.v 2, 0x33800000), (.f, 0)] = true := by decide +kernel
/-- "One signalling NaN, every path": `fadd` and `frcp`. -/
theorem test_signalling_nan : gives (.fadd h0 0 3 1 2) [(.v 1, 0x7F800001), (.v 2, 0x3F800000)] [(.v 3, 0x7FC00001), (.f, 8)] = true ∧
    gives (.frcp h0 3 1) [(.v 1, 0x7F800001)] [(.v 3, 0x7FC00000), (.f, 8)] = true := by decide +kernel
set_option Elab.async false in
/-- The same for `fabs` and the conversion to FP16. -/
theorem test_signalling_nan_moves : gives (.fabs h0 3 1) [(.v 1, 0x7F800001)] [(.v 3, 0x7F800001), (.f, 0)] = true ∧
    gives (.cvt h0 0 6 5 3 1) [(.v 1, 0x7F800001)] [(.v 3, 0x7E00), (.f, 8)] = true := by decide +kernel
/-- "A dot product, node by node" with the scales 1, and "A scaled FP8 dot product, bit by bit". -/
theorem test_fdp4_examples : gives (.fdp4E4m3 h0 0 12 4 6) [(.v 4, 0xF8181878), (.v 5, 0x7F), (.v 6, 0x78181878), (.v 7, 0x7F), (.v 12, 0)] [(.v 12, 0x3B800000), (.f, 0x80)] = true ∧
    gives (.fdp4E4m3 h0 1 12 4 6) [(.v 4, 0x30B83840), (.v 5, 0x8100), (.v 6, 0x28343C44), (.v 7, 0x7E00), (.v 12, 0x3FA00000)] [(.v 12, 0x41700000), (.f, 0)] = true := by decide +kernel
/-- The example of the common-scale quantisation: NX and UF. -/
theorem test_q8cs_example : gives (.q8Cs h0 0 4 2 3) [(.v 2, 0x3C11), (.v 3, 0x7F7F817F)] [(.v 4, 0x3C04), (.v 5, 0x81), (.f, 0xC0)] = true := by decide +kernel
/-- "A Gumbel draw by hand". -/
theorem test_gumbel_example : gives (.gumbel h0 10 8) [(.v 8, 0x80000000)] [(.v 10, 0x3EBBA795), (.f, 0x80)] = true := by decide +kernel
/-- The prefix sums of lanes 1, 2, 4 and 7 (R189 to R193). -/
theorem test_scanx_example : let s := lab (fun t => { regs [(.v 4, BitVec.ofNat 64 (t.tid + 10)), (.v 5, 77)] t with guard := some { left := 1, pass := [1, 2, 4, 7].contains t.tid } })
    ([(0, 77), (1, 11), (2, 23), (3, 77), (4, 37), (7, 54), (31, 77)] : List (Nat × DWord)).all (fun x => (thenThread (.scanx false 0 5 4) s x.1).reg (.v 5) == x.2) = true := by decide +kernel
/-- The tree of lanes 0, 1 and 2, and without lane 1. -/
theorem test_redx_example : let f (ls : List Nat) := lab (fun t => regs [(.v 4, if t.tid == 2 then 0x4B800000 else 0x3F800000)] t) id ls
    ((thenThread (.redx false 1 6 4) (f [0, 1, 2]) 2).reg (.v 6), (thenThread (.redx false 1 6 4) (f [0, 1, 2]) 2).reg .f) = (0x4B800001, 0) ∧
    ((thenThread (.redx false 1 6 4) (f [0, 2]) 0).reg (.v 6), (thenThread (.redx false 1 6 4) (f [0, 2]) 0).reg .f) = (0x4B800000, 0x80) := by decide +kernel
/-- R13, R194: `p7` keeps its value; `pmov` of predicates reads it as 1 in bit 7 and discards a write to it. -/
theorem test_p7_holds : gives (.pmovToReg h0 5) [(.p 1, 1)] [(.v 5, 0x82)] = true ∧ gives (.pmovToPred h0 5) [(.v 5, 0)] [(.p 7, 1), (.p 0, 0)] = true := by decide +kernel

/-- "A three-plane read with a carry": truncated, rounded, and rounded at the block's maximum (OF, NX). -/
theorem test_plane_read_example : nfRead false 127 3 [0x3F, 0xFF, 0xFF, 0xC0] = ⟨0x3DFFFFF8, 0⟩ ∧ nfRead true 127 3 [0x3F, 0xFF, 0xFF, 0xC0] = ⟨0x3E000000, fNX⟩ ∧
    (nfRead true 127 3 [0x7F, 0xFF, 0xFF, 0xC0]).fl = (fOF ||| fNX) := by decide +kernel
set_option Elab.async false in
/-- "An optimiser step into the upper planes": four planes carry, two planes keep their bytes. -/
theorem test_pladd_example : pladdNew 4 0x31000000 [0x7F, 0x6F, 0xFF, 0xFF, 0xFF] = (0x3F800000, [(1, 0x70), (2, 0), (3, 0), (4, 0)]) ∧
    (pladdNew 2 0x31000000 [0x7F, 0x6F, 0xFF]).2 = [] := by decide +kernel
/-- "Three lanes adding pairs of BF16": the words after lanes 2, 5 and 7. -/
theorem test_atom_bf16_example : atomNew 2 4 0x3F800040 0x3B800041 0 = some 0x3F800081 ∧ atomNew 2 4 0x3F800081 0x3B800001 0 = some 0x3F800082 ∧
    atomNew 2 4 0x3F800082 0x00008040 0 = some 0x3F800042 := by decide +kernel
/-- "The bounded operations at their edges": `sincw`. -/
theorem test_sincw_edges : ([(0, 0, 0), (5, 0, 0), (2, 3, 3), (3, 3, 0), (7, 3, 0), (0xFFFFFFFE, 0xFFFFFFFF, 0xFFFFFFFF), (0xFFFFFFFF, 0xFFFFFFFF, 0)] : List (Word × Word × Word)).all
    (fun r => (syncNew 2 r.1 r.2.1 0).1 == some r.2.2) = true := by decide +kernel
/-- The same for `sbadd`. -/
theorem test_sbadd_edges : ([(0, 0, 0, some 0), (0, 1, 0, none), (4, 6, 10, some 10), (4, 7, 10, none), (12, 0, 10, none), (0xFFFFFFF0, 0xF, 0xFFFFFFFF, some 0xFFFFFFFF), (0xFFFFFFF0, 0x10, 0xFFFFFFFF, none)] :
    List (Word × Word × Word × Option Word)).all (fun r => syncNew 1 r.1 r.2.1 r.2.2.1 == (r.2.2.2, r.2.2.2.isSome)) = true := by decide +kernel
/-- "One step and one drain, by hand": an element of the step, the drained BF16 value, the magnitude key and the next scale. -/
theorem test_matrix_example : mmaElem 1 (List.replicate 32 0x38) (List.replicate 32 0x30) 0x7F 0x7F 0 = ⟨0x41800000, 0⟩ ∧ drainElem 1 0x81 0x41800000 0 = ⟨0x4080, 0⟩ ∧
    drainKey 1 0x41800000 = 0x41800000 ∧ (scx 0x41800000 8).bits = 0x7B ∧ drainRefused 0x81202021 0 = false := by decide +kernel

/-- "The logistic map": the ends of pass 1 and of pass 2, the last one and not (R334 to R338); the guess of step 2 is then near 3.355. -/
theorem test_relaxation_example : let x := 0x3F79999A; let y := 0x3DC2B015; let j : Word := 0xC06D1EB9
    let r1 : Region := { region true none with steps := 4, passes := 5, init := [0x3F000000], g := List.replicate 4 (some [0x3F000000]), y := List.replicate 4 (some [x]), j := List.replicate 4 [0], buf := [], reads := [0, 1, 2, 3] }
    let r2 : Region := { r1 with pass := 2, g := List.replicate 4 (some [x]), y := [some [x], some [y], some [y], some [y]], j := [[0], [j], [j], [j]] }
    r1.endOfPass = .again (List.replicate 4 [x]) ∧ { r2 with passes := 2 }.endOfPass = .stop 1 2 ∧ r2.settledCount = 2 ∧
      (match r2.endOfPass with | .again g => g.take 2 == [[x], [y]] && (g.getD 2 []).map (fun w => w.toNat / 2 ^ 16) == [0x4056] | _ => false) = true := by decide +kernel

/-- "Heat at tile six": deck 5 at 86 leaves the cores of deck 4 an allowance of 160, and pier 1 its 256. -/
theorem test_heat_example : (match exec (.thermalSample 5 86) base with | .next s => [(s.core 64).allow, (s.core 96).allow, (s.deck 5).temp] == [160, 256, 86] | _ => false) = true := by
  decide +kernel

end Sys2Proof.Tests
end

/-!
The fetch of the pending group and what a step makes of it: an equation for each outcome of `State.fetchAt`, `State.fetch` and `step`,
then the statement O56.
-/
namespace Sys2Proof.Machine

/-! ### The instruction at a counter -/

section
variable {s : State} {w : Who} {pc : DWord} {c c' : Checked} {tr : Trap}

theorem State.fetchAt_of_low_fault (h : s.fetchBytes w pc 2 = .error tr) : s.fetchAt w pc = ⟨some tr, false, 0, 0⟩ := by
  simp only [State.fetchAt, h]

/-- A halfword with bit 0 clear is the whole instruction (R53). -/
theorem State.fetchAt_of_even (h : s.fetchBytes w pc 2 = .ok c) (hmig : c.mig = false) (heven : natOf (s.getLocs c.locs) % 2 = 0) :
    s.fetchAt w pc = ⟨none, false, BitVec.ofNat 32 (natOf (s.getLocs c.locs)), 2⟩ := by
  simp only [State.fetchAt, h, hmig, heven, Bool.false_eq_true, if_false, if_true]

/-- A halfword with bit 0 set has the next one above it (R53, R54). -/
theorem State.fetchAt_of_odd (h : s.fetchBytes w pc 2 = .ok c) (hmig : c.mig = false) (hodd : natOf (s.getLocs c.locs) % 2 = 1)
    (h' : s.fetchBytes w (pc + 2) 2 = .ok c') (hmig' : c'.mig = false) :
    s.fetchAt w pc = ⟨none, false, BitVec.ofNat 32 (natOf (s.getLocs c.locs) + 65536 * natOf (s.getLocs c'.locs)), 4⟩ := by
  simp only [State.fetchAt, h, hmig, hodd, h', hmig', Bool.false_eq_true, Nat.one_ne_zero, if_false]

theorem State.fetchAt_of_high_fault (h : s.fetchBytes w pc 2 = .ok c) (hmig : c.mig = false)
    (hodd : natOf (s.getLocs c.locs) % 2 = 1) (h' : s.fetchBytes w (pc + 2) 2 = .error tr) :
    s.fetchAt w pc = ⟨some tr, false, 0, 0⟩ := by
  simp only [State.fetchAt, h, hmig, hodd, h', Bool.false_eq_true, Nat.one_ne_zero, if_false]

/-- The word is there when its first halfword is, and its second one where it has one. -/
theorem State.fetchAt_of_readable (h : s.fetchBytes w pc 2 = .ok c) (hmig : c.mig = false)
    (hrest : natOf (s.getLocs c.locs) % 2 = 0 ∨ ∃ c', s.fetchBytes w (pc + 2) 2 = .ok c' ∧ c'.mig = false) :
    ∃ word len, s.fetchAt w pc = ⟨none, false, word, len⟩ := by
  rcases Nat.mod_two_eq_zero_or_one (natOf (s.getLocs c.locs)) with heven | hodd
  · exact ⟨_, _, State.fetchAt_of_even h hmig heven⟩
  · obtain heven | ⟨c', h', hmig'⟩ := hrest
    · exact ⟨_, _, State.fetchAt_of_even h hmig heven⟩
    · exact ⟨_, _, State.fetchAt_of_odd h hmig hodd h' hmig'⟩
end

/-! ### The fetch of the group -/

section
variable {s : State} {g : Issue} {t : Thread} {ts : List Thread} {word : Word} {len : Nat}

/-- The threads of the group execute the word that was read. -/
theorem State.fetch_eq_ok (hmem : s.members g = t :: ts) (hat : s.fetchAt (s.whoIs t) g.pc = ⟨none, false, word, len⟩)
    (hbad : s.bad ≠ 1) : s.fetch g = .ok { g with tids := (t :: ts).map Thread.tid, word := word, len := len } := by
  simp only [State.fetch, hmem, hat, beq_eq_false_iff_ne.mpr hbad, Bool.false_eq_true, if_false]

/-- A fault at the counter is taken by every thread of the group (R149, R303). -/
theorem State.fetch_of_fault {tr : Trap} (hmem : s.members g = t :: ts)
    (hat : s.fetchAt (s.whoIs t) g.pc = ⟨some tr, false, 0, 0⟩) :
    s.fetch g = .error (({ s with issue := none } : State).raiseAll (t :: ts) tr) := by
  simp only [State.fetch, hmem, hat]

/-- An error of the word is DATAERR FETCH at the counter (R303). -/
theorem State.fetch_of_bad (hmem : s.members g = t :: ts) (hat : s.fetchAt (s.whoIs t) g.pc = ⟨none, false, word, len⟩)
    (hbad : s.bad = 1) :
    s.fetch g = .error (({ s with issue := none } : State).raiseAll (t :: ts) { cls := cDataerr, sub := 2, addr := g.pc }) := by
  simp only [State.fetch, hmem, hat, hbad, beq_self_eq_true, Bool.false_eq_true, if_false, if_true]
end

theorem State.ready_of_not_waits {s : State} {g : Issue} {i : Instr} (h : s.waitsForLoop g i = false) :
    s.ready g i = .ok { s with issue := some g } := by
  simp only [State.ready, h, Bool.false_eq_true, if_false]

/-! ### The step -/

section
variable {s : State} {g g' : Issue} {i : Instr}

theorem step_of_fetch_error {s' : State} (hg : s.issue = some g) (hf : s.fetch g = .error s') : step s = .next s' := by
  simp only [step, hg, hf]

theorem step_of_ready {s' : State} (hg : s.issue = some g) (hf : s.fetch g = .ok g') (hd : decode g'.word = .ok i)
    (hr : s.ready g' i = .ok s') : step s = exec i s' := by
  simp only [step, hg, hf, hd, hr]

/-- A word that is no instruction traps ILLEGAL in every thread of the group (R63). -/
theorem step_of_no_instruction {sub : BitVec 8} (hg : s.issue = some g) (hf : s.fetch g = .ok g')
    (hd : decode g'.word = .error sub) :
    step s = .next (({ s with issue := none } : State).raiseAll (({ s with issue := some g' } : State).members g')
      { cls := cIllegal, sub := sub.toNat, extra := g'.word }) := by
  simp only [step, hg, hf, hd, execIllegalInstructionWord, State.trapGroup]

theorem step_of_agenda {e : Instr} {r : List Instr} (hg : s.issue = none) (ha : s.agenda = e :: r) (he : encode e = none) :
    step s = exec e { s with agenda := r } := by
  simp only [step, hg, ha, he]

/-- What a step does with a group whose fetch gave a word: the decoded instruction executes, or the word traps. -/
theorem step_runs_fetched (hg : s.issue = some g) (hf : s.fetch g = .ok g') :
    (∀ i, decode g'.word = .ok i → s.waitsForLoop g' i = false → step s = exec i { s with issue := some g' }) ∧
    (∀ i s', decode g'.word = .ok i → s.ready g' i = .ok s' → step s = exec i s') ∧
    ∀ sub, decode g'.word = .error sub → step s = .next (({ s with issue := none } : State).raiseAll
      (({ s with issue := some g' } : State).members g') { cls := cIllegal, sub := sub.toNat, extra := g'.word }) :=
  ⟨fun _ hd hw => step_of_ready hg hf hd (State.ready_of_not_waits hw), fun _ _ => step_of_ready hg hf,
    fun _ => step_of_no_instruction hg hf⟩
end

/-- Settles O56: the outcome of `State.fetchAt` in each case gives that of `State.fetch`, and this one the step. -/
theorem stepRunsTheDecodedInstruction : Obligations.StepRunsTheDecodedInstruction := by
  unfold Obligations.StepRunsTheDecodedInstruction
  refine ⟨⟨fun s g t ts c hg hmem hlow hmig hbad => ⟨fun heven => ?short, fun hodd c' hhigh hmig' => ?long⟩,
    fun s e r => step_of_agenda⟩, fun s g t ts hg hmem => ⟨fun tr hlow => ?lowFault, fun c hlow hmig hbad hrest => ?error,
    fun c tr hlow hmig hodd hhigh => ?highFault⟩⟩
  case short => exact step_runs_fetched hg (State.fetch_eq_ok hmem (State.fetchAt_of_even hlow hmig heven) hbad)
  case long => exact step_runs_fetched hg (State.fetch_eq_ok hmem (State.fetchAt_of_odd hlow hmig hodd hhigh hmig') hbad)
  case lowFault => exact step_of_fetch_error hg (State.fetch_of_fault hmem (State.fetchAt_of_low_fault hlow))
  case error =>
    obtain ⟨_, _, hat⟩ := State.fetchAt_of_readable hlow hmig hrest
    exact step_of_fetch_error hg (State.fetch_of_bad hmem hat hbad)
  case highFault => exact step_of_fetch_error hg (State.fetch_of_fault hmem (State.fetchAt_of_high_fault hlow hmig hodd hhigh))

end Sys2Proof.Machine

/-!
What moving past an instruction leaves of a thread and of the machine, an update of each of some different threads in turn, and the
statement O12.
-/
namespace Sys2Proof.Machine

/-! ### Updates of different threads in turn -/

section
variable {α : Type} {step : State → α → State} {who : α → Nat × Nat} {g : α → Thread → Thread}

/-- A step changes the one thread that it names. -/
def ChangesNamed (step : State → α → State) (who : α → Nat × Nat) (g : α → Thread → Thread) : Prop :=
  ∀ s a c i, (step s a).thread? c i = (s.thread? c i).map fun t => if (c, i) = who a then g a t else t

/-- Threads that no step names stay as they are. -/
theorem ChangesNamed.foldl_of_not_mem (h : ChangesNamed step who g) {c i : Nat} (l : List α) (hn : ∀ a ∈ l, who a ≠ (c, i)) (s : State) :
    (l.foldl step s).thread? c i = s.thread? c i := by
  induction l generalizing s with
  | nil => rfl
  | cons a l ih =>
    have hne : (c, i) ≠ who a := (hn a List.mem_cons_self).symm
    rw [List.foldl_cons, ih fun b hb => hn b (List.mem_cons_of_mem _ hb), h]
    simp only [hne, if_false, Option.map_id']

/-- A thread that one step of many names changes by that step alone. -/
theorem ChangesNamed.foldl_of_mem (h : ChangesNamed step who g) (l : List α) (hd : l.Pairwise fun a b => who a ≠ who b) (s : State)
    {a : α} (ha : a ∈ l) {c i : Nat} (hwho : who a = (c, i)) : (l.foldl step s).thread? c i = (s.thread? c i).map (g a) := by
  induction l generalizing s with
  | nil => cases ha
  | cons b l ih =>
    obtain ⟨hb, hl⟩ := List.pairwise_cons.mp hd
    rw [List.foldl_cons]
    rcases List.mem_cons.mp ha with rfl | hmem
    · rw [h.foldl_of_not_mem l (fun x hx => hwho ▸ (hb x hx).symm), h]
      simp only [hwho, if_true]
    · have hne : (c, i) ≠ who b := hwho ▸ (hb a hmem).symm
      rw [ih hl _ hmem, h]
      simp only [hne, if_false, Option.map_id']
end

section
variable {g : Thread → Thread → Thread}

theorem changesNamed_updThread (hg : ∀ t, KeepsName (g t)) :
    ChangesNamed (fun s t => s.updThread t.cid t.tid (g t)) (fun t => (t.cid, t.tid)) g := by
  intro s t c i
  simp only [State.thread?_updThread _ _ _ _ _ _ (hg t), Prod.mk.injEq]

/-- Nothing but the threads changes. -/
theorem State.foldl_updThread_eq (g : Thread → Thread → Thread) (ts : List Thread) (s : State) :
    ∃ l, ts.foldl (fun s t => s.updThread t.cid t.tid (g t)) s = { s with threads := l } := by
  induction ts generalizing s with
  | nil => exact ⟨s.threads, rfl⟩
  | cons t ts ih => exact ih (s.updThread t.cid t.tid (g t))

/-- A byte off the on-chip windows depends on device memory, the scratchpads and the sync variables alone. -/
theorem State.getLoc_of_storage {s s' : State} (hm : s'.mem = s.mem) (hc : s'.companies = s.companies) (hp : s'.parts = s.parts)
    (l : Loc) (hl : l.offChip = true) : s'.getLoc l = s.getLoc l := by
  cases l with
  | phys a =>
    have ha : chipCore a = none := by simpa [Loc.offChip] using hl
    simp only [State.getLoc, ha, State.memByte, hm]
  | foreign a | view a k c => cases hl
  | scratch c b => simp only [State.getLoc, State.company?, hc]
  | sync p o => simp only [State.getLoc, State.part, hp]

/-- Updates of different threads in turn are an action on threads alone. -/
theorem ThreadsDone.of_foldl (hg : ∀ t, KeepsName (g t)) {ts : List Thread}
    (hd : ts.Pairwise fun t u => ¬(t.cid = u.cid ∧ t.tid = u.tid)) (s : State) :
    ThreadsDone s (ts.foldl (fun s t => s.updThread t.cid t.tid (g t)) s) ts g := by
  obtain ⟨l, hl⟩ := State.foldl_updThread_eq g ts s
  have hstep := changesNamed_updThread hg
  have hname : ts.Pairwise fun t u => (t.cid, t.tid) ≠ (u.cid, u.tid) := hd.imp fun hne he => hne (Prod.mk.inj he)
  refine ⟨fun t ht u hu => ?_, fun c i hn => hstep.foldl_of_not_mem ts (fun t ht he => hn t ht (Prod.mk.inj he)) s, ?_, ?_⟩
  · rw [hstep.foldl_of_mem ts hname s ht rfl, hu]; rfl
  · rw [hl]
  · rw [hl]; exact State.getLoc_of_storage rfl rfl rfl
end

/-! ### The source of each participating thread (R33) -/

theorem lowest_cons_ne_none (t : Thread) (r : List Thread) : lowest (t :: r) ≠ none := by
  simp only [lowest]
  cases lowest r with
  | none => simp
  | some u => by_cases h : u.lane < t.lane <;> simp [h]

/-- Acting with `State.each` on each receiver in turn is acting on each participating thread with its source. -/
theorem State.each_foldl (s : State) (uni : Bool) (ps : List Thread) (act : State → Thread → Thread → State) :
    (s.each uni ps fun s l rs => rs.foldl (fun s t => act s l t) s) = ps.foldl (fun s t => act s (sourceOf uni ps t) t) s := by
  cases uni with
  | false => rfl
  | true =>
    cases ps with
    | nil => rfl
    | cons t r =>
      obtain ⟨l, hl⟩ := Option.ne_none_iff_exists'.mp (lowest_cons_ne_none t r)
      simp only [State.each, sourceOf, hl, if_true, Option.getD_some]

/-! ### Moving past an instruction (R22, R30, R155) -/

/-- Bringing in what other agents wrote before an acquire moves no thread and opens no window. -/
theorem Thread.settle_pc_guard (t : Thread) : t.settle.pc = t.pc ∧ t.settle.guard = t.guard := by
  have key (p : FarWrite → Bool) (l : List FarWrite) : ∀ u : Thread,
      let w := l.foldl (fun u x => if p x then u.setReg (.v x.r) (x.other.setWidth 64) else u) u
      w.pc = u.pc ∧ w.guard = u.guard := by
    induction l with
    | nil => exact fun u => ⟨rfl, rfl⟩
    | cons x l ih =>
      intro u
      simp only [List.foldl_cons]
      split
      · exact ih (u.setReg _ _)
      · exact ih u
  exact key _ t.far t

/-- With nothing that other agents wrote, every register keeps its value. -/
theorem Thread.settle_reg_of_far_nil {t : Thread} (h : t.far = []) (r : RegId) : t.settle.reg r = t.reg r := by
  simp only [Thread.settle, h, List.foldl_nil]
  cases r <;> rfl

theorem Thread.past_reg (t : Thread) (n : Nat) (r : RegId) : (t.past n).reg r = t.reg r := by cases r <;> rfl

theorem Thread.issued_keepsName (f : Form) : KeepsName (Thread.issued f) := fun t => by
  simp only [Thread.issued, Thread.past]
  split
  · exact t.land.settle_name
  · exact ⟨rfl, rfl⟩

theorem Thread.issued_pc (f : Form) (t : Thread) : (Thread.issued f t).pc = t.pc + BitVec.ofNat 64 f.len := by
  simp only [Thread.issued, Thread.past]
  split
  · rw [Thread.marked, t.land.settle_pc_guard.1]; rfl
  · rfl

/-- The window that a thread holds counts the instruction (R195). -/
theorem Thread.issued_guard (f : Form) (t : Thread) : (Thread.issued f t).guard = nextGuard t.guard := by
  simp only [Thread.issued, Thread.past]
  split
  · rw [Thread.marked, t.land.settle_pc_guard.2]; rfl
  · rfl

theorem Thread.issued_reg {f : Form} {t : Thread} (h : f.mark = false ∨ t.far = []) (r : RegId) :
    (Thread.issued f t).reg r = t.reg r := by
  have hpast : (Thread.issued f t).reg r = (if f.mark then t.marked else t).reg r := by
    rw [← Thread.past_reg _ f.len]; cases r <;> rfl
  rw [hpast]
  split
  · next hm =>
    have hfar : t.land.far = [] := h.resolve_left (by simp [hm])
    rw [Thread.marked, Thread.settle_reg_of_far_nil hfar]; cases r <;> rfl
  · rfl

theorem nextGuard_eq (w : Option GuardWin) : nextGuard w =
    match w with
    | some w => if 2 ≤ w.left then some ⟨w.pass, w.left - 1⟩ else none
    | none => none := by
  match w with
  | none => rfl
  | some ⟨_, 0⟩ => rfl
  | some ⟨_, 1⟩ => rfl
  | some ⟨_, n + 2⟩ => simp [nextGuard]

section
variable {s : State} {g : Issue}

theorem State.thread?_of_mem_members {t : Thread} (h : t ∈ s.members g) : s.thread? t.cid t.tid = some t := by
  obtain ⟨i, -, hi⟩ := List.mem_filterMap.mp (List.mem_filter.mp h).1
  obtain ⟨hc, ht⟩ := State.thread?_name hi
  rw [hc, ht, hi]

/-- The members of a group bear different names. -/
theorem State.members_distinct (h : g.tids.Nodup) : (s.members g).Pairwise fun t u => ¬(t.cid = u.cid ∧ t.tid = u.tid) := by
  refine List.Pairwise.filter _ (List.pairwise_filterMap.mpr (List.Pairwise.imp ?_ h))
  intro i j hij t ht u hu hname
  exact hij ((State.thread?_name ht).2.symm.trans (hname.2.trans (State.thread?_name hu).2))

/-- Moving past an instruction acts on the members of the group alone, but for the core's owed reads and the issue itself. -/
theorem State.moved_done (f : Form) (h : g.tids.Nodup) :
    (∀ t ∈ s.members g, (s.moved f g).thread? t.cid t.tid = some (Thread.issued f t)) ∧
    (∀ c i, (∀ t ∈ s.members g, ¬(t.cid = c ∧ t.tid = i)) → (s.moved f g).thread? c i = s.thread? c i) ∧
    ∀ l, l.offChip = true → (s.moved f g).getLoc l = s.getLoc l := by
  have hdone := ThreadsDone.of_foldl (g := fun _ => Thread.issued f) (fun _ => Thread.issued_keepsName f) (State.members_distinct (s := s) h)
    (({ s with issue := none, fresh := s.fresh + 1, rivals := [] } : State).updCore g.core fun c => { c with need := c.need + f.grants })
  refine ⟨fun t ht => hdone.result t ht t (State.thread?_of_mem_members ht), hdone.others, fun l hl => (hdone.memory l hl).trans ?_⟩
  refine State.getLoc_of_storage ?_ ?_ ?_ l hl <;> rfl
end

/-! ### Opening a window (R195) -/

/-- `grd` opens its window in each participating thread, by the predicate that its source read. -/
theorem exec_grd_done {h : Hd} {p : PredOp} {n1 : BitVec 3} {s s1 : State} {ps : List Thread}
    (hs : s.Issues (hdForm h (predSrc p)) ps s1) :
    ∃ s', exec (.grd h p n1) s = .next s' ∧ ThreadsDone s1 s' ps fun t u =>
      { u with guard := some ⟨(sourceOf h.uni ps t).pred p, n1.toNat + 1⟩ } := by
  refine ⟨_, congrArg Host.Outcome.next ((State.runIssue_eq hs _ _ rfl).trans (State.each_foldl s1 h.uni ps _)), ?_⟩
  refine ThreadsDone.of_foldl ?_ hs.distinct s1
  exact fun _ _ => ⟨rfl, rfl⟩

/-- Settles O12: the moved state by the updates of the group's members, `grd` by those of the participating threads. -/
theorem groupMovesPastAndGuards : Obligations.GroupMovesPastAndGuards := by
  unfold Obligations.GroupMovesPastAndGuards
  refine ⟨fun s s1 f ps g hg hs => ?moved, fun h p n1 s s1 ps hs => exec_grd_done hs⟩
  case moved =>
    obtain ⟨g', hg', hnodup, -, -, -, rfl⟩ := hs.pending
    obtain rfl : g' = g := Option.some.inj (hg'.symm.trans hg)
    obtain ⟨hmembers, hothers, hmemory⟩ := State.moved_done (s := s) f hnodup
    exact ⟨hmembers, hothers, hmemory, fun t => ⟨Thread.issued_pc f t, Thread.issued_reg, (Thread.issued_guard f t).trans (nextGuard_eq _)⟩⟩

end Sys2Proof.Machine

/-!
The decoder and the encoder: a word is determined by its fields, what each decoder answers encodes back to the word (O55), each row's word
decodes back to the row (O54), and the manual's example words (O53).
-/
namespace Sys2Proof

/-! ### Words and their fields -/

/-- Two words have the same fields between successive cuts, from bit `lo` to the top. -/
def AgreeFrom (w w' : Word) (lo : Nat) : List Nat → Prop
  | [] => fieldOf w lo (32 - lo) = fieldOf w' lo (32 - lo)
  | c :: cs => fieldOf w lo (c - lo) = fieldOf w' lo (c - lo) ∧ AgreeFrom w w' c cs

theorem getLsbD_eq_of_fieldOf_eq {w w' : Word} {lo n i : Nat} (h : fieldOf w lo n = fieldOf w' lo n) (hlo : lo ≤ i) (hi : i < lo + n) :
    w.getLsbD i = w'.getLsbD i := by
  have hbit := congrArg (fun x => x.getLsbD (i - lo)) h
  simpa [fieldOf, show i - lo < n by omega, show lo + (i - lo) = i by omega] using hbit

theorem AgreeFrom.getLsbD_eq {w w' : Word} {cs : List Nat} {lo i : Nat} (h : AgreeFrom w w' lo cs) (hlo : lo ≤ i) (hi : i < 32) :
    w.getLsbD i = w'.getLsbD i := by
  induction cs generalizing lo with
  | nil => exact getLsbD_eq_of_fieldOf_eq h hlo (by omega)
  | cons c cs ih =>
    by_cases hc : i < c
    · exact getLsbD_eq_of_fieldOf_eq h.1 hlo (by omega)
    · exact ih h.2 (by omega)

/-- A word is determined by its fields, wherever it is cut. -/
theorem eq_of_agreeFrom {w w' : Word} (cs : List Nat) (h : AgreeFrom w w' 0 cs) : w' = w :=
  BitVec.eq_of_getLsbD_eq fun _ hi => (h.getLsbD_eq (Nat.zero_le _) hi).symm

theorem fieldOf_one (w : Word) (lo : Nat) : fieldOf w lo 1 = BitVec.ofBool (bitOf w lo) := by
  unfold bitOf
  generalize fieldOf w lo 1 = x
  revert x; decide

theorem eq_of_toNat {n k : Nat} {x : BitVec n} (h : x.toNat = k) : x = BitVec.ofNat n k := by
  rw [← h, BitVec.ofNat_toNat, BitVec.setWidth_eq]

/-- A placed field is read back at its place, cut or filled up with zeros to the width that is read. -/
theorem fieldOf_put_at {n m : Nat} (f : BitVec n) (lo : Nat) (h : lo + m ≤ 32) : fieldOf (put f lo) lo m = f.setWidth m := by
  refine BitVec.eq_of_getLsbD_eq fun i hi => ?_
  simp [fieldOf, put, hi, show lo + i < 32 by omega]

/-- What is read of a word that is put together from placed fields, as rewriting rules: reading passes through `|||`, a field is found at
its place and nothing elsewhere; with the encoder's and the decoder's names for fields and bits. -/
theorem field_rules :
    (∀ (a b : Word) (lo n : Nat), fieldOf (a ||| b) lo n = fieldOf a lo n ||| fieldOf b lo n) ∧
    (∀ (a b : Word) (lo : Nat), bitOf (a ||| b) lo = (bitOf a lo || bitOf b lo)) ∧
    (∀ {n m : Nat} (f : BitVec n) (lo : Nat), lo + m ≤ 32 → fieldOf (put f lo) lo m = f.setWidth m) ∧
    (∀ {n m : Nat} (f : BitVec n) (k lo : Nat), k + n ≤ lo ∨ lo + m ≤ k → fieldOf (put f k) lo m = 0#m) ∧
    (∀ {n : Nat} (f : BitVec n) (k lo : Nat), k + n ≤ 32 → bitOf (put f k) lo = (decide (k ≤ lo) && f.getLsbD (lo - k))) ∧
    (∀ w lo, fieldOf w lo 1 = BitVec.ofBool (bitOf w lo)) ∧
    (∀ maj h, enc maj h = put maj 3 ||| putB h.uni 2 ||| putB h.mark 1 ||| put 1#1 0) ∧
    (∀ maj m, encM maj m = put maj 3 ||| putB m 1 ||| put 1#1 0) ∧
    (∀ p lo, encP p lo = put p.p lo ||| putB p.neg (lo + 3)) ∧ (∀ b lo, putB b lo = put (BitVec.ofBool b) lo) ∧
    (∀ w, hdOf w = ⟨bitOf w 1, bitOf w 2⟩) ∧ (∀ w, fd w = fieldOf w 9 6) ∧ (∀ w, fa w = fieldOf w 15 6) ∧
    (∀ w, fb w = fieldOf w 21 6) ∧ (∀ w, uz w = !bitOf w 2) ∧ ∀ w lo, predAt w lo = ⟨bitOf w (lo + 3), fieldOf w lo 3⟩ :=
  ⟨fieldOf_or, bitOf_or, fieldOf_put_at, fieldOf_put_ne, bitOf_put, fieldOf_one, fun _ _ => rfl, fun _ _ => rfl, fun _ _ => rfl,
    fun _ _ => rfl, fun _ => rfl, fun _ => rfl, fun _ => rfl, fun _ => rfl, fun _ => rfl, fun _ _ => rfl⟩

/-- A 32-bit instruction word of a major opcode (R5, R54). -/
structure IsLong (w : Word) (maj : BitVec 6) : Prop where
  odd : bitOf w 0 = true
  major : fieldOf w 3 6 = maj

/-! ### Formats -/

theorem encR_reads (maj : BitVec 6) (minor : BitVec 5) (h : Hd) (d a b : Reg) :
    let w := encR maj minor h d a b
    bitOf w 0 = true ∧ bitOf w 1 = h.mark ∧ bitOf w 2 = h.uni ∧ fieldOf w 3 6 = maj ∧ fieldOf w 9 6 = d ∧ fieldOf w 15 6 = a ∧
      fieldOf w 21 6 = b ∧ fieldOf w 27 5 = minor := by
  simp [encR, field_rules]

theorem encRr_reads (maj : BitVec 6) (r : BitVec 3) (op : BitVec 2) (h : Hd) (d a b : Reg) :
    let w := encRr maj r op h d a b
    bitOf w 0 = true ∧ bitOf w 1 = h.mark ∧ bitOf w 2 = h.uni ∧ fieldOf w 3 6 = maj ∧ fieldOf w 9 6 = d ∧ fieldOf w 15 6 = a ∧
      fieldOf w 21 6 = b ∧ fieldOf w 27 2 = op ∧ fieldOf w 29 3 = r := by
  simp [encRr, field_rules]

theorem put_zero (n lo : Nat) : put (0#n) lo = 0 := by simp [put]

/-- A word of format R without a second source holds 0 in its place (R54). -/
theorem encR2_eq (maj : BitVec 6) (minor : BitVec 5) (h : Hd) (d a : Reg) : encR2 maj minor h d a = encR maj minor h d a 0 := by
  simp [encR2, encR, put_zero]
@[inherit_doc encR2_eq] theorem encRr2_eq (maj : BitVec 6) (r : BitVec 3) (op : BitVec 2) (h : Hd) (d a : Reg) :
    encRr2 maj r op h d a = encRr maj r op h d a 0 := by
  simp [encRr2, encRr, put_zero]

section
variable {w : Word} {maj : BitVec 6} (hw : IsLong w maj)
include hw

theorem encR_word {minor : BitVec 5} (hm : (fieldOf w 27 5).toNat = minor.toNat) : encR maj minor (hdOf w) (fd w) (fa w) (fb w) = w := by
  refine eq_of_agreeFrom [1, 2, 3, 9, 15, 21, 27] ?_
  simp [AgreeFrom, encR_reads, field_rules, hw.odd, hw.major, eq_of_toNat hm]

theorem encR2_word {minor : BitVec 5} (hm : (fieldOf w 27 5).toNat = minor.toNat) (hb : (fb w == 0) = true) :
    encR2 maj minor (hdOf w) (fd w) (fa w) = w := by
  rw [encR2_eq, ← eq_of_beq hb, encR_word hw hm]

theorem encRr_word {r : BitVec 3} {op : BitVec 2} (hr : (fieldOf w 29 3).toNat = r.toNat) (ho : (fieldOf w 27 2).toNat = op.toNat) :
    encRr maj r op (hdOf w) (fd w) (fa w) (fb w) = w := by
  refine eq_of_agreeFrom [1, 2, 3, 9, 15, 21, 27, 29] ?_
  simp [AgreeFrom, encRr_reads, field_rules, hw.odd, hw.major, eq_of_toNat hr, eq_of_toNat ho]

theorem encRr2_word {r : BitVec 3} {op : BitVec 2} (hr : (fieldOf w 29 3).toNat = r.toNat) (ho : (fieldOf w 27 2).toNat = op.toNat)
    (hb : (fb w == 0) = true) : encRr2 maj r op (hdOf w) (fd w) (fa w) = w := by
  rw [encRr2_eq, ← eq_of_beq hb, encRr_word hw hr ho]

theorem encC_word (hr : (fieldOf w 29 3).toNat = 6) (hz : (fieldOf w 12 3 == 0) = true) :
    encC maj (hdOf w) (fieldOf w 27 2) (fieldOf w 9 3) (fa w) (fb w) = w := by
  refine eq_of_agreeFrom [1, 2, 3, 9, 12, 15, 21, 27, 29] ?_
  simp [AgreeFrom, encC, field_rules, hw.odd, hw.major, eq_of_toNat hr, eq_of_beq hz]

theorem encMem_word {mode : BitVec 2} (hm : (fieldOf w 21 2).toNat = mode.toNat) :
    encMem maj (hdOf w) (fieldOf w 26 6) (fieldOf w 23 3) mode (fa w) (fd w) = w := by
  refine eq_of_agreeFrom [1, 2, 3, 9, 15, 21, 23, 26] ?_
  simp [AgreeFrom, encMem, field_rules, hw.odd, hw.major, eq_of_toNat hm]
end

section
variable {w : Word}

theorem encI_word {minor : BitVec 3} (hw : IsLong w 0x02) (hm : (fieldOf w 21 3).toNat = minor.toNat) :
    encI minor (hdOf w) (fd w) (fa w) (fieldOf w 24 8) = w := by
  refine eq_of_agreeFrom [1, 2, 3, 9, 15, 21, 24] ?_
  simp [AgreeFrom, encI, field_rules, hw.odd, hw.major, eq_of_toNat hm]

theorem encH_word {op : BitVec 4} (hw : IsLong w 0x0B) (hm : (fieldOf w 28 4).toNat = op.toNat) :
    encH op (bitOf w 27) (hdOf w) (fd w) (fa w) (fb w) = w := by
  refine eq_of_agreeFrom [1, 2, 3, 9, 15, 21, 27, 28] ?_
  simp [AgreeFrom, encH, field_rules, hw.odd, hw.major, eq_of_toNat hm]
end

/-! ### Encoding undoes decoding -/

/-- What a decoder answers for a word is a well-formed instruction whose encoding is the word. -/
def Undone (w : Word) (r : Decoded) : Prop := ∀ i, r = .ok i → i.wf = true ∧ encode i = some w

section
variable {w w' : Word} {i : Instr} {r o : Bool}

theorem Undone.error {x : BitVec 8} : Undone w (.error x) := nofun

theorem Undone.ok (henc : encode i = some w') (hwf : i.wf = true) (h : w' = w) : Undone w (.ok i) := by
  rintro _ ⟨⟩
  exact ⟨hwf, h ▸ henc⟩

theorem Undone.need_of (henc : encode i = some w') (h : r = true → o = true → i.wf = true ∧ w' = w) : Undone w (need r o i) := by
  unfold Sys2Proof.need
  split
  · split
    · obtain ⟨hwf, hw⟩ := h ‹_› ‹_›
      exact .ok henc hwf hw
    · exact .error
  · exact .error

/-- Most operand limits give that the instruction is well formed, and the reserved fields that its encoding is the word. -/
theorem Undone.need (henc : encode i = some w') (hwf : o = true → i.wf = true) (h : r = true → w' = w) : Undone w (need r o i) :=
  .need_of henc fun hr ho => ⟨hwf ho, h hr⟩

theorem Undone.ite {p : Prop} [Decidable p] {x y : Decoded} (hx : p → Undone w x) (hy : ¬p → Undone w y) :
    Undone w (if p then x else y) := by
  split
  · exact hx ‹_›
  · exact hy ‹_›
end

section
variable {w : Word}

theorem decIalu_undone (hw : IsLong w 0x01) : Undone w (decIalu w) := by
  unfold decIalu
  split
  case h_27 => exact .error
  case h_5 | h_6 | h_16 | h_26 => exact .need rfl (fun _ => rfl) (encR2_word hw ‹_›)
  all_goals exact .ok rfl rfl (encR_word hw ‹_›)

theorem decIalui_undone (hw : IsLong w 0x02) : Undone w (decIalui w) := by
  unfold decIalui
  split
  case h_1 | h_2 | h_3 | h_4 => exact .ok rfl rfl (encI_word hw ‹_›)
  case h_5 | h_6 | h_7 => exact .need rfl id fun _ => encI_word hw ‹_›
  case h_8 =>
    have hlt := (fieldOf w 21 3).isLt
    exact .need rfl id fun _ => encI_word hw (show (fieldOf w 21 3).toNat = 7 by grind)

theorem decImul_undone (hw : IsLong w 0x03) : Undone w (decImul w) := by
  unfold decImul
  split
  case h_5 => exact .error
  all_goals exact .ok rfl rfl (encR_word hw ‹_›)

theorem decBits_undone (hw : IsLong w 0x04) : Undone w (decBits w) := by
  unfold decBits
  split
  case h_9 => exact .error
  case h_1 | h_2 | h_3 | h_4 => exact .need rfl (fun _ => rfl) (encR2_word hw ‹_›)
  all_goals exact .ok rfl rfl (encR_word hw ‹_›)

theorem decIcmp_undone (hw : IsLong w 0x05) : Undone w (decIcmp w) := by
  unfold decIcmp
  refine .ite (fun h31 => .ite (fun _ => .error) fun h30 => .ok rfl rfl ?isel) fun h31 =>
    .ite (fun hc => .need rfl (fun _ => ?wf) ?icmp) fun _ => .error
  case isel =>
    refine eq_of_agreeFrom [1, 2, 3, 9, 15, 21, 27, 30, 31] ?_
    simp [AgreeFrom, field_rules, hw.odd, hw.major, h31, h30]
  case wf => exact decide_eq_true hc
  case icmp =>
    intro hz
    refine eq_of_agreeFrom [1, 2, 3, 9, 12, 15, 21, 27] ?_
    simp [AgreeFrom, field_rules, hw.odd, hw.major, eq_of_beq hz]

theorem decMovl_undone (hw : IsLong w 0x06) : Undone w (decMovl w) := by
  unfold decMovl
  refine .ite (fun h14 => .need rfl (fun _ => rfl) fun hz => ?_) fun h14 => .need rfl (fun _ => rfl) fun hz => ?_
  all_goals
    refine eq_of_agreeFrom [1, 2, 3, 9, 14, 15] ?_
    simp [AgreeFrom, field_rules, hw.odd, hw.major, h14] at hz ⊢
    simp [hz]

theorem rndLegal_of_ne {r : BitVec 3} (h5 : r.toNat ≠ 5) (h6 : r.toNat ≠ 6) (h7 : r.toNat ≠ 7) : rndLegal r = true := by
  have hlt := r.isLt
  simp only [rndLegal, decide_eq_true_eq]
  omega

theorem decFalu_undone (hw : IsLong w 0x07) : Undone w (decFalu w) := by
  have hlt := (fieldOf w 27 2).isLt
  unfold decFalu
  dsimp only
  split
  case h_1 | h_2 => exact .ok rfl rfl (encRr_word hw ‹_› ‹_›)
  case h_3 | h_6 => exact .need rfl (fun _ => rfl) (encRr2_word hw ‹_› ‹_›)
  case h_4 => exact .need rfl (fun _ => rfl) (encRr2_word hw ‹_› (show (fieldOf w 27 2).toNat = 3 by grind))
  case h_5 => exact .need rfl (fun _ => rfl) (encC_word hw ‹_›)
  case h_7 => exact .error
  case h_8 | h_9 | h_10 => exact .ok rfl (rndLegal_of_ne ‹_› ‹_› ‹_›) (encRr_word hw rfl ‹_›)
  case h_11 => exact .ok rfl (rndLegal_of_ne ‹_› ‹_› ‹_›) (encRr_word hw rfl (show (fieldOf w 27 2).toNat = 3 by grind))

theorem decFfma_undone (hw : IsLong w 0x08) : Undone w (decFfma w) := by
  have hlt := (fieldOf w 27 2).isLt
  unfold decFfma
  dsimp only
  split
  case h_1 => exact .ok rfl rfl (encRr_word hw ‹_› ‹_›)
  case h_2 | h_3 | h_4 => exact .error
  case h_5 => exact .ok rfl (rndLegal_of_ne ‹_› ‹_› ‹_›) (encRr_word hw rfl ‹_›)
  case h_6 => exact .need rfl (fun _ => rndLegal_of_ne ‹_› ‹_› ‹_›) (encRr2_word hw rfl ‹_›)
  case h_7 => exact .need rfl (fun he => Bool.and_eq_true_iff.2 ⟨rndLegal_of_ne ‹_› ‹_› ‹_›, he⟩) fun _ => encRr_word hw rfl ‹_›
  case h_8 =>
    exact .need rfl (fun he => Bool.and_eq_true_iff.2 ⟨rndLegal_of_ne ‹_› ‹_› ‹_›, he⟩)
      (encRr2_word hw rfl (show (fieldOf w 27 2).toNat = 3 by grind))

theorem decFsfu_undone (hw : IsLong w 0x09) : Undone w (decFsfu w) := by
  unfold decFsfu
  split
  case h_8 => exact .error
  all_goals exact .need rfl (fun _ => rfl) (encR2_word hw ‹_›)

theorem decDalu_undone (hw : IsLong w 0x0A) : Undone w (decDalu w) := by
  have hlt := (fieldOf w 27 2).isLt
  unfold decDalu
  dsimp only
  split
  case h_1 | h_2 => exact .need rfl id fun _ => encRr_word hw ‹_› ‹_›
  case h_3 => exact .need rfl id (encRr2_word hw ‹_› ‹_›)
  case h_4 => exact .need rfl id (encRr2_word hw ‹_› (show (fieldOf w 27 2).toNat = 3 by grind))
  case h_5 => exact .need rfl id (encC_word hw ‹_›)
  case h_6 => exact .error
  case h_7 | h_8 | h_9 =>
    exact .need rfl (fun he => Bool.and_eq_true_iff.2 ⟨rndLegal_of_ne ‹_› ‹_› ‹_›, he⟩) fun _ => encRr_word hw rfl ‹_›
  case h_10 =>
    exact .need rfl (fun he => Bool.and_eq_true_iff.2 ⟨rndLegal_of_ne ‹_› ‹_› ‹_›, he⟩)
      fun _ => encRr_word hw rfl (show (fieldOf w 27 2).toNat = 3 by grind)

theorem decHalu_undone (hw : IsLong w 0x0B) : Undone w (decHalu w) := by
  unfold decHalu
  split
  case h_11 => exact .error
  all_goals exact .ok rfl rfl (encH_word hw ‹_›)

theorem decCvt_undone (hw : IsLong w 0x0C) : Undone w (decCvt w) := by
  unfold decCvt
  refine .ite (fun hl => .need rfl (fun he => Bool.and_eq_true_iff.2 ⟨hl, he⟩) fun _ => ?_) fun _ => .error
  refine eq_of_agreeFrom [1, 2, 3, 9, 15, 21, 25, 29] ?_
  simp [AgreeFrom, field_rules, hw.odd, hw.major]

theorem decQnt_undone (hw : IsLong w 0x0D) : Undone w (decQnt w) := by
  unfold decQnt
  split
  case h_1 => exact .ite (fun hf => .ok rfl rfl (encRr_word hw ‹_› (congrArg BitVec.toNat (eq_of_beq hf)))) fun _ => .error
  case h_8 => exact .error
  all_goals
    refine .ite (fun hf => .need rfl (fun ho => ?_) fun _ => encRr_word hw ‹_› rfl) fun _ => .error
    exact Bool.and_eq_true_iff.2 ⟨decide_eq_true hf, ho⟩

theorem decDot_undone (hw : IsLong w 0x0E) : Undone w (decDot w) := by
  unfold decDot
  split
  case h_3 | h_4 | h_5 => exact .need rfl id fun _ => encRr_word hw ‹_› rfl
  case h_8 => exact .error
  all_goals exact .need rfl (fun _ => rfl) fun hf => encRr_word hw ‹_› (congrArg BitVec.toNat (eq_of_beq hf))

theorem decRand_undone (hw : IsLong w 0x0F) : Undone w (decRand w) := by
  unfold decRand
  split
  case h_1 => exact .need rfl id fun _ => encR_word hw ‹_›
  case h_2 | h_3 => exact .need rfl (fun _ => rfl) (encR2_word hw ‹_›)
  case h_4 => exact .error

theorem decXlane_undone (hw : IsLong w 0x10) : Undone w (decXlane w) := by
  have hlt := (fieldOf w 27 2).isLt
  unfold decXlane
  dsimp only
  split
  case h_1 hs ho =>
    refine .need rfl id fun hz => eq_of_agreeFrom [1, 2, 3, 9, 15, 21, 24, 27, 29] ?_
    simp [AgreeFrom, field_rules, hw.odd, hw.major, eq_of_toNat hs, eq_of_toNat ho] at hz ⊢
    simp [hz]
  case h_2 => exact .error
  case h_3 hs =>
    refine .need rfl (fun _ => rfl) fun hz => eq_of_agreeFrom [1, 2, 3, 9, 15, 21, 27, 29] ?_
    simp [AgreeFrom, field_rules, hw.odd, hw.major, eq_of_toNat hs] at hz ⊢
    simp [hz]
  case h_4 hs ho | h_5 hs ho | h_6 hs ho =>
    refine .need rfl (fun _ => rfl) fun hz => eq_of_agreeFrom [1, 2, 3, 9, 15, 18, 19, 21, 27, 29] ?_
    simp [AgreeFrom, field_rules, hw.odd, hw.major, eq_of_toNat hs, eq_of_toNat ho] at hz ⊢
    simp [hz]
  case h_7 =>
    refine .need rfl (fun _ => rfl) fun hz => eq_of_agreeFrom [1, 2, 3, 9, 12, 15, 21, 27, 29] ?_
    have ho : (fieldOf w 27 2).toNat = 3 := by grind
    simp [AgreeFrom, field_rules, hw.odd, hw.major, eq_of_toNat ‹(fieldOf w 29 3).toNat = 2›, eq_of_toNat ho] at hz ⊢
    simp [hz]
  case h_8 hs | h_9 hs =>
    refine .need rfl (fun _ => rfl) fun hz => eq_of_agreeFrom [1, 2, 3, 9, 15, 21, 27, 29] ?_
    simp [AgreeFrom, field_rules, hw.odd, hw.major, eq_of_toNat hs] at hz ⊢
    simp [hz]
  case h_10 => exact .error

theorem decPred_undone (hw : IsLong w 0x11) : Undone w (decPred w) := by
  unfold decPred
  dsimp only
  split
  case h_1 hm | h_2 hm | h_3 hm | h_4 hm =>
    refine .need rfl (fun _ => rfl) fun hz => eq_of_agreeFrom [1, 2, 3, 9, 12, 15, 18, 19, 21, 24, 25, 27] ?_
    simp [AgreeFrom, field_rules, hw.odd, hw.major, eq_of_toNat hm] at hz ⊢
    simp [hz]
  case h_5 hm | h_6 hm =>
    refine .need rfl (fun _ => rfl) fun hz => eq_of_agreeFrom [1, 2, 3, 9, 15, 21, 27] ?_
    simp [AgreeFrom, field_rules, hw.odd, hw.major, eq_of_toNat hm] at hz ⊢
    simp [hz]
  case h_7 hm =>
    refine .need rfl (fun _ => rfl) fun hz => eq_of_agreeFrom [1, 2, 3, 9, 12, 15, 18, 19, 21, 27] ?_
    simp [AgreeFrom, field_rules, hw.odd, hw.major, eq_of_toNat hm] at hz ⊢
    simp [hz]
  case h_8 => exact .error
theorem decSpec_undone (hw : IsLong w 0x12) : Undone w (decSpec w) := by
  unfold decSpec
  dsimp only
  split
  case h_1 ho =>
    refine .ite (fun hl => .need rfl (fun he => Bool.and_eq_true_iff.2 ⟨hl, he⟩) fun hz => ?_) fun _ => .error
    refine eq_of_agreeFrom [1, 2, 3, 9, 15, 21, 30] ?_
    simp [AgreeFrom, field_rules, hw.odd, hw.major, eq_of_toNat ho] at hz ⊢
    simp [hz]
  case h_2 ho =>
    refine .ite (fun hl => .need rfl (fun _ => hl) fun hz => ?_) fun _ => .error
    refine eq_of_agreeFrom [1, 2, 3, 9, 15, 21, 30] ?_
    simp [AgreeFrom, field_rules, hw.odd, hw.major, eq_of_toNat ho] at hz ⊢
    simp [hz]
  case h_3 ho =>
    refine .need rfl (fun _ => rfl) fun hz => eq_of_agreeFrom [1, 2, 3, 9, 15, 21, 30] ?_
    simp [AgreeFrom, field_rules, hw.odd, hw.major, eq_of_toNat ho] at hz ⊢
    simp [hz]
  case h_4 => exact .error

theorem decLd_undone (hw : IsLong w 0x18) : Undone w (decLd w) := by
  unfold decLd
  refine .ite (fun hz => .need rfl (fun ho => ?_) fun _ => encMem_word hw rfl) fun hz => .ok rfl rfl ?_
  · exact Bool.and_eq_true_iff.2 ⟨decide_eq_true hz, ho⟩
  have hlt := (fieldOf w 23 3).isLt
  have hsize : (fieldOf w 23 3).toNat = 7 := by omega
  refine eq_of_agreeFrom [1, 2, 3, 9, 15, 23, 26] ?_
  simp [AgreeFrom, field_rules, hw.odd, hw.major, eq_of_toNat hsize]
  exact ⟨BitVec.extractLsb'_append_eq_right.symm, BitVec.extractLsb'_append_eq_left.symm⟩

theorem decSt_undone (hw : IsLong w 0x19) : Undone w (decSt w) := by
  unfold decSt
  exact .ite (fun hz => .need rfl (fun ho => Bool.and_eq_true_iff.2 ⟨decide_eq_true hz, ho⟩) fun _ => encMem_word hw rfl) fun _ => .error

theorem decPlane_undone (hw : IsLong w 0x1A) : Undone w (decPlane w) := by
  unfold decPlane
  refine .ite (fun h25 => .ite (fun hm => .need rfl (fun ho => ?_) fun _ => ?_) fun _ => .error) fun h25 => .need rfl id fun _ => ?_
  case refine_1 => exact Bool.and_eq_true_iff.2 ⟨hm, ho⟩
  all_goals
    refine eq_of_agreeFrom [1, 2, 3, 9, 15, 21, 23, 25, 26] ?_
    simp [AgreeFrom, encPl, field_rules, hw.odd, hw.major, h25]

theorem decOrd_undone (hw : IsLong w 0x1B) : Undone w (decOrd w) := by
  unfold decOrd
  dsimp only
  split
  case h_1 hm | h_2 hm =>
    refine .ite (fun hc => .need rfl (fun ho => ?_) fun hz => ?_) fun _ => .error
    · exact Bool.and_eq_true_iff.2 ⟨(Bool.and_eq_true_iff.1 hc).2, ho⟩
    · refine eq_of_agreeFrom [1, 2, 3, 9, 15, 21, 23, 25, 26, 29] ?_
      simp [AgreeFrom, encOrd, field_rules, hw.odd, hw.major, eq_of_toNat hm] at hz hc ⊢
      simp [hz, hc]
  case h_3 hm =>
    split
    case h_6 ho =>
      refine .ite (fun hc => .need rfl (fun _ => hc) fun hz => ?_) fun _ => .error
      refine eq_of_agreeFrom [1, 2, 3, 9, 15, 21, 23, 25, 26, 29] ?_
      simp [AgreeFrom, encCctl, field_rules, hw.odd, hw.major, eq_of_toNat hm, eq_of_toNat ho] at hz ⊢
      simp [hz]
    case h_7 => exact .error
    all_goals next ho =>
      refine .need rfl (fun _ => rfl) fun hz => eq_of_agreeFrom [1, 2, 3, 9, 15, 21, 23, 25, 26, 29] ?_
      simp [AgreeFrom, encCctl, field_rules, hw.odd, hw.major, eq_of_toNat hm, eq_of_toNat ho] at hz ⊢
      simp [hz]
  case h_4 => exact .error

theorem decFence_undone (hw : IsLong w 0x1C) : Undone w (decFence w) := by
  unfold decFence
  dsimp only
  split
  case h_1 ho =>
    refine .ite (fun hc => .need rfl (fun _ => hc) fun hz => ?_) fun _ => .error
    refine eq_of_agreeFrom [1, 2, 3, 9, 15, 21, 23, 24, 25, 26, 29] ?_
    simp [AgreeFrom, field_rules, hw.odd, hw.major, eq_of_toNat ho] at hz ⊢
    simp [hz]
  case h_2 ho =>
    refine .ite (fun hc => .need rfl (fun _ => hc) fun hz => ?_) fun _ => .error
    refine eq_of_agreeFrom [1, 2, 3, 9, 15, 21, 23, 26, 29] ?_
    simp [AgreeFrom, field_rules, hw.odd, hw.major, eq_of_toNat ho] at hz ⊢
    simp [hz]
  case h_3 ho =>
    refine .need rfl (fun _ => rfl) fun hz => eq_of_agreeFrom [1, 2, 3, 9, 15, 21, 23, 29] ?_
    simp [AgreeFrom, field_rules, hw.odd, hw.major, eq_of_toNat ho] at hz ⊢
    simp [hz]
  case h_4 => exact .error

theorem decAtom_undone (hw : IsLong w 0x1D) : Undone w (decAtom w) := by
  unfold decAtom
  split
  case h_3 => exact .error
  all_goals exact .ite (fun hl => .need rfl (fun ho => Bool.and_eq_true_iff.2 ⟨hl, ho⟩) fun _ => encMem_word hw ‹_›) fun _ => .error

theorem decSync_undone (hw : IsLong w 0x1E) : Undone w (decSync w) := by
  unfold decSync
  split
  case h_2 | h_4 | h_8 => exact .need rfl id fun _ => encR_word hw ‹_›
  case h_9 hm =>
    refine .need rfl (fun _ => rfl) fun hz => eq_of_agreeFrom [1, 2, 3, 9, 15, 21, 27] ?_
    simp [AgreeFrom, field_rules, hw.odd, hw.major, eq_of_toNat hm] at hz ⊢
    simp [hz]
  case h_10 hm =>
    refine .need rfl (fun _ => rfl) fun hz => eq_of_agreeFrom [1, 2, 3, 9, 15, 21, 27] ?_
    simp [AgreeFrom, field_rules, hw.odd, hw.major, eq_of_toNat hm] at hz ⊢
    simp [hz]
  case h_11 hm =>
    refine .need rfl id fun hz => eq_of_agreeFrom [1, 2, 3, 9, 15, 21, 27] ?_
    simp [AgreeFrom, field_rules, hw.odd, hw.major, eq_of_toNat hm] at hz ⊢
    simp [hz]
  case h_12 => exact .need rfl id (encR2_word hw ‹_›)
  case h_13 => exact .error
  all_goals exact .ok rfl rfl (encR_word hw ‹_›)

theorem decPlupd_undone (hw : IsLong w 0x1F) : Undone w (decPlupd w) := by
  unfold decPlupd
  exact .ite (fun hr => .need rfl id fun _ => encRr_word hw (congrArg BitVec.toNat (eq_of_beq hr)) rfl) fun _ => .error

theorem decMma_undone (hw : IsLong w 0x20) : Undone w (decMma w) := by
  unfold decMma
  refine .ite (fun ht => .ite (fun h29 => .need rfl (fun ho => ?_) fun hz => ?_) fun h29 =>
    .need rfl (fun ho => ?_) fun hz => ?_) fun _ => .error
  case refine_1 | refine_3 => exact Bool.and_eq_true_iff.2 ⟨decide_eq_true ht, ho⟩
  all_goals
    refine eq_of_agreeFrom [1, 2, 3, 9, 13, 19, 25, 29, 30, 31] ?_
    simp [AgreeFrom, encX, field_rules, hw.odd, hw.major, h29] at hz ⊢
    simp [hz]

theorem decMctl_undone (hw : IsLong w 0x21) : Undone w (decMctl w) := by
  unfold decMctl
  dsimp only
  split
  case h_1 hm =>
    refine .need rfl (fun _ => rfl) fun hz => eq_of_agreeFrom [1, 2, 3, 9, 13, 15, 27] ?_
    simp [AgreeFrom, field_rules, hw.odd, hw.major, eq_of_toNat hm] at hz ⊢
    simp [hz]
  case h_2 hm | h_3 hm =>
    refine .need rfl (fun _ => rfl) fun hz => eq_of_agreeFrom [1, 2, 3, 9, 13, 15, 21, 27] ?_
    simp [AgreeFrom, field_rules, hw.odd, hw.major, eq_of_toNat hm] at hz ⊢
    simp [hz]
  case h_4 hm =>
    refine .need rfl id fun hz => eq_of_agreeFrom [1, 2, 3, 9, 13, 15, 21, 27] ?_
    simp [AgreeFrom, field_rules, hw.odd, hw.major, eq_of_toNat hm] at hz ⊢
    simp [hz]
  case h_5 hm =>
    refine .need rfl (fun _ => rfl) fun hz => eq_of_agreeFrom [1, 2, 3, 9, 15, 19, 21, 27] ?_
    simp [AgreeFrom, field_rules, hw.odd, hw.major, eq_of_toNat hm] at hz ⊢
    simp [hz]
  case h_6 => exact .error

theorem decDemu_undone (hw : IsLong w 0x22) : Undone w (decDemu w) := by
  unfold decDemu
  dsimp only
  split
  case h_1 hm | h_2 hm =>
    refine .need rfl id fun hz => eq_of_agreeFrom [1, 2, 3, 9, 15, 21, 27] ?_
    simp [AgreeFrom, field_rules, hw.odd, hw.major, eq_of_toNat hm] at hz ⊢
    simp [hz]
  case h_3 hm =>
    refine .need rfl id fun hz => eq_of_agreeFrom [1, 2, 3, 9, 13, 15, 19, 21, 27] ?_
    simp [AgreeFrom, field_rules, hw.odd, hw.major, eq_of_toNat hm] at hz ⊢
    simp [hz]
  case h_4 => exact .error

theorem decTend_undone (hw : IsLong w 0x23) : Undone w (decTend w) := by
  unfold decTend
  split
  case h_7 => exact .need rfl (fun _ => rfl) (encR2_word hw ‹_›)
  case h_8 => exact .error
  all_goals exact .ok rfl rfl (encR_word hw ‹_›)

theorem decFab_undone (hw : IsLong w 0x24) : Undone w (decFab w) := by
  unfold decFab
  split
  case h_3 => exact .error
  all_goals exact .ok rfl rfl (encR_word hw ‹_›)

theorem decJctl_undone (hw : IsLong w 0x2A) : Undone w (decJctl w) := by
  unfold decJctl
  dsimp only
  split
  case h_1 hm | h_2 hm | h_3 hm =>
    refine .need rfl (fun _ => rfl) fun hz => eq_of_agreeFrom [1, 2, 3, 9, 15, 21, 27] ?_
    simp [AgreeFrom, field_rules, hw.odd, hw.major, eq_of_toNat hm] at hz ⊢
    simp [hz]
  case h_4 => exact .error

theorem decMask_undone (hw : IsLong w 0x2B) : Undone w (decMask w) := by
  unfold decMask
  dsimp only
  split
  case h_1 hm | h_2 hm | h_3 hm | h_4 hm | h_5 hm =>
    refine .need rfl id fun hz => eq_of_agreeFrom [1, 2, 3, 9, 15, 21, 27] ?_
    simp [AgreeFrom, field_rules, hw.odd, hw.major, eq_of_toNat hm] at hz ⊢
    simp [hz]
  case h_6 => exact .error

theorem decBar_undone (hw : IsLong w 0x2C) : Undone w (decBar w) := by
  unfold decBar
  dsimp only
  split
  case h_4 => exact .error
  all_goals next hm =>
    refine .need_of rfl fun hz ho => ⟨?_, eq_of_agreeFrom [1, 2, 3, 9, 13, 15, 21, 24, 25, 27] ?_⟩
    · simp only [Bool.and_eq_true] at hz
      exact Bool.and_eq_true_iff.2 ⟨hz.2.2.2, ho⟩
    · simp [AgreeFrom, encBar, field_rules, hw.odd, hw.major, eq_of_toNat hm] at hz ⊢
      simp [hz]

theorem decSys_undone (hw : IsLong w 0x2D) : Undone w (decSys w) := by
  unfold decSys
  dsimp only
  split
  case h_1 hm | h_2 hm =>
    refine .ite (fun hl => .need rfl (fun ho => Bool.and_eq_true_iff.2 ⟨hl, ho⟩) fun hz => ?_) fun _ => .error
    refine eq_of_agreeFrom [1, 2, 3, 9, 15, 21, 29] ?_
    simp [AgreeFrom, field_rules, hw.odd, hw.major, eq_of_toNat hm] at hz ⊢
    simp [hz]
  case h_3 hm | h_4 hm | h_5 hm | h_6 hm | h_7 hm =>
    refine .need rfl (fun _ => rfl) fun hz => eq_of_agreeFrom [1, 2, 3, 9, 15, 21, 29] ?_
    simp [AgreeFrom, field_rules, hw.odd, hw.major, eq_of_toNat hm] at hz ⊢
    simp [hz]
  case h_8 =>
    have hlt := (fieldOf w 29 3).isLt
    have hm : (fieldOf w 29 3).toNat = 7 := by grind
    split
    case h_1 hr =>
      refine .need rfl id fun _ => eq_of_agreeFrom [1, 2, 3, 9, 15, 21, 29] ?_
      simp [AgreeFrom, field_rules, hw.odd, hw.major, eq_of_toNat hm, eq_of_toNat hr]
    case h_2 hr =>
      refine .need rfl id fun hz => eq_of_agreeFrom [1, 2, 3, 9, 15, 21, 29] ?_
      simp [AgreeFrom, field_rules, hw.odd, hw.major, eq_of_toNat hm, eq_of_toNat hr] at hz ⊢
      simp [hz]
    case h_3 => exact .error

theorem decRx_undone (hw : IsLong w 0x30) : Undone w (decRx w) := by
  unfold decRx
  dsimp only
  split
  case h_1 hm | h_2 hm | h_4 hm =>
    refine .need rfl (fun _ => rfl) fun hz => eq_of_agreeFrom [1, 2, 3, 9, 15, 27] ?_
    simp [AgreeFrom, field_rules, hw.odd, hw.major, eq_of_toNat hm] at hz ⊢
    simp [hz]
  case h_3 hm =>
    refine .need rfl (fun _ => rfl) fun hz => eq_of_agreeFrom [1, 2, 3, 9, 15, 21, 27] ?_
    simp [AgreeFrom, field_rules, hw.odd, hw.major, eq_of_toNat hm] at hz ⊢
    simp [hz]
  case h_5 hm =>
    refine .need rfl id fun hz => eq_of_agreeFrom [1, 2, 3, 9, 15, 27] ?_
    simp [AgreeFrom, field_rules, hw.odd, hw.major, eq_of_toNat hm] at hz ⊢
    simp [hz]
  case h_6 => exact .error

theorem decLad_undone (hw : IsLong w 0x31) : Undone w (decLad w) := by
  unfold decLad
  dsimp only
  split
  case h_1 hm =>
    refine .ok rfl rfl (eq_of_agreeFrom [1, 2, 3, 9, 15, 27] ?_)
    simp [AgreeFrom, field_rules, hw.odd, hw.major, eq_of_toNat hm]
  case h_2 hm =>
    refine .need rfl (fun _ => rfl) fun hz => eq_of_agreeFrom [1, 2, 3, 9, 15, 21, 27] ?_
    simp [AgreeFrom, field_rules, hw.odd, hw.major, eq_of_toNat hm] at hz ⊢
    simp [hz]
  case h_3 hm =>
    refine .need rfl id fun hz => eq_of_agreeFrom [1, 2, 3, 9, 15, 21, 27] ?_
    simp [AgreeFrom, field_rules, hw.odd, hw.major, eq_of_toNat hm] at hz ⊢
    simp [hz]
  case h_4 => exact .need rfl id (encR2_word hw ‹_›)
  case h_5 => exact .error

theorem decGen_undone (hw : IsLong w 0x32) : Undone w (decGen w) := by
  unfold decGen
  split
  case h_1 | h_5 | h_6 | h_7 => exact .need rfl id (encR2_word hw ‹_›)
  case h_2 | h_4 => exact .need rfl (fun _ => rfl) (encR2_word hw ‹_›)
  case h_3 => exact .ok rfl rfl (encR_word hw ‹_›)
  case h_8 => exact .need rfl id fun _ => encR_word hw ‹_›
  case h_9 => exact .error

theorem decode32_undone (h0 : bitOf w 0 = true) : Undone w (decode32 w) := by
  have long {k : Nat} (h : (fieldOf w 3 6).toNat = k) : IsLong w (BitVec.ofNat 6 k) := ⟨h0, eq_of_toNat h⟩
  unfold decode32
  split
  case h_1 hm => exact decIalu_undone (long hm)
  case h_2 hm => exact decIalui_undone (long hm)
  case h_3 hm => exact decImul_undone (long hm)
  case h_4 hm => exact decBits_undone (long hm)
  case h_5 hm => exact decIcmp_undone (long hm)
  case h_6 hm => exact decMovl_undone (long hm)
  case h_7 hm => exact decFalu_undone (long hm)
  case h_8 hm => exact decFfma_undone (long hm)
  case h_9 hm => exact decFsfu_undone (long hm)
  case h_10 hm => exact decDalu_undone (long hm)
  case h_11 hm => exact decHalu_undone (long hm)
  case h_12 hm => exact decCvt_undone (long hm)
  case h_13 hm => exact decQnt_undone (long hm)
  case h_14 hm => exact decDot_undone (long hm)
  case h_15 hm => exact decRand_undone (long hm)
  case h_16 hm => exact decXlane_undone (long hm)
  case h_17 hm => exact decPred_undone (long hm)
  case h_18 hm => exact decSpec_undone (long hm)
  case h_19 hm => exact decLd_undone (long hm)
  case h_20 hm => exact decSt_undone (long hm)
  case h_21 hm => exact decPlane_undone (long hm)
  case h_22 hm => exact decOrd_undone (long hm)
  case h_23 hm => exact decFence_undone (long hm)
  case h_24 hm => exact decAtom_undone (long hm)
  case h_25 hm => exact decSync_undone (long hm)
  case h_26 hm => exact decPlupd_undone (long hm)
  case h_27 hm => exact decMma_undone (long hm)
  case h_28 hm => exact decMctl_undone (long hm)
  case h_29 hm => exact decDemu_undone (long hm)
  case h_30 hm => exact decTend_undone (long hm)
  case h_31 hm => exact decFab_undone (long hm)
  case h_32 hm | h_33 hm =>
    refine .need rfl (fun _ => rfl) fun hz => eq_of_agreeFrom [1, 2, 3, 9, 12, 13] ?_
    simp [AgreeFrom, encB, field_rules, h0, eq_of_toNat hm] at hz ⊢
    simp [hz]
  case h_34 hm => exact decJctl_undone (long hm)
  case h_35 hm => exact decMask_undone (long hm)
  case h_36 hm => exact decBar_undone (long hm)
  case h_37 hm => exact decSys_undone (long hm)
  case h_38 hm => exact decRx_undone (long hm)
  case h_39 hm => exact decLad_undone (long hm)
  case h_40 hm => exact decGen_undone (long hm)
  case h_41 hm =>
    refine .need rfl (fun _ => rfl) fun hz => eq_of_agreeFrom [1, 3, 9, 15] ?_
    simp [AgreeFrom, field_rules, h0, eq_of_toNat hm] at hz ⊢
    simp [hz]
  case h_42 => exact .error

theorem getLsbD_lowMask {n : Nat} (hn : n ≤ 32) (i : Nat) : (BitVec.ofNat 32 (2 ^ n - 1)).getLsbD i = decide (i < n) := by
  rw [BitVec.getLsbD_ofNat, Nat.testBit_two_pow_sub_one]
  by_cases h : i < n
  · simp [h, show i < 32 by omega]
  · simp [h]

/-- The low halfword of a word holds its fields below bit 16 and nothing above (R5). -/
theorem fieldOf_low (w : Word) (lo n : Nat) : (lo + n ≤ 16 → fieldOf (w &&& 65535#32) lo n = fieldOf w lo n) ∧
    (16 ≤ lo → fieldOf (w &&& 65535#32) lo n = 0#n) := by
  have hmask (i : Nat) : (65535#32).getLsbD i = decide (i < 16) := getLsbD_lowMask (n := 16) (by omega) i
  refine ⟨fun h => BitVec.eq_of_getLsbD_eq fun i hi => ?_, fun h => BitVec.eq_of_getLsbD_eq fun i hi => ?_⟩
  · simp only [fieldOf, BitVec.getLsbD_extractLsb', BitVec.getLsbD_and, hmask, show lo + i < 16 by omega, decide_true, Bool.and_true]
  · simp only [fieldOf, BitVec.getLsbD_extractLsb', BitVec.getLsbD_and, hmask, show ¬lo + i < 16 by omega, decide_false, Bool.and_false,
      BitVec.getLsbD_zero]

theorem decode16_encodes (heven : bitOf w 0 = false) : (decode16 w).wf = true ∧ encode (decode16 w) = some (w &&& 0xFFFF) := by
  have word {op : BitVec 4} (hop : (fieldOf w 2 4).toNat = op.toNat) :
      enc16 op (bitOf w 1) (fieldOf w 6 5) (fieldOf w 11 5) = w &&& 0xFFFF := by
    refine eq_of_agreeFrom [1, 2, 6, 11, 16] ?_
    simp [AgreeFrom, fieldOf_low]
    simp [enc16, field_rules, heven, eq_of_toNat hop]
  unfold decode16
  dsimp only
  have hlt := (fieldOf w 2 4).isLt
  split
  case h_16 => exact ⟨rfl, congrArg some (word (show (fieldOf w 2 4).toNat = 15 by grind))⟩
  all_goals exact ⟨rfl, congrArg some (word ‹_›)⟩

end

/-- Settles O55: each decoder's answer encodes back to the word, field by field. -/
theorem encodingUndoesDecoding : Obligations.EncodingUndoesDecoding := by
  unfold Obligations.EncodingUndoesDecoding
  intro w i h
  unfold decode at h
  cases hs : isShort w with
  | true =>
    rw [hs, if_pos rfl] at h
    cases h
    exact decode16_encodes (by simpa [isShort] using hs)
  | false =>
    simp only [hs, Bool.false_eq_true, if_false] at h ⊢
    exact decode32_undone (by simpa [isShort] using hs) i h

/-! ### Decoding undoes encoding -/

theorem rnd_cases {r : BitVec 3} (h : rndLegal r = true) : r = 0 ∨ r = 1 ∨ r = 2 ∨ r = 3 ∨ r = 4 := by
  revert r; decide

theorem bitVec2_cases (x : BitVec 2) : x = 0 ∨ x = 1 ∨ x = 2 ∨ x = 3 := by
  revert x; decide

theorem cond_top_bit {c : BitVec 5} (h : c.toNat ≤ 9) : getElem c 4 (by decide) = false := by
  revert c; decide

theorem extract_append_self (x : BitVec 14) : x.extractLsb' 8 6 ++ x.extractLsb' 0 8 = x := by
  refine BitVec.eq_of_getLsbD_eq fun i hi => ?_
  rw [BitVec.getLsbD_append, BitVec.getLsbD_extractLsb', BitVec.getLsbD_extractLsb']
  by_cases h : i < 8
  · simp [h]
  · simp [h, show i - 8 < 6 by omega, show 8 + (i - 8) = i by omega]

/-- Where the instruction is well formed, it has an encoding that decodes to it. -/
def Decodes (i : Instr) : Prop := i.wf = true → ∃ w, encode i = some w ∧ decode w = .ok i

theorem Decodes.of {i : Instr} {w : Word} (henc : encode i = some w) (h : i.wf = true → decode w = .ok i) : Decodes i :=
  fun hwf => ⟨w, henc, h hwf⟩

theorem decodes_ialu : ∀ row ∈ [Instr.iadd, .isub, .iaddc, .isubb, .imin, .imax, .umin, .umax, .and, .or, .xor, .andn, .orn, .shl,
    .shr, .sar, .rol, .ror], ∀ h d a b, Decodes (row h d a b) := by
  simp only [List.forall_mem_cons, List.not_mem_nil, false_implies, implies_true, and_true]
  and_intros <;> exact fun _ _ _ _ => .of rfl fun _ => by simp [decode, isShort, decode32, decIalu, encR_reads, field_rules]

theorem decodes_ialu_one : ∀ row ∈ [Instr.ineg, .iabs, .not, .mov], ∀ h d a, Decodes (row h d a) := by
  simp only [List.forall_mem_cons, List.not_mem_nil, false_implies, implies_true, and_true]
  and_intros <;> exact fun _ _ _ => .of rfl fun _ => by simp [decode, isShort, decode32, decIalu, need, encR2_eq, encR_reads, field_rules]

theorem decodes_lea : ∀ h o d a b, Decodes (.lea h o d a b) := by
  refine fun _ o _ _ _ => .of rfl fun _ => ?_
  rcases bitVec2_cases o with rfl | rfl | rfl | rfl <;> simp [decode, isShort, decode32, decIalu, encR_reads, field_rules]

theorem decodes_ialui : ∀ row ∈ [Instr.iaddImm, .andImm, .orImm, .xorImm], ∀ h d a i, Decodes (row h d a i) := by
  simp only [List.forall_mem_cons, List.not_mem_nil, false_implies, implies_true, and_true]
  and_intros <;> exact fun _ _ _ _ => .of rfl fun _ => by simp [decode, isShort, decode32, decIalui, encI, field_rules]

theorem decodes_shifts : ∀ row ∈ [Instr.shlImm, .shrImm, .sarImm, .rolImm], ∀ h d a i, Decodes (row h d a i) := by
  simp only [List.forall_mem_cons, List.not_mem_nil, false_implies, implies_true, and_true]
  and_intros
  all_goals
    refine fun _ _ _ _ => .of rfl fun hwf => ?_
    unfold Instr.wf at hwf
    simp at hwf
    simp [decode, isShort, decode32, decIalui, need, encI, field_rules, hwf]

theorem decodes_imul : ∀ row ∈ [Instr.imul, .imulh, .umulh, .imad], ∀ h d a b, Decodes (row h d a b) := by
  simp only [List.forall_mem_cons, List.not_mem_nil, false_implies, implies_true, and_true]
  and_intros <;> exact fun _ _ _ _ => .of rfl fun _ => by simp [decode, isShort, decode32, decImul, encR_reads, field_rules]

theorem decodes_fields : ∀ row ∈ [Instr.bfe, .ubfe, .bfi, .bmix], ∀ h d a b, Decodes (row h d a b) := by
  simp only [List.forall_mem_cons, List.not_mem_nil, false_implies, implies_true, and_true]
  and_intros <;> exact fun _ _ _ _ => .of rfl fun _ => by simp [decode, isShort, decode32, decBits, encR_reads, field_rules]

theorem decodes_bits : ∀ row ∈ [Instr.popc, .clz, .ctz, .brev], ∀ h d a, Decodes (row h d a) := by
  simp only [List.forall_mem_cons, List.not_mem_nil, false_implies, implies_true, and_true]
  and_intros <;> exact fun _ _ _ => .of rfl fun _ => by simp [decode, isShort, decode32, decBits, need, encR2_eq, encR_reads, field_rules]

theorem decodes_icmp : ∀ h c p a b, Decodes (.icmp h c p a b) := by
  refine fun _ _ _ _ _ => .of rfl fun hwf => ?_
  have hc := of_decide_eq_true hwf
  simp [decode, isShort, decode32, decIcmp, need, field_rules, hc, cond_top_bit hc]

theorem decodes_isel : ∀ h p d a b, Decodes (.isel h p d a b) := by
  exact fun _ _ _ _ _ => .of rfl fun _ => by simp [decode, isShort, decode32, decIcmp, field_rules]

theorem decodes_movl : ∀ row ∈ [Instr.movi, .lui], ∀ m d k, Decodes (row m d k) := by
  simp only [List.forall_mem_cons, List.not_mem_nil, false_implies, implies_true, and_true]
  and_intros <;> exact fun _ _ _ => .of rfl fun _ => by simp [decode, isShort, decode32, decMovl, need, field_rules]

theorem decodes_falu_rnd : ∀ row ∈ [Instr.fadd, .fsub, .fmul, .fdiv], ∀ h r d a b, Decodes (row h r d a b) := by
  simp only [List.forall_mem_cons, List.not_mem_nil, false_implies, implies_true, and_true]
  and_intros
  all_goals
    refine fun _ r _ _ _ => .of rfl fun hwf => ?_
    unfold Instr.wf at hwf
    dsimp only at hwf
    rcases rnd_cases hwf with rfl | rfl | rfl | rfl | rfl <;>
      simp [decode, isShort, decode32, decFalu, encRr_reads, field_rules]

theorem decodes_fminmax : ∀ row ∈ [Instr.fmin, .fmax], ∀ h d a b, Decodes (row h d a b) := by
  simp only [List.forall_mem_cons, List.not_mem_nil, false_implies, implies_true, and_true]
  and_intros <;> exact fun _ _ _ _ => .of rfl fun _ => by simp [decode, isShort, decode32, decFalu, encRr_reads, field_rules]

theorem decodes_falu_one : ∀ row ∈ [Instr.fabs, .fneg, .fclass], ∀ h d a, Decodes (row h d a) := by
  simp only [List.forall_mem_cons, List.not_mem_nil, false_implies, implies_true, and_true]
  and_intros <;> exact fun _ _ _ => .of rfl fun _ => by simp [decode, isShort, decode32, decFalu, need, encRr2_eq, encRr_reads, field_rules]

theorem decodes_fcmp : ∀ h c p a b, Decodes (.fcmp h c p a b) := by
  exact fun _ _ _ _ _ => .of rfl fun _ => by simp [decode, isShort, decode32, decFalu, need, encC, field_rules]

theorem decodes_ffma : ∀ h r d a b, Decodes (.ffma h r d a b) := by
  refine fun _ r _ _ _ => .of rfl fun hwf => ?_
  unfold Instr.wf at hwf
  dsimp only at hwf
  rcases rnd_cases hwf with rfl | rfl | rfl | rfl | rfl <;>
    simp [decode, isShort, decode32, decFfma, encRr_reads, field_rules]

theorem decodes_fsqrt : ∀ h r d a, Decodes (.fsqrt h r d a) := by
  refine fun _ r _ _ => .of rfl fun hwf => ?_
  unfold Instr.wf at hwf
  dsimp only at hwf
  rcases rnd_cases hwf with rfl | rfl | rfl | rfl | rfl <;>
    simp [decode, isShort, decode32, decFfma, need, encRr2_eq, encRr_reads, field_rules]

theorem decodes_dfma : ∀ h r d a b, Decodes (.dfma h r d a b) := by
  refine fun _ r _ _ _ => .of rfl fun hwf => ?_
  unfold Instr.wf at hwf
  simp only [Bool.and_eq_true] at hwf
  rcases rnd_cases hwf.1 with rfl | rfl | rfl | rfl | rfl <;>
    simp [decode, isShort, decode32, decFfma, need, encRr_reads, field_rules, hwf]

theorem decodes_dsqrt : ∀ h r d a, Decodes (.dsqrt h r d a) := by
  refine fun _ r _ _ => .of rfl fun hwf => ?_
  unfold Instr.wf at hwf
  simp only [Bool.and_eq_true] at hwf
  rcases rnd_cases hwf.1 with rfl | rfl | rfl | rfl | rfl <;>
    simp [decode, isShort, decode32, decFfma, need, encRr2_eq, encRr_reads, field_rules, hwf]

theorem decodes_fscale : ∀ h d a b, Decodes (.fscale h d a b) := by
  exact fun _ _ _ _ => .of rfl fun _ => by simp [decode, isShort, decode32, decFfma, encRr_reads, field_rules]

theorem decodes_fsfu : ∀ row ∈ [Instr.frcp, .frsq, .fex2, .flg2, .fsin, .fcos, .ftanh], ∀ h d a, Decodes (row h d a) := by
  simp only [List.forall_mem_cons, List.not_mem_nil, false_implies, implies_true, and_true]
  and_intros <;> exact fun _ _ _ => .of rfl fun _ => by simp [decode, isShort, decode32, decFsfu, need, encR2_eq, encR_reads, field_rules]

theorem decodes_dalu_rnd : ∀ row ∈ [Instr.dadd, .dsub, .dmul, .ddiv], ∀ h r d a b, Decodes (row h r d a b) := by
  simp only [List.forall_mem_cons, List.not_mem_nil, false_implies, implies_true, and_true]
  and_intros
  all_goals
    refine fun _ r _ _ _ => .of rfl fun hwf => ?_
    unfold Instr.wf at hwf
    simp only [Bool.and_eq_true] at hwf
    rcases rnd_cases hwf.1 with rfl | rfl | rfl | rfl | rfl <;>
      simp [decode, isShort, decode32, decDalu, need, encRr_reads, field_rules, hwf]

theorem decodes_dminmax : ∀ row ∈ [Instr.dmin, .dmax], ∀ h d a b, Decodes (row h d a b) := by
  simp only [List.forall_mem_cons, List.not_mem_nil, false_implies, implies_true, and_true]
  and_intros
  all_goals
    refine fun _ _ _ _ => .of rfl fun hwf => ?_
    unfold Instr.wf at hwf
    simp at hwf
    simp [decode, isShort, decode32, decDalu, need, encRr_reads, field_rules, hwf]

theorem decodes_dalu_one : ∀ row ∈ [Instr.dabs, .dneg], ∀ h d a, Decodes (row h d a) := by
  simp only [List.forall_mem_cons, List.not_mem_nil, false_implies, implies_true, and_true]
  and_intros
  all_goals
    refine fun _ _ _ => .of rfl fun hwf => ?_
    unfold Instr.wf at hwf
    simp at hwf
    simp [decode, isShort, decode32, decDalu, need, encRr2_eq, encRr_reads, field_rules, hwf]

theorem decodes_dcmp : ∀ h c p a b, Decodes (.dcmp h c p a b) := by
  refine fun _ _ _ _ _ => .of rfl fun hwf => ?_
  unfold Instr.wf at hwf
  simp at hwf
  simp [decode, isShort, decode32, decDalu, need, encC, field_rules, hwf]

theorem decodes_halu : ∀ row ∈ [Instr.hadd2, .hsub2, .hmul2, .hfma2, .hmin2, .hmax2, .hcmp2Eq, .hcmp2Lt, .hcmp2Le, .hcmp2Un],
    ∀ h t d a b, Decodes (row h t d a b) := by
  simp only [List.forall_mem_cons, List.not_mem_nil, false_implies, implies_true, and_true]
  and_intros <;> exact fun _ _ _ _ _ => .of rfl fun _ => by simp [decode, isShort, decode32, decHalu, encH, field_rules]

theorem decodes_cvt : ∀ h r t v d a, Decodes (.cvt h r t v d a) := by
  refine fun _ _ _ _ _ _ => .of rfl fun hwf => ?_
  unfold Instr.wf at hwf
  simp at hwf
  simp [decode, isShort, decode32, decCvt, need, field_rules, hwf]

theorem decodes_scx : ∀ h d a b, Decodes (.scx h d a b) := by
  exact fun _ _ _ _ => .of rfl fun _ => by simp [decode, isShort, decode32, decQnt, encRr_reads, field_rules]

theorem decodes_qnt : ∀ row ∈ [Instr.q8, .q4, .dq8, .dq4, .q8Cs, .q4Cs], ∀ h f d a b, Decodes (row h f d a b) := by
  simp only [List.forall_mem_cons, List.not_mem_nil, false_implies, implies_true, and_true]
  and_intros
  all_goals
    refine fun _ _ _ _ _ => .of rfl fun hwf => ?_
    unfold Instr.wf at hwf
    simp at hwf
    simp [decode, isShort, decode32, decQnt, need, encRr_reads, field_rules, hwf]

theorem decodes_dot : ∀ row ∈ [Instr.dp4, .dp8, .hdp2F16, .hdp2Bf16], ∀ h d a b, Decodes (row h d a b) := by
  simp only [List.forall_mem_cons, List.not_mem_nil, false_implies, implies_true, and_true]
  and_intros <;> exact fun _ _ _ _ => .of rfl fun _ => by simp [decode, isShort, decode32, decDot, need, encRr_reads, field_rules]

theorem decodes_fdot : ∀ row ∈ [Instr.fdp4E4m3, .fdp4E5m2, .fdp8], ∀ h f d a b, Decodes (row h f d a b) := by
  simp only [List.forall_mem_cons, List.not_mem_nil, false_implies, implies_true, and_true]
  and_intros
  all_goals
    refine fun _ _ _ _ _ => .of rfl fun hwf => ?_
    unfold Instr.wf at hwf
    simp at hwf
    simp [decode, isShort, decode32, decDot, need, encRr_reads, field_rules, hwf]

theorem decodes_gen : ∀ h d a b, Decodes (.gen h d a b) := by
  refine fun _ _ _ _ => .of rfl fun hwf => ?_
  unfold Instr.wf at hwf
  simp at hwf
  simp [decode, isShort, decode32, decRand, need, encR_reads, field_rules, hwf]

theorem decodes_rand_one : ∀ row ∈ [Instr.gumbel, .rndf], ∀ h d a, Decodes (row h d a) := by
  simp only [List.forall_mem_cons, List.not_mem_nil, false_implies, implies_true, and_true]
  and_intros <;> exact fun _ _ _ => .of rfl fun _ => by simp [decode, isShort, decode32, decRand, need, encR2_eq, encR_reads, field_rules]

theorem decodes_bfx : ∀ m k d a, Decodes (.bfx m k d a) := by
  refine fun _ _ _ _ => .of rfl fun hwf => ?_
  unfold Instr.wf at hwf
  simp at hwf
  simp [decode, isShort, decode32, decXlane, need, field_rules, hwf]

theorem decodes_lget : ∀ m k d a b, Decodes (.lget m k d a b) := by
  exact fun _ _ _ _ _ => .of rfl fun _ => by simp [decode, isShort, decode32, decXlane, need, field_rules]

theorem decodes_poll : ∀ row ∈ [Instr.pollCnt, .pollRank, .pollMask], ∀ m d p, Decodes (row m d p) := by
  simp only [List.forall_mem_cons, List.not_mem_nil, false_implies, implies_true, and_true]
  and_intros <;> exact fun _ _ _ => .of rfl fun _ => by simp [decode, isShort, decode32, decXlane, need, field_rules]

theorem decodes_pollSame : ∀ m p a, Decodes (.pollSame m p a) := by
  exact fun _ _ _ => .of rfl fun _ => by simp [decode, isShort, decode32, decXlane, need, field_rules]

theorem decodes_redx : ∀ row ∈ [Instr.redx, .scanx], ∀ m k d a, Decodes (row m k d a) := by
  simp only [List.forall_mem_cons, List.not_mem_nil, false_implies, implies_true, and_true]
  and_intros <;> exact fun _ _ _ _ => .of rfl fun _ => by simp [decode, isShort, decode32, decXlane, need, field_rules]

theorem decodes_plop : ∀ h o d a b, Decodes (.plop h o d a b) := by
  refine fun _ o _ _ _ => .of rfl fun _ => ?_
  rcases bitVec2_cases o with rfl | rfl | rfl | rfl <;> simp [decode, isShort, decode32, decPred, need, field_rules]

theorem decodes_pmov : ∀ row ∈ [Instr.pmovToReg, .pmovToPred], ∀ h a, Decodes (row h a) := by
  simp only [List.forall_mem_cons, List.not_mem_nil, false_implies, implies_true, and_true]
  and_intros <;> exact fun _ _ => .of rfl fun _ => by simp [decode, isShort, decode32, decPred, need, field_rules]

theorem decodes_grd : ∀ h p n, Decodes (.grd h p n) := by
  exact fun _ _ _ => .of rfl fun _ => by simp [decode, isShort, decode32, decPred, need, field_rules]

theorem decodes_spec : ∀ row ∈ [Instr.gets, .sets], ∀ h r a, Decodes (row h r a) := by
  simp only [List.forall_mem_cons, List.not_mem_nil, false_implies, implies_true, and_true]
  and_intros
  all_goals
    refine fun _ _ _ => .of rfl fun hwf => ?_
    unfold Instr.wf at hwf
    simp at hwf
    simp [decode, isShort, decode32, decSpec, need, field_rules, hwf]

theorem decodes_nop : ∀ m, Decodes (.nop m) := by
  exact fun _ => .of rfl fun _ => by simp [decode, isShort, decode32, decSpec, need, field_rules]

theorem decodes_ld : ∀ h f z m b t, Decodes (.ld h f z m b t) := by
  refine fun _ _ _ _ _ _ => .of rfl fun hwf => ?_
  unfold Instr.wf at hwf
  simp at hwf
  simp [decode, isShort, decode32, decLd, need, encMem, field_rules, hwf]

theorem decodes_ldt : ∀ h f t, Decodes (.ldt h f t) := by
  exact fun _ _ _ => .of rfl fun _ => by simp [decode, isShort, decode32, decLd, extract_append_self, field_rules]

theorem decodes_st : ∀ h f z m b t, Decodes (.st h f z m b t) := by
  refine fun _ _ _ _ _ _ => .of rfl fun hwf => ?_
  unfold Instr.wf at hwf
  simp at hwf
  simp [decode, isShort, decode32, decSt, need, encMem, field_rules, hwf]

theorem decodes_plane : ∀ row ∈ [Instr.ldp, .stp], ∀ h f k m b t, Decodes (row h f k m b t) := by
  simp only [List.forall_mem_cons, List.not_mem_nil, false_implies, implies_true, and_true]
  and_intros
  all_goals
    refine fun _ _ _ _ _ _ => .of rfl fun hwf => ?_
    unfold Instr.wf at hwf
    simp at hwf
    simp [decode, isShort, decode32, decPlane, need, encPl, field_rules, hwf]

theorem decodes_ord : ∀ row ∈ [Instr.ldacq, .strel], ∀ h c z b t, Decodes (row h c z b t) := by
  simp only [List.forall_mem_cons, List.not_mem_nil, false_implies, implies_true, and_true]
  and_intros
  all_goals
    refine fun _ _ _ _ _ => .of rfl fun hwf => ?_
    unfold Instr.wf at hwf
    simp at hwf
    simp [decode, isShort, decode32, decOrd, need, encOrd, field_rules, hwf]

theorem decodes_cctl : ∀ row ∈ [Instr.cctlWb, .cctlWbinv, .cctlPf1, .cctlPf2, .cctlZero], ∀ h b, Decodes (row h b) := by
  simp only [List.forall_mem_cons, List.not_mem_nil, false_implies, implies_true, and_true]
  and_intros <;> exact fun _ _ => .of rfl fun _ => by simp [decode, isShort, decode32, decOrd, need, encCctl, field_rules]

theorem decodes_iinv : ∀ h c b, Decodes (.cctlIinv h c b) := by
  refine fun _ _ _ => .of rfl fun hwf => ?_
  unfold Instr.wf at hwf
  simp at hwf
  simp [decode, isShort, decode32, decOrd, need, encCctl, field_rules, hwf]

theorem decodes_fence : ∀ m c q r o, Decodes (.fence m c q r o) := by
  refine fun _ _ _ _ _ => .of rfl fun hwf => ?_
  unfold Instr.wf at hwf
  simp at hwf
  simp [decode, isShort, decode32, decFence, need, field_rules, hwf]

theorem decodes_aliasf : ∀ m c, Decodes (.aliasf m c) := by
  refine fun _ _ => .of rfl fun hwf => ?_
  unfold Instr.wf at hwf
  simp at hwf
  simp [decode, isShort, decode32, decFence, need, field_rules, hwf]

theorem decodes_evs : ∀ m a, Decodes (.evs m a) := by
  exact fun _ _ => .of rfl fun _ => by simp [decode, isShort, decode32, decFence, need, field_rules]

theorem decodes_atom : ∀ row ∈ [Instr.atom, .red], ∀ h o z b t, Decodes (row h o z b t) := by
  simp only [List.forall_mem_cons, List.not_mem_nil, false_implies, implies_true, and_true]
  and_intros
  all_goals
    refine fun _ _ _ _ _ => .of rfl fun hwf => ?_
    unfold Instr.wf at hwf
    simp at hwf
    simp [decode, isShort, decode32, decAtom, need, encMem, field_rules, hwf]

theorem decodes_sync : ∀ row ∈ [Instr.sadd, .sincw, .sexch, .smin, .smax], ∀ h d a b, Decodes (row h d a b) := by
  simp only [List.forall_mem_cons, List.not_mem_nil, false_implies, implies_true, and_true]
  and_intros <;> exact fun _ _ _ _ => .of rfl fun _ => by simp [decode, isShort, decode32, decSync, encR_reads, field_rules]

theorem decodes_sync_checked : ∀ row ∈ [Instr.sbadd, .scas, .waita], ∀ h d a b, Decodes (row h d a b) := by
  simp only [List.forall_mem_cons, List.not_mem_nil, false_implies, implies_true, and_true]
  and_intros
  all_goals
    refine fun _ _ _ _ => .of rfl fun hwf => ?_
    unfold Instr.wf at hwf
    simp at hwf
    simp [decode, isShort, decode32, decSync, need, encR_reads, field_rules, hwf]

theorem decodes_mon : ∀ h a, Decodes (.mon h a) := by
  exact fun _ _ => .of rfl fun _ => by simp [decode, isShort, decode32, decSync, need, field_rules]

theorem decodes_mwait : ∀ h d b, Decodes (.mwait h d b) := by
  exact fun _ _ _ => .of rfl fun _ => by simp [decode, isShort, decode32, decSync, need, field_rules]

theorem decodes_mbput : ∀ h a b, Decodes (.mbput h a b) := by
  refine fun _ _ _ => .of rfl fun hwf => ?_
  unfold Instr.wf at hwf
  simp at hwf
  simp [decode, isShort, decode32, decSync, need, field_rules, hwf]

theorem decodes_mbget : ∀ h d a, Decodes (.mbget h d a) := by
  refine fun _ _ _ => .of rfl fun hwf => ?_
  unfold Instr.wf at hwf
  simp at hwf
  simp [decode, isShort, decode32, decSync, need, encR2_eq, encR_reads, field_rules, hwf]

theorem decodes_pladd : ∀ h k d a b, Decodes (.pladd h k d a b) := by
  refine fun _ _ _ _ _ => .of rfl fun hwf => ?_
  unfold Instr.wf at hwf
  simp at hwf
  simp [decode, isShort, decode32, decPlupd, need, encRr_reads, field_rules, hwf]

theorem decodes_mma : ∀ row ∈ [Instr.mma, .mmae], ∀ m w t b a n, Decodes (row m w t b a n) := by
  simp only [List.forall_mem_cons, List.not_mem_nil, false_implies, implies_true, and_true]
  and_intros
  all_goals
    refine fun _ _ _ _ _ _ => .of rfl fun hwf => ?_
    unfold Instr.wf at hwf
    simp at hwf
    simp [decode, isShort, decode32, decMma, need, encX, field_rules, hwf]

theorem decodes_mloop : ∀ m f n, Decodes (.mloop m f n) := by
  exact fun _ _ _ => .of rfl fun _ => by simp [decode, isShort, decode32, decMctl, need, field_rules]

theorem decodes_mzero : ∀ m n, Decodes (.mzero m n) := by
  exact fun _ _ => .of rfl fun _ => by simp [decode, isShort, decode32, decMctl, need, field_rules]

theorem decodes_mload : ∀ m b a n, Decodes (.mload m b a n) := by
  exact fun _ _ _ _ => .of rfl fun _ => by simp [decode, isShort, decode32, decMctl, need, field_rules]

theorem decodes_mstat : ∀ m n d, Decodes (.mstat m n d) := by
  exact fun _ _ _ => .of rfl fun _ => by simp [decode, isShort, decode32, decMctl, need, field_rules]

theorem decodes_mdrain : ∀ m b a n, Decodes (.mdrain m b a n) := by
  refine fun _ _ _ _ => .of rfl fun hwf => ?_
  unfold Instr.wf at hwf
  simp at hwf
  simp [decode, isShort, decode32, decMctl, need, field_rules, hwf]

theorem decodes_dexp : ∀ m d a, Decodes (.dexp m d a) := by
  refine fun _ _ _ => .of rfl fun hwf => ?_
  unfold Instr.wf at hwf
  simp at hwf
  simp [decode, isShort, decode32, decDemu, need, field_rules, hwf]

theorem decodes_dsplit : ∀ m d a b, Decodes (.dsplit m d a b) := by
  refine fun _ _ _ _ => .of rfl fun hwf => ?_
  unfold Instr.wf at hwf
  simp at hwf
  simp [decode, isShort, decode32, decDemu, need, field_rules, hwf]

theorem decodes_dmerge : ∀ m b x n, Decodes (.dmerge m b x n) := by
  refine fun _ _ _ _ => .of rfl fun hwf => ?_
  unfold Instr.wf at hwf
  simp at hwf
  simp [decode, isShort, decode32, decDemu, need, field_rules, hwf]

theorem decodes_tend : ∀ row ∈ [Instr.tcopy, .tcopy2, .tgath, .tscat, .tfill, .tnote], ∀ h d a b, Decodes (row h d a b) := by
  simp only [List.forall_mem_cons, List.not_mem_nil, false_implies, implies_true, and_true]
  and_intros <;> exact fun _ _ _ _ => .of rfl fun _ => by simp [decode, isShort, decode32, decTend, encR_reads, field_rules]

theorem decodes_twait : ∀ h d a, Decodes (.twait h d a) := by
  exact fun _ _ _ => .of rfl fun _ => by simp [decode, isShort, decode32, decTend, need, encR2_eq, encR_reads, field_rules]

theorem decodes_fab : ∀ row ∈ [Instr.tcoll, .rflush], ∀ h d a b, Decodes (row h d a b) := by
  simp only [List.forall_mem_cons, List.not_mem_nil, false_implies, implies_true, and_true]
  and_intros <;> exact fun _ _ _ _ => .of rfl fun _ => by simp [decode, isShort, decode32, decFab, encR_reads, field_rules]

theorem decodes_bra : ∀ row ∈ [Instr.bra, .call], ∀ m f g, Decodes (row m f g) := by
  simp only [List.forall_mem_cons, List.not_mem_nil, false_implies, implies_true, and_true]
  and_intros <;> exact fun _ _ _ => .of rfl fun _ => by simp [decode, isShort, decode32, encB, need, field_rules]

theorem decodes_jctl : ∀ row ∈ [Instr.btab, .ret], ∀ m a, Decodes (row m a) := by
  simp only [List.forall_mem_cons, List.not_mem_nil, false_implies, implies_true, and_true]
  and_intros <;> exact fun _ _ => .of rfl fun _ => by simp [decode, isShort, decode32, decJctl, need, field_rules]

theorem decodes_exit : ∀ m, Decodes (.exit m) := by
  exact fun _ => .of rfl fun _ => by simp [decode, isShort, decode32, decJctl, need, field_rules]

theorem decodes_join : ∀ m k a, Decodes (.join m k a) := by
  refine fun _ _ _ => .of rfl fun hwf => ?_
  unfold Instr.wf at hwf
  simp at hwf
  simp [decode, isShort, decode32, decMask, need, field_rules, hwf]

theorem decodes_mask : ∀ row ∈ [Instr.leave, .waitk], ∀ m k, Decodes (row m k) := by
  simp only [List.forall_mem_cons, List.not_mem_nil, false_implies, implies_true, and_true]
  and_intros
  all_goals
    refine fun _ _ => .of rfl fun hwf => ?_
    unfold Instr.wf at hwf
    simp at hwf
    simp [decode, isShort, decode32, decMask, need, field_rules, hwf]

theorem decodes_mask_spill : ∀ row ∈ [Instr.ksave, .kload], ∀ m e k a, Decodes (row m e k a) := by
  simp only [List.forall_mem_cons, List.not_mem_nil, false_implies, implies_true, and_true]
  and_intros
  all_goals
    refine fun _ _ _ _ => .of rfl fun hwf => ?_
    unfold Instr.wf at hwf
    simp at hwf
    simp [decode, isShort, decode32, decMask, need, field_rules, hwf]

theorem decodes_bar : ∀ row ∈ [Instr.barArrive, .barWait, .barSync], ∀ m c l a n, Decodes (row m c l a n) := by
  simp only [List.forall_mem_cons, List.not_mem_nil, false_implies, implies_true, and_true]
  and_intros
  all_goals
    refine fun _ _ _ _ _ => .of rfl fun hwf => ?_
    unfold Instr.wf at hwf
    simp at hwf
    simp [decode, isShort, decode32, decBar, need, encBar, field_rules, hwf]

theorem decodes_sys : ∀ row ∈ [Instr.sysr, .sysw], ∀ h r a, Decodes (row h r a) := by
  simp only [List.forall_mem_cons, List.not_mem_nil, false_implies, implies_true, and_true]
  and_intros
  all_goals
    refine fun _ _ _ => .of rfl fun hwf => ?_
    unfold Instr.wf at hwf
    simp at hwf
    simp [decode, isShort, decode32, decSys, need, field_rules, hwf]

theorem decodes_trap : ∀ row ∈ [Instr.trap, .brk], ∀ m c, Decodes (row m c) := by
  simp only [List.forall_mem_cons, List.not_mem_nil, false_implies, implies_true, and_true]
  and_intros <;> exact fun _ _ => .of rfl fun _ => by simp [decode, isShort, decode32, decSys, need, field_rules]

theorem decodes_rte : ∀ row ∈ [Instr.rte, .yield], ∀ m, Decodes (row m) := by
  simp only [List.forall_mem_cons, List.not_mem_nil, false_implies, implies_true, and_true]
  and_intros <;> exact fun _ => .of rfl fun _ => by simp [decode, isShort, decode32, decSys, need, field_rules]

theorem decodes_prog : ∀ h a, Decodes (.prog h a) := by
  exact fun _ _ => .of rfl fun _ => by simp [decode, isShort, decode32, decSys, need, field_rules]

theorem decodes_launch : ∀ h d a, Decodes (.launch h d a) := by
  refine fun _ _ _ => .of rfl fun hwf => ?_
  unfold Instr.wf at hwf
  simp at hwf
  simp [decode, isShort, decode32, decSys, need, field_rules, hwf]

theorem decodes_tlbinv : ∀ m d a, Decodes (.tlbinv m d a) := by
  refine fun _ _ _ => .of rfl fun hwf => ?_
  unfold Instr.wf at hwf
  simp at hwf
  simp [decode, isShort, decode32, decSys, need, field_rules, hwf]

theorem decodes_rxbegin : ∀ m f d, Decodes (.rxbegin m f d) := by
  exact fun _ _ _ => .of rfl fun _ => by simp [decode, isShort, decode32, decRx, need, field_rules]

theorem decodes_rxprev : ∀ m d, Decodes (.rxprev m d) := by
  exact fun _ _ => .of rfl fun _ => by simp [decode, isShort, decode32, decRx, need, field_rules]

theorem decodes_rxput : ∀ m a b, Decodes (.rxput m a b) := by
  exact fun _ _ _ => .of rfl fun _ => by simp [decode, isShort, decode32, decRx, need, field_rules]

theorem decodes_rxend : ∀ m, Decodes (.rxend m) := by
  exact fun _ => .of rfl fun _ => by simp [decode, isShort, decode32, decRx, need, field_rules]

theorem decodes_rxstat : ∀ m d, Decodes (.rxstat m d) := by
  refine fun _ _ => .of rfl fun hwf => ?_
  unfold Instr.wf at hwf
  simp at hwf
  simp [decode, isShort, decode32, decRx, need, field_rules, hwf]

theorem decodes_lpost : ∀ h f d, Decodes (.lpost h f d) := by
  exact fun _ _ _ => .of rfl fun _ => by simp [decode, isShort, decode32, decLad, field_rules]

theorem decodes_esc : ∀ m a, Decodes (.esc m a) := by
  exact fun _ _ => .of rfl fun _ => by simp [decode, isShort, decode32, decLad, need, field_rules]

theorem decodes_lres : ∀ m a, Decodes (.lres m a) := by
  refine fun _ _ => .of rfl fun hwf => ?_
  unfold Instr.wf at hwf
  simp at hwf
  simp [decode, isShort, decode32, decLad, need, field_rules, hwf]

theorem decodes_lstat : ∀ h d a, Decodes (.lstat h d a) := by
  refine fun _ _ _ => .of rfl fun hwf => ?_
  unfold Instr.wf at hwf
  simp at hwf
  simp [decode, isShort, decode32, decLad, need, encR2_eq, encR_reads, field_rules, hwf]

theorem decodes_snap : ∀ row ∈ [Instr.gmload, .snap, .snapsel, .snapfree], ∀ h d a, Decodes (row h d a) := by
  simp only [List.forall_mem_cons, List.not_mem_nil, false_implies, implies_true, and_true]
  and_intros
  all_goals
    refine fun _ _ _ => .of rfl fun hwf => ?_
    unfold Instr.wf at hwf
    simp at hwf
    simp [decode, isShort, decode32, decGen, need, encR2_eq, encR_reads, field_rules, hwf]

theorem decodes_gmstep : ∀ row ∈ [Instr.gmstep, .gmforce], ∀ h d a, Decodes (row h d a) := by
  simp only [List.forall_mem_cons, List.not_mem_nil, false_implies, implies_true, and_true]
  and_intros <;> exact fun _ _ _ => .of rfl fun _ => by simp [decode, isShort, decode32, decGen, need, encR2_eq, encR_reads, field_rules]

theorem decodes_gmmask : ∀ h d a b, Decodes (.gmmask h d a b) := by
  exact fun _ _ _ _ => .of rfl fun _ => by simp [decode, isShort, decode32, decGen, encR_reads, field_rules]

theorem decodes_acall : ∀ h d a b, Decodes (.acall h d a b) := by
  refine fun _ _ _ _ => .of rfl fun hwf => ?_
  unfold Instr.wf at hwf
  simp at hwf
  simp [decode, isShort, decode32, decGen, need, encR_reads, field_rules, hwf]

theorem decodes_poolGuard : ∀ n, Decodes (.poolGuard n) := by
  exact fun _ => .of rfl fun _ => by simp [decode, isShort, decode32, need, field_rules]

theorem decodes_short : ∀ row ∈ [Instr.iadd16, .isub16, .and16, .or16, .xor16, .shl16, .shr16, .mov16, .movi16, .imul16, .fadd16,
    .fmul16, .ffma16, .fmin16, .fmax16, .isel16], ∀ m d b, Decodes (row m d b) := by
  simp only [List.forall_mem_cons, List.not_mem_nil, false_implies, implies_true, and_true]
  and_intros <;> exact fun _ _ _ => .of rfl fun _ => by simp [decode, isShort, decode16, enc16, field_rules]

theorem decodes_all (i : Instr) : Decodes i := by
  cases i with
  | iadd | isub | iaddc | isubb | imin | imax | umin | umax | and | or | xor | andn | orn | shl | shr | sar | rol | ror =>
    exact decodes_ialu _ (by simp) _ _ _ _
  | ineg | iabs | not | mov => exact decodes_ialu_one _ (by simp) _ _ _
  | lea => exact decodes_lea _ _ _ _ _
  | iaddImm | andImm | orImm | xorImm => exact decodes_ialui _ (by simp) _ _ _ _
  | shlImm | shrImm | sarImm | rolImm => exact decodes_shifts _ (by simp) _ _ _ _
  | imul | imulh | umulh | imad => exact decodes_imul _ (by simp) _ _ _ _
  | bfe | ubfe | bfi | bmix => exact decodes_fields _ (by simp) _ _ _ _
  | popc | clz | ctz | brev => exact decodes_bits _ (by simp) _ _ _
  | icmp => exact decodes_icmp _ _ _ _ _
  | isel => exact decodes_isel _ _ _ _ _
  | movi | lui => exact decodes_movl _ (by simp) _ _ _
  | fadd | fsub | fmul | fdiv => exact decodes_falu_rnd _ (by simp) _ _ _ _ _
  | fmin | fmax => exact decodes_fminmax _ (by simp) _ _ _ _
  | fabs | fneg | fclass => exact decodes_falu_one _ (by simp) _ _ _
  | fcmp => exact decodes_fcmp _ _ _ _ _
  | ffma => exact decodes_ffma _ _ _ _ _
  | fsqrt => exact decodes_fsqrt _ _ _ _
  | dfma => exact decodes_dfma _ _ _ _ _
  | dsqrt => exact decodes_dsqrt _ _ _ _
  | fscale => exact decodes_fscale _ _ _ _
  | frcp | frsq | fex2 | flg2 | fsin | fcos | ftanh => exact decodes_fsfu _ (by simp) _ _ _
  | dadd | dsub | dmul | ddiv => exact decodes_dalu_rnd _ (by simp) _ _ _ _ _
  | dmin | dmax => exact decodes_dminmax _ (by simp) _ _ _ _
  | dabs | dneg => exact decodes_dalu_one _ (by simp) _ _ _
  | dcmp => exact decodes_dcmp _ _ _ _ _
  | hadd2 | hsub2 | hmul2 | hfma2 | hmin2 | hmax2 | hcmp2Eq | hcmp2Lt | hcmp2Le | hcmp2Un => exact decodes_halu _ (by simp) _ _ _ _ _
  | cvt => exact decodes_cvt _ _ _ _ _ _
  | scx => exact decodes_scx _ _ _ _
  | q8 | q4 | dq8 | dq4 | q8Cs | q4Cs => exact decodes_qnt _ (by simp) _ _ _ _ _
  | dp4 | dp8 | hdp2F16 | hdp2Bf16 => exact decodes_dot _ (by simp) _ _ _ _
  | fdp4E4m3 | fdp4E5m2 | fdp8 => exact decodes_fdot _ (by simp) _ _ _ _ _
  | gen => exact decodes_gen _ _ _ _
  | gumbel | rndf => exact decodes_rand_one _ (by simp) _ _ _
  | bfx => exact decodes_bfx _ _ _ _
  | lget => exact decodes_lget _ _ _ _ _
  | pollCnt | pollRank | pollMask => exact decodes_poll _ (by simp) _ _ _
  | pollSame => exact decodes_pollSame _ _ _
  | redx | scanx => exact decodes_redx _ (by simp) _ _ _ _
  | plop => exact decodes_plop _ _ _ _ _
  | pmovToReg | pmovToPred => exact decodes_pmov _ (by simp) _ _
  | grd => exact decodes_grd _ _ _
  | gets | sets => exact decodes_spec _ (by simp) _ _ _
  | nop => exact decodes_nop _
  | ld => exact decodes_ld _ _ _ _ _ _
  | ldt => exact decodes_ldt _ _ _
  | st => exact decodes_st _ _ _ _ _ _
  | ldp | stp => exact decodes_plane _ (by simp) _ _ _ _ _ _
  | ldacq | strel => exact decodes_ord _ (by simp) _ _ _ _ _
  | cctlWb | cctlWbinv | cctlPf1 | cctlPf2 | cctlZero => exact decodes_cctl _ (by simp) _ _
  | cctlIinv => exact decodes_iinv _ _ _
  | fence => exact decodes_fence _ _ _ _ _
  | aliasf => exact decodes_aliasf _ _
  | evs => exact decodes_evs _ _
  | atom | red => exact decodes_atom _ (by simp) _ _ _ _ _
  | sadd | sincw | sexch | smin | smax => exact decodes_sync _ (by simp) _ _ _ _
  | sbadd | scas | waita => exact decodes_sync_checked _ (by simp) _ _ _ _
  | mon => exact decodes_mon _ _
  | mwait => exact decodes_mwait _ _ _
  | mbput => exact decodes_mbput _ _ _
  | mbget => exact decodes_mbget _ _ _
  | pladd => exact decodes_pladd _ _ _ _ _
  | mma | mmae => exact decodes_mma _ (by simp) _ _ _ _ _ _
  | mloop => exact decodes_mloop _ _ _
  | mzero => exact decodes_mzero _ _
  | mload => exact decodes_mload _ _ _ _
  | mstat => exact decodes_mstat _ _ _
  | mdrain => exact decodes_mdrain _ _ _ _
  | dexp => exact decodes_dexp _ _ _
  | dsplit => exact decodes_dsplit _ _ _ _
  | dmerge => exact decodes_dmerge _ _ _ _
  | tcopy | tcopy2 | tgath | tscat | tfill | tnote => exact decodes_tend _ (by simp) _ _ _ _
  | twait => exact decodes_twait _ _ _
  | tcoll | rflush => exact decodes_fab _ (by simp) _ _ _ _
  | bra | call => exact decodes_bra _ (by simp) _ _ _
  | btab | ret => exact decodes_jctl _ (by simp) _ _
  | exit => exact decodes_exit _
  | join => exact decodes_join _ _ _
  | leave | waitk => exact decodes_mask _ (by simp) _ _
  | ksave | kload => exact decodes_mask_spill _ (by simp) _ _ _ _
  | barArrive | barWait | barSync => exact decodes_bar _ (by simp) _ _ _ _ _
  | sysr | sysw => exact decodes_sys _ (by simp) _ _ _
  | trap | brk => exact decodes_trap _ (by simp) _ _
  | rte | yield => exact decodes_rte _ (by simp) _
  | prog => exact decodes_prog _ _
  | launch => exact decodes_launch _ _ _
  | tlbinv => exact decodes_tlbinv _ _ _
  | rxbegin => exact decodes_rxbegin _ _ _
  | rxprev => exact decodes_rxprev _ _
  | rxput => exact decodes_rxput _ _ _
  | rxend => exact decodes_rxend _
  | rxstat => exact decodes_rxstat _ _
  | lpost => exact decodes_lpost _ _ _
  | esc => exact decodes_esc _ _
  | lres => exact decodes_lres _ _
  | lstat => exact decodes_lstat _ _ _
  | gmload | snap | snapsel | snapfree => exact decodes_snap _ (by simp) _ _ _
  | gmstep | gmforce => exact decodes_gmstep _ (by simp) _ _ _
  | gmmask => exact decodes_gmmask _ _ _ _
  | acall => exact decodes_acall _ _ _ _
  | poolGuard => exact decodes_poolGuard _
  | iadd16 | isub16 | and16 | or16 | xor16 | shl16 | shr16 | mov16 | movi16 | imul16 | fadd16 | fmul16 | ffma16 | fmin16 | fmax16 |
    isel16 => exact decodes_short _ (by simp) _ _ _
  | _ => exact fun hwf => nomatch hwf

/-- Settles O54: each row's word has the row's fields, and the decoder of its major opcode answers the row. -/
theorem decodingUndoesEncoding : Obligations.DecodingUndoesEncoding := by
  unfold Obligations.DecodingUndoesEncoding
  exact decodes_all

/-- Settles O53: each word is evaluated. -/
theorem publishedWordsDecode : Obligations.PublishedWordsDecode := by
  unfold Obligations.PublishedWordsDecode
  decide

end Sys2Proof

/-!
Compares, selection, moves and predicates (O3) and the 16-bit forms (O4): each is a lane instruction.
-/
namespace Sys2Proof.Machine

/-! ### Values -/

/-- The conditions of `icmp` as orders of signed and unsigned numbers (R116). -/
theorem icmpHolds_eq (c : BitVec 5) (u w : Word) : icmpHolds c u w =
    (match c.toNat with
      | 0 => decide (u = w)
      | 1 => decide (u ≠ w)
      | 2 => decide (u.toInt < w.toInt)
      | 3 => decide (u.toInt ≤ w.toInt)
      | 4 => decide (w.toInt < u.toInt)
      | 5 => decide (w.toInt ≤ u.toInt)
      | 6 => decide (u.toNat < w.toNat)
      | 7 => decide (u.toNat ≤ w.toNat)
      | 8 => decide (w.toNat < u.toNat)
      | _ => decide (w.toNat ≤ u.toNat)) := by
  unfold icmpHolds
  rcases c.toNat with _ | _ | _ | _ | _ | _ | _ | _ | _ | n
  case succ.zero => exact (decide_not ..).symm
  all_goals rfl

/-- The halves of `lui`: the immediate above the low 15 bits of the destination (R60). -/
theorem lui_halves (k : BitVec 17) (x : Word) : (k.setWidth 32 <<< 15) ||| (x &&& 0x7FFF) = k ++ x.extractLsb' 0 15 := by
  have hmask (i : Nat) : (0x7FFF : Word).getLsbD i = decide (i < 15) := getLsbD_lowMask (n := 15) (by omega) i
  refine BitVec.eq_of_getLsbD_eq fun i hi => ?_
  rw [BitVec.getLsbD_append, BitVec.getLsbD_or, BitVec.getLsbD_and, hmask]
  by_cases h : i < 15
  · simp [h]
  · simp [h, hi]

/-- A shift by the width or more leaves nothing (R108). -/
theorem shrW_eq (x n : Word) : shrW x n = if n.toNat < 32 then x >>> n.toNat else 0 := by
  unfold shrW
  split
  · rfl
  · exact BitVec.ushiftRight_eq_zero (by omega)

/-- The predicates of a thread as a number: a bit for each of `p0` to `p7` (R194). -/
theorem Thread.preds_eq (t : Thread) :
    t.preds = BitVec.ofNat 32 ((List.range 8).foldl (fun n i => n + if t.getP i then 2 ^ i else 0) 0) := by
  have key : ∀ p : BitVec 8, (p &&& 0x7F ||| 0x80).setWidth 32 =
      BitVec.ofNat 32 ((List.range 8).foldl (fun n i => n + if (if i = 7 then true else p.getLsbD i) then 2 ^ i else 0) 0) := by decide
  exact key t.p

/-- Settles O3: each instruction is a lane instruction, and its function is the value stated. -/
theorem comparesAndPredicates : Obligations.ComparesAndPredicates := by
  unfold Obligations.ComparesAndPredicates
  intro h m c p d a b e k o x y
  refine ⟨fun _ => ?icmp, ?isel, ?movi, ?lui, ?plop, ?toReg, ?toPred⟩
  case icmp =>
    refine Gives.of_laneOp (fun _ => rfl) rfl fun t => congrArg (pOut p) ?_
    exact icmpHolds_eq c (t.getV a) (t.getV b)
  case isel | movi | toPred => exact .of_laneOp (fun _ => rfl) rfl fun _ => rfl
  case lui => exact .of_laneOp (fun _ => rfl) rfl fun _ => congrArg (vOut _) (lui_halves ..)
  case plop =>
    refine Gives.of_laneOp (fun _ => rfl) rfl fun t => congrArg (pOut p) ?_
    rcases bitVec2_cases o with rfl | rfl | rfl | rfl <;> rfl
  case toReg => exact .of_laneOp (fun _ => rfl) rfl fun t => congrArg (vOut d) t.preds_eq

/-- Settles O4: a 16-bit form is a lane instruction whose destination is also its first source. -/
theorem shortFormResults : Obligations.ShortFormResults := by
  unfold Obligations.ShortFormResults
  intro m d b
  refine ⟨?iadd, ?isub, ?and, ?or, ?xor, ?shl, ?shr, ?mov, ?movi, ?imul, ?fadd, ?fmul, ?ffma, ?fmin, ?fmax, ?isel⟩
  case shr =>
    refine .of_laneOp (fun _ => rfl) rfl fun t => congrArg (vOut _) ?_
    exact shrW_eq ..
  case imul => exact .of_laneOp (fun _ => rfl) rfl fun t => congrArg (vOut _) (BitVec.mul_def ..)
  all_goals exact .of_laneOp (fun _ => rfl) rfl fun _ => rfl

end Sys2Proof.Machine

/-!
System registers: reads by number (O34), writes by number and by steps, and the probe registers (O35).
-/
namespace Sys2Proof.Machine

/-! ### Acting once for a group -/

/-- The threads acted for are the participating ones. -/
theorem Acts.receivers {f : Form} {ps rs : List Thread} {l : Thread} (h : Acts f ps l rs) : rs = ps := by
  obtain ⟨-, -, hr⟩ | ⟨-, hp, hr⟩ := h
  · exact hr
  · exact hr.trans hp.symm

/-- An instruction of one action takes it once, with its source and its receivers (R33). -/
theorem State.each_of_acts {f : Form} {ps rs : List Thread} {l : Thread} (h : Acts f ps l rs) (s : State)
    (act : State → Thread → List Thread → State) : s.each f.uni ps act = act s l rs := by
  obtain ⟨hu, hl, rfl⟩ | ⟨hu, rfl, rfl⟩ := h
  · simp [State.each, hu, hl]
  · simp [State.each, hu]

/-! ### The table of R67 -/

/-- A number of R67 other than a probe's. -/
def plainNumbers : List Nat := [0, 1, 2, 3, 0x10, 0x11, 0x12, 0x20, 0x21, 0x22, 0x23, 0x40, 0x41]
/-- Such numbers as fields of an instruction. -/
theorem mem_plainNumbers {r : BitVec 8} (h : r.toNat ∈ plainNumbers) :
    r = 0 ∨ r = 1 ∨ r = 2 ∨ r = 3 ∨ r = 0x10 ∨ r = 0x11 ∨ r = 0x12 ∨ r = 0x20 ∨ r = 0x21 ∨ r = 0x22 ∨ r = 0x23 ∨ r = 0x40 ∨ r = 0x41 := by
  revert r
  decide

/-- The 64-bit registers of R67, by number. -/
theorem sysReg_wide (r : BitVec 8) (hr : r.toNat ∈ plainNumbers ∨ (0x30 ≤ r.toNat ∧ r.toNat ≤ 0x37)) :
    (sysReg r).wide = decide (r.toNat = 0 ∨ r.toNat = 1 ∨ (0x30 ≤ r.toNat ∧ r.toNat ≤ 0x37)) := by
  revert r
  decide
/-- The registers that user mode may read (R67), by number. -/
theorem sysReg_userRead (r : BitVec 8) (hr : r.toNat ∈ plainNumbers ∨ (0x30 ≤ r.toNat ∧ r.toNat ≤ 0x37)) :
    (sysReg r).userRead = decide (r.toNat = 0 ∨ r.toNat = 3 ∨ r.toNat = 0x11 ∨ r.toNat = 0x12 ∨ r.toNat = 0x21 ∨ r.toNat = 0x22 ∨
      (0x30 ≤ r.toNat ∧ r.toNat ≤ 0x37)) := by
  revert r
  decide
/-- The registers that user mode may write (R67), by number. -/
theorem sysReg_userWrite (r : BitVec 8) : (sysReg r).userWrite = decide (r.toNat = 0 ∨ r.toNat = 0x12) := by
  revert r
  decide
/-- A number other than a probe's names no probe. -/
theorem sysReg_ne_probe {r : BitVec 8} (hr : r.toNat ∈ plainNumbers) (n : Nat) : sysReg r ≠ .probe n := by
  rcases mem_plainNumbers hr with rfl | rfl | rfl | rfl | rfl | rfl | rfl | rfl | rfl | rfl | rfl | rfl | rfl <;> simp [sysReg]
/-- `DBGCTL` by its number. -/
theorem sysReg_eq_dbgctl {r : BitVec 8} (hr : r.toNat ∈ plainNumbers) (h : sysReg r = .dbgctl) : r.toNat = 0x40 := by
  rcases mem_plainNumbers hr with rfl | rfl | rfl | rfl | rfl | rfl | rfl | rfl | rfl | rfl | rfl | rfl | rfl <;> simp [sysReg] at h ⊢
/-- The probes of R67, by number. -/
theorem sysReg_probe (r : BitVec 8) (h : 0x30 ≤ r.toNat) (h' : r.toNat ≤ 0x37) : sysReg r = .probe (r.toNat - 0x30) := by
  revert r
  decide

/-! ### Reads (O34) -/

/-- `GRANTCAP` as it is read: EFF above AUTO and CAP (R379). -/
theorem Core.grantcap_setWidth (k : Core) :
    k.grantcap.setWidth 64 = BitVec.ofNat 64 ((k.eff * 256 + (if k.auto then 64 else 0) + k.cap) % 2 ^ 32) :=
  BitVec.eq_of_toNat_eq (by simp [Core.grantcap])

/-- A result without flags does not trap (R79). -/
theorem fpTrap_zero (w : Word) : fpTrap w 0 = none := by simp [fpTrap]

/-- Settles O34: the number names a register by R67, and its value is delivered to the receivers. -/
theorem systemRegisterReads : Obligations.SystemRegisterReads := by
  unfold Obligations.SystemRegisterReads
  intro h r d s s1 ps rs l c k n wide user x hi ha hc hp hn
  have hw : (sysReg r).wide = wide := sysReg_wide r hn
  have hu : (!l.sys && !(sysReg r).userRead) = false := by
    rw [sysReg_userRead r hn]
    obtain hs | hs := hp
    · simp [hs]
    · rw [show decide _ = true from hs]; simp
  have hx : s1.sysRead l (sysReg r) = x := by
    simp only [State.sysRead, hc, Core.grantcap_setWidth]
    obtain hn | ⟨h30, h37⟩ := hn
    · rcases mem_plainNumbers hn with rfl | rfl | rfl | rfl | rfl | rfl | rfl | rfl | rfl | rfl | rfl | rfl | rfl <;> rfl
    · rw [sysReg_probe r h30 h37]
      have hne (j : Nat) (hj : j < 0x30 ∨ 0x37 < j) : n ≠ j := by omega
      simp (disch := decide) only [x, hne, if_false]
      rfl
  obtain rfl := ha.receivers
  refine ⟨_, rfl, ?_⟩
  rw [State.runIssue_eq hi _ _ rfl, show h.uni = (hdForm h []).uni from rfl, State.each_of_acts ha]
  simp only [hu, Bool.false_eq_true, if_false, hw, hx]
  refine State.deliver_all_done rs (fun _ => l.fpcsr) (fun _ => if wide then pairOut d x else vOut d (x.setWidth 32)) hi.distinct ?_ s1
  intro t _
  rw [show (if wide then pairOut d x else vOut d (x.setWidth 32)).fl = 0 by cases wide <;> rfl]
  exact fpTrap_zero _

/-! ### Writes (O35) -/

/-- `TSLICE` after a write: the LEN field, or the floor with bit 31 set (R321). -/
theorem tsliceWord_eq (floor : Nat) (w : Word) : tsliceWord floor w =
    if w &&& 0xFFFFFF ≠ 0 ∧ (w &&& 0xFFFFFF).toNat < floor then BitVec.ofNat 32 (floor + 2 ^ 31) else w &&& 0xFFFFFF := by
  have hmask : (w &&& 0xFFFFFF).toNat = w.toNat % 2 ^ 24 := by
    rw [BitVec.toNat_and]; exact Nat.and_two_pow_sub_one_eq_mod w.toNat 24
  have hzero : w &&& 0xFFFFFF ≠ 0 ↔ w.toNat % 2 ^ 24 ≠ 0 := by
    rw [← hmask, ne_eq, ne_eq, ← BitVec.toNat_inj]; rfl
  have hlen : BitVec.ofNat 32 (w.toNat % 2 ^ 24) = w &&& 0xFFFFFF := by
    rw [← hmask, BitVec.ofNat_toNat, BitVec.setWidth_eq]
  simp only [tsliceWord, hzero, hmask, hlen, Bool.and_eq_true, bne_iff_ne, decide_eq_true_eq]

/-- The override of a deck site is read from the bits that `TOVR` keeps (R385). -/
theorem State.writeTovr_eq (s : State) (pier : Nat) (w : Word) : s.writeTovr pier w =
    (let s : State := { s with tovr := s.tovr.setIfInBounds pier (w &&& 0x870000FF) }
     let site := w.toNat / 2 ^ 24 % 8
     if site < 6 then s.updDeck (6 * pier + site) fun d => { d with ovr := if w.getLsbD 31 then some (w.toNat % 256) else none }
     else s) := by
  have hbit : (w &&& 0x870000FF).getLsbD 31 = w.getLsbD 31 := by simp
  have hlow : (w &&& 0x870000FF).toNat % 256 = w.toNat % 256 := by
    rw [BitVec.toNat_and, show 256 = 2 ^ 8 from rfl, Nat.and_mod_two_pow]
    exact Nat.and_two_pow_sub_one_of_lt_two_pow (n := 8) (Nat.mod_lt _ (by decide))
  simp only [State.writeTovr, hbit, hlow]

/-- A write by number of a register other than a probe has the effect of R215. -/
theorem State.sysWrite_eq {s : State} {l : Thread} {c : Company} (hc : s.company? l.cid = some c) (rs : List Thread) {r : BitVec 8}
    (hr : r.toNat ∈ plainNumbers) (x : DWord) : s.sysWrite l rs (sysReg r) x = .ok (s.sysWritten l rs c r.toNat x) := by
  rcases mem_plainNumbers hr with rfl | rfl | rfl | rfl | rfl | rfl | rfl | rfl | rfl | rfl | rfl | rfl | rfl
  all_goals
    simp only [State.sysWrite, hc, tsliceWord_eq, State.writeTovr_eq]
    rfl

/-- A register other than a probe is written in a step of its own where the thread may write it. -/
theorem State.writeStep_eq {s : State} {t : Thread} {c : Company} (ht : s.thread? t.cid t.tid = some t) (hc : s.company? t.cid = some c)
    (he : t.exited = false) {r : BitVec 8} (hr : r.toNat ∈ plainNumbers) (hp : t.sys = true ∨ (sysReg r).userWrite = true)
    {x : DWord} (hs : s.writeStall t (sysReg r) x = none) :
    s.writeStep t.cid t.tid (sysReg r) x = s.sysWritten t [t] c r.toNat x := by
  have hp' : (!t.sys && !(sysReg r).userWrite) = false := by
    obtain h | h := hp <;> simp [h]
  simp [State.writeStep, ht, he, hp', hs, State.sysWrite_eq hc [t] hr]

/-- Only writes of `DBGCTL` and of probes reach memory, so no other waits for it (R151). -/
theorem State.writeStall_of_plain {s : State} {t : Thread} {r : BitVec 8} (hr : r.toNat ∈ plainNumbers) (hd : r.toNat ≠ 0x40) (x : DWord) :
    s.writeStall t (sysReg r) x = none := by
  unfold State.writeStall
  cases s.company? t.cid with
  | none => rfl
  | some c =>
    cases hr' : sysReg r
    case dbgctl => exact absurd (sysReg_eq_dbgctl hr hr') hd
    case probe n => exact absurd hr' (sysReg_ne_probe hr n)
    all_goals rfl
/-- A write of a register other than a probe waits for no access (R161). -/
theorem probeHold_of_plain {r : BitVec 8} (hr : r.toNat ∈ plainNumbers) (s : State) (ps : List Thread) :
    probeHold (sysReg r) s ps = none := by
  cases hr' : sysReg r
  case probe n => exact absurd hr' (sysReg_ne_probe hr n)
  all_goals rfl

/-- The form of `sysw`, a switch marker (R215). -/
def syswForm (h : Hd) (r : BitVec 8) (a : Reg) : Form :=
  { (hdForm h (if (sysReg r).wide then pairRegs a else [.v a])).barred with mark := true }
/-- The value that `sysw` writes (R215). -/
def syswValue (r : BitVec 8) (a : Reg) (t : Thread) : DWord := if (sysReg r).wide then t.getPair a else (t.getV a).setWidth 64

/-- The lowest participating thread participates. -/
theorem mem_of_lowest {ps : List Thread} {l : Thread} (h : lowest ps = some l) : l ∈ ps := by
  induction ps generalizing l with
  | nil => simp [lowest] at h
  | cons t ps ih =>
    simp only [lowest] at h
    split at h
    case h_1 u hu =>
      split at h
      · exact List.mem_cons_of_mem _ (ih (by rw [hu, h]))
      · simp [Option.some.inj h]
    case h_2 => simp [Option.some.inj h]

/-- Nothing holds a write of a system register whose threads have nothing to wait for. -/
theorem sysHold_eq_none {uni : Bool} {r : SysReg} {x : Thread → DWord} {s : State} {ps : List Thread} (hp : probeHold r s ps = none)
    (hs : ∀ t ∈ ps, s.writeStall t r (x t) = none) : sysHold uni r x s ps = none := by
  simp only [sysHold, hp]
  rw [List.findSome?_eq_none_iff]
  intro t ht
  have hmem : t ∈ ps := by
    cases uni with
    | false => exact ht
    | true => exact mem_of_lowest (Option.mem_toList.mp ht)
  split
  · rfl
  · exact hs t hmem

/-- `sysw` where the thread may write the register and nothing holds the write (R215). -/
theorem exec_sysw {h : Hd} {r : BitVec 8} {a : Reg} {s s1 s' : State} {ps rs : List Thread} {l : Thread}
    (hi : s.Issues (syswForm h r a) ps s1) (ha : Acts (syswForm h r a) ps l rs) (hp : l.sys = true ∨ (sysReg r).userWrite = true)
    (hq : probeHold (sysReg r) { s with issue := none } ps = none)
    (hs : ∀ t ∈ ps, ({ s with issue := none } : State).writeStall t (sysReg r) (syswValue r a t) = none)
    (hw : s1.sysWrite l rs (sysReg r) (syswValue r a l) = .ok s') : exec (.sysw h r a) s = .next s' := by
  have hp' : (!l.sys && !(sysReg r).userWrite) = false := by
    obtain h | h := hp <;> simp [h]
  refine congrArg Host.Outcome.next ((State.runIssue_eq hi _ _ (sysHold_eq_none hq hs)).trans ?_)
  refine (State.each_of_acts ha s1 _).trans ?_
  simp only [hp', Bool.false_eq_true, if_false]
  rw [show s1.sysWrite l rs (sysReg r) (if (sysReg r).wide then l.getPair a else (l.getV a).setWidth 64) = .ok s' from hw]

/-- A configuration word that lets a probe record (R386). -/
theorem probeConfigOk_iff (w : Word) : probeConfigOk w = true ↔ w &&& 0xF < 5 ∧ w &&& 0xFFFFE0E0 = 0 := by
  have hmask : (w &&& 0xF).toNat = w.toNat % 16 := by
    rw [BitVec.toNat_and]; exact Nat.and_two_pow_sub_one_eq_mod w.toNat 4
  rw [probeConfigOk, Bool.and_eq_true, decide_eq_true_eq, beq_iff_eq, BitVec.lt_def, hmask]
  rfl

/-- A probe as a write of its register has cleared it, if it sets CLR (R386). -/
def Probe.clearedBy (p : Probe) (x : DWord) : Probe :=
  if x.getLsbD 1 then { p with min := 0xFFFFFFFF, max := 0, count := 0, sum := 0, bins := List.replicate 16 0 } else p
/-- CLR gives the accumulators their reset values (R386). -/
theorem Probe.clear_of_write (p : Probe) (x : DWord) : (if x.getLsbD 1 then p.clear else p) = p.clearedBy x := rfl
/-- Clearing neither starts nor stops a probe (R386). -/
@[simp] theorem Probe.clearedBy_en (p : Probe) (x : DWord) : (p.clearedBy x).en = p.en := by
  unfold Probe.clearedBy; split <;> rfl
/-- A write of `PROBE n` has made the stores of its dump, if it makes one (R386). -/
def State.DumpedBy (s : State) (t : Thread) (p : Probe) (x : DWord) (s2 : State) : Prop :=
  if x.getLsbD 2 = true ∨ (p.en = true ∧ x.getLsbD 0 = false) then
    s.storesAt (s.whoIs t) (p.dump (x &&& 0xFFFFFFFFFFFFFF80).toNat) = .ok s2 else s2 = s
/-- A probe of a core takes a value. -/
def State.putProbe (s : State) (core n : Nat) (p : Probe) : State := s.updCore core fun k => { k with probes := k.probes.setIfInBounds n p }

/-- The first part of a write of `PROBE n`, its dump. -/
theorem State.DumpedBy.eq {s s2 : State} {t : Thread} {p : Probe} {x : DWord} (h : s.DumpedBy t p x s2) :
    (if x.getLsbD 2 || (p.en && !x.getLsbD 0) then s.storesAt (s.whoIs t) (p.dump (x &&& 0xFFFFFFFFFFFFFF80).toNat)
      else .ok s) = .ok s2 := by
  unfold State.DumpedBy at h
  by_cases hd : x.getLsbD 2 = true ∨ (p.en = true ∧ x.getLsbD 0 = false)
  · rw [if_pos hd] at h
    rw [if_pos (by simpa using hd), h]
  · rw [if_neg hd] at h
    rw [if_neg (by simpa using hd), h]

/-- A write of `PROBE n` that does not start the probe (R386). -/
theorem State.writeProbe_of_not_start {s s2 : State} {t : Thread} {c : Company} {n : Nat} {x : DWord}
    (h2 : s.DumpedBy t ((s.core c.core).probe n) x s2) (h : ((s.core c.core).probe n).en = true ∨ x.getLsbD 0 = false) :
    s.writeProbe t c n x = .ok (s2.putProbe c.core n
      { ((s.core c.core).probe n).clearedBy x with block := x &&& 0xFFFFFFFFFFFFFF80, en := x.getLsbD 0 }) := by
  have hne : (x.getLsbD 0 && !((s.core c.core).probe n).en) = false := by
    obtain h | h := h <;> simp only [h, Bool.not_true, Bool.and_false, Bool.false_and]
  unfold State.writeProbe
  simp only [show x &&& ~~~0x7F = x &&& 0xFFFFFFFFFFFFFF80 from rfl, h2.eq, Probe.clear_of_write, Probe.clearedBy_en, hne,
    Bool.false_eq_true, if_false]
  rfl
/-- A write of `PROBE n` that starts the probe, with the configuration read from its block (R386). -/
theorem State.writeProbe_of_start {s s2 : State} {t : Thread} {c : Company} {n : Nat} {x : DWord} {k : Checked}
    (h2 : s.DumpedBy t ((s.core c.core).probe n) x s2) (h : ((s.core c.core).probe n).en = false) (hx : x.getLsbD 0 = true)
    (hk : s2.check (s.whoIs t) .load (x &&& 0xFFFFFFFFFFFFFF80) 8 false = .ok k) :
    let cfg : Word := BitVec.ofNat 32 (natOf ((s2.getLocs k.locs).take 4))
    let p := ((s.core c.core).probe n).clearedBy x
    s.writeProbe t c n x = .ok (s2.putProbe c.core n (
      if cfg &&& 0xF < 5 ∧ cfg &&& 0xFFFFE0E0 = 0 then
        { p with block := x &&& 0xFFFFFFFFFFFFFF80, en := true, config := cfg,
                 base := BitVec.ofNat 32 (natOf ((s2.getLocs k.locs).drop 4)) }
      else { p with block := x &&& 0xFFFFFFFFFFFFFF80, en := false })) := by
  intro cfg p
  have hst : (x.getLsbD 0 && !((s.core c.core).probe n).en) = true := by rw [h, hx]; rfl
  unfold State.writeProbe
  simp only [show x &&& ~~~0x7F = x &&& 0xFFFFFFFFFFFFFF80 from rfl, h2.eq, Probe.clear_of_write, Probe.clearedBy_en, hst, if_true,
    hk, probeConfigOk_iff]
  rfl

/-- Settles O35: a write by number is that of R215 for each register, as an instruction and as a step; a write of a probe dumps, clears and
starts it in this order. -/
theorem systemRegisterWrites : Obligations.SystemRegisterWrites := by
  unfold Obligations.SystemRegisterWrites
  refine ⟨?instruction, ?steps, ?probes, ?probeInstruction⟩
  case instruction =>
    intro h r a s s1 ps rs l c n wide f hn hi ha hc hp hd
    have hwide : (sysReg r).wide = wide := by
      have hprobe : ¬(0x30 ≤ n ∧ n ≤ 0x37) := by
        simp only [List.mem_cons, List.not_mem_nil, or_false] at hn
        omega
      rw [sysReg_wide r (.inl hn)]
      simp only [wide, n] at hprobe ⊢
      simp only [hprobe, or_false]
    have hf : syswForm h r a = f := by rw [syswForm, hwide]; rfl
    have hv (t : Thread) : syswValue r a t = if wide then t.getPair a else (t.getV a).setWidth 64 := by rw [syswValue, hwide]
    have huser : l.sys = true ∨ (sysReg r).userWrite = true := by
      rw [sysReg_userWrite, decide_eq_true_eq]; exact hp
    rw [← hf] at hi ha
    rw [← hv]
    refine exec_sysw hi ha huser ?_ ?_ (State.sysWrite_eq hc rs hn _)
    · exact probeHold_of_plain hn _ _
    · intro t ht
      by_cases h40 : n = 0x40
      · obtain rfl : r = 0x40 := BitVec.eq_of_toNat_eq h40
        exact hd rfl t ht
      · exact State.writeStall_of_plain hn h40 _
  case steps =>
    intro s t c x ht hc he
    have hstep (r : BitVec 8) (hr : r.toNat ∈ plainNumbers) (hp : t.sys = true ∨ (sysReg r).userWrite = true)
      (hs : s.writeStall t (sysReg r) (x.setWidth 64) = none) := State.writeStep_eq ht hc he hr hp hs
    have hplain (r : BitVec 8) (hr : r.toNat ∈ plainNumbers) (hd : r.toNat ≠ 0x40) (hp : t.sys = true ∨ (sysReg r).userWrite = true) :=
      hstep r hr hp (State.writeStall_of_plain hr hd _)
    refine ⟨congrArg Host.Outcome.next (hplain 0x12 (by decide) (by decide) (.inr rfl)), fun hs => ⟨?_, ?_, fun hd => ?_, ?_, ?_⟩⟩
    · exact congrArg Host.Outcome.next (hplain 0x10 (by decide) (by decide) (.inl hs))
    · exact congrArg Host.Outcome.next (hplain 0x23 (by decide) (by decide) (.inl hs))
    · exact congrArg Host.Outcome.next (hstep 0x40 (by decide) (.inl hs) hd)
    · exact congrArg Host.Outcome.next (hplain 0x20 (by decide) (by decide) (.inl hs))
    · exact congrArg Host.Outcome.next (hplain 0x41 (by decide) (by decide) (.inl hs))
  case probes =>
    intro s t c n x ht hc he hs hn hcore hstall p block put cleared stores s2 h2
    have hdump : s.DumpedBy t p x s2 := h2
    have hstep {s' : State} (hw : s.writeProbe t c n x = .ok s') : s.writeStep t.cid t.tid (.probe n) x = s' := by
      simp [State.writeStep, ht, he, hs, hstall, State.sysWrite, hc, hw]
    have hof : s.probeOf t.cid n = p := by simp only [State.probeOf, hc]; rfl
    refine ⟨fun hen => ?_, fun k hen hx hk => ?_⟩
    · have hw := hstep (State.writeProbe_of_not_start hdump hen)
      refine ⟨fun hx => congrArg Host.Outcome.next ?_, fun hx => congrArg Host.Outcome.next ?_, fun hp hx => congrArg Host.Outcome.next ?_⟩
      · exact (if_pos hx).trans hw
      · exact (if_pos hx).trans hw
      · exact (if_pos (by rw [hof, hp, hx]; rfl)).trans hw
    · refine congrArg Host.Outcome.next ((if_pos (by rw [hof, hen, hx]; rfl)).trans ?_)
      exact hstep (State.writeProbe_of_start hdump hen hx hk)
  case probeInstruction =>
    intro h r a s s1 s' ps rs l c f h30 h37 hi ha hc hs hops hstall hw
    have hr := sysReg_probe r h30 h37
    have hwide : (sysReg r).wide = true := by rw [hr]; rfl
    have hf : syswForm h r a = f := by rw [syswForm, hwide]; rfl
    have hv (t : Thread) : syswValue r a t = t.getPair a := by rw [syswValue, hwide]; rfl
    rw [← hf] at hi ha
    refine exec_sysw hi ha (.inl hs) ?_ (fun t ht => ?_) ?_
    · have hout (t : Thread) : ({ s with issue := none } : State).accessesOut t.cid t.tid = false := by
        simp [State.accessesOut, hops]
      simp [hr, probeHold, hout]
    · rw [hr, hv]; exact hstall t ht
    · rw [hr, hv]; simpa only [State.sysWrite, hc] using hw

end Sys2Proof.Machine

/-!
Formats as number systems: what an encoding stands for (R73), and that `Fmt.round` is the rounding of R72 and R82 (`Fmt.Rounds`).
-/
namespace Sys2Proof.Machine

/-! ### The seven formats -/

/-- What the tables of R73 have in common: fraction bits, and a largest finite magnitude just below the infinity of a format that has one. -/
structure Fmt.Sound (F : Fmt) : Prop where
  fb_pos : 0 < F.fb
  top_lt : F.top < 2 ^ F.sp
  le_top : 2 ^ F.fb ≤ F.top
  infinity : F.ieee = true → F.infinity = F.top + 1

/-- The formats of R73. -/
def formats : List Fmt := [fp64, fp32, fp16, bf16, e4m3, e5m2, e2m1]
theorem sound_of_mem_formats {F : Fmt} (h : F ∈ formats) : F.Sound := by
  have key : ∀ F ∈ formats, 0 < F.fb ∧ F.top < 2 ^ F.sp ∧ 2 ^ F.fb ≤ F.top ∧ (F.ieee = true → F.infinity = F.top + 1) := by decide
  obtain ⟨h1, h2, h3, h4⟩ := key F h
  exact ⟨h1, h2, h3, h4⟩
theorem fp32_sound : fp32.Sound := sound_of_mem_formats (by decide)

/-! ### Magnitudes -/

/-- How far the exponent of a magnitude lies above the smallest one. -/
def Fmt.expo (F : Fmt) (a : Nat) : Nat := a / 2 ^ F.fb - 1
/-- The significand of a magnitude, in units of its last place. -/
def Fmt.sig (F : Fmt) (a : Nat) : Nat := a - F.expo a * 2 ^ F.fb
/-- The number that the bits below the sign of an encoding stand for where they name a finite number, continued without an upper limit
(R73). -/
def Fmt.real (F : Fmt) (a : Nat) : ℚ := F.sig a * (2 : ℚ) ^ (F.emin - F.fb + F.expo a)

section
variable {F : Fmt}

theorem Fmt.expo_add_sig (a : Nat) : F.expo a * 2 ^ F.fb + F.sig a = a := by
  have h : F.expo a * 2 ^ F.fb ≤ a :=
    (Nat.mul_le_mul_right _ (Nat.sub_le _ 1)).trans (Nat.div_mul_le_self a (2 ^ F.fb))
  simp only [Fmt.sig]
  omega

/-- A significand has at most one bit above the fraction, and has it but at the smallest exponent. -/
theorem Fmt.sig_bounds (a : Nat) : F.sig a < 2 ^ (F.fb + 1) ∧ (F.expo a = 0 ∨ 2 ^ F.fb ≤ F.sig a) := by
  have hsplit := F.expo_add_sig a
  have hdiv := Nat.div_add_mod a (2 ^ F.fb)
  have hmod := Nat.mod_lt a (Nat.two_pow_pos F.fb)
  rw [pow_succ]
  rcases Nat.eq_zero_or_pos (a / 2 ^ F.fb) with h | h
  · have hexpo : F.expo a = 0 := by rw [Fmt.expo, h]
    rw [hexpo] at hsplit
    rw [h] at hdiv
    exact ⟨by omega, .inl hexpo⟩
  · have hexpo : F.expo a + 1 = a / 2 ^ F.fb := by simp only [Fmt.expo]; omega
    rw [← hexpo] at hdiv
    have : 2 ^ F.fb * (F.expo a + 1) = F.expo a * 2 ^ F.fb + 2 ^ F.fb := by ring
    exact ⟨by omega, .inr (by omega)⟩

/-- Significand and exponent may be given as they come out of a rounding, with a carry out of the significand. -/
theorem Fmt.real_of_carry {k w : Nat} (hw : w ≤ 2 ^ (F.fb + 1)) (hk : k = 0 ∨ 2 ^ F.fb ≤ w) :
    F.real (k * 2 ^ F.fb + w) = w * (2 : ℚ) ^ (F.emin - F.fb + k) := by
  have hpos := Nat.two_pow_pos F.fb
  rcases Nat.lt_or_ge w (2 ^ (F.fb + 1)) with hlt | hge
  · have hexpo : F.expo (k * 2 ^ F.fb + w) = k := by
      rw [pow_succ] at hlt
      rw [Fmt.expo, Nat.add_comm, Nat.add_mul_div_right _ _ hpos]
      rcases Nat.lt_or_ge w (2 ^ F.fb) with h | h
      · rw [Nat.div_eq_of_lt h]
        omega
      · rw [Nat.div_eq_of_lt_le (k := 1) (by omega) (by omega)]
        omega
    have hsig : F.sig (k * 2 ^ F.fb + w) = w := by rw [Fmt.sig, hexpo]; omega
    rw [Fmt.real, hexpo, hsig]
  · obtain rfl : w = 2 ^ (F.fb + 1) := by omega
    have ha : k * 2 ^ F.fb + 2 ^ (F.fb + 1) = (k + 2) * 2 ^ F.fb := by ring
    have hexpo : F.expo ((k + 2) * 2 ^ F.fb) = k + 1 := by
      rw [Fmt.expo, Nat.mul_div_cancel _ hpos]
      omega
    have hsig : F.sig ((k + 2) * 2 ^ F.fb) = 2 ^ F.fb := by
      rw [Fmt.sig, hexpo, ← Nat.sub_mul, show k + 2 - (k + 1) = 1 by omega, Nat.one_mul]
    rw [ha, Fmt.real, hexpo, hsig]
    push_cast
    rw [← add_assoc, zpow_add_one₀ (by norm_num), pow_succ]
    ring

theorem Fmt.real_strictMono : StrictMono F.real := by
  refine strictMono_nat_of_lt_succ fun a => ?_
  obtain ⟨hlt, hk⟩ := F.sig_bounds a
  have hsucc : a + 1 = F.expo a * 2 ^ F.fb + (F.sig a + 1) := by rw [← Nat.add_assoc, F.expo_add_sig]
  rw [hsucc, Fmt.real_of_carry (by omega) (hk.imp_right (Nat.le_succ_of_le ·)), Fmt.real]
  have : (0 : ℚ) < 2 ^ (F.emin - F.fb + F.expo a) := by positivity
  push_cast
  nlinarith

@[simp] theorem Fmt.real_zero : F.real 0 = 0 := by simp [Fmt.real, Fmt.sig]
theorem Fmt.real_nonneg (a : Nat) : 0 ≤ F.real a := by unfold Fmt.real; positivity

/-- The smallest normal number. -/
theorem Fmt.real_two_pow_fb : F.real (2 ^ F.fb) = (2 : ℚ) ^ F.emin := by
  have h := F.real_of_carry (k := 0) (w := 2 ^ F.fb) (Nat.pow_le_pow_right (by norm_num) (by omega)) (.inl rfl)
  simp only [Nat.zero_mul, Nat.zero_add, Nat.cast_zero, add_zero, Nat.cast_pow, Nat.cast_ofNat] at h
  rw [h, ← zpow_natCast, ← zpow_add₀ (by norm_num)]
  congr 1
  omega

/-- No finite magnitude reaches the power of two at the largest exponent field. -/
theorem Fmt.real_lt_of_lt_two_pow_sp {a : Nat} (ha : a < 2 ^ F.sp) : F.real a < (2 : ℚ) ^ (F.emin + 2 ^ F.eb) := by
  have hexpo : F.expo a < 2 ^ F.eb := by
    have : a / 2 ^ F.fb < 2 ^ F.eb := Nat.div_lt_of_lt_mul (by rw [← pow_add, Nat.add_comm]; exact ha)
    have := Nat.two_pow_pos F.eb
    simp only [Fmt.expo]
    omega
  have hsig : (F.sig a : ℚ) < 2 ^ (F.fb + 1) := by exact_mod_cast (F.sig_bounds a).1
  calc F.real a < (2 : ℚ) ^ (F.fb + 1) * 2 ^ (F.emin - F.fb + F.expo a) := by unfold Fmt.real; gcongr
    _ = (2 : ℚ) ^ (F.emin + 1 + F.expo a) := by
      rw [← zpow_natCast, ← zpow_add₀ (by norm_num)]
      congr 1
      push_cast
      ring
    _ ≤ (2 : ℚ) ^ (F.emin + 2 ^ F.eb) := by
      have : ((F.expo a + 1 : ℕ) : ℤ) ≤ ((2 ^ F.eb : ℕ) : ℤ) := by exact_mod_cast hexpo
      push_cast at this
      exact zpow_le_zpow_right₀ (by norm_num) (by omega)

/-! ### Encodings -/

theorem Fmt.mag_lt (x : Nat) : F.mag x < 2 ^ F.sp := Nat.mod_lt _ (Nat.two_pow_pos _)
theorem Fmt.mag_make {a : Nat} (h : a < 2 ^ F.sp) (n : Bool) : F.mag (F.make n a) = a := by
  cases n <;> simp [Fmt.mag, Fmt.make, Nat.mod_eq_of_lt h]
theorem Fmt.sign_make {a : Nat} (h : a < 2 ^ F.sp) (n : Bool) : F.sign (F.make n a) = n := by
  cases n <;> simp [Fmt.sign, Fmt.make, Nat.testBit_lt_two_pow h, Nat.add_comm a, Nat.testBit_two_pow_add_eq]
theorem Fmt.make_lt {a : Nat} (h : a < 2 ^ F.sp) (n : Bool) : F.make n a < 2 ^ (F.sp + 1) := by
  rw [pow_succ]
  cases n <;> simp only [Fmt.make, Bool.false_eq_true, if_false, if_true] <;> omega

/-- An encoding up to the largest finite magnitude is a finite number (R73). -/
theorem Fmt.value_of_mag_le (hF : F.Sound) {x : Nat} (h : F.mag x ≤ F.top) :
    F.value x = .fin (F.sign x) (F.sig (F.mag x)) (F.emin - F.fb + F.expo (F.mag x)) := by
  have hinf : F.ieee = true → F.mag x < F.infinity := fun hi => by rw [hF.infinity hi]; omega
  have h1 : (F.ieee && decide (F.mag x > F.infinity)) = false := by
    cases hi : F.ieee with
    | false => rfl
    | true => simp [(hinf hi).le]
  have h2 : (F.ieee && F.mag x == F.infinity) = false := by
    cases hi : F.ieee with
    | false => rfl
    | true => simp [(hinf hi).ne]
  have h3 : (!F.ieee && decide (F.mag x > F.top)) = false := by simp [h]
  simp only [Fmt.value, h1, h2, h3, Bool.false_eq_true, if_false]
  have hdiv := Nat.div_add_mod (F.mag x) (2 ^ F.fb)
  have hsplit := F.expo_add_sig (F.mag x)
  rcases Nat.eq_zero_or_pos (F.mag x / 2 ^ F.fb) with hE | hE
  · have hexpo : F.expo (F.mag x) = 0 := by rw [Fmt.expo, hE]
    have hsig : F.mag x % 2 ^ F.fb = F.sig (F.mag x) := by rw [hE] at hdiv; rw [hexpo] at hsplit; omega
    simp [hE, hexpo, hsig]
  · have hexpo : F.expo (F.mag x) + 1 = F.mag x / 2 ^ F.fb := by simp only [Fmt.expo]; omega
    have hsig : F.mag x % 2 ^ F.fb + 2 ^ F.fb = F.sig (F.mag x) := by
      rw [← hexpo, Nat.mul_add, Nat.mul_comm] at hdiv
      omega
    rw [if_neg (by simpa using hE.ne'), hsig]
    rfl

/-- Beyond it a format with infinities has its infinity, and then NaNs, signalling where the top bit of the fraction is clear (R73, R75). -/
theorem Fmt.value_of_top_lt (hF : F.Sound) {x : Nat} (h : F.top < F.mag x) :
    F.value x = if F.ieee then (if F.mag x = F.infinity then .inf (F.sign x) else .nan (!(F.mag x).testBit (F.fb - 1))) else .nan false := by
  cases hi : F.ieee with
  | false => simp [Fmt.value, hi, h]
  | true =>
    have hle : F.infinity ≤ F.mag x := by rw [hF.infinity hi]; omega
    by_cases he : F.mag x = F.infinity
    · simp [Fmt.value, hi, he]
    · have hlt : F.infinity < F.mag x := by omega
      simp [Fmt.value, hi, he, hlt]

/-- The number of an encoding depends on its sign and magnitude. -/
theorem Fmt.rat_value (hF : F.Sound) {x : Nat} (h : F.mag x ≤ F.top) :
    (F.value x).rat = (if F.sign x then -1 else 1) * F.real (F.mag x) := by
  rw [Fmt.value_of_mag_le hF h, FV.rat, Fmt.real, mul_assoc]

/-- What is no finite number counts as 0. -/
theorem Fmt.rat_value_of_top_lt (hF : F.Sound) {x : Nat} (h : F.top < F.mag x) : (F.value x).rat = 0 := by
  rw [Fmt.value_of_top_lt hF h]
  split
  · split <;> rfl
  · rfl

/-- No finite number is larger than the largest one. -/
theorem Fmt.abs_rat_value_le (hF : F.Sound) (x : Nat) : |(F.value x).rat| ≤ F.real F.top := by
  rcases Nat.lt_or_ge F.top (F.mag x) with h | h
  · rw [Fmt.rat_value_of_top_lt hF h, abs_zero]
    exact F.real_nonneg _
  · rw [Fmt.rat_value hF h, abs_mul, abs_of_nonneg (F.real_nonneg _)]
    have hsign : |(if F.sign x then -1 else 1 : ℚ)| = 1 := by split <;> simp
    rw [hsign, one_mul]
    exact F.real_strictMono.monotone h

/-- The number of a magnitude with a sign. -/
theorem Fmt.value_make (hF : F.Sound) {a : Nat} (h : a ≤ F.top) (n : Bool) :
    F.value (F.make n a) = .fin n (F.sig a) (F.emin - F.fb + F.expo a) := by
  have hlt := h.trans_lt hF.top_lt
  rw [Fmt.value_of_mag_le hF (by rwa [Fmt.mag_make hlt]), Fmt.mag_make hlt, Fmt.sign_make hlt]
theorem Fmt.rat_value_make (hF : F.Sound) {a : Nat} (h : a ≤ F.top) (n : Bool) :
    (F.value (F.make n a)).rat = (if n then -1 else 1) * F.real a := by
  rw [Fmt.value_make hF h, FV.rat, Fmt.real, mul_assoc]
theorem Fmt.rat_value_top (hF : F.Sound) : (F.value F.top).rat = F.real F.top := by
  simpa [Fmt.make] using Fmt.rat_value_make hF le_rfl false
/-- A finite encoding is its sign with its magnitude. -/
theorem Fmt.eq_make_of_value_fin (hF : F.Sound) {x k : Nat} {n : Bool} {e : Int} (hx : x < 2 ^ (F.sp + 1)) (h : F.value x = .fin n k e) :
    F.mag x ≤ F.top ∧ x = F.make n (F.mag x) := by
  have hle : F.mag x ≤ F.top := by
    by_contra hlt
    rw [Fmt.value_of_top_lt hF (not_le.mp hlt)] at h
    split at h
    · split at h <;> cases h
    · cases h
  obtain ⟨hsign, -, -⟩ := FV.fin.inj ((Fmt.value_of_mag_le hF hle).symm.trans h)
  refine ⟨hle, ?_⟩
  have hdiv := Nat.div_add_mod' x (2 ^ F.sp)
  have hlt : x / 2 ^ F.sp < 2 := Nat.div_lt_of_lt_mul (by rwa [pow_succ] at hx)
  rw [Fmt.sign, Nat.testBit_eq_decide_div_mod_eq, Nat.mod_eq_of_lt hlt] at hsign
  subst hsign
  rw [Fmt.make, Fmt.mag]
  rcases Nat.le_one_iff_eq_zero_or_eq_one.mp (Nat.lt_succ_iff.mp hlt) with hq | hq
  · rw [hq] at hdiv ⊢
    simpa using hdiv.symm
  · rw [hq] at hdiv ⊢
    simpa [Nat.add_comm] using hdiv.symm
theorem Fmt.infinity_lt (F : Fmt) : F.infinity < 2 ^ F.sp := by
  rw [Fmt.infinity, Fmt.sp, pow_add]
  exact Nat.mul_lt_mul_of_pos_right (Nat.sub_lt (Nat.two_pow_pos _) one_pos) (Nat.two_pow_pos _)
/-- An infinity reads back as one. -/
theorem Fmt.value_make_infinity (hF : F.Sound) (hi : F.ieee = true) (n : Bool) : F.value (F.make n F.infinity) = .inf n := by
  rw [Fmt.value_of_top_lt hF (by rw [Fmt.mag_make F.infinity_lt, hF.infinity hi]; omega), Fmt.mag_make F.infinity_lt, Fmt.sign_make F.infinity_lt]
  simp [hi]
end

end Sys2Proof.Machine

/-!
Rounding: `roundTo` makes a number an integer by its mode (R72), and `Fmt.round` rounds as R72, R77 and R82 say (`Fmt.Rounds`).
-/
namespace Sys2Proof.Machine

/-! ### To an integer (R72) -/

section
variable {mode : Mode} {x : ℝ} {n w : ℤ}

/-- Rounding stays on the same side of an integer. -/
theorem Mode.Makes.le (h : mode.Makes x w) (hx : (n : ℝ) ≤ x) : n ≤ w := by
  cases mode with
  | rne =>
    obtain ⟨hle, -⟩ := h
    by_contra hlt
    have : (w : ℝ) + 1 ≤ n := by exact_mod_cast not_le.mp hlt
    have := le_abs_self (x - w)
    linarith
  | rtz =>
    rcases le_or_gt 0 x with h0 | h0
    · rw [h.1 h0]; exact Int.le_floor.mpr hx
    · rw [h.2 h0]; exact_mod_cast hx.trans (Int.le_ceil x)
  | rdn => rw [show w = ⌊x⌋ from h]; exact Int.le_floor.mpr hx
  | rup => rw [show w = ⌈x⌉ from h]; exact_mod_cast hx.trans (Int.le_ceil x)
@[inherit_doc Mode.Makes.le] theorem Mode.Makes.ge (h : mode.Makes x w) (hx : x ≤ n) : w ≤ n := by
  cases mode with
  | rne =>
    obtain ⟨hle, -⟩ := h
    by_contra hlt
    have : (n : ℝ) + 1 ≤ w := by exact_mod_cast not_le.mp hlt
    have := neg_abs_le (x - w)
    linarith
  | rtz =>
    rcases le_or_gt 0 x with h0 | h0
    · rw [h.1 h0]; exact_mod_cast (Int.floor_le x).trans hx
    · rw [h.2 h0]; exact Int.ceil_le.mpr hx
  | rdn => rw [show w = ⌊x⌋ from h]; exact_mod_cast (Int.floor_le x).trans hx
  | rup => rw [show w = ⌈x⌉ from h]; exact Int.ceil_le.mpr hx
/-- An integer stays as it is. -/
theorem Mode.Makes.eq_of_int (h : mode.Makes n w) : w = n := le_antisymm (h.ge le_rfl) (h.le le_rfl)
end

/-- A sign as a factor. -/
def signFactor (neg : Bool) : ℤ := if neg then -1 else 1
@[simp] theorem signFactor_false : signFactor false = 1 := rfl
@[simp] theorem signFactor_true : signFactor true = -1 := rfl
theorem abs_signFactor_mul (neg : Bool) (x : ℝ) : |(signFactor neg : ℝ) * x| = |x| := by cases neg <;> simp

/-- By a mode a magnitude whose part below the last place is `t` is rounded away from zero; `odd` tells of its last place (R72). -/
def Mode.Away (mode : Mode) (neg odd : Bool) (t : ℝ) : Prop :=
  match mode with
  | .rne => 1 < 2 * t ∨ (2 * t = 1 ∧ odd = true)
  | .rtz => False
  | .rdn => neg = true ∧ t ≠ 0
  | .rup => neg = false ∧ t ≠ 0

theorem roundsUp_iff {mode : Mode} {neg odd : Bool} {r k : Nat} : roundsUp mode neg odd r k = true ↔ mode.Away neg odd (r / 2 ^ k) := by
  have hpos : (0 : ℝ) < 2 ^ k := by positivity
  have hlt : (1 : ℝ) < 2 * (r / 2 ^ k) ↔ 2 ^ k < 2 * r := by
    rw [← mul_div_assoc, one_lt_div hpos]; exact_mod_cast Iff.rfl
  have heq : (2 : ℝ) * (r / 2 ^ k) = 1 ↔ 2 * r = 2 ^ k := by
    rw [← mul_div_assoc, div_eq_one_iff_eq hpos.ne']; exact_mod_cast Iff.rfl
  have hzero : (r / 2 ^ k : ℝ) ≠ 0 ↔ r ≠ 0 := by simp
  cases mode <;> simp [roundsUp, Mode.Away, hlt, heq, hzero]

/-- The neighbour that a mode chooses. -/
theorem Mode.makes_of_away {mode : Mode} {neg up : Bool} {w : Nat} {t : ℝ} (h0 : 0 ≤ t) (h1 : t < 1)
    (hup : up = true ↔ mode.Away neg (w % 2 == 1) t) :
    mode.Makes (signFactor neg * (w + t)) (signFactor neg * (if up then w + 1 else w : ℕ)) := by
  have hw : (0 : ℝ) ≤ w := Nat.cast_nonneg w
  have hne : t ≠ 0 ↔ 0 < t := ⟨fun h => lt_of_le_of_ne h0 h.symm, ne_of_gt⟩
  cases mode with
  | rne =>
    have hdiff : |(signFactor neg : ℝ) * (w + t) - ((signFactor neg * (if up then w + 1 else w : ℕ) : ℤ) : ℝ)| =
        if up then 1 - t else t := by
      push_cast
      rw [← mul_sub, abs_signFactor_mul]
      cases up <;> simp [abs_of_nonneg, h0, add_sub_add_left_eq_sub, abs_sub_comm t, h1.le]
    have heven : Even (signFactor neg * (if up then w + 1 else w : ℕ)) ↔ (if up then w + 1 else w) % 2 = 0 := by
      cases neg <;> simp [Nat.even_iff, -Nat.cast_add, -Nat.cast_ite]
    simp only [Mode.Makes, hdiff, heven]
    simp only [Mode.Away, beq_iff_eq] at hup
    cases up with
    | true =>
      obtain h | ⟨h, hodd⟩ := hup.mp rfl
      · exact ⟨by simp; linarith, fun he => by simp at he; linarith⟩
      · exact ⟨by simp; linarith, fun _ => by simp; omega⟩
    | false =>
      have hno : ¬(1 < 2 * t ∨ 2 * t = 1 ∧ w % 2 = 1) := fun h => Bool.false_ne_true (hup.mpr h)
      push Not at hno
      exact ⟨by simpa using hno.1, fun he => by simpa using hno.2 (by simpa using he)⟩
  | rtz =>
    have hup : up = false := by simpa [Mode.Away] using hup
    subst hup
    cases neg with
    | false =>
      refine ⟨fun _ => (Int.floor_eq_iff.mpr ?_).symm, fun h => absurd h ?_⟩
      · simp; constructor <;> linarith
      · simp; linarith
    | true =>
      refine ⟨fun h => (Int.floor_eq_iff.mpr ?_).symm, fun _ => (Int.ceil_eq_iff.mpr ?_).symm⟩
      · simp at h ⊢; constructor <;> linarith
      · simp; constructor <;> linarith
  | rdn =>
    refine (Int.floor_eq_iff.mpr ?_).symm
    simp only [Mode.Away, hne] at hup
    cases neg <;> cases up <;> simp at hup ⊢ <;> constructor <;> linarith
  | rup =>
    refine (Int.ceil_eq_iff.mpr ?_).symm
    simp only [Mode.Away, hne] at hup
    cases neg <;> cases up <;> simp at hup ⊢ <;> constructor <;> linarith

/-- A part below one quarter rounds as one quarter does. -/
theorem Mode.away_iff_of_lt_quarter {mode : Mode} {neg : Bool} {t : ℝ} (h0 : 0 < t) (h : t < 1 / 4) :
    mode.Away neg false ((1 : ℕ) / 2 ^ 2) ↔ mode.Away neg false t := by
  cases mode with
  | rne =>
    have hno : ¬1 < 2 * t := by linarith
    norm_num [Mode.Away, hno]
  | _ => simp [Mode.Away, h0.ne']

/-- A number between two integers is neither of them. -/
theorem add_ne_neighbour (up : Bool) (w : Nat) {t : ℝ} (h0 : 0 < t) (h1 : t < 1) : (w : ℝ) + t ≠ (if up then w + 1 else w : ℕ) := by
  cases up
  · simpa using h0.ne'
  · simpa using h1.ne

/-- `roundTo` rounds, and tells whether the number was an integer. -/
theorem roundTo_makes (mode : Mode) (neg : Bool) (m : Nat) (e q : Int) :
    mode.Makes (signFactor neg * (m * (2 : ℝ) ^ (e - q))) (signFactor neg * (roundTo mode neg m e q).1) ∧
      ((roundTo mode neg m e q).2 = false ↔ (m * (2 : ℝ) ^ (e - q) = (roundTo mode neg m e q).1)) := by
  unfold roundTo
  by_cases hq : q ≤ e
  · obtain ⟨j, hj⟩ := Int.eq_ofNat_of_zero_le (sub_nonneg.mpr hq)
    simp only [hq, if_true, hj, Int.toNat_natCast]
    have hx : (m : ℝ) * 2 ^ (j : ℤ) = ((m * 2 ^ j : ℕ) : ℝ) + 0 := by push_cast; rw [zpow_natCast]; ring
    refine ⟨?_, by simp⟩
    rw [hx]
    exact Mode.makes_of_away (up := false) le_rfl one_pos (by cases mode <;> simp [Mode.Away])
  · obtain ⟨k, hk⟩ := Int.eq_ofNat_of_zero_le (sub_nonneg.mpr (not_le.mp hq).le)
    have hkq : (q - e).toNat = k := by omega
    have hpos : (0 : ℝ) < 2 ^ k := by positivity
    have hx : (m : ℝ) * 2 ^ (e - q) = m / 2 ^ k := by
      rw [show e - q = -(k : ℤ) by omega, zpow_neg, zpow_natCast, div_eq_mul_inv]
    simp only [hq, if_false, hkq, hx]
    split
    · next hlog =>
      have hlt : 4 * m < 2 ^ k := by
        calc 4 * m < 4 * 2 ^ (Nat.log2 m + 1) := by have := Nat.lt_log2_self (n := m); omega
          _ = 2 ^ (Nat.log2 m + 3) := by ring
          _ ≤ 2 ^ k := Nat.pow_le_pow_right (by norm_num) hlog
      have hquarter : (m / 2 ^ k : ℝ) < 1 / 4 := by
        rw [div_lt_div_iff₀ hpos (by norm_num), one_mul, mul_comm]
        exact_mod_cast hlt
      rcases Nat.eq_zero_or_pos m with rfl | hm
      · have h := Mode.makes_of_away (mode := mode) (neg := neg) (up := false) (w := 0) le_rfl one_pos (by cases mode <;> simp [Mode.Away])
        simpa using h
      · have hm0 : (m != 0) = true := by simpa using hm.ne'
        have ht : (0 : ℝ) < m / 2 ^ k := by positivity
        have h := Mode.makes_of_away (mode := mode) (neg := neg) (w := 0) ht.le (hquarter.trans (by norm_num))
          (roundsUp_iff.trans (Mode.away_iff_of_lt_quarter ht hquarter))
        have hne := add_ne_neighbour (roundsUp mode neg false 1 2) 0 ht (hquarter.trans (by norm_num))
        simp only [hm0, Bool.true_and]
        exact ⟨by simpa using h, by simpa using hne⟩
    · have hr : (m % 2 ^ k : ℕ) < 2 ^ k := Nat.mod_lt _ (Nat.two_pow_pos k)
      have hsplit : (m / 2 ^ k : ℝ) = (m / 2 ^ k : ℕ) + (m % 2 ^ k : ℕ) / 2 ^ k := by
        rw [div_eq_iff hpos.ne', add_mul, div_mul_cancel₀ _ hpos.ne']
        exact_mod_cast (Nat.div_add_mod' m (2 ^ k)).symm
      have h := Mode.makes_of_away (mode := mode) (neg := neg) (w := m / 2 ^ k) (t := (m % 2 ^ k : ℕ) / 2 ^ k) (by positivity)
        ((div_lt_one hpos).mpr (by exact_mod_cast hr)) roundsUp_iff
      rw [hsplit]
      refine ⟨h, ?_⟩
      rcases Nat.eq_zero_or_pos (m % 2 ^ k) with h0 | h0
      · have hdown : roundsUp mode neg (m / 2 ^ k % 2 == 1) 0 k = false := by
          have := (Nat.two_pow_pos k).ne
          cases mode <;> simp [roundsUp, this]
        simp only [h0, hdown]
        simp
      · have hne := add_ne_neighbour (roundsUp mode neg (m / 2 ^ k % 2 == 1) (m % 2 ^ k) k) (m / 2 ^ k)
          (t := (m % 2 ^ k : ℕ) / 2 ^ k) (by positivity) ((div_lt_one hpos).mpr (by exact_mod_cast hr))
        simpa [h0.ne'] using hne

/-- The bounds of a magnitude that are integers are bounds of what it rounds to. -/
theorem Mode.Makes.mag_le {mode : Mode} {neg : Bool} {t : ℝ} {w n : Nat} (h : mode.Makes (signFactor neg * t) (signFactor neg * w)) (ht : t ≤ n) :
    w ≤ n := by
  cases neg with
  | false =>
    have := h.ge (n := n) (by simpa using ht)
    simp only [signFactor_false] at this
    omega
  | true =>
    have := h.le (n := -n) (by simpa using ht)
    simp only [signFactor_true] at this
    omega
@[inherit_doc Mode.Makes.mag_le] theorem Mode.Makes.mag_ge {mode : Mode} {neg : Bool} {t : ℝ} {w n : Nat}
    (h : mode.Makes (signFactor neg * t) (signFactor neg * w)) (ht : n ≤ t) : n ≤ w := by
  cases neg with
  | false =>
    have := h.le (n := n) (by simpa using ht)
    simp only [signFactor_false] at this
    omega
  | true =>
    have := h.ge (n := -n) (by simpa using ht)
    simp only [signFactor_true] at this
    omega

/-! ### To a format (R72, R77, R82) -/

/-- The exponent at which a number is rounded: its own, or the smallest one of the format. -/
def Fmt.roundExpo (F : Fmt) (m : Nat) (e : Int) : Int := max (e + Nat.log2 m) F.emin
/-- The significand to which it is rounded there, and whether it is inexact. -/
def Fmt.roundSig (F : Fmt) (mode : Mode) (neg : Bool) (m : Nat) (e : Int) : Nat × Bool := roundTo mode neg m e (F.roundExpo m e - F.fb)
/-- The magnitude to which it is rounded, of a format without an upper limit. -/
def Fmt.roundMag (F : Fmt) (mode : Mode) (neg : Bool) (m : Nat) (e : Int) : Nat :=
  (F.roundExpo m e - F.emin).toNat * 2 ^ F.fb + (F.roundSig mode neg m e).1

/-- The binary exponent of a number. -/
theorem log2_bounds {m : Nat} (hm : m ≠ 0) (e : Int) :
    (2 : ℝ) ^ (e + Nat.log2 m) ≤ m * (2 : ℝ) ^ e ∧ m * (2 : ℝ) ^ e < (2 : ℝ) ^ (e + Nat.log2 m + 1) := by
  have h1 : ((2 ^ Nat.log2 m : ℕ) : ℝ) ≤ m := by exact_mod_cast Nat.log2_self_le hm
  have h2 : (m : ℝ) < (2 ^ (Nat.log2 m + 1) : ℕ) := by exact_mod_cast Nat.lt_log2_self
  push_cast at h1 h2
  have hpos : (0 : ℝ) < 2 ^ e := by positivity
  constructor
  · rw [zpow_add₀ (by norm_num), zpow_natCast, mul_comm]
    gcongr
  · rw [add_assoc, zpow_add₀ (by norm_num), mul_comm]
    gcongr
    exact_mod_cast h2

/-- A number is below a power of two when its binary exponent is. -/
theorem lt_zpow_iff_log2 {m : Nat} (hm : m ≠ 0) (e i : Int) : m * (2 : ℝ) ^ e < (2 : ℝ) ^ i ↔ e + Nat.log2 m < i := by
  obtain ⟨hlow, hhigh⟩ := log2_bounds hm e
  refine ⟨fun h => (zpow_lt_zpow_iff_right₀ (by norm_num)).mp (hlow.trans_lt h), fun h => hhigh.trans_le ?_⟩
  exact zpow_le_zpow_right₀ (by norm_num) (by omega)

section
variable {F : Fmt} {z : Bool} {mode : Mode} {neg : Bool} {m : Nat} {e : Int}

theorem Fmt.emin_le_roundExpo : F.emin ≤ F.roundExpo m e := le_max_right _ _

/-- The number lies below the next power of two, and has its exponent, but at the smallest one. -/
theorem Fmt.roundExpo_bounds (F : Fmt) (hm : m ≠ 0) (e : Int) :
    m * (2 : ℝ) ^ e < (2 : ℝ) ^ (F.roundExpo m e + 1) ∧ (F.roundExpo m e = F.emin ∨ (2 : ℝ) ^ F.roundExpo m e ≤ m * (2 : ℝ) ^ e) := by
  obtain ⟨hlow, hhigh⟩ := log2_bounds hm e
  refine ⟨hhigh.trans_le (zpow_le_zpow_right₀ (by norm_num) (by simp [Fmt.roundExpo])), ?_⟩
  rcases le_total (e + Nat.log2 m) F.emin with h | h
  · exact .inl (max_eq_right h)
  · rw [Fmt.roundExpo, max_eq_left h]; exact .inr hlow

/-- In units of the place at which it is rounded. -/
theorem mul_zpow_sub_fb (x : ℝ) (i j : Int) : x * (2 : ℝ) ^ (i - j) = x * (2 : ℝ) ^ i / (2 : ℝ) ^ j := by
  rw [zpow_sub₀ (by norm_num), mul_div_assoc]

/-- A rounding carries out of the significand at most to the next power of two, and keeps its top bit, but at the smallest exponent. -/
theorem Fmt.roundSig_bounds (F : Fmt) (mode : Mode) (neg : Bool) (hm : m ≠ 0) (e : Int) :
    (F.roundSig mode neg m e).1 ≤ 2 ^ (F.fb + 1) ∧ (F.roundExpo m e = F.emin ∨ 2 ^ F.fb ≤ (F.roundSig mode neg m e).1) := by
  obtain ⟨hhigh, hlow⟩ := F.roundExpo_bounds hm e
  have hmakes := (roundTo_makes mode neg m e (F.roundExpo m e - F.fb)).1
  rw [mul_zpow_sub_fb] at hmakes
  have hpos : (0 : ℝ) < 2 ^ (F.roundExpo m e - F.fb) := by positivity
  refine ⟨hmakes.mag_le ?_, hlow.imp_right fun hl => hmakes.mag_ge ?_⟩
  · rw [div_le_iff₀ hpos]
    push_cast
    rw [← zpow_natCast, ← zpow_add₀ (by norm_num)]
    exact hhigh.le.trans_eq (by congr 1; push_cast; ring)
  · rw [le_div_iff₀ hpos]
    push_cast
    rw [← zpow_natCast, ← zpow_add₀ (by norm_num)]
    exact (Eq.le (by congr 1; ring)).trans hl

/-- The magnitude stands for the rounded number. -/
theorem Fmt.real_roundMag (F : Fmt) (mode : Mode) (neg : Bool) (hm : m ≠ 0) (e : Int) :
    F.real (F.roundMag mode neg m e) = (F.roundSig mode neg m e).1 * (2 : ℚ) ^ (F.roundExpo m e - F.fb) := by
  obtain ⟨hle, hge⟩ := F.roundSig_bounds mode neg hm e
  have hexpo : ((F.roundExpo m e - F.emin).toNat : ℤ) = F.roundExpo m e - F.emin := Int.toNat_of_nonneg (sub_nonneg.mpr F.emin_le_roundExpo)
  rw [Fmt.roundMag, Fmt.real_of_carry hle (hge.imp_left fun h => by simp [h]), hexpo]
  congr 2
  ring

theorem Fmt.roundMag_ne_zero_iff (F : Fmt) (mode : Mode) (neg : Bool) (hm : m ≠ 0) (e : Int) :
    F.roundMag mode neg m e ≠ 0 ↔ (F.roundSig mode neg m e).1 ≠ 0 := by
  rw [Ne, Ne, not_iff_not, ← F.real_strictMono.injective.eq_iff (b := 0), F.real_zero, F.real_roundMag mode neg hm e, mul_eq_zero,
    or_iff_left (by positivity), Nat.cast_eq_zero]

/-- The rounding is exact where it says so. -/
theorem Fmt.real_roundMag_eq_iff (F : Fmt) (mode : Mode) (neg : Bool) (hm : m ≠ 0) (e : Int) :
    ((F.real (F.roundMag mode neg m e) : ℚ) : ℝ) = m * (2 : ℝ) ^ e ↔ (F.roundSig mode neg m e).2 = false := by
  have hexact := (roundTo_makes mode neg m e (F.roundExpo m e - F.fb)).2
  rw [mul_zpow_sub_fb, div_eq_iff (by positivity)] at hexact
  rw [F.real_roundMag mode neg hm e, eq_comm]
  push_cast
  exact hexact.symm

/-- A number beyond every exponent is beyond the largest finite one. -/
theorem Fmt.top_lt_roundMag (hF : F.Sound) (hm : m ≠ 0) (h : e + Nat.log2 m > 2 ^ F.eb) : F.top < F.roundMag mode neg m e := by
  have hemin : F.emin ≤ 1 := by simp [Fmt.emin]
  have hpow : (1 : ℤ) ≤ 2 ^ F.eb := one_le_pow₀ (by norm_num)
  have hexpo : F.roundExpo m e = e + Nat.log2 m := max_eq_left (by omega)
  rw [← F.real_strictMono.lt_iff_lt, F.real_roundMag mode neg hm e]
  obtain ⟨-, hge⟩ := F.roundSig_bounds mode neg hm e
  have hsig : ((2 ^ F.fb : ℕ) : ℚ) ≤ (F.roundSig mode neg m e).1 := by exact_mod_cast hge.resolve_left (by omega)
  calc F.real F.top < (2 : ℚ) ^ (F.emin + 2 ^ F.eb) := Fmt.real_lt_of_lt_two_pow_sp hF.top_lt
    _ ≤ (2 : ℚ) ^ F.roundExpo m e := zpow_le_zpow_right₀ (by norm_num) (by omega)
    _ = ((2 ^ F.fb : ℕ) : ℚ) * (2 : ℚ) ^ (F.roundExpo m e - F.fb) := by
      push_cast
      rw [← zpow_natCast, ← zpow_add₀ (by norm_num)]
      congr 1
      ring
    _ ≤ _ := by gcongr

/-- `Fmt.round` of a nonzero number by the magnitude to which it is rounded. -/
theorem Fmt.round_eq (hF : F.Sound) (hm : m ≠ 0) :
    F.round z mode neg m e =
      if F.top < F.roundMag mode neg m e then F.overflow neg mode
      else if z && F.lane && F.roundMag mode neg m e != 0 && F.roundMag mode neg m e < 2 ^ F.fb then ⟨F.make neg 0, fUF ||| fNX⟩
      else ⟨F.make neg (F.roundMag mode neg m e), flagIf (F.roundSig mode neg m e).2 fNX |||
        flagIf ((F.roundSig mode neg m e).2 && decide (e + Nat.log2 m < F.emin)) fUF⟩ := by
  have hm' : (m == 0) = false := by simpa using hm
  simp only [Fmt.round, hm', Bool.false_eq_true, if_false]
  by_cases h : e + Nat.log2 m > 2 ^ F.eb
  · rw [if_pos h, if_pos (Fmt.top_lt_roundMag hF hm h)]
  · rw [if_neg h]
    rfl

/-- The number that a finite value stands for, by its sign. -/
theorem FV.rat_fin (n : Bool) (m : Nat) (e : Int) : ((FV.fin n m e).rat : ℝ) = signFactor n * (m * (2 : ℝ) ^ e) := by
  cases n <;> simp [FV.rat]

/-- What a number rounds to beyond the largest finite one (R82). -/
theorem Fmt.overflow_eq (F : Fmt) (neg : Bool) (mode : Mode) :
    let toInf : Prop := F.ieee = true ∧ (mode = .rne ∨ (mode = .rdn ∧ neg = true) ∨ (mode = .rup ∧ neg = false))
    (toInf → F.overflow neg mode = ⟨F.make neg F.infinity, fOF ||| fNX⟩) ∧
      (¬toInf → F.overflow neg mode = ⟨F.make neg F.top, fOF ||| fNX⟩) := by
  cases hi : F.ieee <;> cases mode <;> cases neg <;> simp [Fmt.overflow, hi]

/-- `Fmt.round` is `Round`: the number is made a multiple of the spacing at it, by its magnitude `Fmt.roundMag`. -/
theorem Fmt.round_rounds (hF : F.Sound) (z : Bool) (mode : Mode) (neg : Bool) (m : Nat) (e : Int) :
    F.Rounds z mode neg ((FV.fin neg m e).rat : ℝ) (F.round z mode neg m e) := by
  rw [FV.rat_fin]
  rcases eq_or_ne m 0 with rfl | hm
  · exact ⟨fun _ => rfl, fun h => absurd (by simp) h⟩
  have hpos : (0 : ℝ) < m * (2 : ℝ) ^ e := by positivity
  have habs : |(signFactor neg : ℝ) * (m * (2 : ℝ) ^ e)| = m * (2 : ℝ) ^ e := by rw [abs_signFactor_mul, abs_of_pos hpos]
  refine ⟨fun h => absurd (by rw [← habs, h, abs_zero]) hpos.ne', fun _ => ?_⟩
  obtain ⟨hhigh, hlow⟩ := F.roundExpo_bounds hm e
  have hmakes := (roundTo_makes mode neg m e (F.roundExpo m e - F.fb)).1
  refine ⟨F.roundExpo m e, signFactor neg * (F.roundSig mode neg m e).1, F.emin_le_roundExpo, by rwa [habs], by rwa [habs], ?_, ?_⟩
  · rwa [mul_div_assoc, ← mul_zpow_sub_fb]
  -- The magnitude after rounding, as the statement speaks of it.
  have hreal : ((F.real (F.roundMag mode neg m e) : ℚ) : ℝ) = (F.roundSig mode neg m e).1 * (2 : ℝ) ^ (F.roundExpo m e - F.fb) := by
    rw [F.real_roundMag mode neg hm e]; push_cast; rfl
  have hx : (((signFactor neg * (F.roundSig mode neg m e).1 : ℤ) : ℝ)) * (2 : ℝ) ^ (F.roundExpo m e - F.fb) =
      signFactor neg * ((F.real (F.roundMag mode neg m e) : ℚ) : ℝ) := by
    rw [hreal]; push_cast; ring
  have hbeyond : (((F.value F.top).rat : ℚ) : ℝ) < |(signFactor neg : ℝ) * ((F.real (F.roundMag mode neg m e) : ℚ) : ℝ)| ↔
      F.top < F.roundMag mode neg m e := by
    rw [Fmt.rat_value_top hF, abs_signFactor_mul, abs_of_nonneg (by exact_mod_cast F.real_nonneg _), Rat.cast_lt, F.real_strictMono.lt_iff_lt]
  have hsmall : |(signFactor neg : ℝ) * ((F.real (F.roundMag mode neg m e) : ℚ) : ℝ)| < (2 : ℝ) ^ F.emin ↔
      F.roundMag mode neg m e < 2 ^ F.fb := by
    rw [abs_signFactor_mul, abs_of_nonneg (by exact_mod_cast F.real_nonneg _), ← F.real_strictMono.lt_iff_lt, F.real_two_pow_fb,
      show (2 : ℝ) ^ F.emin = (((2 : ℚ) ^ F.emin : ℚ) : ℝ) by push_cast; rfl, Rat.cast_lt]
  have hzero : signFactor neg * ((F.roundSig mode neg m e).1 : ℤ) ≠ 0 ↔ F.roundMag mode neg m e ≠ 0 := by
    rw [mul_ne_zero_iff, and_iff_right (by cases neg <;> decide), Nat.cast_ne_zero, F.roundMag_ne_zero_iff mode neg hm e]
  have hinexact : (signFactor neg : ℝ) * ((F.real (F.roundMag mode neg m e) : ℚ) : ℝ) = signFactor neg * (m * (2 : ℝ) ^ e) ↔
      (F.roundSig mode neg m e).2 = false := by
    rw [mul_right_inj' (by cases neg <;> simp), F.real_roundMag_eq_iff mode neg hm e]
  have htiny := lt_zpow_iff_log2 hm e F.emin
  simp only [hx, hbeyond, hsmall, hzero, hinexact, habs]
  rw [Fmt.round_eq hF hm, ← not_lt, htiny]
  generalize F.roundMag mode neg m e = a at *
  generalize (F.roundSig mode neg m e).2 = nx at *
  obtain ⟨hinf, htop⟩ := F.overflow_eq neg mode
  refine ⟨fun hb hi => ?_, fun hb hi => ?_, fun hb hf => ?_, fun hb hf => ?_⟩
  · rw [if_pos hb, hinf hi]
  · rw [if_pos hb, htop hi]
  · obtain ⟨hz, hl, ha, hs⟩ := hf
    rw [if_neg hb, if_pos (by simp [hz, hl, ha, hs])]
  · have hno : (z && F.lane && a != 0 && a < 2 ^ F.fb) = false := by
      by_contra h
      simp only [Bool.not_eq_false, Bool.and_eq_true, bne_iff_ne, decide_eq_true_eq] at h
      obtain ⟨⟨⟨hz, hl⟩, ha⟩, hs⟩ := h
      exact hf ⟨hz, hl, ha, hs⟩
    have hle : a ≤ F.top := not_lt.mp hb
    rw [if_neg hb, hno, if_neg Bool.false_ne_true]
    refine ⟨⟨_, _, Fmt.value_make hF hle neg⟩, Fmt.make_lt (hle.trans_lt hF.top_lt) neg, ?_, fun h => ?_, fun h ht => ?_, fun h ht => ?_⟩
    · rw [Fmt.rat_value_make hF hle neg]
      cases neg <;> simp
    · simp [h, flagIf]
    · simp [Bool.eq_true_of_not_eq_false (hinexact.not.mp h), ht, flagIf]
    · simp [Bool.eq_true_of_not_eq_false (hinexact.not.mp h), ht, flagIf]

/-- A number that the format holds is rounded to itself, without a flag, unless it is flushed. -/
theorem Fmt.Rounds.of_held {v : ℝ} {r : Res} (hr : F.Rounds z mode neg v r) (hF : F.Sound) {n q : ℤ} (hv : v = n * (2 : ℝ) ^ q)
    (hn : |(n : ℝ)| < (2 : ℝ) ^ (F.fb + 1)) (hq : F.emin - F.fb ≤ q) (htop : |v| ≤ F.real F.top)
    (hz : z = false ∨ F.lane = false ∨ (2 : ℝ) ^ F.emin ≤ |v|) :
    ∃ a ≤ F.top, r = ⟨F.make neg a, 0⟩ ∧ ((F.value (F.make neg a)).rat : ℝ) = v := by
  obtain ⟨hzero, hround⟩ := hr
  rcases eq_or_ne v 0 with h0 | h0
  · obtain rfl := hzero h0
    refine ⟨0, Nat.zero_le _, rfl, ?_⟩
    rw [Fmt.rat_value_make hF (Nat.zero_le _), F.real_zero, h0]
    simp
  · obtain ⟨e, w, -, -, hlow, hmakes, -, -, -, hin⟩ := hround h0
    have hle : e - F.fb ≤ q := by
      rcases hlow with rfl | hlow
      · exact hq
      · have hlt : (2 : ℝ) ^ e < (2 : ℝ) ^ (((F.fb + 1 : ℕ) : ℤ) + q) := by
          rw [zpow_add₀ (by norm_num), zpow_natCast]
          refine hlow.trans_lt ?_
          rw [hv, abs_mul, abs_of_pos (a := (2 : ℝ) ^ q) (by positivity)]
          gcongr
        have := (zpow_lt_zpow_iff_right₀ (by norm_num)).mp hlt
        push_cast at this
        omega
    obtain ⟨j, hj⟩ := Int.eq_ofNat_of_zero_le (sub_nonneg.mpr hle)
    have hint : v / (2 : ℝ) ^ (e - F.fb) = ((n * 2 ^ j : ℤ) : ℝ) := by
      rw [hv, mul_div_assoc, ← zpow_sub₀ (by norm_num), hj, zpow_natCast]
      push_cast
      rfl
    rw [hint] at hmakes
    have hx : (w : ℝ) * (2 : ℝ) ^ (e - F.fb) = v := by
      rw [hmakes.eq_of_int, ← hint, div_mul_cancel₀ _ (by positivity)]
    rw [hx] at hin
    have hbeyond : ¬((F.value F.top).rat : ℝ) < |v| := by rw [Fmt.rat_value_top hF]; exact not_lt.mpr htop
    have hflush : ¬(z = true ∧ F.lane = true ∧ w ≠ 0 ∧ |v| < (2 : ℝ) ^ F.emin) := by
      rintro ⟨h1, h2, -, h4⟩
      rcases hz with h | h | h
      · simp [h] at h1
      · simp [h] at h2
      · exact absurd h4 (not_lt.mpr h)
    obtain ⟨⟨k, e', hvalue⟩, hbits, hrat, hfl, -, -⟩ := hin hbeyond hflush
    obtain ⟨hmag, hmake⟩ := Fmt.eq_make_of_value_fin hF hbits hvalue
    refine ⟨F.mag r.bits, hmag, ?_, by rwa [← hmake]⟩
    rw [← hmake, ← hfl rfl]

/-- The value of a finite encoding rounds to the encoding, in any mode. -/
theorem Fmt.round_value (hF : F.Sound) (mode : Mode) (n : Bool) {a : Nat} (ha : a ≤ F.top) :
    F.round false mode n (F.sig a) (F.emin - F.fb + F.expo a) = ⟨F.make n a, 0⟩ := by
  obtain ⟨hlt, hge⟩ := F.sig_bounds a
  have hsplit := F.expo_add_sig a
  rcases eq_or_ne (F.sig a) 0 with h0 | h0
  · have hexpo : F.expo a = 0 := hge.resolve_right (by have := Nat.two_pow_pos F.fb; omega)
    have ha0 : a = 0 := by rw [← hsplit, h0, hexpo, Nat.zero_mul]
    rw [h0, ha0]
    rfl
  · have hlog : Nat.log2 (F.sig a) ≤ F.fb := Nat.le_of_lt_succ ((Nat.log2_lt h0).mpr hlt)
    have hexpo : F.roundExpo (F.sig a) (F.emin - F.fb + F.expo a) = F.emin + F.expo a := by
      rcases hge with hk | hk
      · rw [Fmt.roundExpo, hk, max_eq_right (by omega)]
        omega
      · have : F.fb ≤ Nat.log2 (F.sig a) := (Nat.le_log2 h0).mpr hk
        rw [Fmt.roundExpo, max_eq_left (by omega)]
        omega
    have hsig : F.roundSig mode n (F.sig a) (F.emin - F.fb + F.expo a) = (F.sig a, false) := by
      rw [Fmt.roundSig, hexpo, roundTo, if_pos (by omega), show F.emin - F.fb + F.expo a - (F.emin + F.expo a - F.fb) = 0 by ring]
      simp
    have hmag : F.roundMag mode n (F.sig a) (F.emin - F.fb + F.expo a) = a := by
      rw [Fmt.roundMag, hexpo, hsig, show (F.emin + F.expo a - F.emin).toNat = F.expo a by omega, hsplit]
    rw [Fmt.round_eq hF h0, hmag, hsig, if_neg (not_lt.mpr ha)]
    simp [flagIf]

/-- A value of a format with infinities, but for a NaN, rounds to an encoding of itself. -/
theorem Fmt.value_roundV_value (hF : F.Sound) (hi : F.ieee = true) (mode : Mode) {b : Nat} (hb : (F.value b).isNan = false) :
    F.value (F.roundV false mode (F.value b)).bits = F.value b ∧ (F.roundV false mode (F.value b)).bits < 2 ^ (F.sp + 1) := by
  rcases Nat.lt_or_ge F.top (F.mag b) with h | h
  · rw [Fmt.value_of_top_lt hF h, hi, if_pos rfl] at hb ⊢
    by_cases hinf : F.mag b = F.infinity
    · rw [if_pos hinf]
      exact ⟨Fmt.value_make_infinity hF hi _, Fmt.make_lt F.infinity_lt _⟩
    · rw [if_neg hinf] at hb
      cases hb
  · rw [Fmt.value_of_mag_le hF h, Fmt.roundV, Fmt.round_value hF mode _ h]
    exact ⟨Fmt.value_make hF h _, Fmt.make_lt (Fmt.mag_lt b) _⟩

end

end Sys2Proof.Machine

/-!
The formats read as their tables (O60, R73): fields of an encoding, then each row of the table.
-/
namespace Sys2Proof.Machine

section
variable {F : Fmt}

/-- The magnitude of an encoding by its exponent and fraction fields. -/
theorem Fmt.mag_fields (F : Fmt) (x : Nat) :
    F.mag x = x / 2 ^ F.fb % 2 ^ F.eb * 2 ^ F.fb + x % 2 ^ F.fb := by
  rw [Fmt.mag, Fmt.sp, Nat.add_comm, pow_add, Nat.mod_mul, Nat.mul_comm, Nat.add_comm]

/-- The number of a magnitude with exponent field 0 is its fraction, in units of the smallest subnormal number (R73). -/
theorem Fmt.real_subnormal {f : Nat} (hf : f < 2 ^ F.fb) : F.real f = (2 : ℚ) ^ (1 - (F.bias : ℤ)) * ((f : ℚ) / 2 ^ F.fb) := by
  have h := F.real_of_carry (k := 0) (w := f) (by rw [pow_succ]; omega) (.inl rfl)
  simp only [Nat.zero_mul, Nat.zero_add, Nat.cast_zero, add_zero] at h
  rw [h, zpow_sub₀ (by norm_num), zpow_natCast, Fmt.emin]
  ring
/-- With another exponent field E it is 2^(E − bias) × (1 + fraction / 2^FracBits) (R73). -/
theorem Fmt.real_normal {E f : Nat} (hE : E ≠ 0) (hf : f < 2 ^ F.fb) :
    F.real (E * 2 ^ F.fb + f) = (2 : ℚ) ^ ((E : ℤ) - F.bias) * (1 + (f : ℚ) / 2 ^ F.fb) := by
  obtain ⟨k, rfl⟩ := Nat.exists_eq_succ_of_ne_zero hE
  have hsplit : k.succ * 2 ^ F.fb + f = k * 2 ^ F.fb + (2 ^ F.fb + f) := by rw [Nat.succ_mul]; ring
  rw [hsplit, Fmt.real_of_carry (by rw [pow_succ]; omega) (.inr (by omega))]
  have hexp : F.emin - F.fb + k = ((k.succ : ℕ) : ℤ) - F.bias - F.fb := by simp only [Fmt.emin]; push_cast; ring
  rw [hexp, zpow_sub₀ (by norm_num) _ (F.fb : ℤ), zpow_natCast]
  push_cast
  field_simp

/-- The exponent field is all ones where that stands for no number: of E4M3 only with every fraction bit set, of E2M1 never (R73). -/
def Fmt.Special (F : Fmt) (x : Nat) : Prop :=
  x / 2 ^ F.fb % 2 ^ F.eb = 2 ^ F.eb - 1 ∧ F ≠ e2m1 ∧ (F = e4m3 → x % 2 ^ F.fb = 7)
theorem Fmt.special_iff (hF : F ∈ formats) (x : Nat) : F.Special x ↔ F.top < F.mag x := by
  have hE := Nat.mod_lt (x / 2 ^ F.fb) (Nat.two_pow_pos F.eb)
  have hf := Nat.mod_lt x (Nat.two_pow_pos F.fb)
  rw [Fmt.Special, Fmt.mag_fields]
  generalize x / 2 ^ F.fb % 2 ^ F.eb = E at *
  generalize x % 2 ^ F.fb = f at *
  simp only [formats, List.mem_cons, List.not_mem_nil, or_false] at hF
  rcases hF with rfl | rfl | rfl | rfl | rfl | rfl | rfl
  all_goals
    simp [fp64, fp32, fp16, bf16, e4m3, e5m2, e2m1] at hE hf ⊢
    omega

/-- Only E4M3 and E2M1 have no infinities (R73). -/
theorem Fmt.ieee_iff (hF : F ∈ formats) : F.ieee = true ↔ F ≠ e4m3 ∧ F ≠ e2m1 := by
  revert F
  decide

/-- An encoding reads by its fields (R73, R75). -/
theorem Fmt.reads_fields (hF : F ∈ formats) (x : Nat) :
    let E := x / 2 ^ F.fb % 2 ^ F.eb
    let f := x % 2 ^ F.fb
    let sign : ℚ := if F.sign x then -1 else 1
    let is (v : ℚ) : Prop := (F.value x).isFin = true ∧ (F.value x).neg = F.sign x ∧ (F.value x).rat = sign * v
    (E = 0 → is ((2 : ℚ) ^ (1 - (F.bias : ℤ)) * ((f : ℚ) / 2 ^ F.fb))) ∧
    (E ≠ 0 → ¬F.Special x → is ((2 : ℚ) ^ ((E : ℤ) - F.bias) * (1 + (f : ℚ) / 2 ^ F.fb))) ∧
    (F.Special x → F = e4m3 ∨ f ≠ 0 →
      (F.value x).isNan = true ∧ (F.value x).isSig = (decide (F ≠ e4m3) && !f.testBit (F.fb - 1))) ∧
    (F.Special x → F ≠ e4m3 → f = 0 → F.value x = .inf (F.sign x)) := by
  intro E f sign is
  have hS := sound_of_mem_formats hF
  have hf : f < 2 ^ F.fb := Nat.mod_lt _ (Nat.two_pow_pos _)
  have hmag : F.mag x = E * 2 ^ F.fb + f := F.mag_fields x
  have hfin {v : ℚ} (hle : F.mag x ≤ F.top) (hv : F.real (F.mag x) = v) : is v := by
    refine ⟨?_, ?_, by rw [Fmt.rat_value hS hle, hv]⟩
    · rw [Fmt.value_of_mag_le hS hle]; rfl
    · rw [Fmt.value_of_mag_le hS hle]; rfl
  refine ⟨fun hE => ?subnormal, fun hE hs => ?normal, fun hs hn => ?nan, fun hs h4 h0 => ?infinity⟩
  case subnormal =>
    have hm : F.mag x = f := by rw [hmag, hE, Nat.zero_mul, Nat.zero_add]
    exact hfin (by rw [hm]; exact hf.le.trans hS.le_top) (by rw [hm]; exact Fmt.real_subnormal hf)
  case normal => exact hfin (not_lt.mp ((Fmt.special_iff hF x).not.mp hs)) (hmag ▸ Fmt.real_normal hE hf)
  case nan =>
    rw [Fmt.value_of_top_lt hS ((Fmt.special_iff hF x).mp hs)]
    by_cases h4 : F = e4m3
    · subst h4; exact ⟨rfl, rfl⟩
    · have hne : F.mag x ≠ F.infinity := by
        have hE : E = 2 ^ F.eb - 1 := hs.1
        have hf0 := hn.resolve_left h4
        rw [hmag, hE, Fmt.infinity]
        omega
      have hbit : (F.mag x).testBit (F.fb - 1) = f.testBit (F.fb - 1) := by
        have hlt : F.fb - 1 < F.fb := Nat.sub_lt hS.fb_pos one_pos
        simp only [f, Fmt.mag, Nat.testBit_mod_two_pow, hlt, decide_true, Bool.true_and, Fmt.sp, show F.fb - 1 < F.eb + F.fb by omega]
      simp only [(Fmt.ieee_iff hF).mpr ⟨h4, hs.2.1⟩, if_true, hne, if_false, hbit]
      exact ⟨rfl, by simp [FV.isSig, h4]⟩
  case infinity =>
    have hE : E = 2 ^ F.eb - 1 := hs.1
    rw [Fmt.value_of_top_lt hS ((Fmt.special_iff hF x).mp hs), (Fmt.ieee_iff hF).mpr ⟨h4, hs.2.1⟩, if_pos rfl, if_pos]
    rw [hmag, hE, h0, Nat.add_zero, Fmt.infinity]

/-- The largest finite number, the smallest normal and the smallest subnormal number, and the bound of all numbers (R73). -/
theorem Fmt.extremes (hF : F.Sound) {top : ℚ} {min sub : ℤ} (htop : F.real F.top = top) (hmin : F.emin = min) (hsub : F.emin - F.fb = sub) :
    (F.value F.top).rat = top ∧ (F.value (2 ^ F.fb)).rat = (2 : ℚ) ^ min ∧ (F.value 1).rat = (2 : ℚ) ^ sub ∧
      ∀ x, x < 2 ^ (F.sp + 1) → |(F.value x).rat| ≤ top := by
  have hone : F.real 1 = (2 : ℚ) ^ (F.emin - F.fb) := by
    have h := F.real_of_carry (k := 0) (w := 1) Nat.one_le_two_pow (.inl rfl)
    simpa using h
  have h1 : (1 : Nat) ≤ F.top := Nat.one_le_two_pow.trans hF.le_top
  subst htop hmin hsub
  refine ⟨Fmt.rat_value_top hF, ?_, ?_, fun x _ => Fmt.abs_rat_value_le hF x⟩
  · simpa [Fmt.make, F.real_two_pow_fb] using Fmt.rat_value_make hF hF.le_top false
  · simpa [Fmt.make, hone] using Fmt.rat_value_make hF h1 false
end

/-- The table's largest value of a format whose last exponent field stands for no finite number (R73). -/
theorem Fmt.real_last_binade {F : Fmt} {E : Nat} (hE : E ≠ 0) :
    F.real (E * 2 ^ F.fb + (2 ^ F.fb - 1)) = (2 - (2 : ℚ) ^ (-(F.fb : ℤ))) * (2 : ℚ) ^ ((E : ℤ) - F.bias) := by
  have hpos := Nat.two_pow_pos F.fb
  rw [Fmt.real_normal hE (by omega), Nat.cast_sub hpos, zpow_neg, zpow_natCast]
  push_cast
  field_simp
  ring

/-- The largest value of E4M3, whose last exponent field keeps its finite numbers (R73). -/
theorem e4m3_real_top : e4m3.real e4m3.top = 448 :=
  (e4m3.real_normal (E := 15) (f := 6) (by decide) (by decide)).trans (by norm_num [e4m3])

/-- An E8M0 code E multiplies by 2^(E − 127) (R73, R84). -/
theorem dequantise_e2m1_one (E : Nat) (hE : E < 255) :
    ∃ a < 2 ^ 31, (QFmt.fl e2m1).dequantise false E 2 = ⟨a, 0⟩ ∧ (fp32.value a).rat = (2 : ℚ) ^ (E - 127 : ℤ) := by
  have hround : (QFmt.fl e2m1).dequantise false E 2 = fp32.round false .rne false 2 (-1 + E - 127) := by
    have hv : (QFmt.fl e2m1).value 2 = .fin false 2 (-1) := by decide
    simp only [QFmt.dequantise, hv, beq_eq_false_iff_ne.mpr hE.ne, Bool.false_eq_true, if_false]
  have hrat : ((FV.fin false 2 (-1 + E - 127)).rat : ℝ) = ((1 : ℤ) : ℝ) * (2 : ℝ) ^ (E - 127 : ℤ) := by
    rw [FV.rat_fin, show (-1 + E - 127 : ℤ) = (E - 127 : ℤ) - 1 by ring, zpow_sub_one₀ (by norm_num)]
    push_cast [signFactor_false]
    ring
  have htop : fp32.real fp32.top = (2 - (2 : ℚ) ^ (-23 : ℤ)) * (2 : ℚ) ^ (127 : ℤ) := fp32.real_last_binade (E := 254) (by decide)
  have hpow : (2 : ℚ) ^ (E - 127 : ℤ) ≤ (2 : ℚ) ^ (127 : ℤ) := zpow_le_zpow_right₀ (by norm_num) (by omega)
  have hle : |((1 : ℤ) : ℝ) * (2 : ℝ) ^ (E - 127 : ℤ)| ≤ fp32.real fp32.top := by
    rw [Int.cast_one, one_mul, abs_of_pos (by positivity), htop]
    have h := Rat.cast_le (K := ℝ) |>.mpr (hpow.trans (le_mul_of_one_le_left (by positivity) (by norm_num : (1 : ℚ) ≤ 2 - 2 ^ (-23 : ℤ))))
    rwa [Rat.cast_zpow, Rat.cast_ofNat] at h
  rw [hround]
  obtain ⟨a, ha, hr, hv⟩ := (fp32.round_rounds fp32_sound false .rne false 2 (-1 + E - 127)).of_held fp32_sound hrat
    (by norm_num [fp32]) (by simp only [fp32, Fmt.emin]; omega) (by rwa [hrat]) (.inl rfl)
  refine ⟨a, ha.trans_lt fp32_sound.top_lt, hr, ?_⟩
  rw [hrat, Int.cast_one, one_mul] at hv
  refine Rat.cast_injective (α := ℝ) ?_
  rw [Rat.cast_zpow, Rat.cast_ofNat]
  exact hv

/-- Settles O60: the fields of an encoding and the extreme values of a format hold for every format of the table; a scale is a held number. -/
theorem formatsReadAsTheirTables : Obligations.FormatsReadAsTheirTables := by
  unfold Obligations.FormatsReadAsTheirTables
  refine ⟨fun F width eb fb bias hrow x _ => ?fields, fun F top min sub hrow => ?extremes, ?e4m3, ?e2m1, fun E hE => ?scale, by decide⟩
  case fields =>
    have hF : F ∈ formats := List.mem_map_of_mem (f := fun row => row.1) hrow
    simp only [List.mem_cons, List.not_mem_nil, or_false, Prod.mk.injEq] at hrow
    rcases hrow with ⟨rfl, rfl, rfl, rfl, rfl⟩ | ⟨rfl, rfl, rfl, rfl, rfl⟩ | ⟨rfl, rfl, rfl, rfl, rfl⟩ | ⟨rfl, rfl, rfl, rfl, rfl⟩ |
      ⟨rfl, rfl, rfl, rfl, rfl⟩ | ⟨rfl, rfl, rfl, rfl, rfl⟩ | ⟨rfl, rfl, rfl, rfl, rfl⟩
    all_goals exact Fmt.reads_fields hF x
  case extremes =>
    have hF := sound_of_mem_formats (List.mem_map_of_mem (f := fun row => row.1) hrow)
    simp only [List.mem_cons, List.not_mem_nil, or_false, Prod.mk.injEq] at hrow
    rcases hrow with ⟨rfl, rfl, rfl, rfl⟩ | ⟨rfl, rfl, rfl, rfl⟩ | ⟨rfl, rfl, rfl, rfl⟩ | ⟨rfl, rfl, rfl, rfl⟩ |
      ⟨rfl, rfl, rfl, rfl⟩ | ⟨rfl, rfl, rfl, rfl⟩ | ⟨rfl, rfl, rfl, rfl⟩
    · exact Fmt.extremes hF (fp64.real_last_binade (E := 2046) (by decide)) rfl rfl
    · exact Fmt.extremes hF (fp32.real_last_binade (E := 254) (by decide)) rfl rfl
    · exact Fmt.extremes hF ((fp16.real_last_binade (E := 30) (by decide)).trans (by norm_num [fp16])) rfl rfl
    · exact Fmt.extremes hF (bf16.real_last_binade (E := 254) (by decide)) rfl rfl
    · exact Fmt.extremes hF e4m3_real_top rfl rfl
    · exact Fmt.extremes hF ((e5m2.real_last_binade (E := 30) (by decide)).trans (by norm_num [e5m2])) rfl rfl
    · exact Fmt.extremes hF ((e2m1.real_last_binade (E := 3) (by decide)).trans (by norm_num [e2m1])) rfl rfl
  case e4m3 => exact (Fmt.rat_value_top (sound_of_mem_formats (F := e4m3) (by decide))).trans e4m3_real_top
  case e2m1 =>
    have hvalues : (List.range 8).map e2m1.value = [.fin false 0 (-1), .fin false 1 (-1), .fin false 2 (-1), .fin false 3 (-1), .fin false 2 0,
      .fin false 3 0, .fin false 2 1, .fin false 3 1] := by decide
    have hrats := congrArg (List.map FV.rat) hvalues
    rw [List.map_map] at hrats
    refine hrats.trans ?_
    norm_num [FV.rat]
  case scale =>
    obtain ⟨a, ha, hr, hv⟩ := dequantise_e2m1_one E hE
    rw [hr]
    exact ⟨rfl, ha, hv⟩

end Sys2Proof.Machine

/-!
Exact sums and products, the summation tree, and the statement on dot products and random numbers (O9).
-/
namespace Sys2Proof.Machine

/-! ### Exact sums (R72) -/

/-- An aligned significand stands for the number that it was taken from. -/
theorem alignTo_mul_zpow (n : Bool) (m : Nat) {e1 e : Int} (h : e ≤ e1) : (alignTo n m e1 e : ℚ) * (2 : ℚ) ^ e = (FV.fin n m e1).rat := by
  obtain ⟨j, hj⟩ := Int.eq_ofNat_of_zero_le (sub_nonneg.mpr h)
  have he : (2 : ℚ) ^ e1 = 2 ^ j * (2 : ℚ) ^ e := by rw [← zpow_natCast, ← zpow_add₀ (by norm_num)]; congr 1; omega
  cases n <;> simp [alignTo, hj, FV.rat, he] <;> ring

/-- A finite number of a nonzero significand is none but zero. -/
theorem FV.rat_eq_zero_iff (n : Bool) (m : Nat) (e : Int) : (FV.fin n m e).rat = 0 ↔ m = 0 := by
  have : (2 : ℚ) ^ e ≠ 0 := by positivity
  cases n <;> simp [FV.rat, this]
/-- Its sign is that of its number. -/
theorem FV.sign_of_rat (n : Bool) (m : Nat) (e : Int) : ((FV.fin n m e).rat < 0 → n = true) ∧ (0 < (FV.fin n m e).rat → n = false) := by
  have : (0 : ℚ) ≤ m * (2 : ℚ) ^ e := by positivity
  cases n <;> simp [FV.rat, this]

/-- A number as its sign with its magnitude. -/
theorem FV.rat_natAbs (x : Int) (e : Int) : (FV.fin (x < 0) x.natAbs e).rat = x * (2 : ℚ) ^ e := by
  rcases lt_or_ge x 0 with h | h
  · have hx : (x.natAbs : ℚ) = -x := by rw [← Int.cast_natCast, Int.ofNat_natAbs_of_nonpos h.le, Int.cast_neg]
    simp [FV.rat, h, hx]
  · have hx : (x.natAbs : ℚ) = x := by rw [← Int.cast_natCast, Int.natAbs_of_nonneg h]
    simp [FV.rat, not_lt.mpr h, hx]

/-- The exact sum of finite numbers with its sign: of a zero sum it is that of both operands, or + where they differ, − toward −∞ (R72). -/
theorem addFin_spec (mode : Mode) (n1 : Bool) (m1 : Nat) (e1 : Int) (n2 : Bool) (m2 : Nat) (e2 : Int) :
    let v := (FV.fin n1 m1 e1).rat + (FV.fin n2 m2 e2).rat
    ∃ n m e, addFin mode n1 m1 e1 n2 m2 e2 = .fin n m e ∧ (FV.fin n m e).rat = v ∧ (v < 0 → n = true) ∧ (0 < v → n = false) ∧
      (v = 0 → n = if n1 = n2 then n1 else mode == .rdn) := by
  intro v
  have hnonzero {n : Bool} {m : Nat} {e : Int} (hm : m ≠ 0) (hv : (FV.fin n m e).rat = v) : (FV.fin n m e).rat = v ∧ (v < 0 → n = true) ∧
      (0 < v → n = false) ∧ (v = 0 → n = if n1 = n2 then n1 else mode == .rdn) := by
    obtain ⟨hneg, hpos⟩ := FV.sign_of_rat n m e
    rw [hv] at hneg hpos
    exact ⟨hv, hneg, hpos, fun h => absurd ((FV.rat_eq_zero_iff n m e).mp (hv.trans h)) hm⟩
  have hrat0 (n : Bool) (e : Int) : (FV.fin n 0 e).rat = 0 := (FV.rat_eq_zero_iff n 0 e).mpr rfl
  rcases eq_or_ne m1 0 with rfl | h1
  · rcases eq_or_ne m2 0 with rfl | h2
    · have hv : v = 0 := by simp only [v, hrat0, add_zero]
      refine ⟨if n1 = n2 then n1 else mode == .rdn, 0, 0, by simp [addFin], by rw [hrat0, hv], ?_, ?_, fun _ => rfl⟩ <;> simp [hv]
    · exact ⟨n2, m2, e2, by simp [addFin, h2], hnonzero h2 (by simp only [v, hrat0, zero_add])⟩
  rcases eq_or_ne m2 0 with rfl | h2
  · exact ⟨n1, m1, e1, by simp [addFin, h1], hnonzero h1 (by simp only [v, hrat0, add_zero])⟩
  have hsum : ((alignTo n1 m1 e1 (min e1 e2) + alignTo n2 m2 e2 (min e1 e2) : ℤ) : ℚ) * (2 : ℚ) ^ min e1 e2 = v := by
    push_cast
    rw [add_mul, alignTo_mul_zpow _ _ (min_le_left _ _), alignTo_mul_zpow _ _ (min_le_right _ _)]
  simp only [addFin, beq_eq_false_iff_ne.mpr h1, beq_eq_false_iff_ne.mpr h2, Bool.and_self, Bool.false_eq_true, if_false, beq_iff_eq]
  generalize alignTo n1 m1 e1 (min e1 e2) + alignTo n2 m2 e2 (min e1 e2) = x at *
  rcases eq_or_ne x 0 with rfl | hx
  · have hv : v = 0 := by rw [← hsum, Int.cast_zero, zero_mul]
    have hne : n1 ≠ n2 := by
      rintro rfl
      have hp1 : (0 : ℚ) < m1 * (2 : ℚ) ^ e1 := by positivity
      have hp2 : (0 : ℚ) < m2 * (2 : ℚ) ^ e2 := by positivity
      cases n1 <;> simp only [v, FV.rat, if_true, Bool.false_eq_true, if_false] at hv <;> linarith
    refine ⟨mode == .rdn, 0, 0, if_pos rfl, by rw [hrat0, hv], ?_, ?_, fun _ => by rw [if_neg hne]⟩ <;> simp [hv]
  · exact ⟨_, _, _, if_neg hx, hnonzero (Int.natAbs_ne_zero.mpr hx) ((FV.rat_natAbs x _).trans hsum)⟩

/-! ### Nodes of the tree (R87) -/

/-- The product of finite numbers is exact. -/
theorem FV.rat_mulFin (n1 : Bool) (m1 : Nat) (e1 : Int) (n2 : Bool) (m2 : Nat) (e2 : Int) :
    (FV.fin (n1 ^^ n2) (m1 * m2) (e1 + e2)).rat = (FV.fin n1 m1 e1).rat * (FV.fin n2 m2 e2).rat := by
  cases n1 <;> cases n2 <;> simp [FV.rat, zpow_add₀] <;> ring

theorem FV.eq_inf_of_isInf {x : FV} (h : x.isInf = true) : ∃ n, x = .inf n := by
  cases x with
  | inf n => exact ⟨n, rfl⟩
  | _ => cases h
theorem FV.eq_fin_of_isFin {x : FV} (h : x.isFin = true) : ∃ n m e, x = .fin n m e := by
  cases x with
  | fin n m e => exact ⟨n, m, e, rfl⟩
  | _ => cases h
theorem FV.eq_zero_of_isZero {x : FV} (h : x.isZero = true) : ∃ n e, x = .fin n 0 e := by
  cases x with
  | fin n m e => exact ⟨n, e, by rw [eq_of_beq h]⟩
  | _ => cases h

/-- An infinity times what is no NaN and no zero, on either side. -/
theorem product_inf (n : Bool) {y : FV} (hn : y.isNan = false) (hz : y.isZero = false) :
    product (.inf n) y = ⟨.inf (n ^^ y.neg), 0⟩ ∧ product y (.inf n) = ⟨.inf (y.neg ^^ n), 0⟩ := by
  cases y with
  | nan s => cases hn
  | inf n' => exact ⟨rfl, rfl⟩
  | fin n' m e =>
    have hm : (m == 0) = false := hz
    simp [product, FV.isNan, FV.mul?, FV.neg, hm]

/-- A product: of a NaN or of zero and infinity it is the default NaN, of another infinity an infinity, of numbers exact (R87). -/
theorem product_spec (x y : FV) :
    (x.isNan = true ∨ y.isNan = true → product x y = ⟨.nan false, if x.isSig || y.isSig then fSNaN else 0⟩) ∧
    ((x.isInf = true ∧ y.isZero = true) ∨ (x.isZero = true ∧ y.isInf = true) → product x y = ⟨.nan false, fNV⟩) ∧
    ((x.isInf = true ∧ y.isNan = false ∧ y.isZero = false) ∨ (y.isInf = true ∧ x.isNan = false ∧ x.isZero = false) →
      product x y = ⟨.inf (x.neg ^^ y.neg), 0⟩) ∧
    (x.isFin = true → y.isFin = true → ∃ m e, product x y = ⟨.fin (x.neg ^^ y.neg) m e, 0⟩ ∧
      (FV.fin (x.neg ^^ y.neg) m e).rat = x.rat * y.rat) := by
  refine ⟨fun h => ?nan, ?invalid, ?inf, fun hx hy => ?fin⟩
  case nan =>
    have hn : (x.isNan || y.isNan) = true := by simpa using h
    simp [product, hn, flagIf]
  case invalid =>
    rintro (⟨hx, hy⟩ | ⟨hx, hy⟩)
    · obtain ⟨n, rfl⟩ := FV.eq_inf_of_isInf hx
      obtain ⟨n', e, rfl⟩ := FV.eq_zero_of_isZero hy
      rfl
    · obtain ⟨n, e, rfl⟩ := FV.eq_zero_of_isZero hx
      obtain ⟨n', rfl⟩ := FV.eq_inf_of_isInf hy
      rfl
  case inf =>
    rintro (⟨hx, hn, hz⟩ | ⟨hy, hn, hz⟩)
    · obtain ⟨n, rfl⟩ := FV.eq_inf_of_isInf hx
      exact (product_inf n hn hz).1
    · obtain ⟨n, rfl⟩ := FV.eq_inf_of_isInf hy
      exact (product_inf n hn hz).2
  case fin =>
    obtain ⟨n1, m1, e1, rfl⟩ := FV.eq_fin_of_isFin hx
    obtain ⟨n2, m2, e2, rfl⟩ := FV.eq_fin_of_isFin hy
    exact ⟨_, _, rfl, FV.rat_mulFin ..⟩

theorem fp32_value_make_infinity (n : Bool) : fp32.value (fp32.make n fp32.infinity) = .inf n := Fmt.value_make_infinity fp32_sound rfl n

/-- A sum of no NaNs that is no ∞ − ∞ is the exact one rounded to FP32 (R87). -/
theorem addNode_of_add {x y v : FV} (h : x.add? .rne y = some v) : addNode x y = (fp32.roundV false .rne v).node := by
  have hn : (x.isNan || y.isNan) = false := by
    cases x with
    | nan _ => cases h
    | _ =>
      cases y with
      | nan _ => cases h
      | _ => rfl
  simp [addNode, hn, h]

/-- A sum: of a NaN or of opposite infinities it is the default NaN, of another infinity that infinity, of numbers the exact sum rounded
once to FP32 (R87). -/
theorem addNode_spec (x y : FV) :
    (x.isNan = true ∨ y.isNan = true → addNode x y = ⟨.nan false, 0⟩) ∧
    (∀ n, x = .inf n → y = .inf (!n) → addNode x y = ⟨.nan false, fNV⟩) ∧
    (∀ n, x = .inf n → y.isFin = true ∨ y = .inf n → addNode x y = ⟨.inf n, 0⟩ ∧ addNode y x = ⟨.inf n, 0⟩) ∧
    (x.isFin = true → y.isFin = true →
      let v : ℝ := ((x.rat + y.rat : ℚ) : ℝ)
      ∃ n r, fp32.Rounds false .rne n v r ∧ addNode x y = ⟨fp32.value r.bits, r.fl⟩ ∧ (v < 0 → n = true) ∧ (0 < v → n = false) ∧
        (v = 0 → n = (x.neg && y.neg))) := by
  refine ⟨fun h => ?nan, ?opposite, ?inf, fun hx hy => ?fin⟩
  case nan =>
    have hn : (x.isNan || y.isNan) = true := by simpa using h
    simp [addNode, hn]
  case opposite =>
    rintro n rfl rfl
    cases n <;> rfl
  case inf =>
    have hnode (n : Bool) : (fp32.roundV false .rne (.inf n)).node = ⟨.inf n, 0⟩ := by
      rw [Res.node, Fmt.roundV, fp32_value_make_infinity]
    rintro n rfl (hy | rfl)
    · obtain ⟨n', m, e, rfl⟩ := FV.eq_fin_of_isFin hy
      exact ⟨(addNode_of_add rfl).trans (hnode n), (addNode_of_add rfl).trans (hnode n)⟩
    · have hadd : (FV.inf n).add? .rne (.inf n) = some (.inf n) := by simp [FV.add?]
      exact ⟨(addNode_of_add hadd).trans (hnode n), (addNode_of_add hadd).trans (hnode n)⟩
  case fin =>
    obtain ⟨n1, m1, e1, rfl⟩ := FV.eq_fin_of_isFin hx
    obtain ⟨n2, m2, e2, rfl⟩ := FV.eq_fin_of_isFin hy
    obtain ⟨n, m, e, hsum, hrat, hneg, hpos, hzero⟩ := addFin_spec .rne n1 m1 e1 n2 m2 e2
    refine ⟨n, fp32.round false .rne n m e, hrat ▸ fp32.round_rounds fp32_sound false .rne n m e, ?_, ?_, ?_, ?_⟩
    · exact addNode_of_add (x := .fin n1 m1 e1) (y := .fin n2 m2 e2) (v := .fin n m e) (congrArg some hsum)
    · exact fun h => hneg (by exact_mod_cast h)
    · exact fun h => hpos (by exact_mod_cast h)
    · intro h
      rw [hzero (by exact_mod_cast h)]
      cases n1 <;> cases n2 <;> rfl

/-- What a sum leaves, but for a NaN, is a value that FP32 holds. -/
theorem addNode_held (x y : FV) (h : (addNode x y).v.isNan = false) : ∃ b, (addNode x y).v = fp32.value b := by
  cases hn : x.isNan || y.isNan with
  | true =>
    have hv : (addNode x y).v = .nan false := by simp only [addNode, hn, if_true]
    rw [hv] at h
    cases h
  | false =>
    cases ha : x.add? .rne y with
    | none =>
      have hv : (addNode x y).v = .nan false := by simp only [addNode, hn, ha, Bool.false_eq_true, if_false]
      rw [hv] at h
      cases h
    | some v => exact ⟨_, congrArg Node.v (addNode_of_add ha)⟩

/-! ### The tree and the block sum (R84, R87) -/

/-- One level of the tree, by position. -/
theorem addPairs_eq (k : Nat) (ps : List Node) (h : ps.length = 2 * k) :
    addPairs ps = (List.range k).map fun i =>
      let x := ps.getD (2 * i) ⟨.nan false, 0⟩
      let y := ps.getD (2 * i + 1) ⟨.nan false, 0⟩
      ⟨(addNode x.v y.v).v, (addNode x.v y.v).fl ||| x.fl ||| y.fl⟩ := by
  induction k generalizing ps with
  | zero => rw [List.length_eq_zero_iff.mp h]; rfl
  | succ k ih =>
    match ps, h with
    | x :: y :: r, h =>
      rw [addPairs, ih r (by simp only [List.length_cons] at h; omega), List.range_succ_eq_map, List.map_cons, List.map_map]
      rfl

/-- The block sum where the tree leaves one node (R84). -/
theorem blockSum_spec {j : Nat} {ps : List Node} {n : Node} (h : tree j ps = [n]) (ea eb : Nat) :
    (ea = 255 ∨ eb = 255 → blockSum j ps ea eb = ⟨.nan false, n.fl ||| fNV⟩) ∧
    (ea ≠ 255 → eb ≠ 255 → (n.v.isFin = false → blockSum j ps ea eb = n) ∧
      (n.v.isFin = true → ∃ r, fp32.Rounds false .rne n.v.neg ((n.v.rat : ℝ) * (2 : ℝ) ^ (ea - 127 : ℤ) * (2 : ℝ) ^ (eb - 127 : ℤ)) r ∧
        blockSum j ps ea eb = ⟨fp32.value r.bits, r.fl ||| n.fl⟩)) := by
  obtain ⟨v, fl⟩ := n
  refine ⟨fun hs => ?_, fun ha hb => ⟨fun hv => ?_, fun hv => ?_⟩⟩
  · have hs' : (ea == 255 || eb == 255) = true := by simpa using hs
    simp [blockSum, h, hs']
  · have hs : (ea == 255 || eb == 255) = false := by simp [ha, hb]
    simp only [blockSum, h, hs, Bool.false_eq_true, if_false]
    cases v with
    | fin s m e => cases hv
    | _ => rfl
  · have hs : (ea == 255 || eb == 255) = false := by simp [ha, hb]
    obtain ⟨s, m, e, rfl⟩ := FV.eq_fin_of_isFin hv
    have hrat : ((FV.fin s m e).rat : ℝ) * (2 : ℝ) ^ (ea - 127 : ℤ) * (2 : ℝ) ^ (eb - 127 : ℤ) = ((FV.fin s m (e + ea + eb - 254)).rat : ℝ) := by
      rw [FV.rat_fin, FV.rat_fin, show (e + ea + eb - 254 : ℤ) = e + (ea - 127) + (eb - 127) by ring, zpow_add₀ (by norm_num),
        zpow_add₀ (by norm_num)]
      ring
    refine ⟨_, hrat ▸ fp32.round_rounds fp32_sound false .rne s m (e + ea + eb - 254), ?_⟩
    simp only [blockSum, h, hs, Bool.false_eq_true, if_false, Res.node]

/-- The accumulator with a block sum added is the sum's node as an encoding (R88). -/
theorem accumulate_spec (acc : Nat) (s : Node) :
    let x := addNode (fp32.value acc) s.v
    let fl := x.fl ||| s.fl ||| if (fp32.value acc).isSig then fSNaN else 0
    (x.v.isNan = true → accumulate acc s = ⟨0x7FC00000, fl⟩) ∧
    (x.v.isNan = false → fp32.value (accumulate acc s).bits = x.v ∧ (accumulate acc s).bits < 2 ^ 32 ∧ (accumulate acc s).fl = fl) := by
  intro x fl
  refine ⟨fun h => ?_, fun h => ?_⟩
  · cases hv : x.v with
    | nan sig => simp only [accumulate, x, fl, flagIf] at hv ⊢; rw [hv]; rfl
    | _ => rw [hv] at h; cases h
  · have hres : accumulate acc s = ⟨(fp32.roundV false .rne x.v).bits, fl⟩ := by
      cases hv : x.v with
      | nan sig => rw [hv] at h; cases h
      | _ => simp only [accumulate, x, fl, flagIf] at hv ⊢; rw [hv]
    obtain ⟨b, hb⟩ := addNode_held _ _ h
    have hx : x.v = fp32.value b := hb
    rw [hx] at h
    obtain ⟨hvalue, hbits⟩ := Fmt.value_roundV_value fp32_sound rfl .rne h
    rw [hres, hx]
    exact ⟨hvalue, hbits, rfl⟩

/-! ### Elements and integer dot products (R89, R137) -/

/-- An integer element as a word of its width, signed. -/
theorem selem_eq {w : Nat} (hw : 0 < w) (x i : Nat) : selem x w i = (BitVec.ofNat w (x / 2 ^ (w * i))).toInt := by
  obtain ⟨k, rfl⟩ := Nat.exists_eq_succ_of_ne_zero hw.ne'
  rw [BitVec.toInt_eq_toNat_cond, BitVec.toNat_ofNat, selem, elem]
  simp only [Nat.succ_sub_one, pow_succ, Nat.succ_eq_add_one]
  by_cases h : x / 2 ^ ((k + 1) * i) % (2 ^ k * 2) ≥ 2 ^ k
  · rw [if_pos h, if_neg (by omega)]
    push_cast
    rfl
  · rw [if_neg h, if_pos (by omega)]

/-- An integer dot product is the sum of its products, modulo 2^32. -/
theorem idot_eq {w : Nat} (hw : 0 < w) (n : Nat) (x y z : Word) : idot n w x y z =
    BitVec.ofInt 32 (z.toInt + ((List.range n).map fun i =>
      (BitVec.ofNat w (x.toNat / 2 ^ (w * i))).toInt * (BitVec.ofNat w (y.toNat / 2 ^ (w * i))).toInt).sum) := by
  rw [idot, BitVec.ofInt_add, BitVec.ofInt_toInt, List.sum_eq_foldl, List.foldl_map]
  simp only [selem_eq hw]

/-- A byte of a word as an element. -/
theorem byteOf_toNat (x : Word) (i : Nat) : (byteOf x i).toNat = x.toNat / 2 ^ (8 * i) % 2 ^ 8 := by
  rw [byteOf, BitVec.extractLsb'_toNat, Nat.shiftRight_eq_div_pow]

/-! ### Random numbers (R140, R141) -/

/-- `rndf` gives the top 24 bits as a fraction (R141). -/
theorem rat_rndf (x : Word) : (fp32.value (Machine.rndf x)).rat = ((x >>> 8).toNat : ℚ) * (2 : ℚ) ^ (-24 : ℤ) := by
  have hdiv : (x >>> 8).toNat = x.toNat / 256 := by rw [BitVec.toNat_ushiftRight, Nat.shiftRight_eq_div_pow]
  have hlt : x.toNat / 256 < 2 ^ 24 := by omega
  have hrat : ((FV.fin false (x.toNat / 256) (-24)).rat : ℝ) = ((x.toNat / 256 : ℕ) : ℤ) * (2 : ℝ) ^ (-24 : ℤ) := by
    rw [FV.rat_fin, signFactor_false, Int.cast_one, one_mul, Int.cast_natCast]
  have hn : |(((x.toNat / 256 : ℕ) : ℤ) : ℝ)| < (2 : ℝ) ^ (fp32.fb + 1) := by
    rw [Int.cast_natCast, Nat.abs_cast]
    exact_mod_cast hlt
  have htop : |(((x.toNat / 256 : ℕ) : ℤ) : ℝ) * (2 : ℝ) ^ (-24 : ℤ)| ≤ fp32.real fp32.top := by
    have h1 : (1 : ℝ) ≤ fp32.real fp32.top := by
      have h := fp32.real_strictMono.monotone (show 127 * 2 ^ fp32.fb + 0 ≤ fp32.top by decide)
      rw [Fmt.real_normal (by decide) (by decide)] at h
      have h1 : (1 : ℚ) ≤ fp32.real fp32.top := by simpa [fp32] using h
      exact_mod_cast h1
    refine le_trans ?_ h1
    rw [abs_mul, abs_of_pos (a := (2 : ℝ) ^ (-24 : ℤ)) (by positivity), zpow_neg, ← div_eq_mul_inv, div_le_one (by positivity)]
    exact hn.le
  obtain ⟨a, -, hr, hv⟩ := (fp32.round_rounds fp32_sound false .rne false (x.toNat / 256) (-24)).of_held fp32_sound hrat hn
    (by decide) (by rwa [hrat]) (.inl rfl)
  rw [hrat, Int.cast_natCast] at hv
  refine Rat.cast_injective (α := ℝ) ?_
  rw [Machine.rndf, hr, hv, hdiv]
  push_cast
  rfl

/-- `Gen` is four rounds whose keys move by a constant (R140). -/
theorem gen_rounds (key ctr : DWord) : Machine.gen key ctr =
    let G2 := 0xA7E13C95D08B4F27#64
    genRound (genRound (genRound (genRound ctr key) (key + G2)) (key + G2 + G2)) (key + G2 + G2 + G2) := rfl
/-- The keys as multiples of that constant. -/
theorem gen_eq (key ctr : DWord) : Machine.gen key ctr =
    let G2 := 0xA7E13C95D08B4F27#64
    genRound (genRound (genRound (genRound ctr key) (key + G2)) (key + 2 * G2)) (key + 3 * G2) := by
  have h2 (g : DWord) : key + g + g = key + 2 * g := by ring
  have h3 (g : DWord) : key + 2 * g + g = key + 3 * g := by ring
  simp only [gen_rounds, h2, h3]

/-- Sample values of `gumbel` (R142). -/
theorem gumbel_samples : ([0, 1, 0x5E2D58D8, 0x80000000, 0x12345678, 0xFFFFFFFF].map (fun x : Word => (Machine.gumbel x).bits)) =
    [0xC04851D5, 0xC0452B66, 0xAF0CA34B, 0x3EBBA795, 0xBF78DC16, 0x41B6FDA9] := by
  decide +kernel

/-- Settles O9: the instructions are lane instructions of these functions; the functions are those of the nodes, the tree, the block sum and
the accumulator above. -/
theorem dotProductsAndRandomNumbers : Obligations.DotProductsAndRandomNumbers := by
  unfold Obligations.DotProductsAndRandomNumbers
  intro h k d a b sx idot' el dot scaled g3 f3 round G2
  have hscaled {i : Instr} {F : Fmt} {n : Nat} (hx : ∀ s, exec i s = s.fdp h F n k d a b) : scaled i F (F.sp + 1) n := by
    refine Gives.of_laneOp (fun s => hx s) rfl fun t => ?_
    simp only [byteOf_toNat]
    rfl
  refine ⟨?dp4, ?dp8, hscaled fun _ => rfl, hscaled fun _ => rfl, hscaled fun _ => rfl, ?hdp2F16, ?hdp2Bf16, ?gen, ?gumbel, ?rndf, rat_rndf,
    fun x y => ?nodes, fun j ps => ⟨rfl, fun hl => ?tree, fun n ea eb hn => blockSum_spec hn ea eb⟩, accumulate_spec, gumbel_samples⟩
  case dp4 => exact .of_laneOp (fun _ => rfl) rfl fun t => congrArg (vOut d) (idot_eq (by decide) ..)
  case dp8 => exact .of_laneOp (fun _ => rfl) rfl fun t => congrArg (vOut d) (idot_eq (by decide) ..)
  case hdp2F16 => exact .of_laneOp (fun _ => rfl) rfl fun t => rfl
  case hdp2Bf16 => exact .of_laneOp (fun _ => rfl) rfl fun t => rfl
  case gen => exact .of_laneOp (fun _ => rfl) rfl fun t => congrArg (pairOut d) (gen_eq ..)
  case gumbel | rndf => exact .of_laneOp (fun _ => rfl) rfl fun _ => rfl
  case nodes =>
    obtain ⟨p1, p2, p3, p4⟩ := product_spec x y
    exact ⟨p1, p2, p3, p4, addNode_spec x y⟩
  case tree => exact congrArg (tree j) (addPairs_eq _ ps (by rw [hl, pow_succ, Nat.mul_comm]))

end Sys2Proof.Machine

/-!
Plane accesses and updates (O24): refuted, by a unit in flight of more than a page, which takes one line under two keys.
-/
namespace Sys2Proof.Machine

/-! ### Two pages of one frame under two keys -/

/-- Cells that hold an `n`-byte value from address `a` on. -/
def cellsOf (a n x : Nat) : List Host.Cell := ((List.range n).map (a + ·)).zip (bytesOf n x)
/-- Tables of ASID 0 whose pages at 0x60000 and at 0x61000 are both the frame at 0x8000, the one under key 1, the other under key 2 (R147,
R148), and the first line of that frame, all zero. -/
def aliasMem : List Host.Cell :=
  cellsOf 0 8 0x1001 ++ cellsOf 0x1000 8 0x2001 ++ cellsOf 0x2000 8 0x3001 ++ cellsOf 0x3000 8 0x4001 ++
    cellsOf 0x4300 8 0x10000000008001 ++ cellsOf 0x4308 8 0x20000000008001 ++ cellsOf 0x8000 64 0
/-- A unit in flight that names no byte to write, and 4034 addresses: from byte 0x3F of the first page to the first byte of the second. -/
def aliasUnit : MemOp :=
  { id := 0, grp := 0, cid := 0, tid := 0, lanes := [], kind := .unit (.phys 0) [], asid := 0, va := 0,
    vas := 0x6003F :: List.replicate 4033 0, locs := [], kinds := [], got := [], acq := false, rel := false, scope := 0, pc := 0, d := 0,
    n := 32, born := 0 }
/-- The machine after reset with that unit in flight, those tables, and material of both keys loaded. -/
def aliasState : State :=
  { State.reset with
    mem := aliasMem, ops := [aliasUnit]
    parts := State.reset.parts.setIfInBounds 0
      { Part.reset with keys := 6, asidtab := 0, loaded := [(1, List.replicate 64 0), (2, List.replicate 64 1)] } }

/-- A unit that is the only operation in flight performs whole. -/
theorem State.readyPart_of_unit {s : State} {o : MemOp} {b : Loc} {bs : List Byte} (hops : s.ops = [o]) (hk : o.kind = .unit b bs) :
    s.readyPart o.id = some (o, none) := by
  have hpieces : o.pieces = [o] := by simp only [MemOp.pieces, hk]
  have hsplit : opSplit o.id s.ops = ([], some o) := by simp only [hops, opSplit, beq_self_eq_true, if_true]
  simp [State.readyPart, hsplit, hpieces, opFree, opFreeAs]

/-- Where no line is listed, a store meets no line of another key. -/
theorem State.ownLines_of_lines_nil {s : State} (h : s.lines = []) (w : Who) (va n : Nat) : s.OwnLines w va n := by
  intro line key _ m hm
  simp [State.lineOf, h] at hm

theorem aliasState_canon : aliasState.Canon := by
  obtain ⟨-, hcompanies, -, hcores⟩ := State.reset_canon
  have hparts : ∀ p ∈ aliasState.parts.toList, Memory.wf p.sync (inRanges p.zeroed) = true := by decide +kernel
  exact ⟨by decide +kernel, hcompanies, hparts, hcores⟩

/-- The first page has taken the line of 0x8000 under key 1, so the second page enciphers it anew under key 2 (R393). -/
theorem aliasUnit_changes_byte :
    (match exec (.storePerform aliasUnit.id) aliasState with
      | .next s' => s'.getLoc (.phys 0x8000) == aliasState.getLoc (.phys 0x8000)
      | _ => true) = false := by
  decide +kernel

/-- Refutes O24, in the clause on units that are written: a store may take one line under two keys, and `State.OwnLines` compares its keys
with the lines listed before it alone. A unit of more than a page whose two pages are one frame under two keys so changes a byte that it
does not name. -/
theorem not_planeAccessesAndUpdates : ¬ Obligations.PlaneAccessesAndUpdates := by
  unfold Obligations.PlaneAccessesAndUpdates
  rintro ⟨-, ⟨-, -, hunit⟩, -⟩
  have hready : aliasState.readyPart aliasUnit.id = some (aliasUnit, none) := State.readyPart_of_unit rfl rfl
  have hplain : aliasState.Plain aliasUnit.locs := ⟨List.nodup_nil, fun _ h => absurd h List.not_mem_nil, aliasState_canon⟩
  obtain ⟨s', hexec, ⟨-, hothers⟩, -⟩ := hunit aliasState aliasUnit.id aliasUnit (.phys 0) [] hready rfl
    (by simp [aliasState, MemOp.sameUnit]) rfl hplain (State.ownLines_of_lines_nil rfl _ _ _)
  have hbyte := aliasUnit_changes_byte
  simp only [hexec, hothers (.phys 0x8000) rfl List.not_mem_nil, beq_self_eq_true, Bool.true_eq_false] at hbyte

end Sys2Proof.Machine

/-!
Integer arithmetic, logic, shifts and rotations (O1): sums, orders and rotations of words as those of their numbers.
-/
namespace Sys2Proof.Machine

/-- The sum of `iaddc` with its carry (R107). -/
theorem iaddc_sum (x y : Word) (c : Bool) :
    let sum := x.setWidth 33 + y.setWidth 33 + (if c then 1 else 0)
    let n := x.toNat + y.toNat + (if c then 1 else 0)
    (sum.setWidth 32).setWidth 64 = BitVec.ofNat 64 (n % 2 ^ 32) ∧ (if sum.getLsbD 32 then 1 else 0) = BitVec.ofNat 64 (n / 2 ^ 32) := by
  intro sum n
  have hx := x.isLt
  have hy := y.isLt
  have hcarry : n / 2 ^ 32 < 2 := by simp only [n]; split <;> omega
  have hn : sum.toNat = n := by
    have hc : (if c then 1 else 0 : BitVec 33).toNat = if c then 1 else 0 := by cases c <;> rfl
    simp only [sum, BitVec.toNat_add, BitVec.toNat_setWidth, hc]
    simp only [n] at hcarry ⊢
    omega
  refine ⟨BitVec.eq_of_toNat_eq (by simp [hn]), ?_⟩
  rw [BitVec.getLsbD, hn, Nat.testBit_eq_decide_div_mod_eq]
  generalize n / 2 ^ 32 = q at hcarry
  interval_cases q <;> rfl

/-- The difference of `isubb` and its borrow (R107). -/
theorem isubb_difference (x y : Word) (c : Bool) :
    let b : Word := if c then 1 else 0
    let k : ℤ := if c then 1 else 0
    x - y - b = BitVec.ofInt 32 (x.toNat - y.toNat - k) ∧ (x.toNat < y.toNat + b.toNat ↔ (x.toNat : ℤ) < y.toNat + k) := by
  intro b k
  have hk : (b.toNat : ℤ) = k := by simp only [b, k]; cases c <;> rfl
  constructor
  · rw [← hk, sub_eq_add_neg, sub_eq_add_neg, sub_eq_add_neg, sub_eq_add_neg, BitVec.ofInt_add, BitVec.ofInt_add, BitVec.ofInt_neg,
      BitVec.ofInt_neg]
    simp only [BitVec.ofInt_natCast, BitVec.ofNat_toNat, BitVec.setWidth_eq]
  · omega

/-- A number of two words side by side in one, as a rotation makes it (R108). -/
theorem shiftLeft_or_shiftRight (x : Nat) (hx : x < 2 ^ 32) {k : Nat} (hk : k ≤ 32) :
    x <<< k % 2 ^ 32 ||| x >>> (32 - k) = (x * 2 ^ k + x / 2 ^ (32 - k)) % 2 ^ 32 := by
  have hpow : 2 ^ 32 = 2 ^ k * 2 ^ (32 - k) := by rw [← pow_add, Nat.add_sub_cancel' hk]
  have hlow : x / 2 ^ (32 - k) < 2 ^ k := Nat.div_lt_of_lt_mul (by rwa [Nat.mul_comm, ← hpow])
  have hhigh : x * 2 ^ k % 2 ^ 32 = 2 ^ k * (x % 2 ^ (32 - k)) := by rw [Nat.mul_comm, hpow, Nat.mul_mod_mul_left]
  have hlt : 2 ^ k * (x % 2 ^ (32 - k)) + x / 2 ^ (32 - k) < 2 ^ 32 := by
    have hmod := Nat.mod_lt x (Nat.two_pow_pos (32 - k))
    rw [hpow]
    nlinarith [Nat.mul_le_mul_left (2 ^ k) (Nat.succ_le_of_lt hmod)]
  rw [Nat.shiftLeft_eq, Nat.shiftRight_eq_div_pow, ← Nat.mod_add_mod, hhigh, Nat.mod_eq_of_lt hlt, Nat.two_pow_add_eq_or_of_lt hlow]

theorem rolW_eq (x n : Word) : rolW x n = BitVec.ofNat 32 (x.toNat * 2 ^ (n.toNat % 32) + x.toNat / 2 ^ (32 - n.toNat % 32)) := by
  refine BitVec.eq_of_toNat_eq ?_
  rw [rolW, BitVec.toNat_rotateLeft, BitVec.toNat_ofNat, Nat.mod_mod, shiftLeft_or_shiftRight _ x.isLt (by omega)]

theorem rorW_eq (x n : Word) : rorW x n = BitVec.ofNat 32 (x.toNat / 2 ^ (n.toNat % 32) + x.toNat * 2 ^ (32 - n.toNat % 32)) := by
  have h := shiftLeft_or_shiftRight x.toNat x.isLt (k := 32 - n.toNat % 32) (by omega)
  rw [show 32 - (32 - n.toNat % 32) = n.toNat % 32 by omega] at h
  refine BitVec.eq_of_toNat_eq ?_
  rw [rorW, BitVec.toNat_rotateRight, BitVec.toNat_ofNat, Nat.mod_mod, Nat.or_comm, h, Nat.add_comm]

/-- An arithmetic shift by the width or more leaves the sign everywhere (R108). -/
theorem sarW_eq (x n : Word) : sarW x n = if n.toNat < 32 then x.sshiftRight n.toNat else if x.msb then 0xFFFFFFFF else 0 := by
  unfold sarW
  split
  case isTrue => rfl
  case isFalse h =>
    refine BitVec.eq_of_getLsbD_eq fun i hi => ?_
    have hones : (0xFFFFFFFF : Word).getLsbD i = decide (i < 32) := BitVec.getLsbD_allOnes
    rw [BitVec.getLsbD_sshiftRight, if_neg (by omega)]
    cases x.msb
    · simp
    · rw [if_pos rfl, hones]; simp [hi]

/-- The scale of `lea` as a factor (R106). -/
theorem lea_scale (sh : BitVec 2) (y : Word) : y <<< (sh.toNat + 1) = y * 2 ^ (sh.toNat + 1) := by
  rw [BitVec.shiftLeft_eq_mul_twoPow]
  rcases bitVec2_cases sh with rfl | rfl | rfl | rfl <;> rfl

/-- An immediate shift amount keeps its value (R109). -/
theorem imm_toNat {n : BitVec 8} (h : n.toNat < 32) : (n.signExtend 32).toNat = n.toNat := by
  have hmsb : n.msb = false := by rw [BitVec.msb_eq_decide, decide_eq_false_iff_not]; omega
  rw [BitVec.signExtend_eq_setWidth_of_msb_false hmsb, BitVec.toNat_setWidth]
  omega

/-- A signed word is negative by its top bit. -/
theorem iabs_eq (x : Word) : (if x.msb then 0 - x else x) = if 0 ≤ x.toInt then x else 0 - x := by
  have h : x.msb = true ↔ ¬0 ≤ x.toInt := by rw [BitVec.msb_eq_toInt, decide_eq_true_eq, not_le]
  simp only [h, ite_not]

/-- The minima and maxima of words as those of their numbers (R106). -/
theorem iminW_eq (x y : Word) : iminW x y = BitVec.ofInt 32 (min x.toInt y.toInt) := by
  simp only [iminW, BitVec.slt_iff_toInt_lt]
  split
  case isTrue h => rw [min_eq_left h.le, BitVec.ofInt_toInt]
  case isFalse h => rw [min_eq_right (not_lt.mp h), BitVec.ofInt_toInt]
@[inherit_doc iminW_eq] theorem imaxW_eq (x y : Word) : imaxW x y = BitVec.ofInt 32 (max x.toInt y.toInt) := by
  simp only [imaxW, BitVec.slt_iff_toInt_lt]
  split
  case isTrue h => rw [max_eq_right h.le, BitVec.ofInt_toInt]
  case isFalse h => rw [max_eq_left (not_lt.mp h), BitVec.ofInt_toInt]
@[inherit_doc iminW_eq] theorem uminW_eq (x y : Word) : uminW x y = BitVec.ofNat 32 (min x.toNat y.toNat) := by
  simp only [uminW, BitVec.lt_def]
  split
  case isTrue h => rw [min_eq_left h.le, BitVec.ofNat_toNat, BitVec.setWidth_eq]
  case isFalse h => rw [min_eq_right (not_lt.mp h), BitVec.ofNat_toNat, BitVec.setWidth_eq]
@[inherit_doc iminW_eq] theorem umaxW_eq (x y : Word) : umaxW x y = BitVec.ofNat 32 (max x.toNat y.toNat) := by
  simp only [umaxW, BitVec.lt_def]
  split
  case isTrue h => rw [max_eq_right h.le, BitVec.ofNat_toNat, BitVec.setWidth_eq]
  case isFalse h => rw [max_eq_left (not_lt.mp h), BitVec.ofNat_toNat, BitVec.setWidth_eq]

/-! ### The shapes of the integer instructions -/

section
variable {i : Instr} {h : Hd} {d a b : Reg} {f g : Word → Word → Word}

/-- An instruction of one result from two registers gives that result, in whatever way it is spelt. -/
theorem Gives.of_alu2 (hx : ∀ s, exec i s = s.alu2 h d a b f) (hf : ∀ x y, f x y = g x y) :
    Gives i (hdForm h [.v a, .v b]) fun t => vOut d (g (t.getV a) (t.getV b)) :=
  .of_laneOp hx rfl fun _ => congrArg (vOut d) (hf ..)
@[inherit_doc Gives.of_alu2] theorem Gives.of_alu1 {f g : Word → Word} (hx : ∀ s, exec i s = s.alu1 h d a f) (hf : ∀ x, f x = g x) :
    Gives i (hdForm h [.v a]) fun t => vOut d (g (t.getV a)) :=
  .of_laneOp hx rfl fun _ => congrArg (vOut d) (hf _)
@[inherit_doc Gives.of_alu2] theorem Gives.of_alu3 {f g : Word → Word → Word → Word} (hx : ∀ s, exec i s = s.alu3 h d a b f)
    (hf : ∀ x y z, f x y z = g x y z) :
    Gives i (hdForm h [.v a, .v b, .v d]) fun t => vOut d (g (t.getV a) (t.getV b) (t.getV d)) :=
  .of_laneOp hx rfl fun _ => congrArg (vOut d) (hf ..)
end

/-- Settles O1: each instruction is a lane instruction whose word operation has the value stated. -/
theorem integerArithmeticResults : Obligations.IntegerArithmeticResults := by
  unfold Obligations.IntegerArithmeticResults
  refine ⟨fun h d a b sh n => ⟨⟨?iadd, ?isub, ?iaddc, ?isubb⟩, ⟨?ineg, ?iabs, ?imin, ?imax, ?umin, ?umax⟩,
    ⟨?and, ?or, ?xor, ?andn, ?orn, ?not⟩, ?lea, ?mov, ?iaddImm, ?andImm, ?orImm, ?xorImm⟩,
    fun h d a b n => ⟨?shl, ?shr, ?sar, ?rol, ?ror, fun hn => ⟨?shlImm, ?shrImm, ?sarImm, ?rolImm⟩⟩⟩
  case iaddc =>
    refine .of_laneOp (fun _ => rfl) rfl fun t => ?_
    obtain ⟨hlow, hcarry⟩ := iaddc_sum (t.getV a) (t.getV b) (t.getP 6)
    simp only [hlow, hcarry]
  case isubb =>
    refine .of_laneOp (fun _ => rfl) rfl fun t => ?_
    obtain ⟨hdiff, hborrow⟩ := isubb_difference (t.getV a) (t.getV b) (t.getP 6)
    simp only [hdiff, hborrow]
  case iabs => exact .of_alu1 (fun _ => rfl) iabs_eq
  case ineg => exact .of_alu1 (fun _ => rfl) zero_sub
  case imin => exact .of_alu2 (fun _ => rfl) iminW_eq
  case imax => exact .of_alu2 (fun _ => rfl) imaxW_eq
  case umin => exact .of_alu2 (fun _ => rfl) uminW_eq
  case umax => exact .of_alu2 (fun _ => rfl) umaxW_eq
  case lea => exact .of_alu2 (fun _ => rfl) fun x y => congrArg (x + ·) (lea_scale sh y)
  case shr => exact .of_alu2 (fun _ => rfl) shrW_eq
  case sar => exact .of_alu2 (fun _ => rfl) sarW_eq
  case rol => exact .of_alu2 (fun _ => rfl) rolW_eq
  case ror => exact .of_alu2 (fun _ => rfl) rorW_eq
  case shlImm => exact .of_laneOp (fun _ => rfl) rfl fun t => congrArg (vOut d) (by rw [← imm_toNat hn]; rfl)
  case shrImm => exact .of_laneOp (fun _ => rfl) rfl fun t => congrArg (vOut d) (by rw [← imm_toNat hn]; exact shrW_eq ..)
  case sarImm => exact .of_laneOp (fun _ => rfl) rfl fun t => congrArg (vOut d) (by rw [← imm_toNat hn]; exact sarW_eq ..)
  case rolImm => exact .of_laneOp (fun _ => rfl) rfl fun t => congrArg (vOut d) (by rw [← imm_toNat hn]; exact rolW_eq ..)
  all_goals exact .of_laneOp (fun _ => rfl) rfl fun _ => rfl

end Sys2Proof.Machine

/-!
Special registers (O10): what `gets` reads of the state in which it acts, and threads that land after `sets`.
-/
namespace Sys2Proof.Machine

/-! ### What an instruction reads of the machine where it issues -/

/-- An instruction that is a lane instruction in a state gives what its function is in the state in which it acts. -/
theorem GivesAt.of_laneOp {s : State} {i : Instr} {f : Form} {e : Thread → LaneOut} {out : State → List Thread → Thread → LaneOut}
    (hx : exec i s = .next (s.laneOp f e)) (he : ∀ ps s1, s.Issues f ps s1 → ∀ t, out s1 ps t = e (sourceOf f.uni ps t)) :
    GivesAt s i f out := by
  intro ps s1 h ht
  obtain hout : out s1 ps = fun t => e (sourceOf f.uni ps t) := funext (he ps s1 h)
  rw [hout] at ht ⊢
  exact ⟨_, hx, State.laneOp_done h e ht⟩

/-- A change of what a core owes leaves its clock. -/
theorem State.updCore_clk (s : State) (c k : Nat) {f : Core → Core} (hf : ∀ x, (f x).clk = x.clk) :
    ((s.updCore c f).core k).clk = (s.core k).clk := by
  by_cases hk : k < 384
  · by_cases h : c = k
    · subst h
      simp [State.core, State.updCore, Vector.getD, hk, hf]
    · simp [State.core, State.updCore, Vector.getD, hk, h]
  · simp [State.core, State.updCore, Vector.getD, hk]

/-- Moving past an instruction changes no company, and of a core only the reads that it owes. -/
theorem State.moved_places (s : State) (f : Form) (g : Issue) :
    (s.moved f g).companies = s.companies ∧ ∀ k, ((s.moved f g).core k).clk = (s.core k).clk := by
  obtain ⟨l, hl⟩ := State.foldl_updThread_eq (fun _ => Thread.issued f) (s.members g)
    (({ s with issue := none, fresh := s.fresh + 1, rivals := [] } : State).updCore g.core fun c => { c with need := c.need + f.grants })
  have hcompanies := congrArg State.companies hl
  have hcores := congrArg State.cores hl
  refine ⟨hcompanies, fun k => ?_⟩
  exact (congrArg (fun v => (v.getD k Core.reset).clk) hcores).trans
    (State.updCore_clk s g.core k (f := fun c => { c with need := c.need + f.grants }) fun _ => rfl)

/-- A special register reads the same before and after it. -/
theorem State.Issues.special {s s1 : State} {f : Form} {ps : List Thread} (h : s.Issues f ps s1) (t : Thread) (r : Nat) :
    s1.special t r = s.special t r := by
  obtain ⟨⟨g, -, -, -, -, -, rfl⟩, -, -, -⟩ := h
  obtain ⟨hc, hk⟩ := s.moved_places f g
  simp only [State.special, State.company?, hc, hk]

/-- Threads that are updated after a delivery, in what no program sees of them, have still received it. -/
theorem LaneDone.updThread {s s' : State} {ps : List Thread} {out : Thread → LaneOut} (h : LaneDone s s' ps out) {t : Thread} (ht : t ∈ ps)
    {f : Thread → Thread} (hn : KeepsName f) (hb : ∀ u, (f u).bare = u.bare) (hr : ∀ u r, (f u).reg r = u.reg r) :
    LaneDone s (s'.updThread t.cid t.tid f) ps out := by
  have hbare : (s'.updThread t.cid t.tid f).bare = s'.bare := by
    simp only [State.bare, State.updThread, List.map_map]
    congr 1
    refine List.map_congr_left fun u _ => ?_
    simp only [Function.comp]
    split
    · exact hb u
    · rfl
  refine ⟨fun a ha u hu => ?_, fun c i hc => ?_, hbare.trans h.rest, fun l hl => (State.getLoc_of_bare hbare l hl).trans (h.memory l hl)⟩
  · obtain ⟨u', hu', hub, hur⟩ := h.result a ha u hu
    refine ⟨if a.cid = t.cid ∧ a.tid = t.tid then f u' else u', by rw [State.thread?_updThread _ _ _ _ _ _ hn, hu']; rfl, ?_, fun r => ?_⟩
    · split
      · rw [hb, hub]
      · exact hub
    · split
      · rw [hr, hur]
      · exact hur r
  · have hne : ¬(c = t.cid ∧ i = t.tid) := fun he => hc t ht ⟨he.1.symm, he.2.symm⟩
    rw [State.thread?_updThread _ _ _ _ _ _ hn, ← h.others c i hc]
    simp [hne]

/-- So they have when each of them lands (R144). -/
theorem LaneDone.land {s s' : State} {ps : List Thread} {out : Thread → LaneOut} (h : LaneDone s s' ps out) :
    LaneDone s (ps.foldl (fun s t => s.updThread t.cid t.tid Thread.land) s') ps out := by
  have key : ∀ ts ⊆ ps, ∀ s', LaneDone s s' ps out → LaneDone s (ts.foldl (fun s t => s.updThread t.cid t.tid Thread.land) s') ps out := by
    intro ts
    induction ts with
    | nil => exact fun _ _ h => h
    | cons t ts ih =>
      intro hs s' h
      refine ih (fun _ hx => hs (List.mem_cons_of_mem _ hx)) _ (h.updThread (hs List.mem_cons_self) ?_ ?_ ?_)
      · exact fun _ => ⟨rfl, rfl⟩
      · exact fun _ => rfl
      · exact fun _ r => by cases r <;> rfl
  exact key ps (List.Subset.refl ps) s' h

/-! ### Special registers (R17, R66, R143 to R145) -/

/-- `gets` of a 32-bit register gives what the table says of it (R17, R143). -/
theorem gives_gets {h : Hd} {r : BitVec 9} {d : Reg} {src : List RegId} {out : State → List Thread → Thread → LaneOut} (hr : r.toNat ≠ 0x10)
    (hsrc : getsSrc r.toNat = src) (he : ∀ s ps t, out s ps t = vOut d ((s.special (sourceOf h.uni ps t) r.toNat).setWidth 32)) (s : State) :
    GivesAt s (.gets h r d) (hdForm h src) out := by
  subst hsrc
  refine .of_laneOp rfl fun ps s1 hi t => ?_
  rw [if_neg hr, he, hi.special]
  rfl

/-- A number of the table of R17 as a word. -/
theorem ofNat_32_eq (n : Nat) : BitVec.ofNat 32 n = (BitVec.ofNat 64 n).setWidth 32 := BitVec.eq_of_toNat_eq (by simp)

/-- A word of the table as it is read. -/
theorem word_eq (x : Word) : x = (x.setWidth 64).setWidth 32 := by rw [BitVec.setWidth_setWidth_of_le _ (by decide), BitVec.setWidth_eq]

/-- The companies' numbers of R17, by way of the thread's company. -/
theorem match_company {α : Type} (c : Option Company) (x : α) (e : Company → α) : (match c with | some c => e c | none => x) = c.elim x e := by
  cases c <;> rfl

/-- Settles O10: `gets` and `sets` by the number of the register; the threads that a write of `fpcsr` lands hold what they did. -/
theorem specialRegisterAccess : Obligations.SpecialRegisterAccess := by
  unfold Obligations.SpecialRegisterAccess
  intro h d a own read
  refine ⟨⟨?lane, ?tid, ?trp, ?index, ?core, ?deck, ?pier, fun n => ?level, ?fpcsr, fun n => ?q⟩, fun s => ?clock, ?sets, fun n => ?setq, fun m => ?nop⟩
  case lane | tid | trp => exact gives_gets (by decide) rfl fun s ps t => congrArg (vOut d) (ofNat_32_eq _)
  case index | core | deck | pier =>
    refine gives_gets (by decide) rfl fun s ps t => ?_
    simp only [own, ← match_company]
    exact congrArg (vOut d) (ofNat_32_eq _)
  case level =>
    fin_cases n
    all_goals
      refine gives_gets (by decide) rfl fun s ps t => ?_
      simp only [own, ← match_company]
      exact congrArg (vOut d) (ofNat_32_eq _)
  case fpcsr => exact gives_gets (by decide) rfl fun s ps t => congrArg (vOut d) (word_eq _)
  case q =>
    fin_cases n
    all_goals exact gives_gets (by decide) rfl fun s ps t => congrArg (vOut d) (word_eq _)
  case clock =>
    refine .of_laneOp rfl fun ps s1 hi t => ?_
    rw [if_pos (by decide), ← hi.special]
    simp only [own, ← match_company]
    rfl
  case sets =>
    intro s ps s1 hi ht
    have hdone := State.laneOp_done hi (fun t => { writes := [(.f, (t.getV a).setWidth 64)] }) ht
    rw [State.laneOp, State.runIssue_eq hi _ _ rfl] at hdone
    refine ⟨_, congrArg Host.Outcome.next (State.runIssue_eq hi _ _ rfl), hdone.land⟩
  case setq =>
    fin_cases n
    all_goals exact .of_laneOp (fun _ => rfl) rfl fun _ => rfl
  case nop => exact .of_laneOp (fun _ => rfl) rfl fun _ => rfl
end Sys2Proof.Machine

/-!
Products, bit counts, bit fields and the byte mixer (O2): each result by its bits.
-/
namespace Sys2Proof.Machine

/-! ### Products (R110) -/

theorem imul_eq (x y : Word) : x * y = BitVec.ofNat 32 (x.toNat * y.toNat) := BitVec.mul_def ..
theorem imad_eq (x y z : Word) : x * y + z = BitVec.ofNat 32 (x.toNat * y.toNat + z.toNat) := BitVec.eq_of_toNat_eq (by simp)

/-- The high half of a product of unsigned words. -/
theorem umulh_eq (x y : Word) : ((x.setWidth 64 * y.setWidth 64) >>> 32).setWidth 32 = BitVec.ofNat 32 (x.toNat * y.toNat / 2 ^ 32) := by
  have hx := x.isLt
  have hy := y.isLt
  have hlt : x.toNat * y.toNat < 2 ^ 64 := (Nat.mul_lt_mul'' hx hy).trans_eq (by norm_num)
  refine BitVec.eq_of_toNat_eq ?_
  rw [BitVec.toNat_setWidth, BitVec.toNat_ushiftRight, BitVec.toNat_mul, BitVec.toNat_setWidth_of_le (by decide),
    BitVec.toNat_setWidth_of_le (by decide), Nat.mod_eq_of_lt hlt, Nat.shiftRight_eq_div_pow, BitVec.toNat_ofNat]
/-- The high half of a product of signed words. -/
theorem imulh_eq (x y : Word) : ((x.signExtend 64 * y.signExtend 64) >>> 32).setWidth 32 = BitVec.ofInt 32 (x.toInt * y.toInt / 2 ^ 32) := by
  have h : x.signExtend 64 * y.signExtend 64 = BitVec.ofInt 64 (x.toInt * y.toInt) := by
    rw [BitVec.ofInt_mul]; rfl
  rw [h]
  refine BitVec.eq_of_toNat_eq ?_
  rw [BitVec.toNat_setWidth, BitVec.toNat_ushiftRight, BitVec.toNat_ofInt, BitVec.toNat_ofInt, Nat.shiftRight_eq_div_pow]
  generalize x.toInt * y.toInt = p
  push_cast
  omega

/-! ### Counts (R111) -/

theorem popcW_toNat (x : Word) : (popcW x).toNat = ((Finset.range 32).filter fun i => x.getLsbD i = true).card := by
  have hle := List.countP_le_length (p := fun i => x.getLsbD i) (l := List.range 32)
  rw [List.length_range] at hle
  rw [popcW, BitVec.toNat_ofNat, Nat.mod_eq_of_lt (by omega), List.countP_eq_length_filter]
  simp only [Finset.card, Finset.filter, Finset.range, Multiset.range, Multiset.filter_coe, Multiset.coe_card, Bool.decide_eq_true]

/-- The highest one bit of a word. -/
theorem clzW_spec {x : Word} (hx : x ≠ 0) : (clzW x).toNat < 32 ∧ x.getLsbD (31 - (clzW x).toNat) = true ∧
    ∀ i, 31 - (clzW x).toNat < i → x.getLsbD i = false := by
  have h0 : x.toNat ≠ 0 := fun h => hx (BitVec.eq_of_toNat_eq h)
  have hlog : Nat.log2 x.toNat < 32 := (Nat.log2_lt h0).mpr x.isLt
  have hval : (clzW x).toNat = 31 - Nat.log2 x.toNat := by
    rw [clzW, beq_eq_false_iff_ne.mpr hx, BitVec.toNat_ofNat, if_neg Bool.false_ne_true]
    omega
  rw [hval, show 31 - (31 - Nat.log2 x.toNat) = Nat.log2 x.toNat by omega]
  refine ⟨by omega, ?_, fun i hi => ?_⟩
  · rw [BitVec.getLsbD, Nat.testBit_log2 h0]
  · exact Nat.testBit_lt_two_pow ((Nat.log2_lt h0).mp hi)
/-- The lowest one bit of a word. -/
theorem ctzW_spec {x : Word} (hx : x ≠ 0) : (ctzW x).toNat < 32 ∧ x.getLsbD (ctzW x).toNat = true ∧ ∀ i < (ctzW x).toNat, x.getLsbD i = false := by
  obtain ⟨j, hj, hbit⟩ : ∃ j < 32, x.getLsbD j = true := by
    by_contra h
    push Not at h
    exact hx (BitVec.eq_of_getLsbD_eq fun i hi => by simpa using h i hi)
  cases hf : (List.range 32).find? fun i => x.getLsbD i with
  | none => exact absurd hbit (by simpa using List.find?_eq_none.mp hf j (List.mem_range.mpr hj))
  | some k =>
    obtain ⟨hk, hmem, hbelow⟩ := List.find?_range_eq_some.mp hf
    have hlt := List.mem_range.mp hmem
    have hval : (ctzW x).toNat = k := by
      rw [ctzW, hf, BitVec.toNat_ofNat, Option.getD_some]
      omega
    rw [hval]
    exact ⟨hlt, hk, fun i hi => by simpa using hbelow i hi⟩

/-! ### Bit fields (R112) -/

/-- A field of `w` bits of a word from bit `p` up, by its bits. -/
theorem testBit_field (x : Word) (p w i : Nat) : (x.toNat / 2 ^ p % 2 ^ w).testBit i = (decide (i < w) && x.getLsbD (p + i)) := by
  rw [Nat.testBit_mod_two_pow, Nat.testBit_div_two_pow, Nat.add_comm, BitVec.getLsbD]

/-- A field with its top bit carried to all bits above it. -/
theorem testBit_signed {f w i : Nat} (hf : f < 2 ^ w) (hw : w ≤ 32) (hi : i < 32) :
    (f + 2 ^ 32 - 2 ^ w).testBit i = (f.testBit i || decide (w ≤ i)) := by
  have hpow : 2 ^ 32 = 2 ^ w * 2 ^ (32 - w) := by rw [← pow_add, Nat.add_sub_cancel' hw]
  have hsum : f + 2 ^ 32 - 2 ^ w = 2 ^ w * (2 ^ (32 - w) - 1) + f := by
    have := Nat.two_pow_pos (32 - w)
    rw [hpow, Nat.mul_sub, Nat.mul_one]
    have : 2 ^ w ≤ 2 ^ w * 2 ^ (32 - w) := Nat.le_mul_of_pos_right _ this
    omega
  rw [hsum, Nat.testBit_two_pow_mul_add _ hf, Nat.testBit_two_pow_sub_one]
  by_cases h : i < w
  · simp [h]
  · simp [h, Nat.testBit_lt_two_pow (hf.trans_le (Nat.pow_le_pow_right two_pos (not_lt.mp h)))]
    omega

/-- The results of `ubfe`, `bfe` and `bfi` bit by bit: of an empty field nothing, else those of the field, its top bit, and those of the
destination around it. -/
theorem bitFields_spec (x c z : Word) {i : Nat} (hi : i < 32) :
    let p := c.toNat % 256
    let l := c.toNat / 256 % 256
    let w := min l (32 - p)
    if l = 0 ∨ 32 ≤ p then (ubfeW x c).getLsbD i = false ∧ (bfeW x c).getLsbD i = false ∧ (bfiW x c z).getLsbD i = z.getLsbD i
    else (ubfeW x c).getLsbD i = (decide (i < w) && x.getLsbD (p + i)) ∧
      (bfeW x c).getLsbD i = x.getLsbD (p + min i (w - 1)) ∧
      (bfiW x c z).getLsbD i = if p ≤ i ∧ i < p + w then x.getLsbD (i - p) else z.getLsbD i := by
  intro p l w
  by_cases h : l = 0 ∨ 32 ≤ p
  · have hempty : (l == 0 || decide (32 ≤ p)) = true := by simpa using h
    have hnone : bitField x c = none := if_pos hempty
    have hbfi : bfiW x c z = z := if_pos hempty
    rw [if_pos h, ubfeW, bfeW, hnone, hbfi]
    simp
  · have hempty : ¬(l == 0 || decide (32 ≤ p)) = true := by simpa using h
    have hsome : bitField x c = some (x.toNat / 2 ^ p % 2 ^ w, w) := if_neg hempty
    have hbfi : bfiW x c z = (z &&& ~~~(BitVec.ofNat 32 (2 ^ w - 1) <<< p)) ||| ((x &&& BitVec.ofNat 32 (2 ^ w - 1)) <<< p) := if_neg hempty
    have hw0 : 0 < w ∧ w ≤ 32 := by simp only [w]; omega
    rw [if_neg h, ubfeW, bfeW, hsome, hbfi]
    refine ⟨?ubfe, ?bfe, ?bfi⟩
    case ubfe =>
      show (BitVec.ofNat 32 (x.toNat / 2 ^ p % 2 ^ w)).getLsbD i = _
      rw [BitVec.getLsbD_ofNat, testBit_field]
      simp [hi]
    case bfe =>
      simp only [testBit_field, show w - 1 < w by omega, decide_true, Bool.true_and]
      split
      case isTrue htop =>
        rw [BitVec.getLsbD_ofNat, testBit_signed (Nat.mod_lt _ (Nat.two_pow_pos w)) hw0.2 hi, testBit_field]
        by_cases hiw : i < w
        · rw [min_eq_left (by omega)]; simp [hi, hiw]
        · rw [min_eq_right (by omega), htop]; simp [hi, not_lt.mp hiw]
      case isFalse htop =>
        rw [BitVec.getLsbD_ofNat, testBit_field]
        by_cases hiw : i < w
        · rw [min_eq_left (by omega)]; simp [hi, hiw]
        · rw [min_eq_right (by omega), Bool.eq_false_of_not_eq_true htop]; simp [hiw]
    case bfi =>
      simp only [BitVec.getLsbD_or, BitVec.getLsbD_and, BitVec.getLsbD_not, BitVec.getLsbD_shiftLeft, getLsbD_lowMask hw0.2, hi]
      by_cases hp : i < p
      · simp [hp, not_le.mpr hp]
      · by_cases hpw : i < p + w
        · simp [hp, not_lt.mp hp, hpw, show i - p < w by omega]
        · simp [hp, hpw, show ¬i - p < w by omega]

/-! ### The byte mixer (R113) -/

/-- A byte of four in a word. -/
theorem byteOf_natOf {l : List Byte} (hl : l.length = 4) {i : Nat} (hi : i < 4) : byteOf (BitVec.ofNat 32 (natOf l)) i = l.getD i 0 := by
  match l, hl with
  | [a, b, c, d], _ =>
    have := a.isLt
    have := b.isLt
    have := c.isLt
    have := d.isLt
    refine BitVec.eq_of_toNat_eq ?_
    rw [byteOf_toNat, BitVec.toNat_ofNat]
    simp only [natOf]
    interval_cases i <;> simp <;> omega

/-- The bytes of two words, by their numbers. -/
theorem bytesOf_append_getD (x z : Word) {k : Nat} (hk : k < 8) :
    (bytesOf 4 x.toNat ++ bytesOf 4 z.toNat).getD k 0 = if k < 4 then byteOf x k else byteOf z (k - 4) := by
  have hbyte (w : Word) (j : Nat) : byteOf w j = BitVec.ofNat 8 (w.toNat / 256 ^ j) := by
    refine BitVec.eq_of_toNat_eq ?_
    rw [byteOf_toNat, BitVec.toNat_ofNat, pow_mul]
    rfl
  rw [hbyte, hbyte]
  interval_cases k <;> simp [bytesOf, Nat.div_div_eq_div_mul]

/-- The bytes of `bmix`: each zero, the sign of the byte below it, or one of the bytes of both sources. -/
theorem bmixW_spec (x c z : Word) {i : Nat} (hi : i < 4) :
    byteOf (bmixW x c z) i =
      if c.getLsbD (12 + i) then 0
      else if 1 ≤ i ∧ c.getLsbD (16 + i) then (if (byteOf (bmixW x c z) (i - 1)).msb then 0xFF else 0)
      else if c.toNat / 2 ^ (3 * i) % 8 < 4 then byteOf x (c.toNat / 2 ^ (3 * i) % 8) else byteOf z (c.toNat / 2 ^ (3 * i) % 8 - 4) := by
  rw [← bytesOf_append_getD x z (Nat.mod_lt _ (by decide)), bmixW, byteOf_natOf (by rfl) hi, byteOf_natOf (by rfl) (by omega)]
  interval_cases i <;> simp [bmixFrom]

/-- Settles O2: each instruction is a lane instruction of its word operation, and these are as stated by their numbers and bits. -/
theorem productAndBitFieldResults : Obligations.ProductAndBitFieldResults := by
  unfold Obligations.ProductAndBitFieldResults
  refine ⟨fun h d a b => ⟨?imul, ?imulh, ?umulh, ?imad⟩, fun h d a b => ?bits, fun x => ⟨popcW_toNat x, ?zero, fun hx => ?counts, ?brev⟩,
    fun x c z i hi => bitFields_spec x c z hi, fun x c z i hi => bmixW_spec x c z hi⟩
  case imul => exact .of_alu2 (fun _ => rfl) imul_eq
  case imulh => exact .of_alu2 (fun _ => rfl) imulh_eq
  case umulh => exact .of_alu2 (fun _ => rfl) umulh_eq
  case imad => exact .of_alu3 (fun _ => rfl) imad_eq
  case bits =>
    refine ⟨?_, ?_, ?_, ?_, ?_, ?_, ?_, ?_⟩
    all_goals exact .of_laneOp (fun _ => rfl) rfl fun _ => rfl
  case zero =>
    rintro rfl
    decide
  case counts =>
    obtain ⟨h1, h2, h3⟩ := clzW_spec hx
    exact ⟨h1, h2, h3, ctzW_spec hx⟩
  case brev =>
    intro i hi
    rw [brevW, BitVec.getLsbD_reverse, BitVec.getMsbD]
    simp [hi]

end Sys2Proof.Machine

/-!
Floating-point arithmetic (O5): minima, maxima and compares by the values of the operands, scaling, and classes.
-/
namespace Sys2Proof.Machine

/-! ### Operands (R77, R118) -/

section
variable {F : Fmt} {z : Bool} {a : Nat}

/-- A subnormal operand under FTZ reads as a zero of its sign, every other one as what it stands for (R77). -/
def Fmt.Flushed (F : Fmt) (z : Bool) (a : Nat) : Prop := z = true ∧ F.lane = true ∧ F.mag a < 2 ^ F.fb
theorem Fmt.input_of_flushed (h : F.Flushed z a) : F.input z a = .fin (F.sign a) 0 0 := by
  obtain ⟨hz, hl, hm⟩ := h
  simp [Fmt.input, hz, hl, hm]
theorem Fmt.input_of_not_flushed (h : ¬F.Flushed z a) : F.input z a = F.value a := by
  simp only [Fmt.Flushed, not_and] at h
  cases z <;> cases hl : F.lane <;> simp_all [Fmt.input]
theorem Fmt.deliver_of_flushed (h : F.Flushed z a) : F.deliver z a = F.make (F.sign a) 0 := by
  obtain ⟨hz, hl, hm⟩ := h
  simp [Fmt.deliver, hz, hl, hm]
theorem Fmt.deliver_of_not_flushed (h : ¬F.Flushed z a) : F.deliver z a = a := by
  simp only [Fmt.Flushed, not_and] at h
  cases z <;> cases hl : F.lane <;> simp_all [Fmt.deliver]

theorem Fmt.Flushed.mag_le (hF : F.Sound) (h : F.Flushed z a) : F.mag a ≤ F.top := h.2.2.le.trans hF.le_top

/-- A flushed operand is a finite number, so NaNs and infinities read as they are. -/
theorem Fmt.input_isNan (hF : F.Sound) (z : Bool) (a : Nat) : (F.input z a).isNan = (F.value a).isNan := by
  by_cases h : F.Flushed z a
  · rw [Fmt.input_of_flushed h, Fmt.value_of_mag_le hF (h.mag_le hF)]; rfl
  · rw [Fmt.input_of_not_flushed h]
@[inherit_doc Fmt.input_isNan] theorem Fmt.input_isSig (hF : F.Sound) (z : Bool) (a : Nat) : (F.input z a).isSig = (F.value a).isSig := by
  by_cases h : F.Flushed z a
  · rw [Fmt.input_of_flushed h, Fmt.value_of_mag_le hF (h.mag_le hF)]; rfl
  · rw [Fmt.input_of_not_flushed h]
@[inherit_doc Fmt.input_isNan] theorem Fmt.value_of_input_inf {n : Bool} (h : F.input z a = .inf n) : F.value a = .inf n := by
  by_cases hf : F.Flushed z a
  · rw [Fmt.input_of_flushed hf] at h; cases h
  · rwa [Fmt.input_of_not_flushed hf] at h
/-- A signalling NaN is a NaN. -/
theorem FV.isNan_of_isSig {v : FV} (h : v.isSig = true) : v.isNan = true := by
  cases v with
  | nan s => rfl
  | _ => cases h
theorem FV.isSig_of_not_isNan {v : FV} (h : v.isNan = false) : v.isSig = false :=
  Bool.eq_false_of_not_eq_true fun hs => Bool.false_ne_true (h.symm.trans (FV.isNan_of_isSig hs))

/-- A finite operand by sign and magnitude, and the encoding as which it is delivered (R121). -/
theorem Fmt.input_fin (hF : F.Sound) (ha : a < 2 ^ (F.sp + 1)) (h : (F.input z a).isFin = true) :
    ∃ g ≤ F.top, F.deliver z a = F.make (F.input z a).neg g ∧ (F.input z a).rat = (if (F.input z a).neg then -1 else 1) * F.real g := by
  by_cases hf : F.Flushed z a
  · rw [Fmt.input_of_flushed hf, Fmt.deliver_of_flushed hf]
    exact ⟨0, Nat.zero_le _, rfl, by simp [FV.rat]⟩
  · rw [Fmt.input_of_not_flushed hf] at h ⊢
    rw [Fmt.deliver_of_not_flushed hf]
    obtain ⟨n, m, e, hv⟩ := FV.eq_fin_of_isFin h
    obtain ⟨hle, hmake⟩ := Fmt.eq_make_of_value_fin hF ha hv
    have hneg : (F.value a).neg = F.sign a := by rw [Fmt.value_of_mag_le hF hle]; rfl
    have hsign : F.make (F.sign a) (F.mag a) = F.make n (F.mag a) := by
      rw [hv] at hneg
      rw [← hneg]; rfl
    refine ⟨F.mag a, hle, ?_, ?_⟩
    · rw [hneg, hsign]; exact hmake
    · rw [hneg, Fmt.rat_value hF hle]

/-- An encoding is its sign with its magnitude. -/
theorem Fmt.make_sign_mag {x : Nat} (hx : x < 2 ^ (F.sp + 1)) : F.make (F.sign x) (F.mag x) = x := by
  have hdiv := Nat.div_add_mod' x (2 ^ F.sp)
  have hlt : x / 2 ^ F.sp < 2 := Nat.div_lt_of_lt_mul (by rwa [pow_succ] at hx)
  rw [Fmt.sign, Nat.testBit_eq_decide_div_mod_eq, Nat.mod_eq_of_lt hlt, Fmt.make, Fmt.mag]
  generalize x / 2 ^ F.sp = q at *
  interval_cases q <;> simp <;> omega

/-- An infinity by its sign. -/
theorem Fmt.eq_make_of_value_inf (hF : F.Sound) {n : Bool} (ha : a < 2 ^ (F.sp + 1)) (h : F.value a = .inf n) :
    a = F.make n F.infinity ∧ F.top < F.mag a := by
  have hlt : F.top < F.mag a := by
    by_contra hle
    rw [Fmt.value_of_mag_le hF (not_lt.mp hle)] at h
    cases h
  rw [Fmt.value_of_top_lt hF hlt] at h
  split at h
  case isFalse => cases h
  case isTrue =>
    split at h
    case isFalse => cases h
    case isTrue he =>
      cases h
      exact ⟨by rw [← he, Fmt.make_sign_mag ha], hlt⟩

/-- Such an operand is delivered as it is. -/
theorem Fmt.deliver_of_inf (hF : F.Sound) {n : Bool} (ha : a < 2 ^ (F.sp + 1)) (h : F.input z a = .inf n) :
    F.deliver z a = F.make n F.infinity := by
  obtain ⟨hmake, hlt⟩ := Fmt.eq_make_of_value_inf hF ha (Fmt.value_of_input_inf h)
  rw [Fmt.deliver_of_not_flushed fun hf => absurd (hf.mag_le hF) (not_le.mpr hlt)]
  exact hmake
end

/-! ### The order of values (R121, R123) -/

/-- A value is less than another one that is no NaN. -/
def FV.Less (x y : FV) : Prop :=
  (x = .inf true ∧ y ≠ .inf true) ∨ (y = .inf false ∧ x ≠ .inf false) ∨ (x.isFin = true ∧ y.isFin = true ∧ x.rat < y.rat)
/-- Two values are equal, zeros of both signs among them. -/
def FV.Same (x y : FV) : Prop := (x.isFin = true ∧ y.isFin = true ∧ x.rat = y.rat) ∨ ∃ n, x = .inf n ∧ y = .inf n
/-- The order of `fmin` and `fmax`, in which −0 comes before +0 (R121). -/
def FV.Below (x y : FV) : Prop := x.Less y ∨ (x.isZero = true ∧ y.isZero = true ∧ x.neg = true ∧ y.neg = false)

/-- Aligned significands are ordered as the numbers. -/
theorem alignTo_lt_iff (n1 : Bool) (m1 : Nat) (e1 : Int) (n2 : Bool) (m2 : Nat) (e2 : Int) :
    (alignTo n1 m1 e1 (min e1 e2) < alignTo n2 m2 e2 (min e1 e2) ↔ (FV.fin n1 m1 e1).rat < (FV.fin n2 m2 e2).rat) ∧
    (alignTo n1 m1 e1 (min e1 e2) = alignTo n2 m2 e2 (min e1 e2) ↔ (FV.fin n1 m1 e1).rat = (FV.fin n2 m2 e2).rat) := by
  have hpos : (0 : ℚ) < 2 ^ min e1 e2 := by positivity
  rw [← alignTo_mul_zpow n1 m1 (min_le_left e1 e2), ← alignTo_mul_zpow n2 m2 (min_le_right e1 e2), mul_lt_mul_iff_left₀ hpos, Int.cast_lt,
    mul_left_inj' hpos.ne', Int.cast_inj]
  exact ⟨Iff.rfl, Iff.rfl⟩

theorem FV.lt_iff {x y : FV} (hx : x.isNan = false) (hy : y.isNan = false) : x.lt y = true ↔ x.Less y := by
  cases x with
  | nan s => cases hx
  | inf n =>
    cases y with
    | nan s => cases hy
    | inf n' => cases n <;> cases n' <;> simp [FV.lt, FV.Less, FV.isFin]
    | fin n' m e => cases n <;> simp [FV.lt, FV.Less, FV.isFin]
  | fin n m e =>
    cases y with
    | nan s => cases hy
    | inf n' => cases n' <;> simp [FV.lt, FV.Less, FV.isFin]
    | fin n' m' e' => simp [FV.lt, FV.Less, FV.isFin, (alignTo_lt_iff n m e n' m' e').1]
theorem FV.eq_iff {x y : FV} (hx : x.isNan = false) (hy : y.isNan = false) : x.eq y = true ↔ x.Same y := by
  cases x with
  | nan s => cases hx
  | inf n =>
    cases y with
    | nan s => cases hy
    | inf n' => cases n <;> cases n' <;> simp [FV.eq, FV.Same, FV.isFin]
    | fin n' m e => simp [FV.eq, FV.Same, FV.isFin]
  | fin n m e =>
    cases y with
    | nan s => cases hy
    | inf n' => simp [FV.eq, FV.Same, FV.isFin]
    | fin n' m' e' => simp [FV.eq, FV.Same, FV.isFin, (alignTo_lt_iff n m e n' m' e').2]

/-- Equal values of opposite signs are zeros. -/
theorem FV.same_and_signs_iff {x y : FV} (hx : x.neg = true) (hy : y.neg = false) :
    x.Same y ↔ x.isZero = true ∧ y.isZero = true := by
  constructor
  · rintro (⟨hfx, hfy, hrat⟩ | ⟨n, rfl, rfl⟩)
    · obtain ⟨n, m, e, rfl⟩ := FV.eq_fin_of_isFin hfx
      obtain ⟨n', m', e', rfl⟩ := FV.eq_fin_of_isFin hfy
      have hle : ¬0 < (FV.fin n m e).rat := fun h => Bool.false_ne_true (((FV.sign_of_rat n m e).2 h).symm.trans hx)
      have hge : ¬(FV.fin n' m' e').rat < 0 := fun h => Bool.false_ne_true (hy.symm.trans ((FV.sign_of_rat n' m' e').1 h))
      have h0 : (FV.fin n m e).rat = 0 := le_antisymm (not_lt.mp hle) (hrat ▸ not_lt.mp hge)
      exact ⟨beq_iff_eq.mpr ((FV.rat_eq_zero_iff n m e).mp h0), beq_iff_eq.mpr ((FV.rat_eq_zero_iff n' m' e').mp (hrat ▸ h0))⟩
    · exact absurd (hx.symm.trans hy) (by decide)
  · rintro ⟨hzx, hzy⟩
    obtain ⟨n, e, rfl⟩ := FV.eq_zero_of_isZero hzx
    obtain ⟨n', e', rfl⟩ := FV.eq_zero_of_isZero hzy
    exact .inl ⟨rfl, rfl, by rw [(FV.rat_eq_zero_iff n 0 e).mpr rfl, (FV.rat_eq_zero_iff n' 0 e').mpr rfl]⟩

theorem FV.below_iff {x y : FV} (hx : x.isNan = false) (hy : y.isNan = false) :
    (x.lt y || (x.eq y && x.neg && !y.neg)) = true ↔ x.Below y := by
  rw [Bool.or_eq_true, FV.lt_iff hx hy, Bool.and_eq_true, Bool.and_eq_true, FV.eq_iff hx hy, Bool.not_eq_true', FV.Below]
  refine or_congr_right ⟨fun ⟨⟨hs, hnx⟩, hny⟩ => ?_, fun ⟨hzx, hzy, hnx, hny⟩ => ⟨⟨?_, hnx⟩, hny⟩⟩
  · obtain ⟨hzx, hzy⟩ := (FV.same_and_signs_iff hnx hny).mp hs
    exact ⟨hzx, hzy, hnx, hny⟩
  · exact (FV.same_and_signs_iff hnx hny).mpr ⟨hzx, hzy⟩

/-- Of finite numbers the order is that of the numbers, then of the signs. -/
theorem FV.below_fin_iff {n n' : Bool} {m m' : Nat} {e e' : Int} : (FV.fin n m e).Below (.fin n' m' e') ↔
    (FV.fin n m e).rat < (FV.fin n' m' e').rat ∨ ((FV.fin n m e).rat = (FV.fin n' m' e').rat ∧ n = true ∧ n' = false) := by
  rw [← FV.below_iff rfl rfl, Bool.or_eq_true, FV.lt_iff rfl rfl, Bool.and_eq_true, Bool.and_eq_true, FV.eq_iff rfl rfl]
  simp [FV.Less, FV.Same, FV.isFin, FV.neg, and_assoc]

theorem FV.Below.asymm {x y : FV} (hx : x.isNan = false) (hy : y.isNan = false) (h : x.Below y) : ¬y.Below x := by
  cases x with
  | nan s => cases hx
  | inf n =>
    cases y with
    | nan s => cases hy
    | inf n' => cases n <;> cases n' <;> simp [FV.Below, FV.Less, FV.isFin, FV.isZero] at h ⊢
    | fin n' m e => cases n <;> simp [FV.Below, FV.Less, FV.isFin, FV.isZero] at h ⊢
  | fin n m e =>
    cases y with
    | nan s => cases hy
    | inf n' => cases n' <;> simp [FV.Below, FV.Less, FV.isFin, FV.isZero] at h ⊢
    | fin n' m' e' =>
      rw [FV.below_fin_iff] at h ⊢
      rintro (h' | ⟨h', hn', hn⟩)
      · rcases h with h | ⟨h, -, -⟩
        · exact lt_asymm h h'
        · exact h'.ne h.symm
      · rcases h with h | ⟨-, -, hn⟩
        · exact h.ne h'.symm
        · simp_all

/-- Values of which neither comes before the other are equal, with one sign. -/
theorem FV.eq_of_not_below {x y : FV} (hx : x.isNan = false) (hy : y.isNan = false) (h : ¬x.Below y) (h' : ¬y.Below x) :
    (∃ n, x = .inf n ∧ y = .inf n) ∨ (x.isFin = true ∧ y.isFin = true ∧ x.rat = y.rat ∧ x.neg = y.neg) := by
  cases x with
  | nan s => cases hx
  | inf n =>
    cases y with
    | nan s => cases hy
    | inf n' => cases n <;> cases n' <;> simp [FV.Below, FV.Less, FV.isFin, FV.isZero] at h h' ⊢
    | fin n' m e => cases n <;> simp [FV.Below, FV.Less, FV.isFin, FV.isZero] at h h' ⊢
  | fin n m e =>
    cases y with
    | nan s => cases hy
    | inf n' => cases n' <;> simp [FV.Below, FV.Less, FV.isFin, FV.isZero] at h h' ⊢
    | fin n' m' e' =>
      rw [FV.below_fin_iff, not_or, not_lt] at h h'
      have hrat := le_antisymm h'.1 h.1
      refine .inr ⟨rfl, rfl, hrat, ?_⟩
      cases n <;> cases n' <;> simp_all [FV.neg]

/-! ### Minimum, maximum and compare (R121, R123) -/

section
variable {F : Fmt} {z : Bool} {a b : Nat}

/-- Operands of which neither comes before the other are delivered as one encoding. -/
theorem Fmt.deliver_eq_of_not_below (hF : F.Sound) (ha : a < 2 ^ (F.sp + 1)) (hb : b < 2 ^ (F.sp + 1)) (hA : (F.input z a).isNan = false)
    (hB : (F.input z b).isNan = false) (h : ¬(F.input z a).Below (F.input z b)) (h' : ¬(F.input z b).Below (F.input z a)) :
    F.deliver z a = F.deliver z b := by
  obtain ⟨n, hia, hib⟩ | ⟨hfa, hfb, hrat, hneg⟩ := FV.eq_of_not_below hA hB h h'
  · rw [Fmt.deliver_of_inf hF ha hia, Fmt.deliver_of_inf hF hb hib]
  · obtain ⟨g, -, hg, hgr⟩ := Fmt.input_fin hF ha hfa
    obtain ⟨g', -, hg', hgr'⟩ := Fmt.input_fin hF hb hfb
    have hsign : (if (F.input z b).neg then -1 else 1 : ℚ) ≠ 0 := by split <;> norm_num
    rw [hgr, hgr', hneg, mul_right_inj' hsign] at hrat
    rw [hg, hg', F.real_strictMono.injective hrat, hneg]

/-- What an operand is delivered as, by its value (R121). -/
theorem Fmt.deliver_eq_kept (hF : F.Sound) (hl : F.lane = true) (z : Bool) (x : Nat) : F.deliver z x =
    if z = true ∧ (F.value x).isFin = true ∧ |(F.value x).rat| < (2 : ℚ) ^ F.emin then F.make (F.sign x) 0 else x := by
  have hiff : F.Flushed z x ↔ z = true ∧ (F.value x).isFin = true ∧ |(F.value x).rat| < (2 : ℚ) ^ F.emin := by
    rw [Fmt.Flushed, and_iff_right hl]
    refine and_congr_right fun _ => ?_
    rcases Nat.lt_or_ge F.top (F.mag x) with h | h
    · have hnot : ¬F.mag x < 2 ^ F.fb := by have := hF.le_top; omega
      have hfin : (F.value x).isFin = false := by
        rw [Fmt.value_of_top_lt hF h]
        split
        · split <;> rfl
        · rfl
      simp [hnot, hfin]
    · have hfin : (F.value x).isFin = true := by rw [Fmt.value_of_mag_le hF h]; rfl
      have habs : |(F.value x).rat| = F.real (F.mag x) := by
        rw [Fmt.rat_value hF h]
        split <;> simp [abs_of_nonneg (F.real_nonneg _)]
      rw [hfin, habs, ← F.real_two_pow_fb, F.real_strictMono.lt_iff_lt]
      simp
  by_cases h : F.Flushed z x
  · rw [Fmt.deliver_of_flushed h, if_pos (hiff.mp h)]
  · rw [Fmt.deliver_of_not_flushed h, if_neg (hiff.not.mp h)]

/-- A minimum or maximum of two NaNs gives the first one quieted, and one of a NaN and a number the number (R121). -/
theorem Fmt.minmax_nan_nan (mx : Bool) (h : (F.input z a).isNan = true) (h' : (F.input z b).isNan = true) :
    F.minmax z mx a b = ⟨F.quiet a, if (F.input z a).isSig || (F.input z b).isSig then fSNaN else 0⟩ := by
  simp [Fmt.minmax, h, h', flagIf]
@[inherit_doc Fmt.minmax_nan_nan] theorem Fmt.minmax_nan_number (mx : Bool) (h : (F.input z a).isNan = true) (h' : (F.input z b).isNan = false) :
    F.minmax z mx a b = ⟨F.deliver z b, if (F.input z a).isSig || (F.input z b).isSig then fSNaN else 0⟩ := by
  simp [Fmt.minmax, h, h', flagIf]
@[inherit_doc Fmt.minmax_nan_nan] theorem Fmt.minmax_number_nan (mx : Bool) (h : (F.input z a).isNan = false) (h' : (F.input z b).isNan = true) :
    F.minmax z mx a b = ⟨F.deliver z a, if (F.input z a).isSig || (F.input z b).isSig then fSNaN else 0⟩ := by
  simp [Fmt.minmax, h, h', flagIf]

/-- A minimum or maximum of no NaNs is the operand that the order names (R121). -/
theorem Fmt.minmax_order (hF : F.Sound) (ha : a < 2 ^ (F.sp + 1)) (hb : b < 2 ^ (F.sp + 1)) (hA : (F.input z a).isNan = false)
    (hB : (F.input z b).isNan = false) :
    ((F.input z a).Below (F.input z b) → F.minmax z false a b = ⟨F.deliver z a, 0⟩ ∧ F.minmax z true a b = ⟨F.deliver z b, 0⟩) ∧
    ((F.input z b).Below (F.input z a) → F.minmax z false a b = ⟨F.deliver z b, 0⟩ ∧ F.minmax z true a b = ⟨F.deliver z a, 0⟩) ∧
    (¬(F.input z a).Below (F.input z b) → ¬(F.input z b).Below (F.input z a) → ∀ mx, F.minmax z mx a b = ⟨F.deliver z a, 0⟩) := by
  have hres (mx : Bool) : F.minmax z mx a b = ⟨F.deliver z (if (((F.input z a).lt (F.input z b) ||
      ((F.input z a).eq (F.input z b) && (F.input z a).neg && !(F.input z b).neg)) ^^ mx) then a else b), 0⟩ := by
    simp only [Fmt.minmax, hA, hB, Bool.and_self, Bool.false_eq_true, if_false]
  have hbelow := FV.below_iff hA hB
  generalize ((F.input z a).lt (F.input z b) || ((F.input z a).eq (F.input z b) && (F.input z a).neg && !(F.input z b).neg)) = less at *
  refine ⟨fun h => ?_, fun h => ?_, fun h h' mx => ?_⟩
  · rw [hres, hres, hbelow.mpr h]
    exact ⟨rfl, rfl⟩
  · rw [hres, hres, Bool.eq_false_of_not_eq_true (hbelow.not.mpr (h.asymm hB hA))]
    exact ⟨rfl, rfl⟩
  · rw [hres]
    have heq := Fmt.deliver_eq_of_not_below hF ha hb hA hB h h'
    split
    · rfl
    · rw [heq]

/-- A compare with a NaN is unordered (R123). -/
theorem Fmt.compare_nan (h : (F.input z a).isNan = true ∨ (F.input z b).isNan = true) :
    let signals := (F.input z a).isSig || (F.input z b).isSig
    F.compare z 0 a b = (false, if signals then fSNaN else 0) ∧ F.compare z 1 a b = (false, if signals then fSNaN else fNV) ∧
    F.compare z 2 a b = (false, if signals then fSNaN else fNV) ∧ F.compare z 3 a b = (true, if signals then fSNaN else 0) := by
  have hun : ((F.input z a).isNan || (F.input z b).isNan) = true := by simpa using h
  intro signals
  have hsig : ((F.input z a).isSig || (F.input z b).isSig) = signals := rfl
  simp only [Fmt.compare, hun, hsig]
  cases signals <;> simp [flagIf]

/-- A compare of no NaNs raises nothing and goes by the numbers (R123). -/
theorem Fmt.compare_order (hA : (F.input z a).isNan = false) (hB : (F.input z b).isNan = false) :
    (∀ c, c < 4 → (F.compare z c a b).2 = 0) ∧ ((F.compare z 0 a b).1 = true ↔ (F.input z a).Same (F.input z b)) ∧
    ((F.compare z 1 a b).1 = true ↔ (F.input z a).Less (F.input z b)) ∧
    ((F.compare z 2 a b).1 = true ↔ (F.input z a).Less (F.input z b) ∨ (F.input z a).Same (F.input z b)) ∧ (F.compare z 3 a b).1 = false := by
  have hsa := FV.isSig_of_not_isNan hA
  have hsb := FV.isSig_of_not_isNan hB
  rw [← FV.lt_iff hA hB, ← FV.eq_iff hA hB]
  refine ⟨fun c hc => ?_, ?_, ?_, ?_, ?_⟩
  · interval_cases c <;> simp [Fmt.compare, hA, hB, hsa, hsb, flagIf]
  all_goals simp [Fmt.compare, hA, hB]
end

/-! ### NaN operands of the rounding operations (R75, R118) -/

@[simp] theorem FV.isNan_fin (n : Bool) (m : Nat) (e : Int) : (FV.fin n m e).isNan = false := rfl
@[simp] theorem FV.isNan_inf (n : Bool) : (FV.inf n).isNan = false := rfl
@[simp] theorem FV.isZero_fin (n : Bool) (m : Nat) (e : Int) : (FV.fin n m e).isZero = (m == 0) := rfl
@[simp] theorem FV.isZero_inf (n : Bool) : (FV.inf n).isZero = false := rfl
@[simp] theorem FV.neg_fin (n : Bool) (m : Nat) (e : Int) : (FV.fin n m e).neg = n := rfl
@[simp] theorem FV.neg_inf (n : Bool) : (FV.inf n).neg = n := rfl
@[simp] theorem FV.isInf_fin (n : Bool) (m : Nat) (e : Int) : (FV.fin n m e).isInf = false := rfl
@[simp] theorem FV.isInf_inf (n : Bool) : (FV.inf n).isInf = true := rfl
@[simp] theorem FV.isFin_fin (n : Bool) (m : Nat) (e : Int) : (FV.fin n m e).isFin = true := rfl
@[simp] theorem FV.isFin_inf (n : Bool) : (FV.inf n).isFin = false := rfl

/-- The flags of NaN operands: NV where one of them signals. -/
def nanFlags (signals : Bool) : Flags := if signals then fSNaN else 0

section
variable {F : Fmt} {a b c : Nat}

theorem Fmt.nanOf_one (F : Fmt) (a : Nat) : F.nanOf [a] =
    if (F.value a).isNan then some ⟨F.quiet a, nanFlags (F.value a).isSig⟩ else none := by
  cases h : (F.value a).isNan <;> simp [Fmt.nanOf, h, flagIf, nanFlags]
theorem Fmt.nanOf_two (F : Fmt) (a b : Nat) : F.nanOf [a, b] =
    if (F.value a).isNan || (F.value b).isNan then
      some ⟨F.quiet (if (F.value a).isNan then a else b), nanFlags ((F.value a).isSig || (F.value b).isSig)⟩ else none := by
  cases h : (F.value a).isNan <;> cases h' : (F.value b).isNan <;> simp [Fmt.nanOf, h, h', flagIf, nanFlags]
theorem Fmt.nanOf_three (F : Fmt) (a b c : Nat) : F.nanOf [a, b, c] =
    if (F.value a).isNan || (F.value b).isNan || (F.value c).isNan then
      some ⟨F.quiet (if (F.value a).isNan then a else if (F.value b).isNan then b else c),
        nanFlags ((F.value a).isSig || (F.value b).isSig || (F.value c).isSig)⟩ else none := by
  cases h : (F.value a).isNan <;> cases h' : (F.value b).isNan <;> cases h'' : (F.value c).isNan <;>
    simp [Fmt.nanOf, h, h', h'', flagIf, nanFlags, Bool.or_assoc]
/-- Without a NaN operand the operation goes on. -/
theorem Fmt.nanOf_none {xs : List Nat} (h : ∀ x ∈ xs, (F.value x).isNan = false) : F.nanOf xs = none := by
  have hf : xs.find? (fun x => (F.value x).isNan) = none := List.find?_eq_none.mpr fun x hx => by simp [h x hx]
  simp only [Fmt.nanOf, hf]
end

/-! ### Scaling and classes (R120, R124) -/

/-- `fscale` rounds the exact product of a finite operand by a power of two; a NaN is made quiet and an infinity passes (R120). -/
theorem fscale_spec (z : Bool) (m : Mode) {a : Nat} (n : Int) :
    let A := fp32.input z a
    let r := fp32.scale z m a n
    (A.isNan = true → r = ⟨a ||| 2 ^ 22, if A.isSig then fSNaN else 0⟩) ∧ (A.isInf = true → r = ⟨a, 0⟩) ∧
    (A.isZero = true → r = ⟨if A.neg then 2 ^ 31 else 0, 0⟩) ∧
    (A.isFin = true → A.isZero = false → fp32.Rounds z m A.neg ((A.rat : ℝ) * (2 : ℝ) ^ n) r) := by
  intro A r
  have hnan : (fp32.value a).isNan = A.isNan := (Fmt.input_isNan fp32_sound z a).symm
  have hsig : (fp32.value a).isSig = A.isSig := (Fmt.input_isSig fp32_sound z a).symm
  have hnone (h : A.isNan = false) : fp32.nanOf [a] = none := Fmt.nanOf_none fun x hx => by rw [List.mem_singleton.mp hx, hnan, h]
  refine ⟨fun h => ?nan, fun h => ?inf, fun h => ?zero, fun h h0 => ?fin⟩
  case nan =>
    simp only [r, Fmt.scale, Fmt.nanOf_one, hnan, hsig, h, if_true]
    rfl
  case inf =>
    obtain ⟨s, hA⟩ := FV.eq_inf_of_isInf h
    simp only [r, Fmt.scale, hnone (hA ▸ rfl), show fp32.input z a = .inf s from hA]
  case zero =>
    obtain ⟨s, e, hA⟩ := FV.eq_zero_of_isZero h
    simp only [r, Fmt.scale, hnone (hA ▸ rfl), show fp32.input z a = .fin s 0 e from hA, hA]
    cases s <;> rfl
  case fin =>
    obtain ⟨s, k, e, hA⟩ := FV.eq_fin_of_isFin h
    have hk : (k == 0) = false := by rw [hA] at h0; exact h0
    have hrat : ((FV.fin s k (e + n)).rat : ℝ) = ((FV.fin s k e).rat : ℝ) * (2 : ℝ) ^ n := by
      rw [FV.rat_fin, FV.rat_fin, zpow_add₀ (by norm_num)]
      ring
    have hres : r = fp32.round z m s k (e + n) := by
      simp only [r, Fmt.scale, hnone (hA ▸ rfl), show fp32.input z a = .fin s k e from hA, hk, Bool.false_eq_true, if_false]
    rw [hres, hA, ← hrat]
    exact fp32.round_rounds fp32_sound z m s k (e + n)

/-- A class for each kind of FP32 encoding (R124). -/
theorem fclass_spec (x : Nat) :
    let v := fp32.value x
    let class_ (n p : Nat) : Prop := fp32.classify x = 2 ^ if v.neg then n else p
    (v.isInf = true → class_ 0 7) ∧ (v.isFin = true → (2 : ℚ) ^ (-126 : ℤ) ≤ |v.rat| → class_ 1 6) ∧
    (v.isFin = true → v.isZero = false → |v.rat| < (2 : ℚ) ^ (-126 : ℤ) → class_ 2 5) ∧ (v.isZero = true → class_ 3 4) ∧
    (v.isNan = true → fp32.classify x = if v.isSig then 2 ^ 8 else 2 ^ 9) := by
  intro v class_
  have hF := fp32_sound
  rcases Nat.lt_or_ge fp32.top (fp32.mag x) with h | h
  · have hv : fp32.value x = if fp32.mag x = fp32.infinity then .inf (fp32.sign x) else .nan (!(fp32.mag x).testBit (fp32.fb - 1)) :=
      Fmt.value_of_top_lt hF h
    simp only [class_, v, Fmt.classify, hv]
    split
    · cases fp32.sign x <;> simp
    · simp [FV.isInf, FV.isFin, FV.isZero, FV.isNan, FV.isSig]
  · have hv : fp32.value x = .fin (fp32.sign x) (fp32.sig (fp32.mag x)) (fp32.emin - fp32.fb + fp32.expo (fp32.mag x)) := Fmt.value_of_mag_le hF h
    have habs : |(fp32.value x).rat| = fp32.real (fp32.mag x) := by
      rw [Fmt.rat_value hF h]
      split <;> simp [abs_of_nonneg (fp32.real_nonneg _)]
    have hsmall : |(fp32.value x).rat| < (2 : ℚ) ^ (-126 : ℤ) ↔ fp32.mag x < 2 ^ fp32.fb := by
      rw [habs, show (-126 : ℤ) = fp32.emin by decide, ← fp32.real_two_pow_fb, fp32.real_strictMono.lt_iff_lt]
    have hzero (h0 : fp32.sig (fp32.mag x) = 0) : fp32.mag x < 2 ^ fp32.fb := by
      rw [← fp32.real_strictMono.lt_iff_lt, Fmt.real, h0, fp32.real_two_pow_fb]
      simp only [Nat.cast_zero, zero_mul]
      positivity
    simp only [class_, v, ← not_lt, hsmall]
    simp only [Fmt.classify, hv]
    refine ⟨fun hi => ?_, fun _ hm => ?_, fun _ h0 hm => ?_, fun h0 => ?_, fun hn => ?_⟩
    · cases hi
    · have h0 : (fp32.sig (fp32.mag x) == 0) = false := beq_eq_false_iff_ne.mpr fun h0 => hm (hzero h0)
      cases fp32.sign x <;> simp [h0, hm]
    · simp only [FV.isZero_fin] at h0
      cases fp32.sign x <;> simp [h0, hm]
    · simp only [FV.isZero_fin] at h0
      cases fp32.sign x <;> simp [h0]
    · cases hn

/-! ### The shapes of the floating instructions -/

/-- The rounding mode that a legal instruction names (R71). -/
theorem modeOf_eq {r : BitVec 3} (hr : r.toNat ≤ 4) (fpcsr : Word) : modeOf r fpcsr =
    if r = 0 then rmOf fpcsr else if r = 1 then .rne else if r = 2 then .rtz else if r = 3 then .rdn else .rup := by
  have hlegal : rndLegal r = true := by simpa [rndLegal] using hr
  rcases rnd_cases hlegal with rfl | rfl | rfl | rfl | rfl <;> rfl

/-- Clearing the sign of a word leaves the bits below it (R122). -/
theorem and_mask_eq {n : Nat} (x : BitVec (n + 1)) : x &&& (BitVec.allOnes n).setWidth (n + 1) = (x.extractLsb' 0 n).setWidth (n + 1) := by
  refine BitVec.eq_of_getLsbD_eq fun i hi => ?_
  simp [BitVec.getLsbD_extractLsb', BitVec.getLsbD_allOnes, hi, Bool.and_comm]
/-- Inverting the sign of a word leaves the bits below it (R122). -/
theorem xor_twoPow_eq {n : Nat} (x : BitVec (n + 1)) :
    x ^^^ BitVec.twoPow (n + 1) n = (BitVec.ofBool (!x.msb) ++ x.extractLsb' 0 n).cast (Nat.add_comm 1 n) := by
  refine BitVec.eq_of_getLsbD_eq fun i hi => ?_
  rw [BitVec.getLsbD_xor, BitVec.getLsbD_twoPow, BitVec.getLsbD_cast, BitVec.getLsbD_append, BitVec.getLsbD_extractLsb', BitVec.getLsbD_ofBool,
    BitVec.msb_eq_getLsbD_last, Nat.zero_add, Nat.add_sub_cancel]
  rcases Nat.lt_or_ge i n with h | h
  · simp [h, h.ne']
  · obtain rfl : i = n := by omega
    simp

/-- Settles O5: the instructions by the shape of their meanings; minima, maxima and compares by the order of values. -/
theorem floatingArithmeticResults : Obligations.FloatingArithmeticResults := by
  unfold Obligations.FloatingArithmeticResults
  refine ⟨fun h r c p d a b hr => ?forms, fun F hF z a b ha hb => ?order, fun z m a n _ => fscale_spec z m n, fun x _ => fclass_spec x⟩
  case forms =>
    intro m
    have hm : m = fun t => modeOf r t.fpcsr := funext fun t => (modeOf_eq hr t.fpcsr).symm
    clear_value m
    subst hm
    intro z f2 g2 g1
    refine ⟨⟨?fadd, ?fsub, ?fmul, ?fdiv, ?ffma, ?fsqrt⟩, ⟨?dadd, ?dsub, ?dmul, ?ddiv, ?dfma, ?dsqrt⟩,
      ⟨?fmin, ?fmax, ?dmin, ?dmax, ?fabs, ?fneg, ?dabs, ?dneg⟩, ?fcmp, ?dcmp, ?fclass, ?fscale⟩
    case fabs => exact .of_laneOp (fun _ => rfl) rfl fun t => congrArg (vOut d) (and_mask_eq (t.getV a))
    case fneg => exact .of_laneOp (fun _ => rfl) rfl fun t => congrArg (vOut d) (xor_twoPow_eq (t.getV a))
    case dabs => exact .of_laneOp (fun _ => rfl) rfl fun t => congrArg (pairOut d) (and_mask_eq (t.getPair a))
    case dneg => exact .of_laneOp (fun _ => rfl) rfl fun t => congrArg (pairOut d) (xor_twoPow_eq (t.getPair a))
    all_goals exact .of_laneOp (fun _ => rfl) rfl fun _ => rfl
  case order =>
    have hmem : F ∈ formats := by
      simp only [List.mem_cons, List.not_mem_nil, or_false] at hF
      rcases hF with rfl | rfl | rfl | rfl <;> decide
    have hS := sound_of_mem_formats hmem
    have hl : F.lane = true := by
      simp only [List.mem_cons, List.not_mem_nil, or_false] at hF
      rcases hF with rfl | rfl | rfl | rfl <;> rfl
    intro A B kept less same below signals
    have hkept (x : Nat) : kept x = F.deliver z x := (Fmt.deliver_eq_kept hS hl z x).symm
    simp only [hkept]
    exact ⟨fun hA hB mx => Fmt.minmax_nan_nan mx hA hB, fun hA hB mx => Fmt.minmax_nan_number mx hA hB, fun hA hB mx => Fmt.minmax_number_nan mx hA hB,
      fun hA hB => Fmt.minmax_order hS ha hb hA hB, fun h => Fmt.compare_nan h, fun hA hB => Fmt.compare_order hA hB⟩

end Sys2Proof.Machine

/-!
Exact values rounded once (O6): quotients and roots to more bits than a format holds, and the nearest value.
-/
namespace Sys2Proof.Machine

/-! ### Numbers that round alike -/

/-- Two numbers compare alike with every whole multiple of `2^q`: they lie at the same one, or between the same two. -/
def Alike (q : ℤ) (v v' : ℝ) : Prop :=
  ∀ n : ℤ, (n * (2 : ℝ) ^ q ≤ v ↔ n * (2 : ℝ) ^ q ≤ v') ∧ (v ≤ n * (2 : ℝ) ^ q ↔ v' ≤ n * (2 : ℝ) ^ q)

section
variable {q i : ℤ} {v v' : ℝ}

theorem Alike.symm (h : Alike q v v') : Alike q v' v := fun n => ⟨(h n).1.symm, (h n).2.symm⟩

theorem Alike.neg (h : Alike q v v') : Alike q (-v) (-v') := fun n => by
  obtain ⟨hle, hge⟩ := h (-n)
  rw [Int.cast_neg, neg_mul] at hle hge
  exact ⟨by rw [le_neg, le_neg (b := v')]; exact hge, by rw [neg_le, neg_le (a := v')]; exact hle⟩

theorem Alike.abs (h : Alike q v v') : Alike q |v| |v'| := fun n =>
  ⟨by rw [le_abs, le_abs]; exact or_congr (h n).1 (h.neg n).1, by rw [abs_le', abs_le']; exact and_congr (h n).2 (h.neg n).2⟩

/-- Multiples of a larger power of two are multiples of the smaller one. -/
theorem Alike.mono (h : Alike q v v') (hi : q ≤ i) : Alike i v v' := fun n => by
  obtain ⟨j, hj⟩ := Int.eq_ofNat_of_zero_le (sub_nonneg.mpr hi)
  have hn : (n : ℝ) * (2 : ℝ) ^ i = ((n * 2 ^ j : ℤ) : ℝ) * (2 : ℝ) ^ q := by
    rw [show i = j + q by omega, zpow_add₀ (by norm_num), zpow_natCast]
    push_cast
    ring
  rw [hn]
  exact h _

/-- In other units. -/
theorem Alike.div (h : Alike q v v') (i : ℤ) : Alike (q - i) (v / (2 : ℝ) ^ i) (v' / (2 : ℝ) ^ i) := fun n => by
  have hpos : (0 : ℝ) < 2 ^ i := by positivity
  rw [zpow_sub₀ (by norm_num), ← mul_div_assoc, div_le_div_iff_of_pos_right hpos, div_le_div_iff_of_pos_right hpos,
    div_le_div_iff_of_pos_right hpos, div_le_div_iff_of_pos_right hpos]
  exact h n

/-- After a whole number is taken away. -/
theorem Alike.sub_int (h : Alike (-1) v v') (w : ℤ) : Alike (-1) (v - w) (v' - w) := fun n => by
  have hn : ((n + 2 * w : ℤ) : ℝ) * (2 : ℝ) ^ (-1 : ℤ) = n * (2 : ℝ) ^ (-1 : ℤ) + w := by
    push_cast
    rw [zpow_neg_one]
    ring
  rw [le_sub_iff_add_le, le_sub_iff_add_le, sub_le_iff_le_add, sub_le_iff_le_add, ← hn]
  exact h _

/-- Powers of two that are multiples. -/
theorem Alike.zpow_le_iff (h : Alike q v v') (hi : q ≤ i) : (2 : ℝ) ^ i ≤ v ↔ (2 : ℝ) ^ i ≤ v' := by
  simpa using (h.mono hi 1).1

/-- Whole numbers compare alike. -/
theorem Alike.int_iff (h : Alike (-1) v v') (n : ℤ) : ((n : ℝ) ≤ v ↔ (n : ℝ) ≤ v') ∧ (v ≤ n ↔ v' ≤ n) := by
  simpa using h.mono (i := 0) (by norm_num) n

/-- Numbers that compare alike with the halves of whole numbers become one whole number. -/
theorem Mode.Makes.of_alike {mode : Mode} {w : ℤ} (hm : mode.Makes v' w) (h : Alike (-1) v v') : mode.Makes v w := by
  have hfloor : ⌊v⌋ = ⌊v'⌋ := by
    refine Int.floor_eq_iff.mpr ⟨(h.int_iff _).1.mpr (Int.floor_le v'), lt_of_not_ge fun hle => ?_⟩
    have hle' := (h.int_iff (⌊v'⌋ + 1)).1.mp (by push_cast; exact hle)
    push_cast at hle'
    exact absurd hle' (not_le.mpr (Int.lt_floor_add_one v'))
  have hceil : ⌈v⌉ = ⌈v'⌉ := by
    refine Int.ceil_eq_iff.mpr ⟨lt_of_not_ge fun hle => ?_, (h.int_iff _).2.mpr (Int.le_ceil v')⟩
    have hle' := (h.int_iff (⌈v'⌉ - 1)).2.mp (by push_cast; exact hle)
    push_cast at hle'
    exact absurd hle' (not_le.mpr (by linarith [Int.ceil_lt_add_one v']))
  have hzero : 0 ≤ v ↔ 0 ≤ v' := by simpa using (h.int_iff 0).1
  cases mode with
  | rne =>
    have hhalf := (h.sub_int w).abs 1
    rw [Int.cast_one, one_mul, zpow_neg_one] at hhalf
    obtain ⟨hle, heven⟩ := hm
    refine ⟨?_, fun he => heven ?_⟩
    · linarith [hhalf.2.mpr (by linarith)]
    · linarith [hhalf.1.mp (by linarith), hhalf.2.mp (by linarith)]
  | rtz => exact ⟨fun h0 => hfloor ▸ hm.1 (hzero.mp h0), fun h0 => hceil ▸ hm.2 (lt_of_not_ge fun h' => absurd (hzero.mpr h') (not_le.mpr h0))⟩
  | rdn => exact hm.trans hfloor.symm
  | rup => exact hm.trans hceil.symm

/-- Numbers that compare alike with the multiples of less than half a place round to one result (R72). -/
theorem Fmt.Rounds.of_alike {F : Fmt} {z neg : Bool} {mode : Mode} {r : Res} (hr : F.Rounds z mode neg v' r) (h : Alike q v v')
    (hb : (2 : ℝ) ^ (q + F.fb + 1) ≤ |v'|) : F.Rounds z mode neg v r := by
  have hb' : (2 : ℝ) ^ (q + F.fb + 1) ≤ |v| := (h.abs.zpow_le_iff (by omega)).mpr hb
  have hpos : (0 : ℝ) < 2 ^ (q + F.fb + 1) := by positivity
  obtain ⟨e, w, hemin, hhigh, hlow, hmakes, hres⟩ := hr.2 (abs_pos.mp (hpos.trans_le hb))
  have he : q + F.fb + 1 < e + 1 := (zpow_lt_zpow_iff_right₀ (by norm_num)).mp (hb.trans_lt hhigh)
  have hsmall : |v| < (2 : ℝ) ^ F.emin ↔ |v'| < (2 : ℝ) ^ F.emin := by
    rw [← not_le, ← not_le, not_iff_not]
    rcases le_total q F.emin with hq | hq
    · exact h.abs.zpow_le_iff hq
    · have hle : (2 : ℝ) ^ F.emin ≤ 2 ^ (q + F.fb + 1) := zpow_le_zpow_right₀ (by norm_num) (by omega)
      exact iff_of_true (hle.trans hb') (hle.trans hb)
  have hexact : (w : ℝ) * (2 : ℝ) ^ (e - F.fb) = v ↔ (w : ℝ) * (2 : ℝ) ^ (e - F.fb) = v' := by
    obtain ⟨hle, hge⟩ := h.mono (i := e - F.fb) (by omega) w
    rw [le_antisymm_iff, le_antisymm_iff, hle, hge]
  refine ⟨fun h0 => absurd h0 (abs_pos.mp (hpos.trans_le hb')), fun _ => ⟨e, w, hemin, ?_, ?_, ?_, ?_⟩⟩
  · exact lt_of_not_ge fun hle => absurd ((h.abs.zpow_le_iff (by omega)).mp hle) (not_le.mpr hhigh)
  · exact hlow.imp_right (h.abs.zpow_le_iff (by omega)).mpr
  · exact hmakes.of_alike ((h.div (e - F.fb)).mono (by omega))
  · simp only [hsmall, ← not_lt, ne_eq, hexact] at hres ⊢
    exact hres
end

/-! ### Sticky values -/

/-- The half after a whole number of units compares as the numbers between that whole number and the next one do. -/
theorem alike_of_between {m : Nat} {e : ℤ} {t : ℝ} (hlow : m * (2 : ℝ) ^ e < t) (hhigh : t < (m + 1) * (2 : ℝ) ^ e) :
    Alike e t ((2 * m + 1 : ℕ) * (2 : ℝ) ^ (e - 1)) := fun n => by
  have hpos : (0 : ℝ) < 2 ^ e := by positivity
  have hhalf : ((2 * m + 1 : ℕ) : ℝ) * (2 : ℝ) ^ (e - 1) = (m + 1 / 2) * (2 : ℝ) ^ e := by
    rw [zpow_sub_one₀ (by norm_num)]
    push_cast
    ring
  rw [hhalf, mul_le_mul_iff_left₀ hpos, mul_le_mul_iff_left₀ hpos]
  rcases le_or_gt n m with hn | hn
  · have hn' : (n : ℝ) ≤ m := by exact_mod_cast hn
    have hle : (n : ℝ) * (2 : ℝ) ^ e < t := lt_of_le_of_lt (by gcongr) hlow
    exact ⟨iff_of_true hle.le (by linarith), iff_of_false (not_le.mpr hle) (by linarith)⟩
  · have hn' : (m : ℝ) + 1 ≤ n := by exact_mod_cast hn
    have hlt : t < (n : ℝ) * (2 : ℝ) ^ e := hhigh.trans_le (by gcongr)
    exact ⟨iff_of_false (not_le.mpr hlt) (by linarith), iff_of_true hlt.le (by linarith)⟩

/-- A value known to a whole number of units, and whether it is that number, rounds as the value itself does where the number has
more than one bit beyond the format. -/
theorem sticky_rounds {F : Fmt} (hF : F.Sound) (z : Bool) (mode : Mode) (neg exact : Bool) {m : Nat} {e : ℤ} {t : ℝ} (hm : 2 ^ (F.fb + 1) ≤ m)
    (heq : exact = true → t = m * (2 : ℝ) ^ e) (hne : exact = false → m * (2 : ℝ) ^ e < t ∧ t < (m + 1) * (2 : ℝ) ^ e) :
    F.Rounds z mode neg (signFactor neg * t) (F.roundV z mode (sticky neg m e exact)) := by
  cases exact with
  | true =>
    rw [heq rfl, ← FV.rat_fin]
    exact F.round_rounds hF z mode neg m e
  | false =>
    obtain ⟨hlow, hhigh⟩ := hne rfl
    have hround := F.round_rounds hF z mode neg (2 * m + 1) (e - 1)
    rw [FV.rat_fin] at hround
    refine hround.of_alike (q := e) ?_ ?_
    · have h := alike_of_between hlow hhigh
      cases neg
      · simpa using h
      · simpa using h.neg
    · rw [abs_signFactor_mul, abs_of_nonneg (by positivity)]
      have hm' : (2 : ℝ) ^ (F.fb + 1) ≤ m := by exact_mod_cast hm
      calc (2 : ℝ) ^ (e + F.fb + 1) = 2 ^ (F.fb + 1) * 2 ^ e := by
            rw [← zpow_natCast, ← zpow_add₀ (by norm_num)]
            congr 1
            push_cast
            ring
        _ ≤ (m + 1 / 2) * 2 ^ e := by gcongr; linarith
        _ = (2 * m + 1 : ℕ) * 2 ^ (e - 1) := by
            rw [zpow_sub_one₀ (by norm_num)]
            push_cast
            ring

/-! ### Quotients (R118) -/

/-- A quotient of whole numbers by its whole part. -/
theorem natDiv_bounds (n : Nat) {d : Nat} (hd : d ≠ 0) :
    (n % d = 0 → (n : ℝ) / d = (n / d : ℕ)) ∧ (n % d ≠ 0 → ((n / d : ℕ) : ℝ) < n / d ∧ (n : ℝ) / d < (n / d : ℕ) + 1) := by
  have hpos : (0 : ℝ) < d := by exact_mod_cast Nat.pos_of_ne_zero hd
  have hdiv := Nat.div_add_mod n d
  have hmod := Nat.mod_lt n (Nat.pos_of_ne_zero hd)
  refine ⟨fun h => ?_, fun h => ⟨?_, ?_⟩⟩
  · rw [div_eq_iff hpos.ne']
    exact_mod_cast (by rw [Nat.mul_comm]; omega : n = n / d * d)
  · rw [lt_div_iff₀ hpos]
    exact_mod_cast (by rw [Nat.mul_comm]; omega : n / d * d < n)
  · rw [div_lt_iff₀ hpos]
    exact_mod_cast (by rw [Nat.add_mul, Nat.mul_comm]; omega : n < (n / d + 1) * d)

/-- `divFin` rounds as the quotient does. -/
theorem divFin_rounds {F : Fmt} (hF : F.Sound) (hfb : F.fb ≤ 62) (z : Bool) (mode : Mode) (n1 : Bool) (m1 : Nat) (e1 : Int) (n2 : Bool)
    {m2 : Nat} (h2 : m2 ≠ 0) (e2 : Int) :
    F.Rounds z mode (n1 ^^ n2) (((FV.fin n1 m1 e1).rat : ℝ) / ((FV.fin n2 m2 e2).rat : ℝ)) (F.roundV z mode (divFin n1 m1 e1 n2 m2 e2)) := by
  rcases eq_or_ne m1 0 with rfl | h1
  · have hzero : (((FV.fin n1 0 e1).rat : ℝ) / ((FV.fin n2 m2 e2).rat : ℝ)) = ((FV.fin (n1 ^^ n2) 0 0).rat : ℝ) := by simp [FV.rat]
    rw [hzero]
    exact F.round_rounds hF z mode (n1 ^^ n2) 0 0
  have hdiv : divFin n1 m1 e1 n2 m2 e2 = sticky (n1 ^^ n2) (m1 * 2 ^ (64 + Nat.log2 m2) / m2) (e1 - e2 - (64 + Nat.log2 m2 : ℕ))
      (m1 * 2 ^ (64 + Nat.log2 m2) % m2 == 0) := by
    simp [divFin, h1]
  generalize hk : 64 + Nat.log2 m2 = k at hdiv
  have h2' : (m2 : ℝ) ≠ 0 := by exact_mod_cast h2
  have hval : ((FV.fin n1 m1 e1).rat : ℝ) / ((FV.fin n2 m2 e2).rat : ℝ) =
      signFactor (n1 ^^ n2) * (((m1 * 2 ^ k : ℕ) : ℝ) / m2 * (2 : ℝ) ^ (e1 - e2 - k)) := by
    rw [FV.rat_fin, FV.rat_fin, zpow_sub₀ (by norm_num), zpow_sub₀ (by norm_num), zpow_natCast]
    push_cast
    cases n1 <;> cases n2 <;> simp <;> field_simp
  have hlarge : 2 ^ (F.fb + 1) ≤ m1 * 2 ^ k / m2 := by
    rw [Nat.le_div_iff_mul_le (Nat.pos_of_ne_zero h2)]
    calc 2 ^ (F.fb + 1) * m2 ≤ 2 ^ 63 * 2 ^ (Nat.log2 m2 + 1) := by
          gcongr
          · norm_num
          · omega
          · exact Nat.lt_log2_self.le
      _ = 2 ^ k := by rw [← hk, ← pow_add]; congr 1; omega
      _ ≤ m1 * 2 ^ k := Nat.le_mul_of_pos_left _ (Nat.pos_of_ne_zero h1)
  obtain ⟨heq, hne⟩ := natDiv_bounds (m1 * 2 ^ k) h2
  rw [hdiv, hval]
  refine sticky_rounds hF z mode _ _ hlarge (fun h => ?_) (fun h => ?_)
  · rw [heq (beq_iff_eq.mp h)]
  · obtain ⟨hlow, hhigh⟩ := hne (beq_eq_false_iff_ne.mp h)
    constructor <;> gcongr

/-! ### Roots (R118) -/

/-- The root tried from bit `b` down stays the whole part of the root. -/
theorem isqrtFrom_bounds (x b r : Nat) (hlow : r * r ≤ x) (hhigh : x < (r + 2 ^ b) * (r + 2 ^ b)) :
    isqrtFrom x b r * isqrtFrom x b r ≤ x ∧ x < (isqrtFrom x b r + 1) * (isqrtFrom x b r + 1) := by
  induction b generalizing r with
  | zero => exact ⟨hlow, hhigh⟩
  | succ b ih =>
    rw [isqrtFrom]
    have htwice : r + 2 ^ b + 2 ^ b = r + 2 ^ (b + 1) := by rw [pow_succ]; ring
    by_cases h : (r + 2 ^ b) * (r + 2 ^ b) ≤ x
    · simp only [h, if_true]
      exact ih _ h (by rwa [htwice])
    · simp only [h, if_false]
      exact ih _ hlow (not_le.mp h)

theorem isqrt_bounds (x : Nat) : isqrt x * isqrt x ≤ x ∧ x < (isqrt x + 1) * (isqrt x + 1) := by
  refine isqrtFrom_bounds x _ 0 (Nat.zero_le x) ?_
  calc x < 2 ^ (Nat.log2 x + 1) := Nat.lt_log2_self
    _ ≤ 2 ^ (Nat.log2 x / 2 + 1 + (Nat.log2 x / 2 + 1)) := Nat.pow_le_pow_right (by norm_num) (by omega)
    _ = _ := by rw [pow_add]; ring

/-- A root of a whole number by its whole part. -/
theorem sqrt_bounds {x r : Nat} (hlow : r * r ≤ x) (hhigh : x < (r + 1) * (r + 1)) :
    (r * r = x → √(x : ℝ) = r) ∧ (r * r ≠ x → (r : ℝ) < √(x : ℝ) ∧ √(x : ℝ) < r + 1) := by
  refine ⟨fun h => ?_, fun h => ⟨?_, ?_⟩⟩
  · rw [← h, Nat.cast_mul, Real.sqrt_mul_self (Nat.cast_nonneg r)]
  · rw [Real.lt_sqrt (Nat.cast_nonneg r), sq]
    exact_mod_cast lt_of_le_of_ne hlow h
  · rw [Real.sqrt_lt' (by positivity), sq]
    exact_mod_cast hhigh

/-- `sqrtFin` rounds as the root does. -/
theorem sqrtFin_rounds {F : Fmt} (hF : F.Sound) (hfb : F.fb ≤ 62) (z : Bool) (mode : Mode) {m : Nat} (hm : m ≠ 0) (e : Int) :
    F.Rounds z mode false √(m * (2 : ℝ) ^ e) (F.roundV z mode (sqrtFin m e)) := by
  -- The exponent made even, with more than enough bits below.
  obtain ⟨k, i, hk, hi, hfin⟩ : ∃ (k : ℕ) (i : ℤ), 132 ≤ k ∧ e = 2 * i + k ∧
      sqrtFin m e = sticky false (isqrt (m * 2 ^ k)) i (isqrt (m * 2 ^ k) * isqrt (m * 2 ^ k) == m * 2 ^ k) := by
    rcases Int.emod_two_eq_zero_or_one e with h | h
    · refine ⟨132, (e - 132) / 2, le_rfl, by push_cast; omega, ?_⟩
      simp only [sqrtFin, beq_eq_false_iff_ne.mpr hm, h, Bool.false_eq_true, if_false, beq_self_eq_true, if_true]
    · refine ⟨133, (e - 133) / 2, by norm_num, by push_cast; omega, ?_⟩
      have h0 : ((1 : ℤ) == 0) = false := rfl
      simp only [sqrtFin, beq_eq_false_iff_ne.mpr hm, h, h0, Bool.false_eq_true, if_false]
  obtain ⟨hlow, hhigh⟩ := isqrt_bounds (m * 2 ^ k)
  have hpow : 2 ^ 132 ≤ m * 2 ^ k := (Nat.pow_le_pow_right (by norm_num) hk).trans (Nat.le_mul_of_pos_left _ (Nat.pos_of_ne_zero hm))
  have hval : √(m * (2 : ℝ) ^ e) = signFactor false * (√((m * 2 ^ k : ℕ) : ℝ) * (2 : ℝ) ^ i) := by
    have hsplit : (m : ℝ) * (2 : ℝ) ^ e = ((m * 2 ^ k : ℕ) : ℝ) * ((2 : ℝ) ^ i) ^ 2 := by
      rw [hi, zpow_add₀ (by norm_num), zpow_natCast, zpow_mul, zpow_comm, zpow_ofNat]
      push_cast
      ring
    rw [hsplit, Real.sqrt_mul (Nat.cast_nonneg _), Real.sqrt_sq (by positivity)]
    simp
  rw [hfin, hval]
  generalize isqrt (m * 2 ^ k) = r at hlow hhigh ⊢
  have hlarge : 2 ^ (F.fb + 1) ≤ r := by
    have h66 : 2 ^ 66 ≤ r := by
      by_contra h
      have : (r + 1) * (r + 1) ≤ 2 ^ 66 * 2 ^ 66 := Nat.mul_le_mul (by omega) (by omega)
      omega
    exact (Nat.pow_le_pow_right (by norm_num) (by omega)).trans h66
  obtain ⟨heq, hne⟩ := sqrt_bounds hlow hhigh
  refine sticky_rounds hF z mode _ _ hlarge (fun h => ?_) (fun h => ?_)
  · rw [heq (beq_iff_eq.mp h)]
  · obtain ⟨hlow, hhigh⟩ := hne (beq_eq_false_iff_ne.mp h)
    constructor <;> gcongr

/-! ### The nearest value (R72) -/

/-- Of the whole multiples of the place at which a number is rounded to nearest even none is nearer than the one made. -/
theorem nearest_multiple {v u : ℝ} {w : ℤ} (hu : 0 < u) (hm : Mode.rne.Makes (v / u) w) (k : ℤ) : |w * u - v| ≤ |k * u - v| := by
  obtain ⟨hle, -⟩ := hm
  have hscale (j : ℤ) : |j * u - v| = |v / u - j| * u := by
    rw [abs_sub_comm, ← abs_of_pos (a := u) hu, ← abs_mul, abs_of_pos hu, sub_mul, div_mul_cancel₀ _ hu.ne']
  rw [hscale, hscale]
  refine mul_le_mul_of_nonneg_right ?_ hu.le
  rcases eq_or_ne k w with rfl | hne
  · exact le_rfl
  · have hone : (1 : ℝ) ≤ |(k : ℝ) - w| := by exact_mod_cast Int.one_le_abs (sub_ne_zero.mpr hne)
    have htri := abs_sub_le (k : ℝ) (v / u) w
    rw [abs_sub_comm (k : ℝ) (v / u)] at htri
    linarith

/-- Nor is any value of the format: one of a smaller exponent lies beyond a power of two that is a multiple. -/
theorem Fmt.nearest_real (F : Fmt) {v : ℝ} {e w : ℤ} (hm : Mode.rne.Makes (v / (2 : ℝ) ^ (e - F.fb)) w) (hlow : e = F.emin ∨ (2 : ℝ) ^ e ≤ |v|)
    (n : Bool) (a : Nat) : |w * (2 : ℝ) ^ (e - F.fb) - v| ≤ |signFactor n * (F.real a : ℝ) - v| := by
  have hu : (0 : ℝ) < 2 ^ (e - F.fb) := by positivity
  have hreal : ((F.real a : ℚ) : ℝ) = F.sig a * (2 : ℝ) ^ (F.emin - F.fb + F.expo a) := by rw [Fmt.real]; push_cast; rfl
  rcases le_or_gt e (F.emin + F.expo a) with he | he
  · obtain ⟨j, hj⟩ := Int.eq_ofNat_of_zero_le (sub_nonneg.mpr he)
    have hk : (signFactor n : ℝ) * (F.real a : ℝ) = ((signFactor n * F.sig a * 2 ^ j : ℤ) : ℝ) * (2 : ℝ) ^ (e - F.fb) := by
      rw [hreal, show F.emin - F.fb + F.expo a = j + (e - F.fb) by omega, zpow_add₀ (by norm_num), zpow_natCast]
      push_cast
      ring
    rw [hk]
    exact nearest_multiple hu hm _
  · have hv : (2 : ℝ) ^ e ≤ |v| := hlow.resolve_left (by omega)
    have hsmall : |(signFactor n : ℝ) * (F.real a : ℝ)| ≤ (2 : ℝ) ^ e := by
      rw [abs_signFactor_mul, abs_of_nonneg (by exact_mod_cast F.real_nonneg a), hreal]
      have hsig : (F.sig a : ℝ) ≤ (2 : ℝ) ^ (F.fb + 1) := by exact_mod_cast (F.sig_bounds a).1.le
      calc (F.sig a : ℝ) * (2 : ℝ) ^ (F.emin - F.fb + F.expo a) ≤ (2 : ℝ) ^ (F.fb + 1) * (2 : ℝ) ^ (F.emin - F.fb + F.expo a) := by gcongr
        _ = (2 : ℝ) ^ (F.emin + F.expo a + 1) := by
          rw [← zpow_natCast, ← zpow_add₀ (by norm_num)]
          congr 1
          push_cast
          ring
        _ ≤ (2 : ℝ) ^ e := zpow_le_zpow_right₀ (by norm_num) (by omega)
    have hpow : ((2 ^ F.fb : ℤ) : ℝ) * (2 : ℝ) ^ (e - F.fb) = (2 : ℝ) ^ e := by
      push_cast
      rw [← zpow_natCast, ← zpow_add₀ (by norm_num)]
      congr 1
      ring
    obtain ⟨hge, hle⟩ := abs_le.mp hsmall
    rcases le_total 0 v with h0 | h0
    · rw [abs_of_nonneg h0] at hv
      refine (nearest_multiple hu hm (2 ^ F.fb)).trans ?_
      rw [hpow, abs_of_nonpos (by linarith), abs_of_nonpos (by linarith)]
      linarith
    · rw [abs_of_nonpos h0] at hv
      refine (nearest_multiple hu hm (-2 ^ F.fb)).trans ?_
      rw [Int.cast_neg, neg_mul, hpow, abs_of_nonneg (by linarith), abs_of_nonneg (by linarith)]
      linarith

/-- Rounding to nearest even gives a finite value than which none is nearer, where it does not overflow (R72). -/
theorem Fmt.round_nearest {F : Fmt} (hF : F.Sound) (n : Bool) (m : Nat) (e : Int) (hno : (F.round false .rne n m e).fl.getLsbD 2 = false) :
    let r := F.round false .rne n m e
    (F.value r.bits).isFin = true ∧ ∀ y, (F.value y).isFin = true →
      |(F.value r.bits).rat - (FV.fin n m e).rat| ≤ |(F.value y).rat - (FV.fin n m e).rat| := by
  intro r
  obtain ⟨hzero, hround⟩ := F.round_rounds hF false .rne n m e
  rcases eq_or_ne (FV.fin n m e).rat 0 with h0 | h0
  · have hr : r = ⟨F.make n 0, 0⟩ := hzero (by rw [h0, Rat.cast_zero])
    have hrat : (F.value r.bits).rat = 0 := by rw [hr, Fmt.rat_value_make hF (Nat.zero_le _), F.real_zero, mul_zero]
    refine ⟨by rw [hr, Fmt.value_make hF (Nat.zero_le _)]; rfl, fun y _ => ?_⟩
    rw [hrat, h0, sub_zero, abs_zero]
    exact abs_nonneg _
  · obtain ⟨i, w, -, -, hlow, hmakes, hinf, htop, -, hin⟩ := hround (by exact_mod_cast h0)
    have hflag : (fOF ||| fNX).getLsbD 2 = true := by decide
    have hbeyond : ¬((F.value F.top).rat : ℝ) < |(w : ℝ) * (2 : ℝ) ^ (i - F.fb)| := fun h => by
      by_cases hi : F.ieee = true
      · rw [hinf h ⟨hi, .inl rfl⟩] at hno
        exact Bool.false_ne_true (hno.symm.trans hflag)
      · rw [htop h fun h' => hi h'.1] at hno
        exact Bool.false_ne_true (hno.symm.trans hflag)
    obtain ⟨⟨k, j, hvalue⟩, -, hrat, -, -, -⟩ := hin hbeyond fun h => Bool.false_ne_true h.1
    refine ⟨by rw [hvalue]; rfl, fun y hy => ?_⟩
    have hle : F.mag y ≤ F.top := by
      by_contra h
      rw [Fmt.value_of_top_lt hF (not_le.mp h)] at hy
      split at hy
      · split at hy <;> cases hy
      · cases hy
    have hy' : ((F.value y).rat : ℝ) = signFactor (F.sign y) * (F.real (F.mag y) : ℝ) := by
      rw [Fmt.rat_value hF hle]
      cases F.sign y <;> simp
    have key := F.nearest_real hmakes hlow (F.sign y) (F.mag y)
    rw [← hy', ← hrat] at key
    exact_mod_cast key

/-! ### The operations by their operands (R118, R119) -/

/-- A product of an infinity and a number that is no zero, and of an infinity and a zero. -/
def FV.InfProd (x y : FV) : Prop := (x.isInf = true ∧ y.isNan = false ∧ y.isZero = false) ∨ (y.isInf = true ∧ x.isNan = false ∧ x.isZero = false)
@[inherit_doc FV.InfProd] def FV.ZeroInf (x y : FV) : Prop := (x.isZero = true ∧ y.isInf = true) ∨ (x.isInf = true ∧ y.isZero = true)

section
variable {x y : FV}

theorem FV.ZeroInf.mul? (h : x.ZeroInf y) : x.mul? y = none := by
  obtain ⟨hx, hy⟩ | ⟨hx, hy⟩ := h
  · obtain ⟨n, e, rfl⟩ := FV.eq_zero_of_isZero hx
    obtain ⟨n', rfl⟩ := FV.eq_inf_of_isInf hy
    rfl
  · obtain ⟨n, rfl⟩ := FV.eq_inf_of_isInf hx
    obtain ⟨n', e, rfl⟩ := FV.eq_zero_of_isZero hy
    rfl
theorem FV.InfProd.mul? (h : x.InfProd y) : x.mul? y = some (.inf (x.neg ^^ y.neg)) := by
  obtain ⟨hx, hn, h0⟩ | ⟨hy, hn, h0⟩ := h
  · obtain ⟨n, rfl⟩ := FV.eq_inf_of_isInf hx
    cases y with
    | nan s => cases hn
    | inf n' => rfl
    | fin n' m e => simpa [FV.mul?] using h0
  · obtain ⟨n, rfl⟩ := FV.eq_inf_of_isInf hy
    cases x with
    | nan s => cases hn
    | inf n' => rfl
    | fin n' m e => simpa [FV.mul?] using h0

theorem FV.isNan_of_isInf (h : x.isInf = true) : x.isNan = false := by
  obtain ⟨n, rfl⟩ := FV.eq_inf_of_isInf h
  rfl
theorem FV.isNan_of_isZero (h : x.isZero = true) : x.isNan = false := by
  obtain ⟨n, e, rfl⟩ := FV.eq_zero_of_isZero h
  rfl
theorem FV.ZeroInf.numbers (h : x.ZeroInf y) : x.isNan = false ∧ y.isNan = false := by
  obtain ⟨hx, hy⟩ | ⟨hx, hy⟩ := h
  · exact ⟨FV.isNan_of_isZero hx, FV.isNan_of_isInf hy⟩
  · exact ⟨FV.isNan_of_isInf hx, FV.isNan_of_isZero hy⟩
theorem FV.InfProd.numbers (h : x.InfProd y) : x.isNan = false ∧ y.isNan = false := by
  obtain ⟨hx, hn, -⟩ | ⟨hy, hn, -⟩ := h
  · exact ⟨FV.isNan_of_isInf hx, hn⟩
  · exact ⟨hn, FV.isNan_of_isInf hy⟩
end

/-- What an operation gives of an exact value, and where there is none (R118, R119). -/
def Fmt.finish (F : Fmt) (z : Bool) (mode : Mode) (v : Option FV) : Res := v.elim F.invalid (F.roundV z mode)

section
variable {F : Fmt} {z : Bool} {a b c : Nat}

theorem Fmt.nanOf_one_number (hF : F.Sound) (hA : (F.input z a).isNan = false) : F.nanOf [a] = none := by
  rw [Fmt.input_isNan hF] at hA
  simp [Fmt.nanOf_one, hA]
theorem Fmt.nanOf_two_numbers (hF : F.Sound) (hA : (F.input z a).isNan = false) (hB : (F.input z b).isNan = false) : F.nanOf [a, b] = none := by
  rw [Fmt.input_isNan hF] at hA hB
  simp [Fmt.nanOf_two, hA, hB]
theorem Fmt.nanOf_three_numbers (hF : F.Sound) (hA : (F.input z a).isNan = false) (hB : (F.input z b).isNan = false)
    (hC : (F.input z c).isNan = false) : F.nanOf [a, b, c] = none := by
  rw [Fmt.input_isNan hF] at hA hB hC
  simp [Fmt.nanOf_three, hA, hB, hC]

/-- Sums, differences, products and fused sums of numbers. -/
theorem Fmt.add_numbers (hF : F.Sound) (mode : Mode) {x y : FV} (hA : F.input z a = x) (hB : F.input z b = y) (hx : x.isNan = false)
    (hy : y.isNan = false) : F.add z mode a b = F.finish z mode (x.add? mode y) := by
  subst hA hB
  simp only [Fmt.add, Fmt.nanOf_two_numbers hF hx hy]
  cases (F.input z a).add? mode (F.input z b) <;> rfl
@[inherit_doc Fmt.add_numbers] theorem Fmt.sub_numbers (hF : F.Sound) (mode : Mode) {x y : FV} (hA : F.input z a = x) (hB : F.input z b = y)
    (hx : x.isNan = false) (hy : y.isNan = false) : F.sub z mode a b = F.finish z mode (x.add? mode y.negate) := by
  subst hA hB
  simp only [Fmt.sub, Fmt.nanOf_two_numbers hF hx hy]
  cases (F.input z a).add? mode (F.input z b).negate <;> rfl
@[inherit_doc Fmt.add_numbers] theorem Fmt.mul_numbers (hF : F.Sound) (mode : Mode) {x y : FV} (hA : F.input z a = x) (hB : F.input z b = y)
    (hx : x.isNan = false) (hy : y.isNan = false) : F.mul z mode a b = F.finish z mode (x.mul? y) := by
  subst hA hB
  simp only [Fmt.mul, Fmt.nanOf_two_numbers hF hx hy]
  cases (F.input z a).mul? (F.input z b) <;> rfl
@[inherit_doc Fmt.add_numbers] theorem Fmt.fma_numbers (hF : F.Sound) (mode : Mode) {x y w : FV} (hA : F.input z a = x) (hB : F.input z b = y)
    (hC : F.input z c = w) (hx : x.isNan = false) (hy : y.isNan = false) (hw : w.isNan = false) :
    F.fma z mode a b c = F.finish z mode ((x.mul? y).bind fun p => p.add? mode w) := by
  subst hA hB hC
  simp only [Fmt.fma, Fmt.nanOf_three_numbers hF hx hy hw]
  cases (F.input z a).mul? (F.input z b) with
  | none => rfl
  | some p =>
    simp only [Option.bind_some]
    cases p.add? mode (F.input z c) <;> rfl

@[simp] theorem Fmt.finish_none (F : Fmt) (z : Bool) (mode : Mode) : F.finish z mode none = ⟨F.nan, fNV⟩ := rfl
@[simp] theorem Fmt.finish_inf (F : Fmt) (z : Bool) (mode : Mode) (n : Bool) : F.finish z mode (some (.inf n)) = ⟨F.make n F.infinity, 0⟩ := rfl
@[simp] theorem Fmt.finish_fin (F : Fmt) (z : Bool) (mode : Mode) (n : Bool) (m : Nat) (e : Int) :
    F.finish z mode (some (.fin n m e)) = F.round z mode n m e := rfl
@[simp] theorem FV.inf_add_inf (mode : Mode) (n n' : Bool) : (FV.inf n).add? mode (.inf n') = if n = n' then some (.inf n) else none := by
  simp [FV.add?]

/-- Quotients of numbers (R118, R119). -/
theorem Fmt.div_fin_fin (hF : F.Sound) (mode : Mode) {n1 n2 : Bool} {m1 m2 : Nat} {e1 e2 : Int} (hA : F.input z a = .fin n1 m1 e1)
    (hB : F.input z b = .fin n2 m2 e2) : F.div z mode a b =
      if m2 = 0 then (if m1 = 0 then F.invalid else ⟨F.make (n1 ^^ n2) F.infinity, fDZ⟩) else F.roundV z mode (divFin n1 m1 e1 n2 m2 e2) := by
  simp only [Fmt.div, Fmt.nanOf_two_numbers hF (hA ▸ FV.isNan_fin ..) (hB ▸ FV.isNan_fin ..), hA, hB, beq_iff_eq]
@[inherit_doc Fmt.div_fin_fin] theorem Fmt.div_inf_fin (hF : F.Sound) (mode : Mode) {n1 n2 : Bool} {m : Nat} {e : Int}
    (hA : F.input z a = .inf n1) (hB : F.input z b = .fin n2 m e) : F.div z mode a b = ⟨F.make (n1 ^^ n2) F.infinity, 0⟩ := by
  simp only [Fmt.div, Fmt.nanOf_two_numbers hF (hA ▸ FV.isNan_inf ..) (hB ▸ FV.isNan_fin ..), hA, hB]
@[inherit_doc Fmt.div_fin_fin] theorem Fmt.div_fin_inf (hF : F.Sound) (mode : Mode) {n1 n2 : Bool} {m : Nat} {e : Int}
    (hA : F.input z a = .fin n1 m e) (hB : F.input z b = .inf n2) : F.div z mode a b = ⟨F.make (n1 ^^ n2) 0, 0⟩ := by
  simp only [Fmt.div, Fmt.nanOf_two_numbers hF (hA ▸ FV.isNan_fin ..) (hB ▸ FV.isNan_inf ..), hA, hB]
@[inherit_doc Fmt.div_fin_fin] theorem Fmt.div_inf_inf (hF : F.Sound) (mode : Mode) {n1 n2 : Bool} (hA : F.input z a = .inf n1)
    (hB : F.input z b = .inf n2) : F.div z mode a b = F.invalid := by
  simp only [Fmt.div, Fmt.nanOf_two_numbers hF (hA ▸ FV.isNan_inf ..) (hB ▸ FV.isNan_inf ..), hA, hB]
/-- Roots of numbers (R118, R119). -/
theorem Fmt.sqrt_fin (hF : F.Sound) (mode : Mode) {n : Bool} {m : Nat} {e : Int} (hA : F.input z a = .fin n m e) : F.sqrt z mode a =
    if m = 0 then ⟨F.make n 0, 0⟩ else if n then F.invalid else F.roundV z mode (sqrtFin m e) := by
  simp only [Fmt.sqrt, Fmt.nanOf_one_number hF (hA ▸ FV.isNan_fin ..), hA, beq_iff_eq]
@[inherit_doc Fmt.sqrt_fin] theorem Fmt.sqrt_inf (hF : F.Sound) (mode : Mode) {n : Bool} (hA : F.input z a = .inf n) : F.sqrt z mode a =
    if n then F.invalid else ⟨F.infinity, 0⟩ := by
  simp only [Fmt.sqrt, Fmt.nanOf_one_number hF (hA ▸ FV.isNan_inf ..), hA]

/-- A result is an exact finite value, rounded once; of zero it has the sign `n` (R118, R72). -/
def Fmt.Exact (F : Fmt) (z : Bool) (mode : Mode) (v : ℚ) (n : Bool) (r : Res) : Prop :=
  (∃ x : FV, (∃ n m e, x = .fin n m e) ∧ x.rat = v ∧ r = F.roundV z mode x) ∧ (v = 0 → r = ⟨F.make n 0, 0⟩)

theorem addFin_exact (F : Fmt) (z : Bool) (mode : Mode) (n1 : Bool) (m1 : Nat) (e1 : Int) (n2 : Bool) (m2 : Nat) (e2 : Int) :
    F.Exact z mode ((FV.fin n1 m1 e1).rat + (FV.fin n2 m2 e2).rat) (if n1 = n2 then n1 else mode == .rdn)
      (F.roundV z mode (addFin mode n1 m1 e1 n2 m2 e2)) := by
  obtain ⟨n, m, e, hadd, hrat, -, -, hzero⟩ := addFin_spec mode n1 m1 e1 n2 m2 e2
  rw [hadd]
  refine ⟨⟨_, ⟨n, m, e, rfl⟩, hrat, rfl⟩, fun h0 => ?_⟩
  obtain rfl : m = 0 := (FV.rat_eq_zero_iff n m e).mp (hrat.trans h0)
  rw [← hzero h0]
  rfl
theorem FV.rat_negate (n : Bool) (m : Nat) (e : Int) : (FV.fin (!n) m e).rat = -(FV.fin n m e).rat := by
  cases n <;> simp [FV.rat]

/-- Sums, differences, products and fused sums of finite numbers. -/
theorem Fmt.exact_operations (hF : F.Sound) (mode : Mode) {n1 n2 : Bool} {m1 m2 : Nat} {e1 e2 : Int} (hA : F.input z a = .fin n1 m1 e1)
    (hB : F.input z b = .fin n2 m2 e2) :
    let x := FV.fin n1 m1 e1
    let y := FV.fin n2 m2 e2
    let opp (x y : Bool) : Bool := if x = y then x else mode == .rdn
    F.Exact z mode (x.rat + y.rat) (opp n1 n2) (F.add z mode a b) ∧ F.Exact z mode (x.rat - y.rat) (opp n1 (!n2)) (F.sub z mode a b) ∧
    F.Exact z mode (x.rat * y.rat) (n1 ^^ n2) (F.mul z mode a b) ∧
    ∀ n3 m3 e3, F.input z c = .fin n3 m3 e3 →
      F.Exact z mode (x.rat * y.rat + (FV.fin n3 m3 e3).rat) (opp (n1 ^^ n2) n3) (F.fma z mode a b c) := by
  intro x y opp
  refine ⟨?add, ?sub, ?mul, fun n3 m3 e3 hC => ?fma⟩
  case add =>
    rw [Fmt.add_numbers hF mode hA hB rfl rfl]
    exact addFin_exact F z mode ..
  case sub =>
    rw [Fmt.sub_numbers hF mode hA hB rfl rfl, sub_eq_add_neg, ← FV.rat_negate]
    exact addFin_exact F z mode ..
  case mul =>
    rw [Fmt.mul_numbers hF mode hA hB rfl rfl]
    refine ⟨⟨_, ⟨_, _, _, rfl⟩, FV.rat_mulFin n1 m1 e1 n2 m2 e2, rfl⟩, fun h0 => ?_⟩
    have hm := (FV.rat_eq_zero_iff _ _ _).mp ((FV.rat_mulFin n1 m1 e1 n2 m2 e2).trans h0)
    simp only [FV.mul?, mulFin, Fmt.finish_fin, hm]
    rfl
  case fma =>
    rw [Fmt.fma_numbers hF mode hA hB hC rfl rfl rfl, ← FV.rat_mulFin]
    exact addFin_exact F z mode ..
end

/-- Settles O6: NaNs, infinities and zero divisors by the shape of the operands; quotients and roots by more bits than a format holds. -/
theorem exactThenRoundedOnce : Obligations.ExactThenRoundedOnce := by
  unfold Obligations.ExactThenRoundedOnce
  refine ⟨fun F hF z mode a b c => ?operations, fun F hF z mode n k e => ⟨rfl, F.round_rounds (sound_of_mem_formats hF) z mode n k e⟩,
    fun n m e => ?nearest⟩
  case nearest =>
    intro r hno
    obtain ⟨hfin, hnear⟩ := Fmt.round_nearest fp32_sound n m e hno
    exact ⟨FV.eq_fin_of_isFin hfin, fun y n' m' e' _ hy => hnear y (by rw [hy]; rfl)⟩
  case operations =>
    have hS : F.Sound := sound_of_mem_formats (by rcases hF with rfl | rfl <;> decide)
    have hfb : F.fb ≤ 62 := by rcases hF with rfl | rfl <;> decide
    intro A B C nan3 nan2 fin inv infty zero p infProd zeroInf
    have hnanA : (F.value a).isNan = A.isNan := (Fmt.input_isNan hS z a).symm
    have hsigA : (F.value a).isSig = A.isSig := (Fmt.input_isSig hS z a).symm
    have hnanC : (F.value c).isNan = C.isNan := (Fmt.input_isNan hS z c).symm
    refine ⟨?nan2, ?nan3, ?nan1, ⟨?addInv, ?subInv, ?mulInv, ?fmaInv, ?divInv, ?sqrtInv⟩,
      ⟨?infLeft, ?infRight, ?infProd, ?infThird, ?sqrtInf, ?sqrtZero, ?divZero⟩, ?exact, ?signs, ?root⟩
    case nan2 =>
      intro hn r
      have hnan : F.nanOf [a, b] = some r := by rw [Fmt.nanOf_two, if_pos hn]; rfl
      exact ⟨by simp only [Fmt.add, hnan], by simp only [Fmt.sub, hnan], by simp only [Fmt.mul, hnan], by simp only [Fmt.div, hnan]⟩
    case nan3 =>
      intro hn
      simp only [Fmt.fma, Fmt.nanOf_three, show ((F.value a).isNan || (F.value b).isNan || (F.value c).isNan) = true from hn, if_true]
      rfl
    case nan1 =>
      intro hn
      simp only [Fmt.sqrt, Fmt.nanOf_one, hnanA, hn, hsigA, if_true]
      rfl
    case addInv =>
      rintro n ⟨hA, hB⟩
      exact ⟨by rw [Fmt.add_numbers hS mode hA hB rfl rfl]; simp [inv], by rw [Fmt.sub_numbers hS mode hA hB rfl rfl]; simp [FV.negate, infty]⟩
    case subInv =>
      rintro n ⟨hA, hB⟩
      exact ⟨by rw [Fmt.sub_numbers hS mode hA hB rfl rfl]; simp [FV.negate, inv], by rw [Fmt.add_numbers hS mode hA hB rfl rfl]; simp [infty]⟩
    case mulInv =>
      intro (h : FV.ZeroInf A B)
      obtain ⟨hA, hB⟩ := h.numbers
      refine ⟨by rw [Fmt.mul_numbers hS mode rfl rfl hA hB, h.mul?]; rfl, fun hn => ?_⟩
      have hC : C.isNan = false := by
        rw [← hnanC]
        exact (Bool.or_eq_false_iff.mp hn).2
      rw [Fmt.fma_numbers hS mode rfl rfl rfl hA hB hC, h.mul?]
      rfl
    case fmaInv =>
      rintro ⟨h : FV.InfProd A B, hC⟩
      obtain ⟨hA, hB⟩ := h.numbers
      rw [Fmt.fma_numbers hS mode rfl rfl hC hA hB rfl, h.mul?]
      simp [inv, p]
    case divInv =>
      rintro (⟨hA, hB⟩ | ⟨hA, hB⟩)
      · obtain ⟨n, e, hA⟩ := FV.eq_zero_of_isZero hA
        obtain ⟨n', e', hB⟩ := FV.eq_zero_of_isZero hB
        rw [Fmt.div_fin_fin hS mode hA hB, if_pos rfl, if_pos rfl]
        rfl
      · obtain ⟨n, hA⟩ := FV.eq_inf_of_isInf hA
        obtain ⟨n', hB⟩ := FV.eq_inf_of_isInf hB
        rw [Fmt.div_inf_inf hS mode hA hB]
        rfl
    case sqrtInv =>
      rintro ⟨hn, h0, hneg⟩
      cases hA : A with
      | nan s => rw [hA] at hn; cases hn
      | inf n =>
        obtain rfl : n = true := by rw [hA] at hneg; exact hneg
        rw [Fmt.sqrt_inf hS mode hA]
        rfl
      | fin n m e =>
        obtain rfl : n = true := by rw [hA] at hneg; exact hneg
        rw [hA, FV.isZero_fin, beq_eq_false_iff_ne] at h0
        rw [Fmt.sqrt_fin hS mode hA, if_neg h0]
        rfl
    case infLeft =>
      rintro n ⟨hA, n', k, e, hB⟩
      refine ⟨Fmt.add_numbers hS mode hA hB rfl rfl, Fmt.sub_numbers hS mode hA hB rfl rfl, ?_⟩
      rw [Fmt.div_inf_fin hS mode hA hB]
      simp only [infty, p, hA, hB, FV.neg_inf, FV.neg_fin]
    case infRight =>
      rintro n ⟨⟨n', k, e, hA⟩, hB⟩
      refine ⟨Fmt.add_numbers hS mode hA hB rfl rfl, Fmt.sub_numbers hS mode hA hB rfl rfl, ?_⟩
      rw [Fmt.div_fin_inf hS mode hA hB]
      simp only [zero, p, hA, hB, FV.neg_inf, FV.neg_fin]
    case infProd =>
      intro (h : FV.InfProd A B)
      obtain ⟨hA, hB⟩ := h.numbers
      refine ⟨by rw [Fmt.mul_numbers hS mode rfl rfl hA hB, h.mul?]; rfl, ?_⟩
      rintro (⟨n, k, e, hC⟩ | hC)
      · rw [Fmt.fma_numbers hS mode rfl rfl hC hA hB rfl, h.mul?]
        rfl
      · rw [Fmt.fma_numbers hS mode rfl rfl hC hA hB rfl, h.mul?]
        simp [infty, p]
    case infThird =>
      rintro n ⟨⟨n1, m1, e1, hA⟩, ⟨n2, m2, e2, hB⟩, hC⟩
      exact Fmt.fma_numbers hS mode hA hB hC rfl rfl rfl
    case sqrtInf => exact fun hA => Fmt.sqrt_inf hS mode hA
    case sqrtZero =>
      intro hA
      obtain ⟨n, e, hA⟩ := FV.eq_zero_of_isZero hA
      rw [Fmt.sqrt_fin hS mode hA, if_pos rfl, hA]
      rfl
    case divZero =>
      rintro ⟨⟨n, k, e, hA⟩, h0, hB⟩
      obtain ⟨n', e', hB⟩ := FV.eq_zero_of_isZero hB
      rw [hA, FV.isZero_fin, beq_eq_false_iff_ne] at h0
      rw [Fmt.div_fin_fin hS mode hA hB, if_pos rfl, if_neg h0]
      simp only [p, hA, hB, FV.neg_fin]
    case exact =>
      rintro ⟨⟨n1, m1, e1, hA⟩, n2, m2, e2, hB⟩
      obtain ⟨hadd, hsub, hmul, hfma⟩ := Fmt.exact_operations (c := c) hS mode hA hB
      rw [hA, hB]
      refine ⟨hadd.1, hsub.1, hmul.1, ?_⟩
      rintro ⟨n3, m3, e3, hC⟩
      rw [hC]
      exact (hfma n3 m3 e3 hC).1
    case signs =>
      rintro ⟨⟨n1, m1, e1, hA⟩, n2, m2, e2, hB⟩ opp
      obtain ⟨hadd, hsub, hmul, hfma⟩ := Fmt.exact_operations (c := c) hS mode hA hB
      simp only [p]
      rw [hA, hB]
      refine ⟨hadd.2, hsub.2, hmul.2, ?_, fun h0 => ?_⟩
      · rintro ⟨n3, m3, e3, hC⟩
        rw [hC]
        exact (hfma n3 m3 e3 hC).2
      · rw [FV.isZero_fin, beq_eq_false_iff_ne] at h0
        rw [Fmt.div_fin_fin hS mode hA hB, if_neg h0]
        exact divFin_rounds hS hfb z mode n1 m1 e1 n2 h0 e2
    case root =>
      rintro ⟨⟨n, m, e, hA⟩, h0, hneg⟩
      rw [hA, FV.isZero_fin, beq_eq_false_iff_ne] at h0
      obtain rfl : n = false := by rw [hA] at hneg; exact hneg
      rw [Fmt.sqrt_fin hS mode hA, if_neg h0, hA, FV.rat_fin, signFactor_false, Int.cast_one, one_mul]
      exact sqrtFin_rounds hS hfb z mode h0 e

end Sys2Proof.Machine

/-!
Conversions, quantisation and common scales (O8).
-/
namespace Sys2Proof.Machine

/-! ### Packed elements (R131) -/

/-- Elements packed from the lowest upward, as a sum and as a union of flags. -/
theorem packElems_eq (w : Nat) (rs : List Res) :
    packElems w rs = ⟨(rs.mapIdx fun i x => x.bits * 2 ^ (w * i)).sum, rs.foldl (fun x y => x ||| y.fl) 0⟩ := by
  have hfl (rs : List Res) (fl : Flags) : fl ||| (packElems w rs).fl = rs.foldl (fun x y => x ||| y.fl) fl := by
    induction rs generalizing fl with
    | nil => exact BitVec.or_zero
    | cons r rs ih => rw [List.foldl_cons, ← ih, packElems, BitVec.or_assoc]
  have hbits : (packElems w rs).bits = (rs.mapIdx fun i x => x.bits * 2 ^ (w * i)).sum := by
    induction rs with
    | nil => rfl
    | cons r rs ih =>
      have hshift : (fun i (x : Res) => x.bits * 2 ^ (w * (i + 1))) = fun i x => 2 ^ w * (x.bits * 2 ^ (w * i)) := by
        funext i x
        rw [Nat.mul_add, pow_add]
        ring
      have hfactor : (rs.mapIdx fun i x => 2 ^ w * (x.bits * 2 ^ (w * i))).sum = 2 ^ w * (rs.mapIdx fun i x => x.bits * 2 ^ (w * i)).sum := by
        rw [List.mapIdx_eq_zipIdx_map, List.mapIdx_eq_zipIdx_map, List.sum_map_mul_left]
      rw [List.mapIdx_cons, List.sum_cons, hshift, hfactor, ← ih, packElems]
      simp
  rw [← hbits, ← hfl rs 0, show (0 : Flags) ||| (packElems w rs).fl = (packElems w rs).fl from BitVec.zero_or]

/-! ### The shapes of the conversions and quantisations -/

section
variable {i : Instr} {h : Hd} {q : QFmt} {d a b : Reg} {w n : Nat}

/-- Values quantised under one scale (R133). -/
theorem Gives.of_quant (hx : ∀ s, exec i s = s.quant h q n d a b) (hw : q.width = w) :
    Gives i (hdForm h (.f :: (groupRegs a n ++ [.v b]))) fun t =>
      let rs := (t.group a n).map fun x => q.quantise (ftzOf t.fpcsr) ((t.getV b).toNat % 256) x.toNat
      fpOut d (rs.mapIdx fun i x => x.bits * 2 ^ (w * i)).sum (rs.foldl (fun x y => x ||| y.fl) 0) :=
  .of_laneOp hx rfl fun t => by simp only [packElems_eq, hw]

/-- Elements read under one scale (R135). -/
theorem Gives.of_dequant (hx : ∀ s, exec i s = s.dequant h q n d a b) (hw : q.width = w) :
    Gives i (hdForm h [.f, .v a, .v b]) fun t =>
      let rs := (List.range n).map fun j =>
        q.dequantise (ftzOf t.fpcsr) ((t.getV b).toNat % 256) ((t.getV a).toNat / 2 ^ (w * j) % 2 ^ w)
      groupOut d (rs.map fun x => BitVec.ofNat 32 x.bits) (rs.foldl (fun x y => x ||| y.fl) 0) :=
  .of_laneOp hx rfl fun _ => by simp only [hw]; rfl

/-- Elements under a common scale (R134). -/
theorem Gives.of_common {f : Form} {sc : Thread → Nat} (hx : ∀ s, exec i s = s.common f q n d a sc) (hw : q.width = w) :
    Gives i { f with src := .f :: f.src } fun t =>
      let es := (List.range n).map fun j => (elem (sc t) 8 j, elem (t.getV a).toNat w j)
      let top := (es.map (·.1)).foldl max 0
      let rs : List Res := if top = 255 then es.map fun _ => ⟨q.nan, 0⟩ else es.map fun e => q.rescale e.1 top e.2
      let fl := if top = 255 then fNV ||| (if es.any fun e => (q.value e.2).isSig then fSNaN else 0) else rs.foldl (fun x y => x ||| y.fl) 0
      groupOut d [BitVec.ofNat 32 (rs.mapIdx fun i x => x.bits * 2 ^ (w * i)).sum, BitVec.ofNat 32 top] fl := by
  subst hw
  refine .of_laneOp hx rfl fun t => ?_
  simp only [commonScale]
  generalize (List.range n).map _ = es
  rw [List.foldl_map]
  generalize es.foldl _ 0 = top
  simp only [packElems_eq, beq_iff_eq, flagIf]
  split
  · next h => rw [h]; rfl
  · rfl
end

/-- What a conversion depends on (R33, R129). -/
theorem cvtSrc_eq (u v : BitVec 4) (a : Reg) :
    cvtSrc u v a = (if v.toNat ≤ 3 ∧ (u.toNat ≤ 3 ∨ (u.toNat = 4 ∧ v.toNat ≠ 2 ∧ v.toNat ≠ 3 ∧ v.toNat ≠ 4)) then [] else [.f]) ++
      if v.toNat ≠ 2 ∧ v.toNat ≠ 3 ∧ v.toNat ≠ 4 then [.v a] else [.v a, .v (a + 1)] := by
  have hwide : ∀ v : BitVec 4, cvtWide v = !decide (v.toNat ≠ 2 ∧ v.toNat ≠ 3 ∧ v.toNat ≠ 4) := by decide
  have hu : ∀ u : BitVec 4, (u == 4) = decide (u.toNat = 4) := by decide
  have hfree : (cvtInt v && (cvtInt u || (u == 4 && !cvtWide v))) =
      decide (v.toNat ≤ 3 ∧ (u.toNat ≤ 3 ∨ (u.toNat = 4 ∧ v.toNat ≠ 2 ∧ v.toNat ≠ 3 ∧ v.toNat ≠ 4))) := by
    rw [hu, hwide]
    simp [cvtInt]
  rw [cvtSrc, hfree, hwide]
  simp only [Bool.not_eq_true', decide_eq_false_iff_not, ite_not, decide_eq_true_eq]
  rfl
/-- A conversion (R128). -/
theorem Gives.of_cvt (h : Hd) (r : BitVec 3) (u v : BitVec 4) (d a : Reg) :
    let word : Bool := v.toNat ≠ 2 ∧ v.toNat ≠ 3 ∧ v.toNat ≠ 4
    let unrounded : Bool := v.toNat ≤ 3 ∧ (u.toNat ≤ 3 ∨ (u.toNat = 4 ∧ word = true))
    Gives (.cvt h r u v d a) (hdForm h ((if unrounded then [] else [.f]) ++ if word then [.v a] else [.v a, .v (a + 1)])) fun t =>
      let x := cvtValue u v (ftzOf t.fpcsr) (modeOf r t.fpcsr) (if cvtWide v then t.getPair a else (t.getV a).setWidth 64)
      { writes := if cvtWide u then pairWrites d x.1 else [(.v d, (x.1.setWidth 32).setWidth 64)], fl := x.2 } := by
  intro word unrounded
  refine .of_laneOp (fun _ => rfl) ?_ fun t => ?_
  · simp only [cvtSrc_eq, word, unrounded, decide_eq_true_eq]
  · cases cvtWide u <;> rfl

/-! ### NaNs and infinities converted (R81, R82) -/

section
variable {S D : Fmt} {x : Nat}

/-- The fraction that a NaN carries into another format, without its quiet bit (R81). -/
def nanFraction (S D : Fmt) (x : Nat) : Nat :=
  let g := if S.ieee then x % 2 ^ S.fb else 2 ^ (S.fb - 1)
  if S.fb ≤ D.fb then g * 2 ^ (D.fb - S.fb) else g / 2 ^ (S.fb - D.fb)

theorem nanFraction_lt (hS : S.Sound) (D : Fmt) (x : Nat) : nanFraction S D x < 2 ^ D.fb := by
  have hg : (if S.ieee then x % 2 ^ S.fb else 2 ^ (S.fb - 1)) < 2 ^ S.fb := by
    split
    · exact Nat.mod_lt _ (Nat.two_pow_pos _)
    · exact Nat.pow_lt_pow_right (by norm_num) (Nat.sub_lt hS.fb_pos one_pos)
  simp only [nanFraction]
  split
  · next h =>
    calc _ < 2 ^ S.fb * 2 ^ (D.fb - S.fb) := Nat.mul_lt_mul_of_pos_right hg (Nat.two_pow_pos _)
      _ = 2 ^ D.fb := by rw [← pow_add, Nat.add_sub_cancel' h]
  · next h =>
    refine Nat.div_lt_of_lt_mul (hg.trans_eq ?_)
    rw [← pow_add, Nat.sub_add_cancel (not_le.mp h).le]

/-- Its bits below the quiet bit are the leading ones of the operand's fraction. -/
theorem testBit_nanFraction (S D : Fmt) (x : Nat) {j : Nat} (hj : 1 ≤ j) (hjD : j < D.fb) :
    (nanFraction S D x).testBit (D.fb - 1 - j) = (S.ieee && decide (j < S.fb) && x.testBit (S.fb - 1 - j)) := by
  have hg (hjS : j < S.fb) : (if S.ieee then x % 2 ^ S.fb else 2 ^ (S.fb - 1)).testBit (S.fb - 1 - j) =
      (S.ieee && x.testBit (S.fb - 1 - j)) := by
    cases S.ieee
    · simp [Nat.testBit_two_pow]
      omega
    · simp [Nat.testBit_mod_two_pow]
      omega
  simp only [nanFraction]
  split
  · next h =>
    rw [Nat.testBit_mul_two_pow]
    rcases Nat.lt_or_ge j S.fb with hjS | hjS
    · rw [show D.fb - 1 - j - (D.fb - S.fb) = S.fb - 1 - j by omega, hg hjS]
      simp [hjS]
      omega
    · rw [decide_eq_false (by omega : ¬D.fb - S.fb ≤ D.fb - 1 - j), decide_eq_false (by omega : ¬j < S.fb)]
      simp
  · next h =>
    have hjS : j < S.fb := by omega
    rw [Nat.testBit_div_two_pow, show D.fb - 1 - j + (S.fb - D.fb) = S.fb - 1 - j by omega, hg hjS]
    simp [hjS]

theorem Fmt.testBit_make {F : Fmt} {m i : Nat} (hm : m < 2 ^ F.sp) (n : Bool) (hi : i < F.sp) : (F.make n m).testBit i = m.testBit i := by
  cases n with
  | false => rfl
  | true =>
    have h := Nat.testBit_two_pow_mul_add 1 hm i
    rw [if_pos hi, Nat.mul_one, Nat.add_comm] at h
    exact h

/-- A NaN in a format with infinities: its sign and leading payload bits, made quiet (R81). -/
theorem convertNan_ieee (hS : S.Sound) (hD : D.Sound) (hi : D.ieee = true) (x : Nat) :
    let r := convertNan S D x
    r.fl = (if (S.value x).isSig then fSNaN else 0) ∧ r.bits < 2 ^ (D.sp + 1) ∧ r.bits.testBit D.sp = S.sign x ∧
      (∀ i, D.fb ≤ i → i < D.sp → r.bits.testBit i = true) ∧ r.bits.testBit (D.fb - 1) = true ∧
      ∀ j, 1 ≤ j → j < D.fb → r.bits.testBit (D.fb - 1 - j) = (S.ieee && decide (j < S.fb) && x.testBit (S.fb - 1 - j)) := by
  intro r
  have hpos := hD.fb_pos
  have hr : r = ⟨D.make (S.sign x) (D.infinity + (nanFraction S D x ||| 2 ^ (D.fb - 1))), if (S.value x).isSig then fSNaN else 0⟩ := by
    simp only [r, convertNan, hi, if_true, nanFraction]
    rfl
  have hlt : nanFraction S D x ||| 2 ^ (D.fb - 1) < 2 ^ D.fb :=
    Nat.or_lt_two_pow (nanFraction_lt hS D x) (Nat.pow_lt_pow_right (by norm_num) (by omega))
  have hmag : D.infinity + (nanFraction S D x ||| 2 ^ (D.fb - 1)) < 2 ^ D.sp := by
    have hsp : D.infinity + 2 ^ D.fb = 2 ^ D.sp := by
      rw [Fmt.infinity, Fmt.sp, pow_add, Nat.sub_mul, Nat.one_mul, Nat.sub_add_cancel (Nat.le_mul_of_pos_left _ (Nat.two_pow_pos _))]
    omega
  have hbit (i : Nat) (hi : i < D.sp) : r.bits.testBit i =
      if i < D.fb then (nanFraction S D x ||| 2 ^ (D.fb - 1)).testBit i else (2 ^ D.eb - 1).testBit (i - D.fb) := by
    rw [hr]
    rw [Fmt.testBit_make hmag _ hi, Fmt.infinity, Nat.mul_comm, Nat.testBit_two_pow_mul_add _ hlt]
  have hsp : D.sp = D.eb + D.fb := rfl
  have heb : 0 < D.eb := by
    by_contra h
    have hle := hD.le_top
    have htop := hD.top_lt
    rw [hsp, Nat.eq_zero_of_not_pos h, Nat.zero_add] at htop
    omega
  refine ⟨by rw [hr], by rw [hr]; exact Fmt.make_lt hmag _, by rw [hr]; exact Fmt.sign_make hmag _, fun i h h' => ?_, ?_, fun j h h' => ?_⟩
  · rw [hbit i h', if_neg (by omega), Nat.testBit_two_pow_sub_one]
    simp
    omega
  · rw [hbit _ (by omega), if_pos (by omega), Nat.testBit_or, Nat.testBit_two_pow_self, Bool.or_true]
  · rw [hbit _ (by omega), if_pos (by omega), Nat.testBit_or, testBit_nanFraction S D x h h', Nat.testBit_two_pow]
    simp
    omega

/-- A NaN in E4M3 and in E2M1 (R82). -/
theorem convertNan_e4m3 (S : Fmt) (x : Nat) : convertNan S e4m3 x = ⟨if S.sign x then 0xFF else 0x7F, if (S.value x).isSig then fSNaN else 0⟩ := by
  cases h : S.sign x <;> simp [convertNan, h, e4m3, Fmt.make, Fmt.sp, flagIf]
@[inherit_doc convertNan_e4m3] theorem convertNan_e2m1 (S : Fmt) (x : Nat) : convertNan S e2m1 x = ⟨0, if (S.value x).isSig then fSNaN else fNV⟩ := by
  cases h : (S.value x).isSig <;> simp [convertNan, h, e2m1, flagIf]

/-- What a conversion gives by the kind of its operand (R81, R82). -/
theorem convert_of_nan (hS : S.Sound) (D : Fmt) (z : Bool) (mode : Mode) (h : (S.value x).isNan = true) :
    convert S D z mode x = convertNan S D x := by
  rw [← Fmt.input_isNan hS z] at h
  unfold convert
  cases hv : S.input z x with
  | nan s => rfl
  | _ => rw [hv] at h; cases h
theorem Fmt.input_of_inf (hS : S.Sound) (z : Bool) {n : Bool} (h : S.value x = .inf n) : S.input z x = .inf n := by
  rw [Fmt.input_of_not_flushed, h]
  intro hf
  rw [Fmt.value_of_mag_le hS (hf.mag_le hS)] at h
  cases h
theorem convert_of_inf (hS : S.Sound) (D : Fmt) (z : Bool) (mode : Mode) {n : Bool} (h : S.value x = .inf n) :
    (D.ieee = true → convert S D z mode x = ⟨D.make n D.infinity, 0⟩) ∧
      (D = e4m3 → convert S D z mode x = ⟨if n then 0xFF else 0x7F, fNV⟩) ∧ (D = e2m1 → convert S D z mode x = ⟨if n then 0xF else 7, fNV⟩) := by
  simp only [convert, Fmt.input_of_inf hS z h]
  refine ⟨fun hi => by rw [if_pos hi], ?_, ?_⟩
  · rintro rfl
    cases n <;> rfl
  · rintro rfl
    cases n <;> rfl
/-- A finite number is rounded once. -/
theorem convert_of_fin (hD : D.Sound) {z : Bool} {n : Bool} {m : Nat} {e : Int} (mode : Mode) (h : S.input z x = .fin n m e) :
    D.Rounds z mode n ((S.input z x).rat : ℝ) (convert S D z mode x) := by
  rw [convert, h]
  exact D.round_rounds hD z mode n m e
end

/-! ### Integers (R83) -/

/-- `roundTo` to an integer, with the sign put back. -/
theorem roundTo_int (mode : Mode) (n : Bool) (m : Nat) (e : Int) :
    let w : ℤ := signFactor n * (roundTo mode n m e 0).1
    mode.Makes ((FV.fin n m e).rat : ℝ) w ∧ ((roundTo mode n m e 0).2 = false ↔ (w : ℚ) = (FV.fin n m e).rat) := by
  intro w
  obtain ⟨hmakes, hexact⟩ := roundTo_makes mode n m e 0
  rw [sub_zero] at hmakes hexact
  refine ⟨by rw [FV.rat_fin]; exact hmakes, hexact.trans ?_⟩
  have hs : (signFactor n : ℝ) ≠ 0 := by cases n <;> simp
  have hcast : ((w : ℚ) : ℝ) = ((FV.fin n m e).rat : ℝ) ↔ (m : ℝ) * (2 : ℝ) ^ e = ((roundTo mode n m e 0).1 : ℝ) := by
    rw [FV.rat_fin, Rat.cast_intCast]
    simp only [w]
    rw [Int.cast_mul, mul_right_inj' hs, Int.cast_natCast, eq_comm]
  rw [← hcast, Rat.cast_inj]

/-- A magnitude of more bits than a whole number has rounds to one beyond it. -/
theorem roundTo_large {mode : Mode} {n : Bool} {m : Nat} {e : Int} {k : Nat} (hm : m ≠ 0) (h : k ≤ e + Nat.log2 m) :
    2 ^ k ≤ (roundTo mode n m e 0).1 := by
  have hmakes := (roundTo_makes mode n m e 0).1
  rw [sub_zero] at hmakes
  refine hmakes.mag_ge ((Eq.le ?_).trans ((zpow_le_zpow_right₀ (by norm_num) h).trans (log2_bounds hm e).1))
  push_cast
  exact (zpow_natCast _ _).symm

/-- A finite value to an integer within its limits (R83). -/
theorem toInt_fin {lo hi : Int} (hlo : -2 ^ 63 ≤ lo) (hlo0 : lo ≤ 0) (hhi0 : 0 ≤ hi) (hhi : hi < 2 ^ 64) (mode : Mode) (n : Bool) (m : Nat) (e : Int) :
    ∃ w : ℤ, mode.Makes ((FV.fin n m e).rat : ℝ) w ∧ (w < lo → toInt lo hi mode (.fin n m e) = (lo, fNV)) ∧
      (hi < w → toInt lo hi mode (.fin n m e) = (hi, fNV)) ∧
      (lo ≤ w → w ≤ hi → toInt lo hi mode (.fin n m e) = (w, if (w : ℚ) = (FV.fin n m e).rat then 0 else fNX)) := by
  obtain ⟨hmakes, hexact⟩ := roundTo_int mode n m e
  refine ⟨_, hmakes, ?_⟩
  by_cases hbig : (m != 0 && decide (e + Nat.log2 m > 70)) = true
  · have hres : toInt lo hi mode (.fin n m e) = (if n then lo else hi, fNV) := by simp only [toInt, hbig, if_true]
    simp only [Bool.and_eq_true, bne_iff_ne, decide_eq_true_eq] at hbig
    obtain ⟨hm, he⟩ := hbig
    have hlarge : 2 ^ 70 ≤ (roundTo mode n m e 0).1 := roundTo_large hm (by push_cast; omega)
    rw [hres]
    generalize (roundTo mode n m e 0).1 = w at hlarge
    have hw : (2 : ℤ) ^ 70 ≤ w := by exact_mod_cast hlarge
    cases n with
    | false =>
      rw [signFactor_false, one_mul]
      exact ⟨fun h => by omega, fun _ => rfl, fun h h' => by omega⟩
    | true =>
      rw [signFactor_true, neg_one_mul]
      exact ⟨fun _ => rfl, fun h => by omega, fun h h' => by omega⟩
  · have hres : toInt lo hi mode (.fin n m e) =
        let x : Int := signFactor n * (roundTo mode n m e 0).1
        if x < lo then (lo, fNV) else if hi < x then (hi, fNV) else (x, flagIf (roundTo mode n m e 0).2 fNX) := by
      simp only [toInt, hbig]
      cases n <;> simp
    rw [hres]
    generalize signFactor n * ((roundTo mode n m e 0).1 : ℤ) = w at *
    refine ⟨fun h => if_pos h, fun h => ?_, fun h h' => ?_⟩
    · simp only [if_neg (show ¬w < lo by omega), if_pos h]
    · simp only [if_neg (not_lt.mpr h), if_neg (not_lt.mpr h'), ← hexact]
      cases (roundTo mode n m e 0).2 <;> rfl

/-- Saturation (R83). -/
theorem clampInt_eq {lo hi : Int} (h : lo ≤ hi) (x : Int) : clampInt lo hi x = max lo (min hi x) := by
  unfold clampInt
  split
  · omega
  · split <;> omega

/-- An integer to a floating format (R83). -/
theorem ofInt_rounds {D : Fmt} (hD : D.Sound) (z : Bool) (mode : Mode) (x : Int) : D.Rounds z mode (decide (x < 0)) (x : ℝ) (ofInt D z mode x) := by
  have h := D.round_rounds hD z mode (decide (x < 0)) x.natAbs 0
  rwa [FV.rat_natAbs, zpow_zero, mul_one, Rat.cast_intCast] at h

/-! ### Conversions by their type codes (R58, R128) -/

/-- The floating formats by their type codes, and the limits of the integers by theirs. -/
def cvtFormats : List (Nat × Fmt) := [(4, fp64), (5, fp32), (6, fp16), (7, bf16), (8, e4m3), (9, e5m2), (10, e2m1)]
@[inherit_doc cvtFormats] def cvtIntegers : List (Nat × Int × Int) :=
  [(0, -2 ^ 31, 2 ^ 31 - 1), (1, 0, 2 ^ 32 - 1), (2, -2 ^ 63, 2 ^ 63 - 1), (3, 0, 2 ^ 64 - 1)]

theorem cvtFmt_of_mem {u : BitVec 4} {D : Fmt} (h : (u.toNat, D) ∈ cvtFormats) : cvtInt u = false ∧ cvtFmt u = D ∧ D ∈ formats ∧ D.sp < 64 := by
  have key : ∀ u : BitVec 4, ∀ p ∈ cvtFormats, p.1 = u.toNat → cvtInt u = false ∧ cvtFmt u = p.2 ∧ p.2 ∈ formats ∧ p.2.sp < 64 := by decide
  exact key u _ h rfl
theorem cvtLimits_of_mem {u : BitVec 4} {lo hi : Int} (h : (u.toNat, lo, hi) ∈ cvtIntegers) :
    cvtInt u = true ∧ cvtLimits u = (lo, hi) ∧ -2 ^ 63 ≤ lo ∧ lo ≤ 0 ∧ 0 ≤ hi ∧ hi < 2 ^ 64 := by
  have key : ∀ u : BitVec 4, ∀ p ∈ cvtIntegers, p.1 = u.toNat →
      cvtInt u = true ∧ cvtLimits u = p.2 ∧ -2 ^ 63 ≤ p.2.1 ∧ p.2.1 ≤ 0 ∧ 0 ≤ p.2.2 ∧ p.2.2 < 2 ^ 64 := by decide
  exact key u _ h rfl

section
variable {u v : BitVec 4} (z : Bool) (mode : Mode) (x : DWord)

theorem cvtValue_float {D S : Fmt} (hu : (u.toNat, D) ∈ cvtFormats) (hv : (v.toNat, S) ∈ cvtFormats) :
    let r := convert S D z mode (x.toNat % 2 ^ (S.sp + 1))
    cvtValue u v z mode x = (BitVec.ofNat 64 r.bits, r.fl) := by
  obtain ⟨hui, rfl, -, -⟩ := cvtFmt_of_mem hu
  obtain ⟨hvi, rfl, -, -⟩ := cvtFmt_of_mem hv
  simp only [cvtValue, hui, hvi, Bool.false_eq_true, if_false]
theorem cvtValue_toInt {lo hi : Int} {S : Fmt} (hu : (u.toNat, lo, hi) ∈ cvtIntegers) (hv : (v.toNat, S) ∈ cvtFormats) :
    let r := toInt lo hi mode (S.input z (x.toNat % 2 ^ (S.sp + 1)))
    cvtValue u v z mode x = (BitVec.ofInt 64 r.1, r.2) := by
  obtain ⟨hui, hlim, -⟩ := cvtLimits_of_mem hu
  obtain ⟨hvi, rfl, -, -⟩ := cvtFmt_of_mem hv
  simp only [cvtValue, hui, hvi, hlim, if_true, Bool.false_eq_true, if_false]
theorem cvtValue_ofInt {lo hi : Int} {D : Fmt} (hu : (u.toNat, D) ∈ cvtFormats) (hv : (v.toNat, lo, hi) ∈ cvtIntegers) :
    let r := ofInt D z mode (cvtInput v x)
    cvtValue u v z mode x = (BitVec.ofNat 64 r.bits, r.fl) := by
  obtain ⟨hui, rfl, -, -⟩ := cvtFmt_of_mem hu
  obtain ⟨hvi, -⟩ := cvtLimits_of_mem hv
  simp only [cvtValue, hui, hvi, if_true, Bool.false_eq_true, if_false]
theorem cvtValue_int {lo hi lo' hi' : Int} (hu : (u.toNat, lo, hi) ∈ cvtIntegers) (hv : (v.toNat, lo', hi') ∈ cvtIntegers) :
    cvtValue u v z mode x = (BitVec.ofInt 64 (max lo (min hi (cvtInput v x))), 0) := by
  obtain ⟨hui, hlim, -, hlo, hhi, -⟩ := cvtLimits_of_mem hu
  obtain ⟨hvi, -⟩ := cvtLimits_of_mem hv
  simp only [cvtValue, hui, hvi, hlim, if_true, clampInt_eq (hlo.trans hhi)]
/-- An integer operand by its type code. -/
theorem cvtInput_eq (hv : v.toNat ≤ 3) : cvtInput v x = if v.toNat = 0 then (x.setWidth 32).toInt else
    if v.toNat = 1 then ((x.setWidth 32).toNat : ℤ) else if v.toNat = 2 then x.toInt else (x.toNat : ℤ) := by
  unfold cvtInput
  generalize v.toNat = t at *
  interval_cases t <;> rfl
end

/-! ### The chosen scale (R132) -/

/-- The binary exponent of a nonzero number is the only one that fits. -/
theorem expo_unique {n : Bool} {m : Nat} {e i : Int} (hlow : (2 : ℚ) ^ i ≤ |(FV.fin n m e).rat|) (hhigh : |(FV.fin n m e).rat| < (2 : ℚ) ^ (i + 1)) :
    m ≠ 0 ∧ e + Nat.log2 m = i := by
  have habs : |(FV.fin n m e).rat| = m * (2 : ℚ) ^ e := by
    have h0 : (0 : ℚ) ≤ m * (2 : ℚ) ^ e := by positivity
    cases n <;> simp [FV.rat, abs_of_nonneg h0]
  rw [habs] at hlow hhigh
  have hm : m ≠ 0 := by
    rintro rfl
    have : (0 : ℚ) < 2 ^ i := by positivity
    rw [Nat.cast_zero, zero_mul] at hlow
    linarith
  have hlow' := (Rat.cast_le (K := ℝ)).mpr hlow
  have hhigh' := (Rat.cast_lt (K := ℝ)).mpr hhigh
  push_cast at hlow' hhigh'
  have h1 := (lt_zpow_iff_log2 hm e (i + 1)).mp hhigh'
  have h2 := (lt_zpow_iff_log2 hm e i).not.mp (not_lt.mpr hlow')
  exact ⟨hm, by omega⟩

theorem scx_spec (x : Nat) (emax : Int) :
    ((fp32.value x).isNan = true → scx x emax = ⟨255, if (fp32.value x).isSig then fSNaN else fNV⟩) ∧
    ((fp32.value x).isInf = true → scx x emax = ⟨254, fNV⟩) ∧ ((fp32.value x).isZero = true → scx x emax = ⟨0, 0⟩) ∧
    ∀ i : ℤ, (2 : ℚ) ^ i ≤ |(fp32.value x).rat| → |(fp32.value x).rat| < (2 : ℚ) ^ (i + 1) →
      scx x emax = ⟨(max 0 (min 254 (i - emax + 127))).toNat, 0⟩ := by
  have hpos (i : ℤ) : ¬(2 : ℚ) ^ i ≤ |0| := by rw [abs_zero]; exact not_le.mpr (by positivity)
  unfold scx
  cases fp32.value x with
  | nan s =>
    refine ⟨fun _ => ?_, nofun, nofun, fun i h => absurd h (hpos i)⟩
    cases s <;> rfl
  | inf n => exact ⟨nofun, fun _ => rfl, nofun, fun i h => absurd h (hpos i)⟩
  | fin n m e =>
    refine ⟨nofun, nofun, fun h => if_pos h, fun i hlow hhigh => ?_⟩
    obtain ⟨hm, rfl⟩ := expo_unique hlow hhigh
    simp only [beq_eq_false_iff_ne.mpr hm, Bool.false_eq_true, if_false, clampInt_eq (show (0 : ℤ) ≤ 254 by norm_num)]

/-! ### Elements under a scale (R133 to R135) -/

/-- A number by a power of two. -/
theorem FV.rat_scaled (n : Bool) (m : Nat) (e i : Int) : (FV.fin n m (e + i)).rat = (FV.fin n m e).rat * (2 : ℚ) ^ i := by
  rw [FV.rat, FV.rat, zpow_add₀ (by norm_num)]
  ring

theorem FV.eq_nan_of_isNan {x : FV} (h : x.isNan = true) : ∃ s, x = .nan s := by
  cases x with
  | nan s => exact ⟨s, rfl⟩
  | _ => cases h

/-- The element formats with their largest values (R131, R133). -/
def elementFormats : List (QFmt × ℚ) := [(.fl e4m3, 448), (.fl e5m2, 57344), (.fl e2m1, 6), (.int 8, 127), (.int 4, 7)]

section
variable {q : QFmt} {top : ℚ} {z : Bool} {E T x : Nat}

theorem elementFormats_cases {motive : QFmt → ℚ → Prop} (h : (q, top) ∈ elementFormats) (e4m3 : motive (.fl e4m3) 448)
    (e5m2 : motive (.fl e5m2) 57344) (e2m1 : motive (.fl e2m1) 6) (int8 : motive (.int 8) 127) (int4 : motive (.int 4) 7) : motive q top := by
  simp only [elementFormats, List.mem_cons, List.not_mem_nil, or_false, Prod.mk.injEq] at h
  obtain ⟨rfl, rfl⟩ | ⟨rfl, rfl⟩ | ⟨rfl, rfl⟩ | ⟨rfl, rfl⟩ | ⟨rfl, rfl⟩ := h
  exacts [e4m3, e5m2, e2m1, int8, int4]
theorem mem_formats_of_elements {F : Fmt} (h : (.fl F, top) ∈ elementFormats) : F ∈ formats := by
  have key : (QFmt.fl F) ∈ elementFormats.map Prod.fst := List.mem_map_of_mem (f := Prod.fst) h
  simp only [elementFormats, List.map_cons, List.map_nil, List.mem_cons, List.not_mem_nil, or_false, QFmt.fl.injEq, reduceCtorEq] at key
  rcases key with rfl | rfl | rfl <;> decide
/-- The two integer formats. -/
theorem width_of_elements {b : Nat} (h : (.int b, top) ∈ elementFormats) : (b = 8 ∧ top = 127) ∨ (b = 4 ∧ top = 7) := by
  simpa [elementFormats] using h

/-- The element of the largest magnitude, by its sign. -/
theorem QFmt.rat_value_top (h : (q, top) ∈ elementFormats) (n : Bool) : (q.value (q.make n q.top)).rat = if n then -top else top := by
  have key : ∀ n : Bool, (QFmt.fl e4m3).value ((QFmt.fl e4m3).make n e4m3.top) = .fin n 14 5 ∧
      (QFmt.fl e5m2).value ((QFmt.fl e5m2).make n e5m2.top) = .fin n 7 13 ∧ (QFmt.fl e2m1).value ((QFmt.fl e2m1).make n e2m1.top) = .fin n 3 1 ∧
      (QFmt.int 8).value ((QFmt.int 8).make n 127) = .fin n 127 0 ∧ (QFmt.int 4).value ((QFmt.int 4).make n 7) = .fin n 7 0 := by decide
  obtain ⟨h1, h2, h3, h4, h5⟩ := key n
  refine elementFormats_cases (motive := fun q top => (q.value (q.make n q.top)).rat = if n then -top else top) h ?_ ?_ ?_ ?_ ?_
  · refine (congrArg FV.rat h1).trans ?_
    cases n <;> norm_num [FV.rat]
  · refine (congrArg FV.rat h2).trans ?_
    cases n <;> norm_num [FV.rat]
  · refine (congrArg FV.rat h3).trans ?_
    cases n <;> norm_num [FV.rat]
  · refine (congrArg FV.rat h4).trans ?_
    cases n <;> norm_num [FV.rat]
  · refine (congrArg FV.rat h5).trans ?_
    cases n <;> norm_num [FV.rat]
theorem QFmt.nan_eq (h : (q, top) ∈ elementFormats) : q.nan = if q = .fl e4m3 then 0x7F else if q = .fl e5m2 then 0x7E else 0 := by
  refine elementFormats_cases (motive := fun q _ => q.nan = if q = .fl e4m3 then 0x7F else if q = .fl e5m2 then 0x7E else 0) h ?_ ?_ ?_ ?_ ?_ <;>
    decide

/-- A signed magnitude as an integer element (R74). -/
theorem QFmt.make_int {b w : Nat} (hb : b = 8 ∨ b = 4) (n : Bool) (hw : w ≤ 2 ^ (b - 1)) :
    (QFmt.int b).make n w = (BitVec.ofInt b (signFactor n * w)).toNat := by
  rw [BitVec.toNat_ofInt]
  cases n <;> simp only [QFmt.make, signFactor_false, signFactor_true, if_true, Bool.false_eq_true, if_false] <;> rcases hb with rfl | rfl <;>
    norm_num at hw ⊢ <;> omega
/-- An integer element as a number (R74). -/
theorem QFmt.rat_value_int {b : Nat} (hb : b = 8 ∨ b = 4) (hx : x < 2 ^ b) : ((QFmt.int b).value x).rat = ((BitVec.ofNat b x).toInt : ℚ) := by
  have hint : (BitVec.ofNat b x).toInt = if 2 ^ (b - 1) ≤ x then -((2 ^ b - x : ℕ) : ℤ) else x := by
    rw [BitVec.toInt_eq_toNat_cond, BitVec.toNat_ofNat, Nat.mod_eq_of_lt hx]
    rcases hb with rfl | rfl <;> norm_num at hx ⊢ <;> split <;> split <;> omega
  rw [hint]
  simp only [QFmt.value, ge_iff_le]
  split <;> simp [FV.rat]

/-- The flag of a rounding to an integer. -/
theorem roundTo_int_flag (mode : Mode) (n : Bool) (m : Nat) (e : Int) :
    let w : ℤ := signFactor n * (roundTo mode n m e 0).1
    let fl := flagIf (roundTo mode n m e 0).2 fNX
    ((w : ℚ) = (FV.fin n m e).rat → fl = 0) ∧ ((w : ℚ) ≠ (FV.fin n m e).rat → fl = fNX) := by
  intro w fl
  obtain ⟨-, hexact⟩ := roundTo_int mode n m e
  exact ⟨fun h => by simp only [fl, hexact.mpr h]; rfl, fun h => by simp only [fl, Bool.eq_true_of_not_eq_false (hexact.not.mpr h)]; rfl⟩

/-! #### Quantised (R133) -/

theorem QFmt.grid_fl {F : Fmt} (hF : F.Sound) (n : Bool) (m : Nat) (e : Int) :
    ∃ r, F.Rounds false .rne n ((FV.fin n m e).rat : ℝ) r ∧ (r.fl &&& fOF = 0 → (QFmt.fl F).grid n m e = r) ∧
      (r.fl &&& fOF ≠ 0 → (QFmt.fl F).grid n m e = ⟨F.make n F.top, fOF ||| fNX⟩) := by
  have hbit : ∀ fl : Flags, fl &&& fOF = 0 ↔ fl.getLsbD 2 = false := by decide
  refine ⟨_, F.round_rounds hF false .rne n m e, fun h => ?_, fun h => ?_⟩
  · simp only [QFmt.grid, (hbit _).mp h, Bool.false_eq_true, if_false]
  · simp only [QFmt.grid, Bool.eq_true_of_not_eq_false ((hbit _).not.mp h), if_true]

theorem QFmt.grid_int {b : Nat} (hb : b = 8 ∨ b = 4) (n : Bool) (m : Nat) (e : Int) :
    let v := (FV.fin n m e).rat
    let r := (QFmt.int b).grid n m e
    ∃ w : ℤ, Mode.rne.Makes (v : ℝ) w ∧
      (|w| ≤ 2 ^ (b - 1) - 1 → r.bits = (BitVec.ofInt b w).toNat ∧ ((w : ℚ) = v → r.fl = 0) ∧ ((w : ℚ) ≠ v → r.fl = fNX)) ∧
      (2 ^ (b - 1) - 1 < |w| → r = ⟨(QFmt.int b).make n (2 ^ (b - 1) - 1), fOF ||| fNX⟩) := by
  intro v r
  refine ⟨_, (roundTo_int .rne n m e).1, ?_⟩
  have habs (w : Nat) : |signFactor n * (w : ℤ)| = w := by cases n <;> simp
  have hpow : 2 ^ (b - 1) - 1 < 2 ^ 40 := by rcases hb with rfl | rfl <;> norm_num
  have hcast : (2 : ℤ) ^ (b - 1) - 1 = ((2 ^ (b - 1) - 1 : ℕ) : ℤ) := by push_cast [Nat.cast_sub (Nat.one_le_two_pow (n := b - 1))]; rfl
  rw [habs, hcast, Nat.cast_le, Nat.cast_lt]
  by_cases hbig : (m != 0 && decide (e + Nat.log2 m > 40)) = true
  · have hres : r = ⟨(QFmt.int b).make n (2 ^ (b - 1) - 1), fOF ||| fNX⟩ := by simp only [r, QFmt.grid, hbig, if_true]
    simp only [Bool.and_eq_true, bne_iff_ne, decide_eq_true_eq] at hbig
    obtain ⟨hm, he⟩ := hbig
    have hlarge : 2 ^ 40 ≤ (roundTo .rne n m e 0).1 := roundTo_large hm (by push_cast; omega)
    exact ⟨fun h => by omega, fun _ => hres⟩
  · have hres : r = if (roundTo .rne n m e 0).1 > 2 ^ (b - 1) - 1 then ⟨(QFmt.int b).make n (2 ^ (b - 1) - 1), fOF ||| fNX⟩
        else ⟨(QFmt.int b).make n (roundTo .rne n m e 0).1, flagIf (roundTo .rne n m e 0).2 fNX⟩ := by
      simp only [r, QFmt.grid, hbig, Bool.false_eq_true, if_false]
    rw [hres]
    refine ⟨fun h => ?_, fun h => if_pos h⟩
    rw [if_neg (not_lt.mpr h), QFmt.make_int hb n (h.trans (Nat.sub_le _ _))]
    exact ⟨rfl, roundTo_int_flag .rne n m e⟩

/-- One element quantised, by the kind of its operand (R133). -/
theorem QFmt.quantise_spec (h : (q, top) ∈ elementFormats) (hE : E < 255) (z : Bool) (x : Nat) :
    let X := fp32.input z x
    let y : ℝ := (X.rat : ℝ) * (2 : ℝ) ^ (127 - E : ℤ)
    let r := q.quantise z E x
    q.quantise z 255 x = ⟨q.nan, if X.isSig then fSNaN else fNV⟩ ∧
    (X.isNan = true → r = ⟨q.nan, if X.isSig then fSNaN else if q.nan = 0 then fNV else 0⟩) ∧
    (∀ n, X = .inf n → (q.value r.bits).rat = (if n then -top else top) ∧ r.fl = fNV) ∧
    (∀ n k e F, X = .fin n k e → q = .fl F → ∃ r', F.Rounds false .rne n y r' ∧
      (r'.fl &&& fOF = 0 → r = r') ∧ (r'.fl &&& fOF ≠ 0 → (q.value r.bits).rat = (if n then -top else top) ∧ r.fl = fOF ||| fNX)) ∧
    (∀ n k e b, X = .fin n k e → q = .int b → ∃ w : ℤ, Mode.rne.Makes y w ∧
      (|(w : ℚ)| ≤ top → r.bits = (BitVec.ofInt b w).toNat ∧ ((w : ℝ) = y → r.fl = 0) ∧ ((w : ℝ) ≠ y → r.fl = fNX)) ∧
      (top < |(w : ℚ)| → (q.value r.bits).rat = (if n then -top else top) ∧ r.fl = fOF ||| fNX)) := by
  intro X y r
  have hnot : (E == 255) = false := beq_eq_false_iff_ne.mpr hE.ne
  have hr {n : Bool} {k : Nat} {e : Int} (hX : X = .fin n k e) : r = q.grid n k (e + 127 - E) := by
    simp only [r, QFmt.quantise, hnot, Bool.false_eq_true, if_false, show fp32.input z x = .fin n k e from hX]
  have hy {n : Bool} {k : Nat} {e : Int} (hX : X = .fin n k e) : y = ((FV.fin n k (e + 127 - E)).rat : ℝ) := by
    rw [show e + 127 - E = e + (127 - E) by ring, FV.rat_scaled, ← hX]
    push_cast
    rfl
  refine ⟨?block, fun hn => ?isNan, fun n hX => ?isInf, fun n k e F hX hq => ?float, fun n k e b hX hq => ?int⟩
  case block =>
    simp only [QFmt.quantise, beq_self_eq_true, if_true, X]
    cases (fp32.input z x).isSig <;> rfl
  case isNan =>
    obtain ⟨s, hX⟩ := FV.eq_nan_of_isNan hn
    simp only [r, QFmt.quantise, hnot, Bool.false_eq_true, if_false, show fp32.input z x = .nan s from hX, hX]
    by_cases h0 : q.nan = 0 <;> cases s <;> simp [h0, flagIf, FV.isSig]
  case isInf =>
    have hinf : r = ⟨q.make n q.top, fNV⟩ := by
      simp only [r, QFmt.quantise, hnot, Bool.false_eq_true, if_false, show fp32.input z x = .inf n from hX]
    rw [hinf]
    exact ⟨QFmt.rat_value_top h n, rfl⟩
  case float =>
    subst hq
    obtain ⟨r', hround, hin, hbeyond⟩ := QFmt.grid_fl (sound_of_mem_formats (mem_formats_of_elements h)) n k (e + 127 - E)
    rw [hr hX, hy hX]
    refine ⟨r', hround, hin, fun hof => ?_⟩
    rw [hbeyond hof]
    exact ⟨QFmt.rat_value_top h n, rfl⟩
  case int =>
    subst hq
    have hb := width_of_elements h
    obtain ⟨w, hmakes, hin, hbeyond⟩ := QFmt.grid_int (hb.imp And.left And.left) n k (e + 127 - E)
    have htop : top = ((2 ^ (b - 1) - 1 : ℤ) : ℚ) := by
      rcases hb with ⟨rfl, rfl⟩ | ⟨rfl, rfl⟩ <;> norm_num
    have hle : |(w : ℚ)| ≤ top ↔ |w| ≤ 2 ^ (b - 1) - 1 := by rw [htop, ← Int.cast_abs, Int.cast_le]
    have hcast : (w : ℝ) = y ↔ (w : ℚ) = (FV.fin n k (e + 127 - E)).rat := by rw [hy hX, ← Rat.cast_intCast, Rat.cast_inj]
    have hbig : |(w : ℚ)| ≤ top ∨ r = ⟨(QFmt.int b).make n (2 ^ (b - 1) - 1), fOF ||| fNX⟩ :=
      (le_or_gt |w| (2 ^ (b - 1) - 1)).imp hle.mpr fun hw => (hr hX).trans (hbeyond hw)
    refine ⟨w, by rwa [hy hX], fun hw => ?_, fun hw => ?_⟩
    · rw [hr hX, hcast, Ne, hcast]
      exact hin (hle.mp hw)
    · rw [hbig.resolve_left (not_le.mpr hw)]
      exact ⟨QFmt.rat_value_top h n, rfl⟩

/-! #### Read as FP32, and under a common scale (R134, R135) -/

theorem QFmt.dequantise_spec (hE : E < 255) (z : Bool) (x : Nat) :
    let V := q.value x
    q.dequantise z 255 x = ⟨0x7FC00000, if V.isSig then fSNaN else fNV⟩ ∧
    (V.isNan = true → q.dequantise z E x = ⟨0x7FC00000, if V.isSig then fSNaN else 0⟩) ∧
    (∀ n k e, V = .fin n k e → fp32.Rounds z .rne n ((V.rat : ℝ) * (2 : ℝ) ^ (E - 127 : ℤ)) (q.dequantise z E x)) := by
  intro V
  have hnot : (E == 255) = false := beq_eq_false_iff_ne.mpr hE.ne
  refine ⟨?_, fun hn => ?_, fun n k e hV => ?_⟩
  · simp only [QFmt.dequantise, beq_self_eq_true, if_true, V]
    cases (q.value x).isSig <;> rfl
  · obtain ⟨s, hV⟩ := FV.eq_nan_of_isNan hn
    simp only [QFmt.dequantise, hnot, Bool.false_eq_true, if_false, show q.value x = .nan s from hV, hV]
    rfl
  · have hround := fp32.round_rounds fp32_sound z .rne n k (e + (E - 127))
    rw [FV.rat_scaled] at hround
    have hr : q.dequantise z E x = fp32.round z .rne n k (e + (E - 127)) := by
      simp only [QFmt.dequantise, hnot, Bool.false_eq_true, if_false, show q.value x = .fin n k e from hV]
      rw [add_sub_assoc]
    rw [hr, hV]
    push_cast at hround
    exact hround

theorem QFmt.rescale_spec (h : (q, top) ∈ elementFormats) (hx : x < 2 ^ q.width) (hT : E ≤ T) :
    let V := q.value x
    let r := q.rescale E T x
    (∀ F, q = .fl F → V.isNan = true → r = ⟨F.quiet x, if V.isSig then fSNaN else 0⟩) ∧
    (∀ F n k e, q = .fl F → V = .fin n k e → F.Rounds false .rne n ((V.rat : ℝ) * (2 : ℝ) ^ (E - T : ℤ)) r) ∧
    ∀ b, q = .int b → ∃ w : ℤ, Mode.rne.Makes ((V.rat : ℝ) * (2 : ℝ) ^ (E - T : ℤ)) w ∧ r.bits = (BitVec.ofInt b w).toNat ∧
      ((w : ℚ) = V.rat * (2 : ℚ) ^ (E - T : ℤ) → r.fl = 0) ∧ ((w : ℚ) ≠ V.rat * (2 : ℚ) ^ (E - T : ℤ) → r.fl = fNX) := by
  intro V r
  refine ⟨?_, ?_, ?_⟩
  · rintro F rfl hn
    obtain ⟨s, hV⟩ := FV.eq_nan_of_isNan hn
    simp only [r, QFmt.rescale, show F.value x = .nan s from hV, hV]
    rfl
  · rintro F n k e rfl hV
    have hround := F.round_rounds (sound_of_mem_formats (mem_formats_of_elements h)) false .rne n k (e + (E - T))
    rw [FV.rat_scaled] at hround
    have hr : r = F.round false .rne n k (e + (E - T)) := by
      simp only [r, QFmt.rescale, show F.value x = .fin n k e from hV]
      rw [add_sub_assoc]
    rw [hr, hV]
    push_cast at hround
    exact hround
  · rintro b rfl
    have hb := width_of_elements h
    have hb' : b = 8 ∨ b = 4 := hb.imp And.left And.left
    obtain ⟨n, m, hV, hm⟩ : ∃ n m, V = .fin n m 0 ∧ m ≤ 2 ^ (b - 1) := by
      have hpow : 2 ^ b = 2 ^ (b - 1) + 2 ^ (b - 1) := by rcases hb' with rfl | rfl <;> norm_num
      simp only [V, QFmt.value]
      split
      · next h => exact ⟨true, _, rfl, Nat.sub_le_iff_le_add.mpr (hpow.le.trans (Nat.add_le_add_left h _))⟩
      · next h => exact ⟨false, _, rfl, (not_le.mp h).le⟩
    have hr : r = ⟨(QFmt.int b).make n (roundTo .rne n m (0 + (E - T)) 0).1, flagIf (roundTo .rne n m (0 + (E - T)) 0).2 fNX⟩ := by
      simp only [r, QFmt.rescale, show (QFmt.int b).value x = .fin n m 0 from hV]
      rw [add_sub_assoc]
      rfl
    have hle : (roundTo .rne n m (0 + (E - T)) 0).1 ≤ 2 ^ (b - 1) := by
      refine (roundTo_makes .rne n m (0 + (E - T)) 0).1.mag_le ?_
      have hone : (2 : ℝ) ^ ((0 : ℤ) + (E - T) - 0) ≤ 1 := zpow_le_one_of_nonpos₀ (by norm_num) (by omega)
      calc (m : ℝ) * (2 : ℝ) ^ ((0 : ℤ) + (E - T) - 0) ≤ m := mul_le_of_le_one_right (Nat.cast_nonneg m) hone
        _ ≤ _ := by exact_mod_cast hm
    have hrat := FV.rat_scaled n m 0 (E - T)
    have hmakes := (roundTo_int .rne n m (0 + (E - T))).1
    have hflag := roundTo_int_flag .rne n m (0 + (E - T))
    rw [hrat] at hmakes hflag
    push_cast at hmakes
    rw [hV, hr]
    exact ⟨_, hmakes, QFmt.make_int hb' n hle, hflag⟩
end

/-- A floating operand to a floating format, as the bits of the result (R81, R82). -/
theorem cvtValue_float_spec {u v : BitVec 4} {D S : Fmt} (z : Bool) (mode : Mode) (x : DWord) (hu : (u.toNat, D) ∈ cvtFormats)
    (hv : (v.toNat, S) ∈ cvtFormats) :
    let c := cvtValue u v z mode x
    let b := x.toNat % 2 ^ (S.sp + 1)
    let sig := (S.value b).isSig
    ((S.value b).isNan = true →
      (D.ieee = true → c.2 = (if sig then fSNaN else 0) ∧ c.1.toNat < 2 ^ (D.sp + 1) ∧ c.1.getLsbD D.sp = x.getLsbD S.sp ∧
        (∀ i, D.fb ≤ i → i < D.sp → c.1.getLsbD i = true) ∧ c.1.getLsbD (D.fb - 1) = true ∧
        ∀ j, 1 ≤ j → j < D.fb → c.1.getLsbD (D.fb - 1 - j) = (S.ieee && decide (j < S.fb) && x.getLsbD (S.fb - 1 - j))) ∧
      (D = e4m3 → c = (BitVec.ofNat 64 (if x.getLsbD S.sp then 0xFF else 0x7F), if sig then fSNaN else 0)) ∧
      (D = e2m1 → c = (0, if sig then fSNaN else fNV))) ∧
    (∀ n, S.value b = .inf n →
      (D.ieee = true → c = (BitVec.ofNat 64 (D.make n D.infinity), 0)) ∧
      (D = e4m3 → c = (if n then 0xFF else 0x7F, fNV)) ∧ (D = e2m1 → c = (if n then 0xF else 7, fNV))) ∧
    ∀ n k e, S.input z b = .fin n k e → ∃ r, D.Rounds z mode n ((S.input z b).rat : ℝ) r ∧ c = (BitVec.ofNat 64 r.bits, r.fl) := by
  intro c b sig
  obtain ⟨-, -, hD, hDsp⟩ := cvtFmt_of_mem hu
  obtain ⟨-, -, hS, -⟩ := cvtFmt_of_mem hv
  replace hD := sound_of_mem_formats hD
  replace hS := sound_of_mem_formats hS
  have hc : c = (BitVec.ofNat 64 (convert S D z mode b).bits, (convert S D z mode b).fl) := cvtValue_float z mode x hu hv
  have hbit {i : Nat} (hi : i ≤ S.sp) : b.testBit i = x.getLsbD i := by
    rw [Nat.testBit_mod_two_pow, decide_eq_true (by omega), Bool.true_and]
    rfl
  refine ⟨fun hn => ?isNan, fun n hinf => ?isInf, fun n k e hfin => ⟨_, convert_of_fin hD mode hfin, hc⟩⟩
  case isNan =>
    rw [convert_of_nan hS D z mode hn] at hc
    rw [hc]
    refine ⟨fun hi => ?_, ?_, ?_⟩
    · obtain ⟨hfl, hlt, hsign, hexp, hquiet, hfrac⟩ := convertNan_ieee hS hD hi b
      have hle : 2 ^ (D.sp + 1) ≤ 2 ^ 64 := Nat.pow_le_pow_right (by norm_num) hDsp
      have hres (i : Nat) (h : i < 64) : (BitVec.ofNat 64 (convertNan S D b).bits).getLsbD i = (convertNan S D b).bits.testBit i := by
        rw [BitVec.getLsbD_ofNat, decide_eq_true h, Bool.true_and]
      have hfb : D.fb ≤ D.sp := Nat.le_add_left _ _
      refine ⟨hfl, ?_, ?_, fun i h h' => ?_, ?_, fun j h h' => ?_⟩
      · rwa [BitVec.toNat_ofNat, Nat.mod_eq_of_lt (hlt.trans_le hle)]
      · rw [hres _ hDsp, hsign, ← hbit le_rfl]
        rfl
      · rw [hres _ (h'.trans hDsp), hexp i h h']
      · rw [hres _ (by omega), hquiet]
      · rw [hres _ (by omega), hfrac j h h', hbit (by simp only [Fmt.sp]; omega)]
    · rintro rfl
      rw [convertNan_e4m3, ← hbit le_rfl]
      rfl
    · rintro rfl
      rw [convertNan_e2m1]
      rfl
  case isInf =>
    obtain ⟨hieee, he4m3, he2m1⟩ := convert_of_inf hS D z mode hinf
    rw [hc]
    refine ⟨fun hi => by rw [hieee hi], fun hd => ?_, fun hd => ?_⟩
    · rw [he4m3 hd]
      cases n <;> rfl
    · rw [he2m1 hd]
      cases n <;> rfl

/-- A floating operand to an integer (R83). -/
theorem cvtValue_toInt_spec {u v : BitVec 4} {lo hi : Int} {S : Fmt} (z : Bool) (mode : Mode) (x : DWord) (hu : (u.toNat, lo, hi) ∈ cvtIntegers)
    (hv : (v.toNat, S) ∈ cvtFormats) :
    let c := cvtValue u v z mode x
    let b := x.toNat % 2 ^ (S.sp + 1)
    ((S.value b).isNan = true → c = (0, if (S.value b).isSig then fSNaN else fNV)) ∧
    (∀ n, S.value b = .inf n → c = (BitVec.ofInt 64 (if n then lo else hi), fNV)) ∧
    ∀ n k e, S.input z b = .fin n k e → ∃ w : ℤ, mode.Makes ((S.input z b).rat : ℝ) w ∧
      (w < lo → c = (BitVec.ofInt 64 lo, fNV)) ∧ (hi < w → c = (BitVec.ofInt 64 hi, fNV)) ∧
      (lo ≤ w → w ≤ hi → c = (BitVec.ofInt 64 w, if (w : ℚ) = (S.input z b).rat then 0 else fNX)) := by
  intro c b
  obtain ⟨-, -, hlo, hlo0, hhi0, hhi⟩ := cvtLimits_of_mem hu
  obtain ⟨-, -, hS, -⟩ := cvtFmt_of_mem hv
  replace hS := sound_of_mem_formats hS
  have hc : c = (BitVec.ofInt 64 (toInt lo hi mode (S.input z b)).1, (toInt lo hi mode (S.input z b)).2) := cvtValue_toInt z mode x hu hv
  refine ⟨fun hn => ?isNan, fun n hinf => by rw [hc, Fmt.input_of_inf hS z hinf]; rfl, fun n k e hfin => ?isFin⟩
  case isNan =>
    rw [hc, ← Fmt.input_isSig hS z]
    rw [← Fmt.input_isNan hS z] at hn
    obtain ⟨s, hs⟩ := FV.eq_nan_of_isNan hn
    rw [hs]
    cases s <;> rfl
  case isFin =>
    obtain ⟨w, hmakes, hbelow, habove, hin⟩ := toInt_fin hlo hlo0 hhi0 hhi mode n k e
    rw [hc, hfin]
    exact ⟨w, hmakes, fun h => by rw [hbelow h], fun h => by rw [habove h], fun h h' => by rw [hin h h']⟩

/-- Settles O8: packed elements as sums; conversions by the kinds of their operands; elements by rounding to the grid of their format. -/
theorem conversionAndQuantisationResults : Obligations.ConversionAndQuantisationResults := by
  unfold Obligations.ConversionAndQuantisationResults
  intro h r u v k d a b z f2 el pack all quant deq common
  have h8 : ∀ k : BitVec 2, (q8Fmt k).width = 8 := by decide
  have h4 : ∀ k : BitVec 2, (q4Fmt k).width = 4 := by decide
  refine ⟨fun _ _ => Gives.of_cvt h r u v d a, .of_laneOp (fun _ => rfl) rfl fun _ => rfl,
    fun _ => ⟨.of_quant (fun _ => rfl) (h8 k), .of_dequant (fun _ => rfl) (h8 k), .of_common (f := hdForm h [.v a, .v b]) (fun _ => rfl) (h8 k)⟩,
    fun _ => ⟨.of_quant (fun _ => rfl) (h4 k), .of_dequant (fun _ => rfl) (h4 k), .of_common (f := hdForm h (.v a :: pairRegs b)) (fun _ => rfl) (h4 k)⟩,
    ?values, scx_spec, fun q top E T z x hq hE => ?elements⟩
  case values =>
    intro fmts ints int z m x _ c
    have hint {lo hi : Int} (hv : (v.toNat, lo, hi) ∈ ints) : cvtInput v x = int v.toNat x :=
      cvtInput_eq x (of_decide_eq_true (cvtLimits_of_mem hv).1)
    refine ⟨fun D S hu hv => cvtValue_float_spec z m x hu hv, fun lo hi S hu hv => cvtValue_toInt_spec z m x hu hv,
      fun D lo hi hu hv => ?_, fun lo hi lo' hi' hu hv => ?_⟩
    · refine ⟨_, ?_, cvtValue_ofInt z m x hu hv⟩
      rw [hint hv]
      exact ofInt_rounds (sound_of_mem_formats (cvtFmt_of_mem hu).2.2.1) z m _
    · rw [← hint hv]
      exact cvtValue_int z m x hu hv
  case elements =>
    intro X y nan noNan
    have hnan : q.nan = nan := QFmt.nan_eq hq
    obtain ⟨hblock, hisNan, hinf, hfloat, hint⟩ := QFmt.quantise_spec hq hE z x
    rw [hnan] at hblock hisNan
    refine ⟨⟨hblock, fun hn => ?_, hinf, hfloat, hint⟩, fun hx => ?_⟩
    · rw [hisNan hn]
      simp only [noNan, X, decide_eq_true_eq]
    · intro V
      obtain ⟨hblock, hisNan, hfin⟩ := QFmt.dequantise_spec (q := q) hE z x
      refine ⟨fun b hb => ?_, hblock, hisNan, hfin, fun hT => QFmt.rescale_spec hq hx hT⟩
      subst hb
      exact QFmt.rat_value_int ((width_of_elements hq).imp And.left And.left) hx

end Sys2Proof.Machine

/-!
Packed arithmetic and special functions (O7).
-/
namespace Sys2Proof.Machine

/-! ### Packed elements (R126, R127) -/

/-- The elements of a register by division. -/
theorem half_eq (x : Word) : half x 0 = x.toNat % 65536 ∧ half x 1 = x.toNat / 65536 := by
  have hx := x.isLt
  constructor
  · simp [half]
  · simp only [half, BitVec.extractLsb'_toNat, Nat.shiftRight_eq_div_pow]
    omega

/-- A packed operation: each element on its own (R126). -/
theorem Gives.of_packed {i : Instr} {f : Form} {d a b : Reg} (e : Bool → Mode → Nat → Nat → Nat → Res)
    (hx : ∀ s, exec i s = s.packed f d a b e) :
    Gives i { f with src := .f :: f.src } fun t =>
      let p := e (ftzOf t.fpcsr) (rmOf t.fpcsr) ((t.getV a).toNat % 65536) ((t.getV b).toNat % 65536) ((t.getV d).toNat % 65536)
      let q := e (ftzOf t.fpcsr) (rmOf t.fpcsr) ((t.getV a).toNat / 65536) ((t.getV b).toNat / 65536) ((t.getV d).toNat / 65536)
      fpOut d (p.bits + 65536 * q.bits) (p.fl ||| q.fl) := by
  refine .of_laneOp hx rfl fun t => ?_
  obtain ⟨ha, ha'⟩ := half_eq (t.getV a)
  obtain ⟨hb, hb'⟩ := half_eq (t.getV b)
  obtain ⟨hd, hd'⟩ := half_eq (t.getV d)
  simp only [packHalf, ha, ha', hb, hb', hd, hd', Nat.mul_comm 65536]
  rfl

/-! ### Rounding to nearest even with both signs (R72) -/

section
variable {F : Fmt} {z : Bool} {m : Nat} {e : Int}

/-- To nearest even a number and its negative round alike, but for the sign. -/
theorem Fmt.round_rne_sign (hF : F.Sound) (hi : F.ieee = true) (z : Bool) (m : Nat) (e : Int) :
    ∃ g < 2 ^ F.sp, ∃ fl, ∀ n, F.round z .rne n m e = ⟨F.make n g, fl⟩ := by
  rcases eq_or_ne m 0 with rfl | hm
  · exact ⟨0, Nat.two_pow_pos _, 0, fun _ => rfl⟩
  have hmag (n : Bool) : F.roundMag .rne n m e = F.roundMag .rne false m e := rfl
  have hsig (n : Bool) : F.roundSig .rne n m e = F.roundSig .rne false m e := rfl
  by_cases hover : F.top < F.roundMag .rne false m e
  · refine ⟨F.infinity, F.infinity_lt, fOF ||| fNX, fun n => ?_⟩
    rw [Fmt.round_eq hF hm, hmag, if_pos hover, (F.overflow_eq n .rne).1 ⟨hi, .inl rfl⟩]
  · by_cases hflush : (z && F.lane && F.roundMag .rne false m e != 0 && F.roundMag .rne false m e < 2 ^ F.fb) = true
    · refine ⟨0, Nat.two_pow_pos _, fUF ||| fNX, fun n => ?_⟩
      rw [Fmt.round_eq hF hm, hmag, if_neg hover, if_pos hflush]
    · refine ⟨F.roundMag .rne false m e, (not_lt.mp hover).trans_lt hF.top_lt, flagIf (F.roundSig .rne false m e).2 fNX |||
        flagIf ((F.roundSig .rne false m e).2 && decide (e + Nat.log2 m < F.emin)) fUF, fun n => ?_⟩
      rw [Fmt.round_eq hF hm, hmag, hsig, if_neg hover, if_neg hflush]
end

/-- A result with its sign inverted. -/
def Res.flip (r : Res) : Res := ⟨if 2 ^ 31 ≤ r.bits then r.bits - 2 ^ 31 else r.bits + 2 ^ 31, r.fl⟩

theorem Res.flip_make {g : Nat} (hg : g < 2 ^ 31) (n : Bool) (fl : Flags) : Res.flip ⟨fp32.make n g, fl⟩ = ⟨fp32.make (!n) g, fl⟩ := by
  have hsp : fp32.sp = 31 := rfl
  cases n with
  | false => simp only [Res.flip, Fmt.make, hsp, Bool.false_eq_true, if_false, if_neg (not_le.mpr hg), Bool.not_false, if_true]
  | true =>
    simp only [Res.flip, Fmt.make, hsp, if_true, if_pos (Nat.le_add_left _ _), Nat.add_sub_cancel, Bool.not_true, Bool.false_eq_true, if_false]

/-- A finite value and its negative round to opposite results. -/
theorem roundV_rne_negate (z : Bool) {v : FV} (hv : v.isFin = true) : fp32.roundV z .rne v.negate = (fp32.roundV z .rne v).flip := by
  obtain ⟨n, m, e, rfl⟩ := FV.eq_fin_of_isFin hv
  obtain ⟨g, hg, fl, hround⟩ := Fmt.round_rne_sign fp32_sound rfl z m e
  rw [FV.negate, Fmt.roundV, Fmt.roundV, hround, hround, Res.flip_make hg]

/-! ### Operands (R73, R77) -/

/-- A finite operand that is no zero, by its encoding. -/
theorem fp32_operand {z n : Bool} {x k : Nat} {e : Int} (hx : x < 2 ^ 32) (h : fp32.input z x = .fin n k e) (hk : k ≠ 0) :
    ∃ g ≤ fp32.top, x = fp32.make n g ∧ k = fp32.sig g ∧ e = -149 + fp32.expo g ∧ ¬fp32.Flushed z x := by
  have hnot : ¬fp32.Flushed z x := fun hf => by
    rw [Fmt.input_of_flushed hf, FV.fin.injEq] at h
    exact hk h.2.1.symm
  rw [Fmt.input_of_not_flushed hnot] at h
  obtain ⟨hle, hmake⟩ := Fmt.eq_make_of_value_fin fp32_sound hx h
  rw [Fmt.value_of_mag_le fp32_sound hle, FV.fin.injEq] at h
  obtain ⟨-, rfl, rfl⟩ := h
  exact ⟨_, hle, hmake, rfl, rfl, hnot⟩

/-- Its significand and exponent lie in the ranges of FP32. -/
theorem fp32_operand_bounds {z n : Bool} {x k : Nat} {e : Int} (hx : x < 2 ^ 32) (h : fp32.input z x = .fin n k e) (hk : k ≠ 0) :
    k < 2 ^ 24 ∧ -149 ≤ e ∧ e ≤ 104 := by
  obtain ⟨g, hg, -, rfl, rfl, -⟩ := fp32_operand hx h hk
  have htop : fp32.top = 0x7F7FFFFF := rfl
  refine ⟨(fp32.sig_bounds g).1, by omega, ?_⟩
  simp only [Fmt.expo, show fp32.fb = 23 from rfl]
  omega

/-- The operand with its sign inverted. -/
theorem fp32_operand_flip {z n : Bool} {x k : Nat} {e : Int} (hx : x < 2 ^ 32) (h : fp32.input z x = .fin n k e) (hk : k ≠ 0) :
    fp32.input z (if n then x - 2 ^ 31 else x + 2 ^ 31) = .fin (!n) k e := by
  obtain ⟨g, hg, rfl, rfl, rfl, hnot⟩ := fp32_operand hx h hk
  have hlt : g < 2 ^ fp32.sp := hg.trans_lt fp32_sound.top_lt
  have hy : (if n then fp32.make n g - 2 ^ 31 else fp32.make n g + 2 ^ 31) = fp32.make (!n) g := by
    have hsp : fp32.sp = 31 := rfl
    cases n <;> simp [Fmt.make, hsp]
  have hnot' : ¬fp32.Flushed z (fp32.make (!n) g) := by
    rw [Fmt.Flushed, Fmt.mag_make hlt] at hnot ⊢
    exact hnot
  rw [hy, Fmt.input_of_not_flushed hnot', Fmt.value_make fp32_sound hg]
  rfl

/-! ### Reciprocals (R97) -/

/-- A root of enough bits is large. -/
theorem root_large {r k N : Nat} (h : 2 ^ N < (r + 1) * (r + 1) * k) (hk : k < 2 ^ 25) (hN : 73 ≤ N) : 2 ^ 24 ≤ r := by
  by_contra hr
  have hle : (r + 1) * (r + 1) * k ≤ 2 ^ 24 * 2 ^ 24 * 2 ^ 25 := Nat.mul_le_mul (Nat.mul_le_mul (not_le.mp hr) (not_le.mp hr)) hk.le
  rw [← pow_add, ← pow_add] at hle
  exact absurd (h.trans_le hle) (not_lt.mpr (Nat.pow_le_pow_right two_pos hN))

/-- The root of a quotient by its whole part. -/
theorem sqrt_div_bounds {P r k : Nat} (hk : 0 < k) (hlow : r * r * k ≤ P) (hhigh : P < (r + 1) * (r + 1) * k) :
    (r * r * k = P → √((P : ℝ) / k) = r) ∧ (r * r * k ≠ P → (r : ℝ) < √((P : ℝ) / k) ∧ √((P : ℝ) / k) < r + 1) := by
  have hk' : (0 : ℝ) < k := by exact_mod_cast hk
  refine ⟨fun h => ?_, fun h => ⟨?_, ?_⟩⟩
  · have heq : (P : ℝ) / k = (r : ℝ) ^ 2 := by
      rw [div_eq_iff hk'.ne', sq]
      exact_mod_cast h.symm
    rw [heq, Real.sqrt_sq (Nat.cast_nonneg r)]
  · rw [Real.lt_sqrt (Nat.cast_nonneg r), lt_div_iff₀ hk', sq]
    exact_mod_cast lt_of_le_of_ne hlow h
  · rw [Real.sqrt_lt' (by positivity), div_lt_iff₀ hk', sq]
    exact_mod_cast hhigh

/-- `rsqrtV` rounds as the reciprocal of the root does. -/
theorem rsqrtV_rounds (z : Bool) (mode : Mode) {m : Nat} (hm : m ≠ 0) (hlt : m < 2 ^ 24) (e : Int) :
    fp32.Rounds z mode false (1 / √(m * (2 : ℝ) ^ e)) (fp32.roundV z mode (rsqrtV m e)) := by
  -- The exponent made even.
  obtain ⟨k, i, hk0, hk, hval, hfin⟩ : ∃ (k : ℕ) (i : ℤ), k ≠ 0 ∧ k < 2 ^ 25 ∧ (m : ℝ) * (2 : ℝ) ^ e = k * ((2 : ℝ) ^ i) ^ 2 ∧
      rsqrtV m e = sticky false (isqrt (2 ^ 400 / k)) (-200 - i) (isqrt (2 ^ 400 / k) * isqrt (2 ^ 400 / k) * k == 2 ^ 400) := by
    have hsq (i : ℤ) : ((2 : ℝ) ^ i) ^ 2 = (2 : ℝ) ^ (2 * i) := by rw [← zpow_natCast, ← zpow_mul, mul_comm]; rfl
    rcases Int.emod_two_eq_zero_or_one e with h | h
    · refine ⟨m, e / 2, hm, by omega, by rw [hsq, show 2 * (e / 2) = e by omega], ?_⟩
      simp only [rsqrtV, h, beq_self_eq_true, if_true]
    · refine ⟨2 * m, (e - 1) / 2, by omega, by omega, ?_, ?_⟩
      · rw [hsq, show e = 2 * ((e - 1) / 2) + 1 by omega, zpow_add_one₀ (by norm_num), show (2 * ((e - 1) / 2) + 1 - 1) / 2 = (e - 1) / 2 by omega]
        push_cast
        ring
      · have h0 : ((1 : ℤ) == 0) = false := rfl
        simp only [rsqrtV, h, h0, Bool.false_eq_true, if_false]
  obtain ⟨hlow, hhigh⟩ := isqrt_bounds (2 ^ 400 / k)
  rw [hfin]
  generalize isqrt (2 ^ 400 / k) = r at hlow hhigh ⊢
  have hkpos : 0 < k := Nat.pos_of_ne_zero hk0
  have hkpos' : (0 : ℝ) < k := by exact_mod_cast hkpos
  have hlow' : r * r * k ≤ 2 ^ 400 := (Nat.le_div_iff_mul_le hkpos).mp hlow
  have hhigh' : 2 ^ 400 < (r + 1) * (r + 1) * k := (Nat.div_lt_iff_lt_mul hkpos).mp hhigh
  have hroot : 1 / √(m * (2 : ℝ) ^ e) = signFactor false * (√(((2 ^ 400 : ℕ) : ℝ) / k) * (2 : ℝ) ^ (-200 - i)) := by
    have h200 : √(((2 ^ 400 : ℕ) : ℝ)) = 2 ^ 200 := by
      rw [Nat.cast_pow, Nat.cast_ofNat, show (2 : ℝ) ^ 400 = (2 ^ 200) ^ 2 by rw [← pow_mul], Real.sqrt_sq (by positivity)]
    rw [hval, Real.sqrt_mul hkpos'.le, Real.sqrt_sq (by positivity), Real.sqrt_div (Nat.cast_nonneg _), h200, zpow_sub₀ (by norm_num), zpow_neg]
    simp only [signFactor_false, Int.cast_one, one_mul, ← zpow_natCast]
    field_simp
    norm_num
  obtain ⟨heq, hne⟩ := sqrt_div_bounds hkpos hlow' hhigh'
  rw [hroot]
  refine sticky_rounds fp32_sound z mode false _ (root_large hhigh' hk (by norm_num)) (fun h => ?_) (fun h => ?_)
  · rw [heq (beq_iff_eq.mp h)]
  · obtain ⟨hl, hh⟩ := hne (beq_eq_false_iff_ne.mp h)
    constructor <;> gcongr

/-! ### Powers of two and their logarithms (R97) -/

/-- A power of two in units of the place at which it is rounded. -/
theorem roundSig_two_pow (i : ℤ) : fp32.roundExpo 1 i = max i (-126) ∧
    fp32.roundSig .rne false 1 i = if -149 ≤ i then (2 ^ (i - max i (-126) + 23).toNat, false) else (0, true) := by
  have hexpo : fp32.roundExpo 1 i = max i (-126) := by
    rw [Fmt.roundExpo, show Nat.log2 1 = 0 by decide]
    simp [Fmt.emin, fp32]
  refine ⟨hexpo, ?_⟩
  rw [Fmt.roundSig, hexpo, show ((fp32.fb : ℕ) : ℤ) = 23 from rfl, roundTo]
  by_cases h : -149 ≤ i
  · rw [if_pos (show max i (-126) - 23 ≤ i by omega), if_pos h, one_mul, ← sub_add]
  · rw [if_neg (show ¬max i (-126) - 23 ≤ i by omega), if_neg h, show Nat.log2 1 = 0 by decide]
    obtain ⟨k, hk⟩ : ∃ k, (max i (-126) - 23 - i).toNat = k + 1 := ⟨(max i (-126) - 23 - i).toNat - 1, by omega⟩
    simp only [hk]
    split
    · rfl
    · obtain rfl | rfl : k = 0 ∨ k = 1 := by omega
      · rfl
      · rfl

/-- What a power of two rounds to. -/
theorem round_two_pow (z : Bool) (i : ℤ) :
    let r := fp32.round z .rne false 1 i
    (-126 ≤ i → i ≤ 127 → r = ⟨((i + 127) * 2 ^ 23).toNat, 0⟩) ∧ (128 ≤ i → r = ⟨0x7F800000, fOF ||| fNX⟩) ∧
    (-149 ≤ i → i < -126 → r = if z then ⟨0, fUF ||| fNX⟩ else ⟨2 ^ (i + 149).toNat, 0⟩) ∧ (i < -149 → r = ⟨0, fUF ||| fNX⟩) := by
  intro r
  obtain ⟨hexpo, hsig⟩ := roundSig_two_pow i
  have hr : r = if 0x7F7FFFFF < fp32.roundMag .rne false 1 i then ⟨0x7F800000, fOF ||| fNX⟩
      else if (z && true && fp32.roundMag .rne false 1 i != 0 && fp32.roundMag .rne false 1 i < 2 ^ 23) = true then ⟨0, fUF ||| fNX⟩
      else ⟨fp32.roundMag .rne false 1 i, flagIf (fp32.roundSig .rne false 1 i).2 fNX |||
        flagIf ((fp32.roundSig .rne false 1 i).2 && decide (i + Nat.log2 1 < fp32.emin)) fUF⟩ := Fmt.round_eq fp32_sound one_ne_zero
  have hmag : fp32.roundMag .rne false 1 i = (max i (-126) + 126).toNat * 2 ^ 23 + (fp32.roundSig .rne false 1 i).1 := by
    rw [Fmt.roundMag, hexpo]
    rfl
  have hnormal (h : -126 ≤ i) : fp32.roundMag .rne false 1 i = ((i + 127) * 2 ^ 23).toNat ∧ (fp32.roundSig .rne false 1 i).2 = false := by
    rw [hmag, hsig, if_pos (by omega), max_eq_left h, sub_self]
    refine ⟨?_, rfl⟩
    change (i + 126).toNat * 2 ^ 23 + 2 ^ 23 = _
    omega
  refine ⟨fun h h' => ?_, fun h => ?_, fun h h' => ?_, fun h => ?_⟩
  · obtain ⟨hm, hx⟩ := hnormal h
    rw [hr, hm, hx, if_neg (by omega), if_neg (by simp; omega)]
    simp [flagIf]
  · obtain ⟨hm, hx⟩ := hnormal (by omega)
    rw [hr, hm, if_pos (by omega)]
  · have hlt : 2 ^ (i + 149).toNat < 2 ^ 23 := Nat.pow_lt_pow_right (by norm_num) (by omega)
    have hpos := Nat.two_pow_pos (i + 149).toNat
    have hm : fp32.roundMag .rne false 1 i = 2 ^ (i + 149).toNat := by
      rw [hmag, hsig, if_pos h, max_eq_right h'.le, show i - -126 + 23 = i + 149 by ring]
      simp
    rw [hr, hm, hsig, if_pos h, if_neg (by omega)]
    cases z
    · simp [flagIf]
    · rw [if_pos (by simp; omega)]
      rfl
  · have hm : fp32.roundMag .rne false 1 i = 0 := by
      rw [hmag, hsig, if_neg (by omega), max_eq_right (by omega)]
      rfl
    have htiny : i + Nat.log2 1 < fp32.emin := by
      rw [show Nat.log2 1 = 0 by decide, show fp32.emin = -126 from rfl]
      omega
    rw [hr, hm, hsig, if_neg (show ¬-149 ≤ i by omega), if_neg (by omega), if_neg (by simp), decide_eq_true htiny]
    rfl

/-- A number by the exponent of its significand. -/
theorem abs_rat_lt_zpow_iff {n : Bool} {m : Nat} {e i : Int} (hm : m ≠ 0) :
    |((FV.fin n m e).rat : ℝ)| < (2 : ℝ) ^ i ↔ e + Nat.log2 m < i := by
  rw [FV.rat_fin, abs_signFactor_mul, abs_of_nonneg (by positivity), lt_zpow_iff_log2 hm]

/-- `exp2` of an integer is a power of two, beyond the range of FP32 one that rounds as it does. -/
theorem exp2_int {n : Bool} {m : Nat} {e i : ℤ} (he : -384 ≤ e) (hm : m ≠ 0) (hv : ((FV.fin n m e).rat : ℝ) = i) :
    ∃ j : ℤ, exp2 n m e = .fin false 1 j ∧ (j = i ∨ (128 ≤ i ∧ 128 ≤ j) ∨ (i < -149 ∧ j < -149)) := by
  unfold exp2
  split
  · next hbig =>
    have hlarge : (2 : ℝ) ^ (10 : ℤ) ≤ |(i : ℝ)| := by
      rw [← hv]
      exact not_lt.mp ((abs_rat_lt_zpow_iff hm).not.mpr (by omega))
    have hlarge' : 2 ^ 10 ≤ |i| := by exact_mod_cast hlarge
    refine ⟨_, rfl, ?_⟩
    have hsign := FV.sign_of_rat n m e
    have hi : (FV.fin n m e).rat = i := by exact_mod_cast hv
    rw [hi] at hsign
    obtain ⟨hneg, hpos⟩ := hsign
    cases n with
    | false =>
      have hge : ¬(i : ℚ) < 0 := fun h => by simpa using hneg h
      have : 0 ≤ i := by exact_mod_cast not_lt.mp hge
      rw [abs_of_nonneg this] at hlarge'
      refine .inr (.inl ⟨by omega, by norm_num⟩)
    | true =>
      have hle : ¬(0 : ℚ) < i := fun h => by simpa using hpos h
      have : i ≤ 0 := by exact_mod_cast not_lt.mp hle
      rw [abs_of_nonpos this] at hlarge'
      refine .inr (.inr ⟨by omega, by norm_num⟩)
  · have hx : (if n then -((m : Int) * 2 ^ (e + sfBits).toNat) else (m : Int) * 2 ^ (e + sfBits).toNat) = i * (2 ^ sfBits : Nat) := by
      obtain ⟨j, hj⟩ := Int.eq_ofNat_of_zero_le (show 0 ≤ e + sfBits by rw [show (sfBits : ℤ) = 384 from rfl]; omega)
      rw [hj, Int.toNat_natCast]
      have hreal : (signFactor n : ℝ) * (m * 2 ^ j) = i * 2 ^ sfBits := by
        have hpow : (2 : ℝ) ^ j = 2 ^ e * 2 ^ sfBits := by rw [← zpow_natCast, ← zpow_natCast, ← zpow_add₀ (by norm_num), hj]
        rw [← hv, FV.rat_fin, hpow]
        ring
      have hint : signFactor n * (m * 2 ^ j) = i * 2 ^ sfBits := by exact_mod_cast hreal
      cases n <;> simpa using hint
    have hpos : ((2 ^ sfBits : ℕ) : ℤ) ≠ 0 := by positivity
    refine ⟨i, ?_, .inl rfl⟩
    simp only [hx, Int.mul_ediv_cancel _ hpos, Int.mul_emod_left]
    rfl

/-- `exp2` of an integer (R97). -/
theorem exp2_spec (z : Bool) {n : Bool} {m : Nat} {e i : ℤ} (he : -384 ≤ e) (hm : m ≠ 0) (hv : ((FV.fin n m e).rat : ℝ) = i) :
    let r := fp32.roundV z .rne (exp2 n m e)
    (-126 ≤ i → i ≤ 127 → r = ⟨((i + 127) * 2 ^ 23).toNat, 0⟩) ∧ (128 ≤ i → r = ⟨0x7F800000, fOF ||| fNX⟩) ∧
    (-149 ≤ i → i < -126 → r = if z then ⟨0, fUF ||| fNX⟩ else ⟨2 ^ (i + 149).toNat, 0⟩) ∧ (i < -149 → r = ⟨0, fUF ||| fNX⟩) := by
  intro r
  obtain ⟨j, hexp, hj⟩ := exp2_int he hm hv
  have hr : r = fp32.round z .rne false 1 j := congrArg (fp32.roundV z .rne) hexp
  obtain ⟨hnormal, hover, hsub, hunder⟩ := round_two_pow z j
  rw [hr]
  obtain rfl | ⟨hi, hj⟩ | ⟨hi, hj⟩ := hj
  · exact ⟨hnormal, hover, hsub, hunder⟩
  · exact ⟨fun _ h => by omega, fun _ => hover hj, fun _ h => by omega, fun h => by omega⟩
  · exact ⟨fun h _ => by omega, fun h => by omega, fun h _ => by omega, fun _ => hunder hj⟩

/-- A whole number of no more bits than a significand is held exactly. -/
theorem round_small_int (z : Bool) {i : ℤ} (hi : |i| < 2 ^ 24) :
    let r := fp32.round z .rne (decide (i < 0)) i.natAbs 0
    r.fl = 0 ∧ r.bits < 2 ^ 32 ∧ (fp32.value r.bits).rat = i ∧ (i = 0 → r.bits = 0) := by
  intro r
  rcases eq_or_ne i 0 with rfl | h0
  · have hr : r = ⟨0, 0⟩ := rfl
    have hv : fp32.value 0 = .fin false 0 (-149) := by decide
    rw [hr]
    exact ⟨rfl, by norm_num, by simp [hv, FV.rat], fun _ => rfl⟩
  · have hround := fp32.round_rounds fp32_sound z .rne (decide (i < 0)) i.natAbs 0
    have hrat : (FV.fin (decide (i < 0)) i.natAbs 0).rat = i := by rw [FV.rat_natAbs, zpow_zero, mul_one]
    rw [hrat, Rat.cast_intCast] at hround
    have habs : |(i : ℝ)| < 2 ^ 24 := by exact_mod_cast hi
    have hone : (1 : ℝ) ≤ |(i : ℝ)| := by exact_mod_cast Int.one_le_abs h0
    have htop : (2 : ℝ) ^ 24 ≤ fp32.real fp32.top := by
      rw [show fp32.real fp32.top = (2 - (2 : ℚ) ^ (-23 : ℤ)) * (2 : ℚ) ^ (127 : ℤ) from fp32.real_last_binade (E := 254) (by decide)]
      norm_num
    obtain ⟨a, ha, hr, hv⟩ := hround.of_held fp32_sound (n := i) (q := 0) (by rw [zpow_zero, mul_one]) habs (by decide)
      (habs.le.trans htop) (.inr (.inr (hone.trans' (zpow_le_one_of_nonpos₀ (by norm_num) (by decide)))))
    rw [show r = ⟨fp32.make (decide (i < 0)) a, 0⟩ from hr]
    exact ⟨rfl, Fmt.make_lt (ha.trans_lt fp32_sound.top_lt) _, by exact_mod_cast hv, fun h => absurd h h0⟩

/-- The logarithm of a power of two is its exponent. -/
theorem log2V_two_pow {m : Nat} {e i : ℤ} (hv : ((FV.fin false m e).rat : ℝ) = (2 : ℝ) ^ i) :
    log2V m e = .fin (decide (i < 0)) i.natAbs 0 ∧ e + Nat.log2 m = i := by
  have hv' : (FV.fin false m e).rat = (2 : ℚ) ^ i := by
    refine Rat.cast_injective (α := ℝ) (hv.trans ?_)
    push_cast
    rfl
  have hpos : (0 : ℚ) < 2 ^ i := by positivity
  obtain ⟨hm, hexpo⟩ := expo_unique (n := false) (m := m) (e := e) (i := i) (by rw [hv', abs_of_pos hpos])
    (by rw [hv', abs_of_pos hpos]; exact zpow_lt_zpow_right₀ (by norm_num) (by omega))
  have hpow : m = 2 ^ Nat.log2 m := by
    have hreal : (m : ℝ) * (2 : ℝ) ^ e = 2 ^ Nat.log2 m * (2 : ℝ) ^ e := by
      rw [FV.rat_fin, signFactor_false, Int.cast_one, one_mul] at hv
      rw [hv, ← zpow_natCast, ← zpow_add₀ (by norm_num), add_comm, hexpo]
    exact_mod_cast mul_right_cancel₀ (by positivity) hreal
  refine ⟨?_, hexpo⟩
  simp only [log2V, beq_iff_eq.mpr hpow, if_true, hexpo]

/-! ### Near zero and far from it (R97) -/

/-- A number just below a whole number of units rounds to that number. -/
theorem roundTo_pred (n : Bool) {w k : Nat} (e : Int) (hw : 0 < w) (hk : 2 ≤ k) (hlog : k ≤ Nat.log2 (w * 2 ^ k - 1) + 2) :
    roundTo .rne n (w * 2 ^ k - 1) e (e + k) = (w, true) := by
  have hpow : 4 ≤ 2 ^ k := Nat.pow_le_pow_right (n := 2) (by norm_num) hk
  have hsplit : w * 2 ^ k - 1 = 2 ^ k * (w - 1) + (2 ^ k - 1) := by
    obtain ⟨w, rfl⟩ := Nat.exists_eq_succ_of_ne_zero hw.ne'
    rw [Nat.succ_mul, Nat.succ_sub_one, Nat.mul_comm]
    omega
  have hdiv : (w * 2 ^ k - 1) / 2 ^ k = w - 1 := by
    rw [hsplit, Nat.mul_add_div (by omega), Nat.div_eq_of_lt (by omega), Nat.add_zero]
  have hmod : (w * 2 ^ k - 1) % 2 ^ k = 2 ^ k - 1 := by
    rw [hsplit, Nat.mul_add_mod, Nat.mod_eq_of_lt (by omega)]
  have hup (odd : Bool) : roundsUp .rne n odd (2 ^ k - 1) k = true := by
    simp only [roundsUp, Bool.or_eq_true, decide_eq_true_eq]
    omega
  rw [roundTo, if_neg (by omega), show (e + k - e).toNat = k by omega]
  simp only [if_neg (not_lt.mpr hlog), hdiv, hmod, hup, if_true, Nat.sub_add_cancel hw, Prod.mk.injEq, bne_iff_ne, true_and]
  omega

/-- A number just below one of FP32 that is above the smallest normal one rounds to it. -/
theorem round_just_below (z n : Bool) {g : Nat} (hg : 2 ^ 23 < g) (htop : g ≤ fp32.top) :
    fp32.round z .rne n (fp32.sig g * 2 ^ 64 - 1) (-149 + fp32.expo g - 64) = ⟨fp32.make n g, fNX⟩ := by
  obtain ⟨hlt, hnormal⟩ := fp32.sig_bounds g
  have hsplit := fp32.expo_add_sig g
  have hfb : fp32.fb = 23 := rfl
  have hemin : fp32.emin = -126 := rfl
  rw [hfb] at hlt hnormal hsplit
  generalize fp32.sig g = s at *
  generalize fp32.expo g = E at *
  -- The place at which it is rounded, one lower below a power of two.
  have key : -126 ≤ -149 + (E : ℤ) - 64 + Nat.log2 (s * 2 ^ 64 - 1) ∧ fp32.roundMag .rne n (s * 2 ^ 64 - 1) (-149 + E - 64) = g ∧
      (fp32.roundSig .rne n (s * 2 ^ 64 - 1) (-149 + E - 64)).2 = true := by
    rcases Nat.lt_or_ge (2 ^ 23) s with hs | hs
    · have hlog : Nat.log2 (s * 2 ^ 64 - 1) = 87 := (Nat.log2_eq_iff (by omega)).mpr (by omega)
      have hexpo : fp32.roundExpo (s * 2 ^ 64 - 1) (-149 + E - 64) = -126 + E := by
        rw [Fmt.roundExpo, hlog, hemin, max_eq_left] <;> push_cast <;> omega
      have hsig : fp32.roundSig .rne n (s * 2 ^ 64 - 1) (-149 + E - 64) = (s, true) := by
        rw [Fmt.roundSig, hexpo, hfb, show -126 + (E : ℤ) - (23 : ℕ) = -149 + E - 64 + (64 : ℕ) by push_cast; ring]
        exact roundTo_pred n _ (by omega) (by norm_num) (by rw [hlog]; norm_num)
      refine ⟨by rw [hlog]; push_cast; omega, ?_, by rw [hsig]⟩
      rw [Fmt.roundMag, hexpo, hsig, hemin, hfb, show (-126 + (E : ℤ) - -126).toNat = E by omega, hsplit]
    · obtain rfl : s = 2 ^ 23 := by omega
      have hE : 1 ≤ E := by omega
      have hsame : 2 ^ 23 * 2 ^ 64 - 1 = 2 ^ 24 * 2 ^ 63 - 1 := by norm_num
      have hlog : Nat.log2 (2 ^ 24 * 2 ^ 63 - 1) = 86 := (Nat.log2_eq_iff (by norm_num)).mpr (by norm_num)
      rw [hsame]
      have hexpo : fp32.roundExpo (2 ^ 24 * 2 ^ 63 - 1) (-149 + E - 64) = -127 + E := by
        rw [Fmt.roundExpo, hlog, hemin, max_eq_left] <;> push_cast <;> omega
      have hsig : fp32.roundSig .rne n (2 ^ 24 * 2 ^ 63 - 1) (-149 + E - 64) = (2 ^ 24, true) := by
        rw [Fmt.roundSig, hexpo, hfb, show -127 + (E : ℤ) - (23 : ℕ) = -149 + E - 64 + (63 : ℕ) by push_cast; ring]
        exact roundTo_pred (w := 2 ^ 24) (k := 63) n _ (by norm_num) (by norm_num) (by rw [hlog]; norm_num)
      refine ⟨by rw [hlog]; push_cast; omega, ?_, by rw [hsig]⟩
      rw [Fmt.roundMag, hexpo, hsig, hemin, hfb, show (-127 + (E : ℤ) - -126).toNat = E - 1 by omega, ← hsplit, Nat.sub_mul, Nat.one_mul]
      have hle : 2 ^ 23 ≤ E * 2 ^ 23 := Nat.le_mul_of_pos_left _ hE
      generalize E * 2 ^ 23 = y at hle ⊢
      change y - 2 ^ 23 + 2 ^ 24 = _
      omega
  obtain ⟨hlog, hmag, hnx⟩ := key
  have hs0 : s * 2 ^ 64 - 1 ≠ 0 := by omega
  rw [Fmt.round_eq fp32_sound hs0, hmag, hnx, if_neg (not_lt.mpr htop), if_neg (by rw [hfb]; simp; omega), hemin, decide_eq_false (by omega)]
  simp [flagIf]

/-- A number just below 1. -/
theorem round_just_below_one (z n : Bool) : fp32.round z .rne n (2 ^ 64 - 1) (-64) = ⟨if n then 0xBF800000 else 0x3F800000, fNX⟩ := by
  cases z <;> cases n <;> decide +kernel

/-! ### The sine of no operand is worked out as zero (R97)

Its sign is that of the operand only where the value worked out is not zero: each of the two series is bounded away from zero. -/

/-- A term of the series, in units of which `S` make 1, times the argument's square `x2` over the next two numbers, rounded down. -/
def seriesStep (S x2 n : Nat) (t : ℤ) : ℤ := t * x2 / S / ((n + 1) * (n + 2) : Nat)
/-- The alternating series of which `trigTerms` are the terms, in any unit. -/
def altSeries (S x2 : Nat) : Nat → Nat → ℤ → ℤ
  | 0, _, _ => 0
  | k + 1, n, t => t + altSeries S x2 k (n + 2) (-seriesStep S x2 n t)

theorem trigTerms_eq (x2 k n : Nat) (t : ℤ) : trigTerms x2 k n t = altSeries (2 ^ 512) x2 k n t := by
  induction k generalizing n t with
  | zero => rfl
  | succ k ih => rw [trigTerms, altSeries, ih, seriesStep]

section
variable {S x2 n : Nat} {t : ℤ}

theorem seriesStep_nonneg (ht : 0 ≤ t) : 0 ≤ seriesStep S x2 n t := by unfold seriesStep; positivity
theorem seriesStep_nonpos (hS : 0 < S) (ht : t ≤ 0) : seriesStep S x2 n t ≤ 0 := by
  have hS' : (0 : ℤ) < S := by exact_mod_cast hS
  refine Int.ediv_nonpos_of_nonpos_of_neg (Int.ediv_nonpos_of_nonpos_of_neg ?_ hS') (by positivity)
  exact mul_nonpos_of_nonpos_of_nonneg ht (by positivity)
/-- As a number it is less than 1 below the exact one. -/
theorem seriesStep_bounds (hS : 0 < S) : (seriesStep S x2 n t : ℚ) ≤ t * (x2 / S) / ((n + 1) * (n + 2)) ∧
    (t * (x2 / S) / ((n + 1) * (n + 2)) : ℚ) < seriesStep S x2 n t + 1 := by
  have hfloor : seriesStep S x2 n t = ⌊(t * (x2 / S) / ((n + 1) * (n + 2)) : ℚ)⌋ := by
    have hexact : (t * (x2 / S) / ((n + 1) * (n + 2)) : ℚ) = ((t * x2 : ℤ) : ℚ) / ((S * ((n + 1) * (n + 2)) : ℕ) : ℚ) := by
      push_cast
      field_simp
    rw [hexact, Rat.floor_intCast_div_natCast, seriesStep, Int.ediv_ediv_of_nonneg (Int.natCast_nonneg S)]
    push_cast
    rfl
  rw [hfloor]
  exact ⟨Int.floor_le _, Int.lt_floor_add_one _⟩
/-- Where the argument's square is at most the divisor, a term is not smaller than the next one. -/
theorem seriesStep_le (hS : 0 < S) (ht : 0 ≤ t) (hx : (x2 : ℚ) / S ≤ (n + 1) * (n + 2)) : seriesStep S x2 n t ≤ t := by
  have hle := (seriesStep_bounds (x2 := x2) (n := n) (t := t) hS).1
  have ht' : (0 : ℚ) ≤ t := by exact_mod_cast ht
  have hc : (0 : ℚ) < (n + 1) * (n + 2) := by positivity
  have : (t * (x2 / S) / ((n + 1) * (n + 2)) : ℚ) ≤ t := by
    rw [div_le_iff₀ hc]
    gcongr
  exact_mod_cast hle.trans this
theorem seriesStep_lt (hS : 0 < S) (ht : 0 < t) (hx : (x2 : ℚ) / S < (n + 1) * (n + 2)) : seriesStep S x2 n t < t := by
  have hle := (seriesStep_bounds (x2 := x2) (n := n) (t := t) hS).1
  have ht' : (0 : ℚ) < t := by exact_mod_cast ht
  have hc : (0 : ℚ) < (n + 1) * (n + 2) := by positivity
  have : (t * (x2 / S) / ((n + 1) * (n + 2)) : ℚ) < t := by
    rw [div_lt_iff₀ hc]
    gcongr
  exact_mod_cast hle.trans_lt this

/-- The divisor grows. -/
theorem divisor_ge {m n : Nat} (h : m ≤ n) : ((m + 1) * (m + 2) : ℚ) ≤ (n + 1) * (n + 2) := by
  have : (m : ℚ) ≤ n := by exact_mod_cast h
  gcongr

/-- In pairs the terms of the series of the sine are not negative. -/
theorem altSeries_nonneg (hS : 0 < S) (hx : (x2 : ℚ) / S ≤ 6) (k : Nat) (hn : 1 ≤ n) (ht : 0 ≤ t) : 0 ≤ altSeries S x2 (2 * k) n t := by
  induction k generalizing n t with
  | zero => exact le_rfl
  | succ k ih =>
    have hle := seriesStep_le hS ht (hx.trans ((Eq.le (by norm_num)).trans (divisor_ge hn)))
    have hnext := seriesStep_nonpos (x2 := x2) (n := n + 2) hS (neg_nonpos.mpr (seriesStep_nonneg (S := S) (x2 := x2) (n := n) ht))
    have hrest := ih (n := n + 2 + 2) (by omega) (neg_nonneg.mpr hnext)
    rw [show 2 * (k + 1) = 2 * k + 1 + 1 by ring, altSeries, altSeries]
    omega
/-- The sine of a positive argument is positive. -/
theorem altSeries_pos (hS : 0 < S) (hx : (x2 : ℚ) / S < 6) (k : Nat) (ht : 0 < t) : 0 < altSeries S x2 (2 * (k + 1)) 1 t := by
  have hlt := seriesStep_lt (n := 1) hS ht (hx.trans_eq (by norm_num))
  have hnext := seriesStep_nonpos (x2 := x2) (n := 1 + 2) hS (neg_nonpos.mpr (seriesStep_nonneg (S := S) (x2 := x2) (n := 1) ht.le))
  have hrest := altSeries_nonneg hS hx.le k (n := 1 + 2 + 2) (by omega) (neg_nonneg.mpr hnext)
  rw [show 2 * (k + 1) = 2 * k + 1 + 1 by ring, altSeries, altSeries]
  omega
end

/-! #### The cosine beside its exact series -/

/-- The series without rounding. -/
def exactSeries (u : ℚ) : Nat → Nat → ℚ → ℚ
  | 0, _, _ => 0
  | k + 1, n, t => t - exactSeries u k (n + 2) (t * u / ((n + 1) * (n + 2)))

theorem exactSeries_neg (u : ℚ) (k n : Nat) (t : ℚ) : exactSeries u k n (-t) = -exactSeries u k n t := by
  induction k generalizing n t with
  | zero => simp [exactSeries]
  | succ k ih => rw [exactSeries, exactSeries, neg_mul, neg_div, ih]; ring

section
variable {S x2 n : Nat} {t : ℤ} {u v T T' : ℚ}

/-- A term by its exact one. -/
theorem step_error (hS : 0 < S) (hx : (x2 : ℚ) / S ≤ 3) (hn : 2 ≤ n) (h : |(t : ℚ) - T| ≤ 2) :
    |((-seriesStep S x2 n t : ℤ) : ℚ) - -(T * (x2 / S) / ((n + 1) * (n + 2)))| ≤ 2 := by
  obtain ⟨hle, hlt⟩ := seriesStep_bounds (x2 := x2) (n := n) (t := t) hS
  have hu : (0 : ℚ) ≤ x2 / S := by positivity
  have hc : (12 : ℚ) ≤ (n + 1) * (n + 2) := (Eq.le (by norm_num)).trans (divisor_ge hn)
  have hratio : (x2 : ℚ) / S / ((n + 1) * (n + 2)) ≤ 1 / 2 := by
    rw [div_le_iff₀ (by linarith)]
    linarith
  have hexact : |(t : ℚ) * (x2 / S) / ((n + 1) * (n + 2)) - T * (x2 / S) / ((n + 1) * (n + 2))| ≤ 1 := by
    rw [← sub_div, ← sub_mul, mul_div_assoc, abs_mul, abs_of_nonneg (a := (x2 : ℚ) / S / _) (by positivity)]
    nlinarith [abs_nonneg ((t : ℚ) - T), show (0 : ℚ) ≤ x2 / S / ((n + 1) * (n + 2)) by positivity]
  obtain ⟨h1, h2⟩ := abs_le.mp hexact
  push_cast
  rw [abs_le]
  constructor <;> linarith

/-- The series worked out lies near the exact one. -/
theorem altSeries_error (hS : 0 < S) (hx : (x2 : ℚ) / S ≤ 3) (k : Nat) (hn : 2 ≤ n) (h : |(t : ℚ) - T| ≤ 2) :
    |(altSeries S x2 k n t : ℚ) - exactSeries (x2 / S) k n T| ≤ 2 * k := by
  induction k generalizing n t T with
  | zero => simp [altSeries, exactSeries]
  | succ k ih =>
    have hrest := ih (n := n + 2) (by omega) (step_error hS hx hn h)
    rw [exactSeries_neg] at hrest
    rw [altSeries, exactSeries]
    push_cast at hrest ⊢
    have hsum := abs_add_le ((t : ℚ) - T) (altSeries S x2 k (n + 2) (-seriesStep S x2 n t) - -exactSeries (x2 / S) k (n + 2) (T * (x2 / S) / ((n + 1) * (n + 2))))
    calc _ = _ := congrArg _ (by ring)
      _ ≤ _ := hsum
      _ ≤ _ := by linarith

/-- The difference of two exact series for arguments `u ≤ v`, from terms that are further apart than the arguments. -/
theorem exactSeries_sub (hu : 0 ≤ u) (huv : u ≤ v) (hv0 : 0 < v) (hv : v ≤ 3) (k : Nat) (hn : 2 ≤ n) (hT : 0 ≤ T) (h : T * (2 * v - u) ≤ v * T') :
    0 ≤ exactSeries v k n T' - exactSeries u k n T ∧ exactSeries v k n T' - exactSeries u k n T ≤ T' - T := by
  have hapart : T * (v - u) ≤ v * (T' - T) := by linarith
  have hTT' : T ≤ T' := by
    have : 0 ≤ T * (v - u) := mul_nonneg hT (by linarith)
    exact sub_nonneg.mp (nonneg_of_mul_nonneg_right (this.trans hapart) hv0)
  induction k generalizing n T T' with
  | zero => simpa [exactSeries] using hTT'
  | succ k ih =>
    have hc : (12 : ℚ) ≤ (n + 1) * (n + 2) := (Eq.le (by norm_num)).trans (divisor_ge hn)
    have hc0 : (0 : ℚ) < (n + 1) * (n + 2) := by linarith
    have hnext : T * u / ((n + 1) * (n + 2)) * (2 * v - u) ≤ v * (T' * v / ((n + 1) * (n + 2))) := by
      rw [div_mul_eq_mul_div, ← mul_div_assoc, div_le_div_iff_of_pos_right hc0]
      calc T * u * (2 * v - u) = u * (T * (2 * v - u)) := by ring
        _ ≤ u * (v * T') := by gcongr
        _ ≤ v * (v * T') := by
          have : 0 ≤ v * T' := mul_nonneg hv0.le (hT.trans hTT')
          gcongr
        _ = v * (T' * v) := by ring
    have hnext0 : 0 ≤ T * u / ((n + 1) * (n + 2)) := by positivity
    have hnext' : T * u / ((n + 1) * (n + 2)) * (v - u) ≤ v * (T' * v / ((n + 1) * (n + 2)) - T * u / ((n + 1) * (n + 2))) := by linarith
    have hdiff : T' * v / ((n + 1) * (n + 2)) - T * u / ((n + 1) * (n + 2)) ≤ T' - T := by
      rw [← sub_div, div_le_iff₀ hc0]
      calc T' * v - T * u = v * (T' - T) + T * (v - u) := by ring
        _ ≤ v * (T' - T) + v * (T' - T) := by gcongr
        _ = (T' - T) * (2 * v) := by ring
        _ ≤ _ := mul_le_mul_of_nonneg_left (by linarith) (by linarith)
    obtain ⟨h0, h1⟩ := ih (n := n + 2) (by omega) hnext0 hnext hnext'
      (sub_nonneg.mp (nonneg_of_mul_nonneg_right ((mul_nonneg hnext0 (by linarith)).trans hnext') hv0))
    rw [exactSeries, exactSeries]
    constructor <;> linarith

/-- The exact cosine decreases. -/
theorem exactSeries_antitone (hu : 0 ≤ u) (huv : u ≤ v) (hv : v ≤ 3) (k : Nat) (hT : 0 ≤ T) : exactSeries v k 0 T ≤ exactSeries u k 0 T := by
  rcases eq_or_lt_of_le (hu.trans huv) with h0 | hv0
  · rw [show u = v by linarith]
  cases k with
  | zero => exact le_rfl
  | succ k =>
    have hnext : T * u / 2 * (2 * v - u) ≤ v * (T * v / 2) := by nlinarith [mul_nonneg hT (sq_nonneg (v - u))]
    obtain ⟨h, -⟩ := exactSeries_sub hu huv hv0 hv k (n := 2) le_rfl (by positivity) hnext
    have h2 : ((0 : ℕ) + 1 : ℚ) * ((0 : ℕ) + 2) = 2 := by norm_num
    rw [exactSeries, exactSeries, h2]
    linarith

/-- The cosine worked out, beside the exact one. -/
theorem cosine_error (hS : 0 < S) (hx : (x2 : ℚ) / S ≤ 3) (k : Nat) : |(altSeries S x2 (k + 1) 0 S : ℚ) - exactSeries (x2 / S) (k + 1) 0 S| ≤ 2 * k := by
  have hstep : |((-seriesStep S x2 0 S : ℤ) : ℚ) - -(S * (x2 / S) / (((0 : ℕ) + 1) * ((0 : ℕ) + 2)))| ≤ 2 := by
    obtain ⟨hle, hlt⟩ := seriesStep_bounds (x2 := x2) (n := 0) (t := S) hS
    push_cast at hle hlt ⊢
    rw [abs_le]
    constructor <;> linarith
  have h := altSeries_error hS hx k (n := 2) le_rfl hstep
  rw [exactSeries_neg] at h
  rw [altSeries, exactSeries]
  push_cast at h ⊢
  calc _ = _ := congrArg _ (by ring)
    _ ≤ _ := h

/-- The cosine is not smaller than that of a larger argument, but for what is rounded off. -/
theorem cosine_ge {y2 : Nat} (hS : 0 < S) (hxy : x2 ≤ y2) (hy : (y2 : ℚ) / S ≤ 3) (k : Nat) :
    altSeries S y2 (k + 1) 0 S - 4 * k ≤ altSeries S x2 (k + 1) 0 S := by
  have hS' : (0 : ℚ) < S := by exact_mod_cast hS
  have hle : (x2 : ℚ) / S ≤ y2 / S := by gcongr
  have h1 := abs_le.mp (cosine_error hS (hle.trans hy) k)
  have h2 := abs_le.mp (cosine_error hS hy k)
  have h3 := exactSeries_antitone (by positivity) hle hy (k + 1) hS'.le
  have : (altSeries S y2 (k + 1) 0 S : ℚ) - 4 * k ≤ altSeries S x2 (k + 1) 0 S := by linarith [h1.1, h2.2]
  exact_mod_cast this
end

/-! #### The argument modulo π / 2 -/

/-- The place below which no operand above 2^-40 has a bit, in units of 2^-512, and the inverse of π / 2 modulo it. -/
def sfGrid : Nat := 2 ^ 363
@[inherit_doc sfGrid] def sfHalfPiInv : Nat :=
  0x71908F789A252A31B236CFF2554E902BD41C3FB88EAE6579041A77ECCCDB0BF8F271FDE4EA8B3CED6BDABEDC323

/-- A multiple of π / 2 is known by what it is on the grid. -/
theorem eq_of_mul_halfPi {a d : Nat} (ha : a < sfGrid) (h : a * sfHalfPi ≡ d [MOD sfGrid]) : a = d * sfHalfPiInv % sfGrid := by
  have hinv : sfHalfPi * sfHalfPiInv ≡ 1 [MOD sfGrid] := by decide +kernel
  have hmul : a ≡ d * sfHalfPiInv [MOD sfGrid] :=
    calc a = a * 1 := (Nat.mul_one a).symm
      _ ≡ a * (sfHalfPi * sfHalfPiInv) [MOD sfGrid] := hinv.symm.mul_left a
      _ = a * sfHalfPi * sfHalfPiInv := (Nat.mul_assoc ..).symm
      _ ≡ d * sfHalfPiInv [MOD sfGrid] := h.mul_right sfHalfPiInv
  rw [← Nat.mod_eq_of_lt ha]
  exact hmul
/-- No small distance on the grid belongs to a multiple within reach. -/
theorem halfPi_far : ∀ d < 512, 0 < d → 2 ^ 130 ≤ d * sfHalfPiInv % sfGrid := by decide +kernel

/-- What is left of the argument is neither zero nor near π / 2. -/
theorem remainder_bounds {x : Nat} (h0 : 0 < x) (hgrid : sfGrid ∣ x) (hx : x / sfHalfPi < 2 ^ 128) :
    0 < x % sfHalfPi ∧ x % sfHalfPi + 512 ≤ sfHalfPi := by
  have hdiv := Nat.div_add_mod x sfHalfPi
  have hreach : 2 ^ 130 < sfGrid := by decide +kernel
  have hmod := Nat.mod_lt x (show 0 < sfHalfPi by decide +kernel)
  have hzero : x ≡ 0 [MOD sfGrid] := (Nat.modEq_zero_iff_dvd).mpr hgrid
  constructor
  · by_contra h
    have hr : x % sfHalfPi = 0 := Nat.eq_zero_of_not_pos h
    rw [hr, Nat.add_zero, Nat.mul_comm] at hdiv
    have hq := eq_of_mul_halfPi (a := x / sfHalfPi) (d := 0) (by omega) (by rwa [hdiv])
    rw [Nat.zero_mul, Nat.zero_mod] at hq
    rw [hq, Nat.zero_mul] at hdiv
    omega
  · by_contra h
    obtain ⟨d, hd⟩ : ∃ d, x % sfHalfPi + d = sfHalfPi := ⟨_, Nat.add_sub_cancel' hmod.le⟩
    have hsum : (x / sfHalfPi + 1) * sfHalfPi = x + d := by
      rw [Nat.add_mul, Nat.one_mul, Nat.mul_comm]
      omega
    have hq := eq_of_mul_halfPi (a := x / sfHalfPi + 1) (d := d) (by omega) (by rw [hsum]; simpa using hzero.add_right d)
    have hfar := halfPi_far d (by omega) (by omega)
    omega

/-- The sine and the cosine worked out within π / 2 and not near its ends are positive. -/
theorem trigTerms_pos {r : Nat} (h0 : 0 < r) (hr : r + 512 ≤ sfHalfPi) :
    0 < trigTerms (r * r / 2 ^ 512) 70 1 r ∧ 0 < trigTerms (r * r / 2 ^ 512) 70 0 ((2 : Int) ^ 512) := by
  have hS : 0 < 2 ^ 512 := by positivity
  have hle : r * r / 2 ^ 512 ≤ (sfHalfPi - 512) * (sfHalfPi - 512) / 2 ^ 512 :=
    Nat.div_le_div_right (Nat.mul_le_mul (Nat.le_sub_of_add_le hr) (Nat.le_sub_of_add_le hr))
  have hsmall : (sfHalfPi - 512) * (sfHalfPi - 512) / 2 ^ 512 ≤ 3 * 2 ^ 512 := by decide +kernel
  have hlast : 276 < altSeries (2 ^ 512) ((sfHalfPi - 512) * (sfHalfPi - 512) / 2 ^ 512) 70 0 ((2 ^ 512 : ℕ) : ℤ) := by decide +kernel
  have hone (k : ℕ) : (2 : Int) ^ k = ((2 ^ k : ℕ) : ℤ) := (Nat.cast_pow 2 k).symm
  rw [trigTerms_eq, trigTerms_eq, hone]
  generalize (sfHalfPi - 512) * (sfHalfPi - 512) / 2 ^ 512 = y2 at hle hsmall hlast
  generalize r * r / 2 ^ 512 = x2 at hle ⊢
  generalize 2 ^ 512 = S at hS hsmall hlast ⊢
  have hS' : (0 : ℚ) < S := by exact_mod_cast hS
  have hy : (y2 : ℚ) / S ≤ 3 := by
    rw [div_le_iff₀ hS']
    exact_mod_cast hsmall
  have hx : (x2 : ℚ) / S ≤ 3 := (div_le_div_of_nonneg_right (by exact_mod_cast hle) hS'.le).trans hy
  refine ⟨altSeries_pos hS (hx.trans_lt (by norm_num)) 34 (by exact_mod_cast h0), ?_⟩
  have hge := cosine_ge hS hle hy 69
  push_cast at hge
  omega

/-- An operand in units of 2^-512. -/
theorem operand_grid {m : Nat} {e : ℤ} (hm : m ≠ 0) (hlt : m < 2 ^ 24) (he : -149 ≤ e) (he' : e ≤ 104) :
    0 < m * 2 ^ (e + 512).toNat ∧ sfGrid ∣ m * 2 ^ (e + 512).toNat ∧ m * 2 ^ (e + 512).toNat / sfHalfPi < 2 ^ 128 := by
  have hdvd (i : ℕ) (hi : i ≤ (e + 512).toNat) : 2 ^ i ∣ m * 2 ^ (e + 512).toNat := (Nat.pow_dvd_pow 2 hi).mul_left m
  refine ⟨by positivity, hdvd 363 (by omega), ?_⟩
  have hpow : 2 ^ 512 ≤ sfHalfPi := by decide +kernel
  rw [Nat.div_lt_iff_lt_mul (lt_of_lt_of_le (Nat.two_pow_pos _) hpow)]
  obtain ⟨k, hk⟩ : ∃ k, (e + 512).toNat + k = 104 + 512 := ⟨104 + 512 - (e + 512).toNat, by omega⟩
  calc m * 2 ^ (e + 512).toNat < 2 ^ 24 * 2 ^ ((e + 512).toNat + k) :=
        Nat.mul_lt_mul_of_lt_of_le hlt (Nat.pow_le_pow_right (by norm_num) (Nat.le_add_right _ _)) (Nat.two_pow_pos _)
    _ = 2 ^ 128 * 2 ^ 512 := by rw [hk, pow_add 2 104 512, ← Nat.mul_assoc, ← pow_add]
    _ ≤ 2 ^ 128 * sfHalfPi := Nat.mul_le_mul_left _ hpow

@[simp] theorem FV.negate_negate (v : FV) : v.negate.negate = v := by cases v <;> simp [FV.negate]
theorem inexact_neg {x : ℤ} (hx : x ≠ 0) (p : ℤ) : inexact (-x) p = (inexact x p).negate := by
  have hsign : decide (-x < 0) = !decide (x < 0) := by
    rw [← decide_not]
    exact decide_eq_decide.mpr (by omega)
  simp only [inexact, sticky, Bool.false_eq_true, if_false, hsign, Int.natAbs_neg]
  rfl

/-- The sine is odd. -/
theorem trig_sine_neg (n : Bool) {m : Nat} {e : ℤ} (hm : m ≠ 0) (hlt : m < 2 ^ 24) (he : -149 ≤ e) (he' : e ≤ 104) :
    trig false (!n) m e = (trig false n m e).negate := by
  unfold trig
  split
  · rfl
  · obtain ⟨h0, hgrid, hq⟩ := operand_grid hm hlt he he'
    obtain ⟨hr, hr'⟩ := remainder_bounds h0 hgrid hq
    obtain ⟨hsin, hcos⟩ := trigTerms_pos hr hr'
    simp only [Bool.false_eq_true, if_false, Bool.not_false, Bool.and_true]
    generalize m * 2 ^ (e + 512).toNat % sfHalfPi = r at *
    generalize (m * 2 ^ (e + 512).toNat / sfHalfPi + 0) % 4 = q
    have hv : (if q % 2 == 1 then trigTerms (r * r / 2 ^ 512) 70 0 ((2 : Int) ^ 512) else trigTerms (r * r / 2 ^ 512) 70 1 r) ≠ 0 := by
      split
      · exact hcos.ne'
      · exact hsin.ne'
    generalize (if q % 2 == 1 then trigTerms (r * r / 2 ^ 512) 70 0 ((2 : Int) ^ 512) else trigTerms (r * r / 2 ^ 512) 70 1 r) = v at hv ⊢
    cases n <;> by_cases h2 : 2 ≤ q <;> simp [h2, inexact_neg hv]

/-- A packed compare of one element: a mask (R127). -/
def packedCompare (F : Fmt) (k : Nat) (z : Bool) (_ : Mode) (x y _ : Nat) : Res :=
  let r := F.compare z k x y
  ⟨if r.1 then 0xFFFF else 0, r.2⟩

/-! ### The special functions by their operands (R97) -/

section
variable {z : Bool} {x : Nat}

/-- A NaN operand. -/
theorem specialFn_nan (h : (fp32.input z x).isNan = true) (fn : Nat) :
    specialFn fn z x = ⟨0x7FC00000, if (fp32.input z x).isSig then fSNaN else 0⟩ := by
  obtain ⟨s, hs⟩ := FV.eq_nan_of_isNan h
  simp only [specialFn, hs]
  rfl

/-- An operand other than zero, by its significand and exponent. -/
theorem specialFn_fin {n : Bool} {m : Nat} {e : Int} (h : fp32.input z x = .fin n m e) (hm : m ≠ 0) :
    specialFn 0 z x = fp32.roundV z .rne (divFin n 1 0 false m e) ∧
    specialFn 1 z x = (if n then ⟨0x7FC00000, fNV⟩ else fp32.roundV z .rne (rsqrtV m e)) ∧
    specialFn 2 z x = fp32.roundV z .rne (exp2 n m e) ∧
    specialFn 3 z x = (if n then ⟨0x7FC00000, fNV⟩ else fp32.roundV z .rne (log2V m e)) ∧
    specialFn 4 z x = fp32.roundV z .rne (trig false n m e) ∧ specialFn 5 z x = fp32.roundV z .rne (trig true n m e) ∧
    specialFn 6 z x = fp32.roundV z .rne (tanhV n m e) := by
  have hm' : (m == 0) = false := beq_eq_false_iff_ne.mpr hm
  refine ⟨?_, ?_, ?_, ?_, ?_, ?_, ?_⟩ <;> simp only [specialFn, h, hm', Bool.false_eq_true, if_false] <;> rfl

/-- An infinite operand, and a zero. -/
theorem specialFn_inf {n : Bool} (h : fp32.input z x = .inf n) :
    specialFn 0 z x = ⟨fp32.make n 0, 0⟩ ∧ specialFn 1 z x = (if n then ⟨0x7FC00000, fNV⟩ else ⟨0, 0⟩) ∧
    specialFn 2 z x = ⟨if n then 0 else 0x7F800000, 0⟩ ∧ specialFn 3 z x = (if n then ⟨0x7FC00000, fNV⟩ else ⟨0x7F800000, 0⟩) ∧
    specialFn 4 z x = ⟨0x7FC00000, fNV⟩ ∧ specialFn 5 z x = ⟨0x7FC00000, fNV⟩ ∧
    specialFn 6 z x = ⟨if n then 0xBF800000 else 0x3F800000, 0⟩ := by
  refine ⟨?_, ?_, ?_, ?_, ?_, ?_, ?_⟩ <;> simp only [specialFn, h] <;> cases n <;> rfl
@[inherit_doc specialFn_inf] theorem specialFn_zero {n : Bool} {e : Int} (h : fp32.input z x = .fin n 0 e) :
    specialFn 0 z x = ⟨fp32.make n 0x7F800000, fDZ⟩ ∧ specialFn 1 z x = ⟨fp32.make n 0x7F800000, fDZ⟩ ∧
    specialFn 2 z x = ⟨0x3F800000, 0⟩ ∧ specialFn 3 z x = ⟨0xFF800000, fDZ⟩ ∧ specialFn 4 z x = ⟨fp32.make n 0, 0⟩ ∧
    specialFn 5 z x = ⟨0x3F800000, 0⟩ ∧ specialFn 6 z x = ⟨fp32.make n 0, 0⟩ := by
  refine ⟨?_, ?_, ?_, ?_, ?_, ?_, ?_⟩ <;> simp only [specialFn, h] <;> rfl

/-- The finite values worked out. -/
theorem sticky_isFin (n : Bool) (m : Nat) (e : Int) (exact : Bool) : (sticky n m e exact).isFin = true := by cases exact <;> rfl
theorem trig_isFin (c n : Bool) (m : Nat) (e : Int) : (trig c n m e).isFin = true := by
  unfold trig
  split
  · split <;> rfl
  · exact sticky_isFin ..
theorem tanhV_isFin (n : Bool) (m : Nat) (e : Int) : (tanhV n m e).isFin = true := by
  simp only [tanhV]
  split
  · rfl
  · split
    · rfl
    · exact sticky_isFin ..

/-- The cosine is even and the hyperbolic tangent odd. -/
theorem trig_cosine_neg (n : Bool) (m : Nat) (e : Int) : trig true (!n) m e = trig true n m e := by
  simp only [trig, Bool.not_true, Bool.and_false, if_true]
theorem tanhV_neg (n : Bool) (m : Nat) (e : Int) : tanhV (!n) m e = (tanhV n m e).negate := by
  simp only [tanhV]
  split
  · rfl
  · split
    · rfl
    · rfl

/-- Below 2^-40 the sine and the hyperbolic tangent lie just below the argument, and the cosine just below 1. -/
theorem near_zero {n : Bool} {m : Nat} {e : Int} (h : e + Nat.log2 m < -40) :
    trig true n m e = .fin false (2 ^ 64 - 1) (-64) ∧ trig false n m e = .fin n (m * 2 ^ 64 - 1) (e - 64) ∧
      tanhV n m e = .fin n (m * 2 ^ 64 - 1) (e - 64) := by
  simp only [trig, tanhV, h, if_true, Bool.false_eq_true, if_false]
  exact ⟨trivial, trivial, trivial⟩
end

/-- The reciprocal is the exact quotient, rounded. -/
theorem reciprocal_rounds (z n : Bool) {m : Nat} (hm : m ≠ 0) (e : Int) :
    fp32.Rounds z .rne n (1 / ((FV.fin n m e).rat : ℝ)) (fp32.roundV z .rne (divFin n 1 0 false m e)) := by
  have hround := divFin_rounds fp32_sound (by decide) z .rne n 1 0 false hm e
  have hone : ((FV.fin n 1 0).rat : ℝ) / ((FV.fin false m e).rat : ℝ) = 1 / ((FV.fin n m e).rat : ℝ) := by
    rw [FV.rat_fin, FV.rat_fin, FV.rat_fin]
    cases n <;> simp [neg_div]
  rwa [hone, Bool.xor_false] at hround

/-- A magnitude above the smallest normal number. -/
theorem lt_of_normal {n : Bool} {g : Nat} (h : (2 : ℝ) ^ (-126 : ℤ) < |((FV.fin n (fp32.sig g) (-149 + fp32.expo g)).rat : ℝ)|) : 2 ^ 23 < g := by
  have hreal : |((FV.fin n (fp32.sig g) (-149 + fp32.expo g)).rat : ℝ)| = (fp32.real g : ℝ) := by
    rw [FV.rat_fin, abs_signFactor_mul, abs_of_nonneg (by positivity), Fmt.real, show fp32.emin - (fp32.fb : ℕ) = -149 by decide]
    push_cast
    rfl
  rw [hreal] at h
  refine fp32.real_strictMono.lt_iff_lt.mp ?_
  rw [show fp32.real (2 ^ 23) = (2 : ℚ) ^ (-126 : ℤ) from fp32.real_two_pow_fb]
  have hcast : (((2 : ℚ) ^ (-126 : ℤ) : ℚ) : ℝ) < (fp32.real g : ℝ) := by
    push_cast
    exact h
  exact Rat.cast_lt.mp hcast

/-- Settles O7: elements by their halves; the special functions by the kind of their operand, and the oddness of the sine by keeping the
value worked out away from zero. -/
theorem packedAndSpecialResults : Obligations.PackedAndSpecialResults := by
  unfold Obligations.PackedAndSpecialResults
  intro h bf d a b F lo hi two z m cmp f2 f1
  refine ⟨⟨?hadd2, ?hsub2, ?hmul2, ?hfma2, ?hmin2, ?hmax2⟩, ⟨?hcmp2Eq, ?hcmp2Lt, ?hcmp2Le, ?hcmp2Un⟩,
    ⟨?frcp, ?frsq, ?fex2, ?flg2, ?fsin, ?fcos, ?ftanh⟩, fun z x hx => ?special, fun z => ?samples⟩
  case special =>
    intro X v sf inv one pow
    refine ⟨fun hn fn _ => specialFn_nan hn fn, fun n hX => ?isInf, fun n e hX => ?isZero, fun n k e hX hk => ?finite⟩
    case isInf => exact specialFn_inf hX
    case isZero => exact specialFn_zero hX
    case finite =>
      intro y neg
      obtain ⟨hrcp, hrsq, hex2, hlg2, hsin, hcos, htanh⟩ := specialFn_fin hX hk
      obtain ⟨-, -, -, -, hsin', hcos', htanh'⟩ := specialFn_fin (fp32_operand_flip hx hX hk) hk
      obtain ⟨hlt, he, he'⟩ := fp32_operand_bounds hx hX hk
      have hv : v = ((FV.fin n k e).rat : ℝ) := congrArg (fun X : FV => (X.rat : ℝ)) hX
      refine ⟨⟨?rcp, ?invalid, ?rsq⟩, fun i hi => ?ex2, fun i hi => ?lg2, ⟨?sine, ?cosine, ?tangent⟩, fun hsmall => ?nearZero, fun hlarge => ?farOut⟩
      case rcp =>
        rw [show sf 0 = _ from hrcp, hv]
        exact reciprocal_rounds z n hk e
      case invalid =>
        rintro rfl
        exact ⟨hrsq, hlg2⟩
      case rsq =>
        rintro rfl
        rw [show sf 1 = _ from hrsq, hv, FV.rat_fin, signFactor_false, Int.cast_one, one_mul]
        exact rsqrtV_rounds z .rne hk hlt e
      case ex2 =>
        rw [show sf 2 = _ from hex2]
        exact exp2_spec z (by omega) hk (hv.symm.trans hi)
      case lg2 =>
        have hpos : (0 : ℚ) < (FV.fin n k e).rat := by
          have hpow : (0 : ℝ) < ((FV.fin n k e).rat : ℝ) := by
            rw [← hv, show v = (2 : ℝ) ^ i from hi]
            positivity
          exact_mod_cast hpow
        obtain rfl : n = false := (FV.sign_of_rat n k e).2 hpos
        obtain ⟨hlog, hi'⟩ := log2V_two_pow (hv.symm.trans hi)
        have hk24 : Nat.log2 k < 24 := (Nat.log2_lt hk).mpr hlt
        have hres := round_small_int z (i := i) (by rw [abs_lt]; constructor <;> omega)
        have hsf : sf 3 = fp32.round z .rne (decide (i < 0)) i.natAbs 0 := hlg2.trans (congrArg (fp32.roundV z .rne) hlog)
        rw [hsf]
        exact hres
      case sine =>
        change _ = Res.flip _
        rw [hsin', trig_sine_neg n hk hlt he he', roundV_rne_negate z (trig_isFin ..), ← hsin]
      case cosine => rw [hcos', trig_cosine_neg, ← hcos]
      case tangent =>
        change _ = Res.flip _
        rw [htanh', tanhV_neg, roundV_rne_negate z (tanhV_isFin ..), ← htanh]
      case nearZero =>
        rw [hv] at hsmall ⊢
        obtain ⟨hone, hsine, htan⟩ := near_zero (n := n) ((abs_rat_lt_zpow_iff hk).mp hsmall)
        refine ⟨?_, fun hnormal => ?_⟩
        · exact (hcos.trans (congrArg (fp32.roundV z .rne) hone)).trans (round_just_below_one z false)
        · obtain ⟨g, hg, hxg, rfl, rfl, -⟩ := fp32_operand hx hX hk
          have hround := round_just_below z n (lt_of_normal hnormal) hg
          rw [← hxg] at hround
          exact ⟨(hsin.trans (congrArg (fp32.roundV z .rne) hsine)).trans hround, (htanh.trans (congrArg (fp32.roundV z .rne) htan)).trans hround⟩
      case farOut =>
        have hbig : 5 ≤ e + Nat.log2 k := by
          rw [hv] at hlarge
          by_contra h
          have hlt := (abs_rat_lt_zpow_iff (n := n) (e := e) (i := 5) hk).mpr (not_le.mp h)
          norm_num at hlt
          linarith
        have htan : tanhV n k e = .fin n (2 ^ 64 - 1) (-64) := by
          simp only [tanhV, if_neg (show ¬e + Nat.log2 k < -40 by omega), if_pos (show e + Nat.log2 k ≥ 5 from hbig)]
        exact (htanh.trans (congrArg (fp32.roundV z .rne) htan)).trans (round_just_below_one z n)
  case samples => cases z <;> decide +kernel
  case frcp | frsq | fex2 | flg2 | fsin | fcos | ftanh => exact .of_laneOp (fun _ => rfl) rfl fun _ => rfl
  case hadd2 => exact .of_packed (f := hdForm h [.v a, .v b]) (fun z m x y _ => F.add z m x y) fun _ => rfl
  case hsub2 => exact .of_packed (f := hdForm h [.v a, .v b]) (fun z m x y _ => F.sub z m x y) fun _ => rfl
  case hmul2 => exact .of_packed (f := hdForm h [.v a, .v b]) (fun z m x y _ => F.mul z m x y) fun _ => rfl
  case hfma2 => exact .of_packed (f := hdForm h [.v a, .v b, .v d]) F.fma fun _ => rfl
  case hmin2 => exact .of_packed (f := hdForm h [.v a, .v b]) (fun z _ x y _ => F.minmax z false x y) fun _ => rfl
  case hmax2 => exact .of_packed (f := hdForm h [.v a, .v b]) (fun z _ x y _ => F.minmax z true x y) fun _ => rfl
  case hcmp2Eq => exact .of_packed (f := hdForm h [.v a, .v b]) (packedCompare F 0) fun _ => rfl
  case hcmp2Lt => exact .of_packed (f := hdForm h [.v a, .v b]) (packedCompare F 1) fun _ => rfl
  case hcmp2Le => exact .of_packed (f := hdForm h [.v a, .v b]) (packedCompare F 2) fun _ => rfl
  case hcmp2Un => exact .of_packed (f := hdForm h [.v a, .v b]) (packedCompare F 3) fun _ => rfl

end Sys2Proof.Machine

/-!
Stores in flight (O22): refuted, by a store in flight of more than a page, which takes one line under two keys.
-/
namespace Sys2Proof.Machine

/-- A store in flight that names no byte to write, with the addresses of `aliasUnit`. -/
def aliasStore : MemOp := { aliasUnit with kind := .store [] }
/-- The machine of `aliasState` with that store in flight. -/
def aliasStoreState : State := { aliasState with ops := [aliasStore] }

/-- A store of bytes of one page kind that is the only operation in flight performs whole. -/
theorem State.readyPart_of_store {s : State} {o : MemOp} {bs : List Byte} (hops : s.ops = [o]) (hk : o.kind = .store bs)
    (hkinds : o.kinds.length ≤ 1) : s.readyPart o.id = some (o, none) := by
  have hpieces : o.pieces = [o] := by simp only [MemOp.pieces, hk, if_pos hkinds]
  have hsplit : opSplit o.id s.ops = ([], some o) := by simp only [hops, opSplit, beq_self_eq_true, if_true]
  simp [State.readyPart, hsplit, hpieces, opFree, opFreeAs]

/-- The first page has taken the line of 0x8000 under key 1, so the second page enciphers it anew under key 2 (R393). -/
theorem aliasStore_changes_byte :
    (match exec (.storePerform aliasStore.id) aliasStoreState with
      | .next s' => s'.getLoc (.phys 0x8000) == aliasStoreState.getLoc (.phys 0x8000)
      | _ => true) = false := by
  decide +kernel

/-- Refutes O22, in the clause on stores that perform whole: a store may take one line under two keys, and `State.OwnLines` compares its
keys with the lines listed before it alone. A store of more than a page whose two pages are one frame under two keys so changes a byte
that it does not name. -/
theorem not_storesIssueAndPerform : ¬ Obligations.StoresIssueAndPerform := by
  unfold Obligations.StoresIssueAndPerform
  rintro ⟨-, hwhole, -⟩
  have hready : aliasStoreState.readyPart aliasStore.id = some (aliasStore, none) :=
    State.readyPart_of_store (bs := []) rfl rfl (Nat.zero_le 1)
  have hplain : aliasStoreState.Plain aliasStore.locs :=
    ⟨List.nodup_nil, fun _ h => absurd h List.not_mem_nil, aliasState_canon.same rfl rfl rfl rfl⟩
  obtain ⟨s', hexec, ⟨-, hothers⟩, -⟩ := hwhole aliasStoreState aliasStore.id aliasStore [] hready rfl
    (List.length_filter_le _ _) rfl hplain (State.ownLines_of_lines_nil rfl _ _ _)
  have hbyte := aliasStore_changes_byte
  simp only [hexec, hothers (.phys 0x8000) rfl List.not_mem_nil, beq_self_eq_true, Bool.true_eq_false] at hbyte

end Sys2Proof.Machine

/-!
Plain storage (O57): what a byte reads after a store, and the state after reset.
-/
namespace Sys2Proof.Machine

/-! ### Records after an update -/

/-- A company under an update that keeps every company's name. -/
theorem State.company?_updCompany (s : State) (c d : Nat) {f : Company → Company} (hf : ∀ x, (f x).cid = x.cid) :
    (s.updCompany c f).company? d = (s.company? d).map fun x => if x.cid = c then f x else x := by
  have key (l : List Company) : (l.map fun x => if x.cid == c then f x else x).find? (fun x => x.cid == d) =
      (l.find? fun x => x.cid == d).map fun x => if x.cid = c then f x else x := by
    induction l with
    | nil => rfl
    | cons x l ih =>
      have hname : (if x.cid == c then f x else x).cid = x.cid := by split <;> simp [hf]
      simp only [List.map_cons, List.find?_cons, hname]
      cases x.cid == d with
      | true => simp [beq_iff_eq]
      | false => exact ih
  exact key s.companies
theorem State.company?_cid {s : State} {c : Nat} {x : Company} (h : s.company? c = some x) : x.cid = c := by
  simpa using List.find?_some h

@[simp] theorem State.part_updPart_same (s : State) {p : Nat} (hp : p < 4) (f : Part → Part) : (s.updPart p f).part p = f (s.part p) := by
  simp [State.part, State.updPart, Vector.getD, hp]
@[simp] theorem State.part_updPart_ne (s : State) {p q : Nat} (h : q ≠ p) (f : Part → Part) : (s.updPart p f).part q = s.part q := by
  by_cases hq : q < 4
  · simp [State.part, State.updPart, Vector.getD, hq, Ne.symm h]
  · simp [State.part, State.updPart, Vector.getD, hq]
@[simp] theorem State.core_updCore_same (s : State) {c : Nat} (hc : c < 384) (f : Core → Core) : (s.updCore c f).core c = f (s.core c) := by
  simp [State.core, State.updCore, Vector.getD, hc]
@[simp] theorem State.core_updCore_ne (s : State) {c d : Nat} (h : d ≠ c) (f : Core → Core) : (s.updCore c f).core d = s.core d := by
  by_cases hd : d < 384
  · simp [State.core, State.updCore, Vector.getD, hd, Ne.symm h]
  · simp [State.core, State.updCore, Vector.getD, hd]
@[simp] theorem State.deck_updDeck_same (s : State) {d : Nat} (hd : d < 24) (f : Deck → Deck) : (s.updDeck d f).deck d = f (s.deck d) := by
  simp [State.deck, State.updDeck, Vector.getD, hd]
@[simp] theorem State.deck_updDeck_ne (s : State) {d e : Nat} (h : e ≠ d) (f : Deck → Deck) : (s.updDeck d f).deck e = s.deck e := by
  by_cases he : e < 24
  · simp [State.deck, State.updDeck, Vector.getD, he, Ne.symm h]
  · simp [State.deck, State.updDeck, Vector.getD, he]

/-! ### One byte -/

theorem Company.scratchGet_scratchSet {c : Company} (h : Memory.wf c.scratch = true) (x y : Nat) (b : Byte) :
    (c.scratchSet x b).scratchGet y = if y = x then b else c.scratchGet y := by
  simp only [Company.scratchGet, Company.scratchSet, cellFind_cellPut h]
  split <;> rfl
theorem Part.syncGet_syncSet {p : Part} (h : Memory.wf p.sync (inRanges p.zeroed) = true) (n x y : Nat) (b : Byte) :
    (p.syncSet x b).syncGet n y = if y = x then b else p.syncGet n y := by
  simp only [Part.syncGet, Part.syncSet, cellFind_cellSet h]
  by_cases hy : y = x
  · subst hy
    simp only [if_true]
    by_cases hz : inRanges p.zeroed y = true
    · by_cases hb : b = 0#8 <;> simp [hz, hb]
    · simp [hz]
  · rw [if_neg hy, if_neg hy]; rfl
theorem State.memByte_cellPut {s : State} (h : Memory.wf s.mem = true) (x y : Nat) (b : Byte) :
    ({ s with mem := cellPut s.mem x b } : State).memByte y = if y = x then b else s.memByte y := by
  simp only [State.memByte, cellFind_cellPut h]
  split <;> rfl

theorem State.holds.offChip {s : State} {l : Loc} (h : s.holds l) : l.offChip = true := by
  cases l with
  | phys a => simp only [State.holds] at h; simp [Loc.offChip, h]
  | foreign a | view a k c => exact h.elim
  | scratch c b | sync p o => rfl

/-- A stored byte of plain storage reads as stored, and every other byte off the on-chip windows as before (R146, R152, R153). -/
theorem State.getLoc_setLoc {s : State} (hc : s.Canon) {l : Loc} (hl : s.holds l) (b : Byte) {l' : Loc} (hl' : l'.offChip = true) :
    (s.setLoc l b).getLoc l' = if l' = l then b else s.getLoc l' := by
  cases l with
  | foreign a | view a k c => exact hl.elim
  | phys a =>
    have ha : chipCore a = none := hl
    have hs : s.setLoc (.phys a) b = { s with mem := cellPut s.mem a b } := by simp only [State.setLoc, ha]
    rw [hs]
    cases l' with
    | foreign a' | view a' k c => cases hl'
    | phys a' =>
      have ha' : chipCore a' = none := by simpa [Loc.offChip] using hl'
      simp only [State.getLoc, ha', State.memByte_cellPut hc.1, Loc.phys.injEq]
    | scratch c x | sync p o => rfl
  | scratch c x =>
    have hs : s.setLoc (.scratch c x) b = s.updCompany c fun k => k.scratchSet x b := rfl
    rw [hs]
    cases l' with
    | foreign a' | view a' k c => cases hl'
    | phys a' =>
      have ha' : chipCore a' = none := by simpa [Loc.offChip] using hl'
      simp only [State.getLoc, ha', reduceCtorEq, if_false]
      rfl
    | sync p o => rfl
    | scratch c' x' =>
      simp only [State.getLoc, s.company?_updCompany c c' (f := fun k => k.scratchSet x b) fun _ => rfl, Loc.scratch.injEq]
      cases hk : s.company? c' with
      | none =>
        have hne : c' ≠ c := fun he => hl (he ▸ hk)
        simp [hne]
      | some k =>
        have hwf : Memory.wf k.scratch = true := hc.2.1 k (List.mem_of_find?_eq_some hk)
        have hcid := State.company?_cid hk
        by_cases he : c' = c
        · simp [hcid, he, Company.scratchGet_scratchSet hwf]
        · simp [hcid, he]
  | sync p o =>
    have hp : p < 4 := hl
    have hs : s.setLoc (.sync p o) b = s.updPart p fun q => q.syncSet o b := rfl
    rw [hs]
    cases l' with
    | foreign a' | view a' k c => cases hl'
    | phys a' =>
      have ha' : chipCore a' = none := by simpa [Loc.offChip] using hl'
      simp only [State.getLoc, ha', reduceCtorEq, if_false]
      rfl
    | scratch c x => rfl
    | sync p' o' =>
      by_cases he : p' = p
      · subst he
        simp [State.getLoc, hp, Part.syncGet_syncSet (hc.part p')]
      · simp [State.getLoc, he]

/-! ### Bytes -/

theorem State.holds_setLoc {s : State} {l : Loc} (hl : s.holds l) (b : Byte) (l' : Loc) :
    (s.setLoc l b).holds l' ↔ s.holds l' := by
  cases l' with
  | phys a | foreign a | view a k c | sync p o => exact Iff.rfl
  | scratch c x =>
    cases l with
    | foreign a | view a k c => exact hl.elim
    | phys a =>
      have ha : chipCore a = none := hl
      simp only [State.setLoc, ha]
      exact Iff.rfl
    | sync p o => exact Iff.rfl
    | scratch d y =>
      simp only [State.setLoc, State.holds, s.company?_updCompany d c (f := fun k => k.scratchSet y b) fun _ => rfl, ne_eq,
        Option.map_eq_none_iff]
@[simp] theorem State.setLoc_threads_of_holds {s : State} {l : Loc} (hl : s.holds l) (b : Byte) : (s.setLoc l b).threads = s.threads := by
  cases l with
  | foreign a | view a k c => exact hl.elim
  | phys a =>
    have ha : chipCore a = none := hl
    simp only [State.setLoc, ha]
  | sync p o | scratch d y => rfl

theorem State.Plain.tail {s : State} {l : Loc} {ls : List Loc} (h : s.Plain (l :: ls)) (b : Byte) : (s.setLoc l b).Plain ls := by
  obtain ⟨hnodup, hholds, hcanon⟩ := h
  have hl := hholds l List.mem_cons_self
  exact ⟨hnodup.of_cons, fun l' hl' => (State.holds_setLoc hl b l').mpr (hholds l' (List.mem_cons_of_mem _ hl')), hcanon.setLoc l b⟩

/-- Bytes stored in plain storage leave the threads as they are. -/
theorem State.setLocs_threads_of_plain {ls : List Loc} : ∀ {s : State} (bs : List Byte), s.Plain ls → (s.setLocs ls bs).threads = s.threads := by
  induction ls with
  | nil => intro s bs _; cases bs <;> rfl
  | cons l ls ih =>
    intro s bs h
    cases bs with
    | nil => rfl
    | cons b bs => exact (ih bs (h.tail b)).trans (State.setLoc_threads_of_holds (h.2.1 l List.mem_cons_self) b)
/-- Every byte that is not stored reads as before. -/
theorem State.getLoc_setLocs_of_not_mem {ls : List Loc} {l' : Loc} (hl' : l'.offChip = true) : ∀ {s : State} (bs : List Byte), s.Plain ls →
    l' ∉ ls → (s.setLocs ls bs).getLoc l' = s.getLoc l' := by
  induction ls with
  | nil => intro s bs _ _; cases bs <;> rfl
  | cons l ls ih =>
    intro s bs h hn
    cases bs with
    | nil => rfl
    | cons b bs =>
      rw [List.mem_cons, not_or] at hn
      have hstore := State.getLoc_setLoc h.2.2 (h.2.1 l List.mem_cons_self) b hl'
      rw [if_neg hn.1] at hstore
      exact (ih bs (h.tail b) hn.2).trans hstore
/-- Bytes stored at different locations read back as stored. -/
theorem State.getLocs_setLocs {ls : List Loc} : ∀ {s : State} {bs : List Byte}, s.Plain ls → ls.length = bs.length →
    (s.setLocs ls bs).getLocs ls = bs := by
  induction ls with
  | nil => intro s bs _ hlen; rw [List.eq_nil_of_length_eq_zero hlen.symm]; rfl
  | cons l ls ih =>
    intro s bs h hlen
    cases bs with
    | nil => simp at hlen
    | cons b bs =>
      have hl := h.2.1 l List.mem_cons_self
      have hfirst : ((s.setLoc l b).setLocs ls bs).getLoc l = b := by
        rw [State.getLoc_setLocs_of_not_mem hl.offChip bs (h.tail b) (List.nodup_cons.mp h.1).1,
          State.getLoc_setLoc h.2.2 hl b hl.offChip, if_pos rfl]
      have hrest : ((s.setLoc l b).setLocs ls bs).getLocs ls = bs := ih (h.tail b) (by simpa using hlen)
      exact congrArg₂ List.cons hfirst hrest
/-- A store to plain storage. -/
theorem State.wrote_setLocs {s : State} {ls : List Loc} {bs : List Byte} (h : s.Plain ls) (hlen : ls.length = bs.length) :
    Wrote s (s.setLocs ls bs) ls bs :=
  ⟨State.getLocs_setLocs h hlen, fun _ hl hn => State.getLoc_setLocs_of_not_mem hl bs h hn⟩

/-- Where no thread has changed no register has. -/
theorem SameRegs.of_threads {s s' : State} (h : s'.threads = s.threads) : SameRegs s s' := fun c i u hu =>
  ⟨u, by rw [State.thread?, h]; exact hu, rfl, fun _ => rfl⟩

/-! ### Reset -/

@[simp] theorem State.reset_core (c : Nat) : State.reset.core c = Core.reset := by
  by_cases hc : c < 384 <;> simp [State.core, State.reset, Vector.getD, hc]
@[simp] theorem State.reset_deck (d : Nat) : State.reset.deck d = Deck.reset := by
  by_cases hd : d < 24 <;> simp [State.deck, State.reset, Vector.getD, hd]
@[simp] theorem State.reset_part (p : Nat) : State.reset.part p = Part.reset := by
  by_cases hp : p < 4 <;> simp [State.part, State.reset, Vector.getD, hp]

/-- While every deck is at one temperature the hottest deck from a site up is that site's. -/
theorem State.reset_hottest (pier d : Nat) : State.reset.hottest pier d = (d, 0) := by
  simp [State.hottest, Deck.reset]
theorem State.reset_tstat (c : Nat) : State.reset.tstat c = 0 := by
  have hsensed : State.reset.sensed (pierOf c) (deckOf c % 6) = false := by
    simp [State.sensed, Deck.reset]
  simp [State.tstat, State.reset_hottest, hsensed, Deck.reset, Core.reset]
theorem State.reset_powered (c : Nat) : State.reset.powered c = false := by
  have hparts : State.reset.parts.toList = List.replicate 4 Part.reset := by simp [State.reset]
  simp [State.powered, hparts, Part.reset]

/-- Settles O57: a store to plain storage byte by byte, and the values after reset by the records of the state. -/
theorem storageReadsBackAndResetValues : Obligations.StorageReadsBackAndResetValues := by
  unfold Obligations.StorageReadsBackAndResetValues
  refine ⟨fun s ls bs h hlen => ⟨State.wrote_setLocs h hlen, h.2.2.setLocs ls bs, SameRegs.of_threads (State.setLocs_threads_of_plain bs h)⟩,
    fun c => ?core, fun p => ?tovr, ?status, fun p => ?parts, rfl, rfl, State.reset_canon, List.nodup_nil⟩
  case core =>
    have hprobes (i : Nat) : Core.reset.probes.getD i Probe.reset = Probe.reset := by
      by_cases hi : i < 8 <;> simp [Core.reset, Vector.getD, hi]
    simp only [State.reset_core, hprobes]
    exact ⟨rfl, rfl, rfl, rfl, rfl, rfl, rfl, rfl, rfl, fun _ _ => ⟨rfl, rfl⟩, State.reset_tstat c, State.reset_powered c⟩
  case tovr => by_cases hp : p < 4 <;> simp [State.reset, Vector.getD, hp]
  case status => simp [State.reset, Vector.getD]
  case parts => rw [State.reset_part]; rfl

end Sys2Proof.Machine

/-!
SUPPORT. Every operation of the model keeps the canonical form of all storage (`State.Canon`): one lemma per function, named after it, so
that a proof about a function that is put together from others is the chain of their lemmas. The lemmas take everything but the
hypothesis implicitly; what a chain leaves open is found from the goal.
-/
namespace Sys2Proof.Machine
/-- Every list of bytes of the state that follows is canonical; a step that stops the machine leaves none. -/
def Out.Canon : Out → Prop
  | .next s => s.Canon
  | _ => True
section
-- One lemma after the other: elaborated side by side, the lemmas wait for each other's equations in more threads than the check has room for.
set_option Elab.async false
variable {s : State}

/-- A change outside the four places that hold bytes. -/
theorem State.Canon.frame {th tr ba op mb cm la ld po sn de tv rg tl wi st dg mk li is rv bd ag fr ni} (h : s.Canon) :
    (State.mk th tr s.companies ba op mb cm la ld po sn s.cores de tv rg s.parts tl wi st dg s.mem mk li is rv bd ag fr ni).Canon := h

/-- A change of device memory that keeps it canonical. -/
theorem State.Canon.onMem {th tr ba op mb cm la ld po sn de tv rg tl wi st dg mk li is rv bd ag fr ni} {m : List (Nat × Byte)}
    (h : s.Canon) (hm : Memory.wf m = true) :
    (State.mk th tr s.companies ba op mb cm la ld po sn s.cores de tv rg s.parts tl wi st dg m mk li is rv bd ag fr ni).Canon := ⟨hm, h.2⟩

/-- Either branch keeps storage canonical. -/
theorem State.Canon.ite {c : Prop} [Decidable c] {a b : State} (ha : c → a.Canon) (hb : ¬c → b.Canon) :
    (if c then a else b).Canon := by
  split
  · exact ha ‹_›
  · exact hb ‹_›

/-- `State.Canon.foldl`, with the list implicit. -/
theorem State.Canon.fold {α : Type} {f : State → α → State} {l : List α} (h : s.Canon) (hf : ∀ s a, s.Canon → (f s a).Canon) :
    (l.foldl f s).Canon := .foldl hf h l

theorem State.Canon.onThread {c i : Nat} {f : Thread → Thread} (h : s.Canon) : (s.updThread c i f).Canon := h.frame
theorem State.Canon.onTroupe {c i : Nat} {f : Troupe → Troupe} (h : s.Canon) : (s.updTroupe c i f).Canon := h.frame
theorem State.Canon.onDeck {d : Nat} {f : Deck → Deck} (h : s.Canon) : (s.updDeck d f).Canon := h.frame
theorem State.Canon.onLaunch {l : Nat} {f : Launch → Launch} (h : s.Canon) : (s.updLaunch l f).Canon := h.frame
theorem State.Canon.stored {ls : List Loc} {bs : List Byte} (h : s.Canon) : (s.setLocs ls bs).Canon := h.setLocs ls bs
theorem State.Canon.storedPhys {a : Nat} {bs : List Byte} (h : s.Canon) : (s.setPhys a bs).Canon := h.setPhys a bs

/-- A change of a company that leaves its scratchpad. -/
theorem State.Canon.onCompany {cid : Nat} {f : Company → Company} (h : s.Canon)
    (hf : ∀ c, (f c).scratch = c.scratch := by exact fun _ => rfl) : (s.updCompany cid f).Canon :=
  h.updCompany cid fun c hc => (hf c).symm ▸ hc
/-- A change of a partition that leaves its sync variables. -/
theorem State.Canon.onPart {p : Nat} {f : Part → Part} (h : s.Canon)
    (hf : ∀ q, (f q).sync = q.sync ∧ (f q).zeroed = q.zeroed := by exact fun _ => ⟨rfl, rfl⟩) : (s.updPart p f).Canon :=
  h.updPart p fun hq => by rw [(hf _).1, (hf _).2]; exact hq
/-- A change of a core that leaves its free storage. -/
theorem State.Canon.onCore {c : Nat} {f : Core → Core} (h : s.Canon)
    (hf : ∀ k, (f k).spare = k.spare ∧ (f k).known = k.known := by exact fun _ => ⟨rfl, rfl⟩) : (s.updCore c f).Canon :=
  h.updCore c fun hk => by rw [(hf _).1, (hf _).2]; exact hk

/-! ### Lines, keys and translations -/
theorem State.Canon.updThreads {p : Thread → Bool} {f : Thread → Thread} (h : s.Canon) : (s.updThreads p f).Canon :=
  h.frame
theorem State.Canon.markWrite {a : Nat} {name : Option ByteName} (h : s.Canon) : (s.markWrite a name).Canon :=
  h.frame
theorem State.Canon.cellsPut {xs : List (Nat × Byte)} (h : s.Canon) :
    Memory.wf (xs.foldl (fun m x => cellPut m x.1 x.2) s.mem) = true :=
  List.foldlRecOn (motive := fun m => Memory.wf m = true) xs _ h.1 fun _ hm x _ => Memory.wf_cellPut hm x.1 x.2
theorem State.Canon.claimLine {key : ByteKey} {line : Nat} (h : s.Canon) : (s.claimLine key line).Canon := by
  unfold State.claimLine
  split
  · exact h.frame
  · split
    · exact h.frame
    · split
      · exact h
      · have marked : (((List.range 64).map fun i => line * 64 + i).foldl (fun s a => s.markWrite a none) s).Canon :=
          h.fold fun _ _ hs => hs.markWrite
        exact marked.onMem marked.cellsPut
theorem State.Canon.claimPhys {part a n : Nat} (h : s.Canon) : (s.claimPhys part a n).Canon := by
  unfold State.claimPhys
  split
  · exact h
  · refine .fold (.fold (h.onMem (Memory.wfFrom_filter h.1 _)) fun s l hs => ?_) fun _ _ hs => hs.markWrite
    split
    · exact hs
    · exact hs.frame
theorem State.Canon.claimPart {w : Who} {va n : Nat} {fenced : List (Nat × Nat)} (h : s.Canon) : (s.claimPart w va n fenced).Canon := by
  unfold State.claimPart
  split
  · exact h
  · split
    · exact h
    · dsimp only
      split
      · exact h
      · exact .fold (.fold h fun _ _ hs => hs.claimLine) fun _ _ hs => hs.markWrite
theorem State.Canon.claim {w : Who} {va n : Nat} {fenced : List (Nat × Nat)} {fuel : Nat} (h : s.Canon) :
    (s.claim w va n fenced fuel).Canon := by
  induction fuel generalizing s va n with
  | zero => exact h
  | succ fuel ih =>
    unfold State.claim
    split
    · exact h
    · exact ih h.claimPart
theorem State.Canon.fillTlb {part asid va : Nat} (h : s.Canon) : (s.fillTlb part asid va).Canon := by
  unfold State.fillTlb
  split
  · exact h
  · split
    · exact h
    · split
      · exact h.frame
      · exact h

/-! ### Accesses in flight, waits and traps -/
theorem State.Canon.acquired {cid tid : Nat} (h : s.Canon) : (s.acquired cid tid).Canon :=
  h.onThread
theorem State.Canon.testDeps {part : Nat} (h : s.Canon) : (s.testDeps part).Canon :=
  h.frame
theorem State.Canon.notify {ls : List Loc} (h : s.Canon) : (s.notify ls).Canon := by
  unfold State.notify
  dsimp only
  split
  · exact h.frame
  · exact h.frame.testDeps
theorem State.Canon.perform {ls : List Loc} {bs : List Byte} (h : s.Canon) : (s.perform ls bs).Canon :=
  h.stored.notify.frame
theorem State.Canon.ringWrite {ls : List Loc} {bs : List Byte} (h : s.Canon) : (s.ringWrite ls bs).Canon :=
  h.stored.notify
theorem State.Canon.plainStore {part : Nat} {ls : List Loc} {kinds : List PKind} {bs : List Byte} (h : s.Canon) :
    (s.plainStore part ls kinds bs).Canon := by
  unfold State.plainStore
  split
  · exact h.onPart
  · exact h.perform
theorem State.Canon.rewake (h : s.Canon) : (s.rewake).Canon :=
  h.frame
theorem State.Canon.release {p : Thread → Bool} {f : Thread → Thread} (h : s.Canon) : (s.release p f).Canon :=
  h.frame
theorem State.Canon.maskRelease {cid trp k : Nat} (h : s.Canon) : (s.maskRelease cid trp k).Canon :=
  h.release.onTroupe
theorem State.Canon.maskTest {cid trp k : Nat} (h : s.Canon) : (s.maskTest cid trp k).Canon := by
  unfold State.maskTest
  split
  · exact h
  · exact .ite (fun _ => h.maskRelease) fun _ => h
theorem State.Canon.maskTests {cid trp : Nat} (h : s.Canon) : (s.maskTests cid trp).Canon :=
  .fold h fun _ _ hs => hs.maskTest
theorem State.Canon.holdTest {cid trp : Nat} (h : s.Canon) : (s.holdTest cid trp).Canon := by
  unfold State.holdTest
  split
  · exact h
  · exact .ite (fun _ => h.release) fun _ => h
theorem State.Canon.setBarrier {b : Barrier} (h : s.Canon) : (s.setBarrier b).Canon :=
  h.frame
theorem State.Canon.barArrive {k : BarKey} {cid tid : Nat} {form : Option Nat} (h : s.Canon) : (s.barArrive k cid tid form).Canon :=
  h.setBarrier
theorem State.Canon.sample {core src v : Nat} (h : s.Canon) : (s.sample core src v).Canon :=
  h.onCore
theorem State.Canon.barSample {b : Barrier} {t : Thread} (h : s.Canon) : (s.barSample b t).Canon := by
  unfold State.barSample
  split
  · exact h.sample
  · exact h
theorem State.Canon.barWithdraw {k : BarKey} {cid tid : Nat} (h : s.Canon) : (s.barWithdraw k cid tid).Canon :=
  h.setBarrier
theorem State.Canon.barEnter {k : BarKey} {d : List Thread} (h : s.Canon) : (s.barEnter k d).Canon :=
  h.release.updThreads
theorem State.Canon.barTest {k : BarKey} {fuel : Nat} (h : s.Canon) : (s.barTest k fuel).Canon := by
  induction fuel generalizing s with
  | zero => exact h
  | succ fuel ih =>
    unfold State.barTest
    dsimp only
    split
    · exact h
    · split
      · refine .fold (.barEnter (.setBarrier (.release (.updThreads (.fold h fun _ _ hs => hs.barSample))))) fun _ _ hs => ih hs.barArrive
      · exact h
theorem State.Canon.barTests {c : Company} (h : s.Canon) : (s.barTests c).Canon :=
  .fold h fun _ _ hs => hs.barTest
theorem State.Canon.outAdd {cid : Nat} {n : Nat} (h : s.Canon) : (s.outAdd cid n).Canon := by
  unfold State.outAdd
  split
  · exact h
  · exact h.onCore
theorem State.Canon.outSub {cid : Nat} (h : s.Canon) : (s.outSub cid).Canon := by
  unfold State.outSub
  split
  · exact h
  · exact h.onCore
theorem State.Canon.updLadder {id : Nat} {f : Ladder → Ladder} (h : s.Canon) : (s.updLadder id f).Canon :=
  h.frame
theorem State.Canon.itemDone {lad item : Nat} (h : s.Canon) : (s.itemDone lad item).Canon :=
  h.updLadder
theorem State.Canon.unitSlot {lad item : Nat} {bs : List Byte} (h : s.Canon) : ∀ r ∈ s.unitSlot lad item bs, r.Canon := by
  unfold State.unitSlot
  split
  · rintro r ⟨⟩; exact h
  · dsimp only
    split
    · split
      · nofun
      · split
        · rintro r ⟨⟩; exact h.updLadder.itemDone
        · rintro r ⟨⟩; exact h.claim.plainStore.itemDone
    · rintro r ⟨⟩; exact h.updLadder.itemDone
theorem State.Canon.retireItem {cid tid lad item rung fate : Nat} {value : DWord} (h : s.Canon) :
    (s.retireItem cid tid lad item rung fate value).Canon := by
  unfold State.retireItem
  dsimp only
  split
  · exact h.unitSlot _ ‹_›
  · exact h.frame
theorem State.Canon.rendezvousExit {cid : Nat} (h : s.Canon) : (s.rendezvousExit cid).Canon := by
  unfold State.rendezvousExit
  split
  · exact h
  · split
    · exact h
    · split
      · exact h
      · exact .ite (fun _ => h.onCompany) fun _ => h
theorem State.Canon.updCmd {id : Nat} {f : Cmd → Cmd} (h : s.Canon) : (s.updCmd id f).Canon :=
  h.frame
theorem State.Canon.engineTrap {id : Nat} {a : Async} (h : s.Canon) : (s.engineTrap id a).Canon := by
  unfold State.engineTrap
  split
  · exact h
  · split
    · exact h.onThread
    · exact h.frame
theorem State.Canon.cmdReturn {id : Nat} (h : s.Canon) : (s.cmdReturn id).Canon := by
  unfold State.cmdReturn
  split
  · exact h
  · exact h.frame
theorem State.Canon.passStops {t : Thread} (h : s.Canon) : (s.passStops t).Canon := by
  unfold State.passStops
  dsimp only
  refine .fold ?_ fun s a hs => ?_
  · refine .fold h fun s a hs => ?_
    split
    · exact hs.engineTrap
    · exact hs
  · split
    · exact hs.cmdReturn
    · exact hs
theorem State.Canon.dropMbox {cid tid id : Nat} (h : s.Canon) : (s.dropMbox cid tid id).Canon := by
  unfold State.dropMbox
  split
  · exact h
  · dsimp only
    split
    · exact .ite (fun _ => h.frame.outSub) fun _ => h.frame
    · exact h.frame
theorem State.Canon.sweepPools (h : s.Canon) : (s.sweepPools).Canon :=
  h.frame
theorem State.Canon.dropWait {t : Thread} (h : s.Canon) : (s.dropWait t).Canon := by
  unfold State.dropWait
  split
  · exact h.dropMbox
  · exact h.frame.sweepPools
  · exact h
theorem State.Canon.exitThread {cid tid : Nat} (h : s.Canon) : (s.exitThread cid tid).Canon := by
  unfold State.exitThread
  split
  · exact h
  · split
    · exact h
    · dsimp only
      refine .rewake ?_
      refine .rendezvousExit ?_
      split
      · refine .barTests ?_
        refine .holdTest ?_
        refine .maskTests ?_
        split
        · exact h.dropWait.onThread.frame.passStops.onTroupe.retireItem
        · exact h.dropWait.onThread.frame.passStops.onTroupe
      · refine .holdTest ?_
        refine .maskTests ?_
        split
        · exact h.dropWait.onThread.frame.passStops.onTroupe.retireItem
        · exact h.dropWait.onThread.frame.passStops.onTroupe
theorem State.Canon.wakeTender {core : Nat} (h : s.Canon) : (s.wakeTender core).Canon :=
  h.frame
theorem State.Canon.cancelEngines {cid : Nat} (h : s.Canon) : (s.cancelEngines cid).Canon :=
  .wakeTender (.frame (.fold h fun _ _ hs => hs.outSub))
theorem State.Canon.terminate {cid reason : Nat} (h : s.Canon) : (s.terminate cid reason).Canon := by
  unfold State.terminate
  dsimp only
  refine .fold ?_ fun _ _ hs => hs.exitThread
  refine .onCompany ?_
  refine .cancelEngines ?_
  split
  · exact h.onLaunch
  · exact h
theorem State.Canon.leaveWait {t : Thread} (h : s.Canon) : (s.leaveWait t).Canon := by
  unfold State.leaveWait
  split
  · exact h.onTroupe
  · exact h.barWithdraw
  · exact h.dropWait
theorem State.Canon.freeze {t : Thread} (h : s.Canon) : (s.freeze t).Canon :=
  h.updThreads
theorem State.Canon.enterCohort {cid tid : Nat} (h : s.Canon) : (s.enterCohort cid tid).Canon := by
  unfold State.enterCohort
  split
  · exact h
  · exact h.updThreads
theorem State.Canon.pendTrap {cid tid : Nat} {a : Async} {pc : DWord} {g : Option GuardWin} (h : s.Canon) :
    (s.pendTrap cid tid a pc g).Canon :=
  h.onThread
theorem State.Canon.takeTrap {cid tid : Nat} {tr : Trap} {pc : DWord} {g : Option GuardWin} {cmd : Option Nat} {ticket : Nat}
    (h : s.Canon) : (s.takeTrap cid tid tr pc g cmd ticket).Canon := by
  unfold State.takeTrap
  split
  · extract_lets depth tosys base halts entry
    split
    · exact h
    · split
      · exact h.terminate
      · split
        · exact h.terminate
        · split
          · exact h.terminate
          · split
            · exact h.pendTrap
            · extract_lets s1 s2 frame vector landing
              split
              · exact h.leaveWait.claim.perform.onThread.onThread.freeze
              · exact h.leaveWait.claim.perform.onThread.onThread.enterCohort
  · exact h
theorem State.Canon.deferTrap {cid tid : Nat} {tr : Trap} {pc : DWord} (h : s.Canon) : (s.deferTrap cid tid tr pc).Canon :=
  h.onCompany.onThread
theorem State.Canon.beats {t : Thread} {tr : Trap} (h : s.Canon) : (s.beats t tr).Canon :=
  h.frame
theorem State.Canon.raiseAt {t : Thread} {tr : Trap} {pc : DWord} {g : Option GuardWin} (h : s.Canon) : (s.raiseAt t tr pc g).Canon := by
  unfold State.raiseAt
  dsimp only
  split
  · split
    · exact h.beats.onThread.takeTrap
    · exact h.beats.onThread.deferTrap
  · exact h.beats.onThread.takeTrap
theorem State.Canon.raise {t : Thread} {tr : Trap} (h : s.Canon) : (s.raise t tr).Canon :=
  h.raiseAt
theorem State.Canon.returnMasks {t : Thread} {ms : List MaskCopy} {outer : List TrapFrame} (h : s.Canon) :
    (s.returnMasks t ms outer).Canon := by
  unfold State.returnMasks
  split
  · exact h.onThread
  · exact h.onTroupe.maskTests
theorem State.Canon.trapReturn {cid tid : Nat} (h : s.Canon) : (s.trapReturn cid tid).Canon := by
  unfold State.trapReturn
  split
  · exact h
  · split
    · exact h
    · dsimp only
      split
      · exact h.terminate
      · refine .holdTest ?_
        refine .returnMasks ?_
        split
        · exact h.onThread.cmdReturn
        · exact h.onThread

/-! ### Issue -/
theorem State.Canon.raiseAll {ts : List Thread} {tr : Trap} (h : s.Canon) : (s.raiseAll ts tr).Canon :=
  .fold h fun _ _ hs => hs.raise
theorem State.Canon.waitAt {t : Thread} {w : Wait} (h : s.Canon) : (s.waitAt t w).Canon :=
  h.onThread
theorem State.Canon.spoil {t : Thread} {r : RegId} (h : s.Canon) : (s.spoil t r).Canon := by
  unfold State.spoil
  dsimp only
  split
  · exact h.onTroupe
  · exact h.onThread
theorem State.Canon.fall {t : Thread} {tr : Trap} (h : s.Canon) : (s.fall t tr).Canon :=
  .raise (.ite (fun _ => h.spoil) fun _ => h)

theorem State.Canon.contend {vs : List Rival} {ps : List Thread} {body : State → List Thread → State} (h : s.Canon)
    (hb : ∀ s ps, s.Canon → (body s ps).Canon) : (s.contend vs ps body).Canon := by
  unfold State.contend
  dsimp only
  split
  · exact (hb _ _ h.frame).frame
  · refine hb _ _ (.fold h fun s t hs => ?_)
    split
    · exact hs.fall
    · exact hs
/-- An instruction keeps storage canonical where its act on the participating threads does. -/
theorem State.Canon.runIssue {f : Form} {body : State → List Thread → State} {stall : State → List Thread → Option Wait} (h : s.Canon)
    (hb : ∀ s ps, s.Canon → (body s ps).Canon) : (s.runIssue f body stall).Canon := by
  have held (ms : List Thread) (w : Wait) {s : State} (hs : s.Canon) : (ms.foldl (fun s t => s.waitAt t w) s).Canon :=
    hs.fold fun _ _ hs => hs.waitAt
  unfold State.runIssue
  split
  · exact h
  · dsimp only
    split
    · exact held _ _ h.frame
    · split
      · exact held _ _ h.frame
      · split
        · exact held _ _ h.frame
        · split
          · exact hb _ _ (.fold h.frame.frame.onCore fun _ _ hs => hs.onThread)
          · exact .contend (.fold h.frame.frame.onCore fun _ _ hs => hs.onThread) hb
theorem State.Canon.each {uni : Bool} {ps : List Thread} {f : State → Thread → List Thread → State} (h : s.Canon)
    (hf : ∀ s l rs, s.Canon → (f s l rs).Canon) : (s.each uni ps f).Canon := by
  unfold State.each
  split
  · split
    · exact h
    · exact hf _ _ _ h
  · exact h.fold fun _ _ hs => hf _ _ _ hs
theorem State.Canon.writeRegs {cid tid : Nat} {ws : List (RegId × DWord)} (h : s.Canon) : (s.writeRegs cid tid ws).Canon :=
  h.onThread.frame
theorem State.Canon.deliver {t : Thread} {fpcsr : Word} {o : LaneOut} (h : s.Canon) : (s.deliver t fpcsr o).Canon := by
  unfold State.deliver
  dsimp only
  split
  · exact h.onThread.raise
  · exact h.onThread.writeRegs
theorem State.Canon.deliverAll {uni : Bool} {ps : List Thread} {e : Thread → LaneOut} (h : s.Canon) : (s.deliverAll uni ps e).Canon :=
  h.each fun _ _ _ hs => .fold hs fun _ _ hs => hs.deliver
theorem State.Canon.laneOp {f : Form} {e : Thread → LaneOut} (h : s.Canon) : (s.laneOp f e).Canon :=
  h.runIssue fun _ _ hs => hs.deliverAll

/-! ### Checked accesses -/
theorem State.Canon.fillFor {w : Who} {va n : Nat} (h : s.Canon) : (s.fillFor w va n).Canon :=
  h.fillTlb.fillTlb
theorem State.Canon.watchFor {ts : List Thread} {va : DWord} {reads writes : List Nat} (h : s.Canon) :
    (s.watchFor ts va reads writes).Canon :=
  .fold h fun _ _ hs => .ite (fun _ => hs.onThread) fun _ => hs
theorem State.Canon.watch {ts : List Thread} {acc : Acc} {va : DWord} {vas : List Nat} (h : s.Canon) : (s.watch ts acc va vas).Canon :=
  h.watchFor
theorem State.Canon.stallAll {rs : List Thread} {asid : BitVec 12} {va : DWord} (h : s.Canon) : (s.stallAll rs asid va).Canon :=
  .fold h fun _ _ hs => hs.waitAt
theorem State.Canon.updateAll {rs : List Thread} {upd : List (RegId × DWord)} (h : s.Canon) : (s.updateAll rs upd).Canon :=
  .fold h fun _ _ hs => hs.writeRegs
theorem State.Canon.access1 {l : Thread} {rs : List Thread} {q : Req} {hold : State → Checked → Option State}
    {act : State → Checked → State} (h : s.Canon) (ha : ∀ s c, s.Canon → (act s c).Canon)
    (hh : ∀ s c, s.Canon → ∀ r ∈ hold s c, r.Canon := by exact fun _ _ _ => nofun) : (s.access1 l rs q hold act).Canon := by
  unfold State.access1
  split
  · exact h.raiseAll
  · split
    · exact h.stallAll
    · split
      · exact hh _ _ h _ ‹_›
      · split
        · exact h.raiseAll
        · exact (ha _ _ h.fillFor.updateAll).watch
theorem State.Canon.access {uni : Bool} {ps : List Thread} {q : Thread → Req}
    {act : State → Thread → List Thread → Req → Checked → State} {hold : State → Thread → List Thread → Req → Checked → Option State}
    (h : s.Canon) (ha : ∀ s l rs q c, s.Canon → (act s l rs q c).Canon)
    (hh : ∀ s l rs q c, s.Canon → ∀ r ∈ hold s l rs q c, r.Canon := by exact fun _ _ _ _ _ _ => nofun) :
    (s.access uni ps q act hold).Canon :=
  h.each fun _ _ _ hs => hs.access1 (fun _ _ hs => ha _ _ _ _ _ hs) fun _ _ hs => hh _ _ _ _ _ hs
theorem State.Canon.pushOp {o : MemOp} (h : s.Canon) : (s.pushOp o).Canon :=
  h.frame
theorem State.Canon.claimAt {o : MemOp} {va n : Nat} (h : s.Canon) : (s.claimAt o va n).Canon :=
  h.claim
theorem State.Canon.claimOp {o : MemOp} (h : s.Canon) : (s.claimOp o).Canon := by
  unfold State.claimOp
  split
  · exact h
  · exact h.claimAt
theorem State.Canon.keepPart {rest : MemOp} (h : s.Canon) : (s.keepPart rest).Canon :=
  h.frame
theorem State.Canon.dropOp {id : Nat} (h : s.Canon) : (s.dropOp id).Canon :=
  h.frame.rewake
theorem State.Canon.supersede {below cid tid : Nat} {rs : List RegId} (h : s.Canon) : (s.supersede below cid tid rs).Canon :=
  h.frame
theorem State.Canon.arrive {o : MemOp} {ws : List (RegId × DWord)} (h : s.Canon) : (s.arrive o ws).Canon :=
  .fold h fun _ _ hs => hs.onThread.supersede
theorem State.Canon.dataError {o : MemOp} (h : s.Canon) : (s.dataError o).Canon := by
  unfold State.dataError
  dsimp only
  refine .rewake ?_
  refine .fold h.frame fun s a hs => ?_
  split
  · exact .raise (.fold hs.onThread fun _ _ hs => hs.onThread)
  · exact .fold hs.onThread fun _ _ hs => hs.onThread
theorem State.Canon.bodyLoad {cid : Nat} {steps : List Nat} {ls : List Loc} (h : s.Canon) : (s.bodyLoad cid steps ls).Canon :=
  h.onCompany
theorem State.Canon.bodyStore {cid : Nat} {x : RxStore} (h : s.Canon) : (s.bodyStore cid x).Canon :=
  h.onCompany
theorem State.Canon.bodyOverflow {t : Thread} (h : s.Canon) : (s.bodyOverflow t).Canon :=
  h.onCompany.waitAt

/-! ### Lane operations -/
theorem State.Canon.alu2 {hd : Hd} {d a b : Reg} {f : Word → Word → Word} (h : s.Canon) : (s.alu2 hd d a b f).Canon :=
  h.laneOp
theorem State.Canon.alu1 {hd : Hd} {d a : Reg} {f : Word → Word} (h : s.Canon) : (s.alu1 hd d a f).Canon :=
  h.laneOp
theorem State.Canon.alu3 {hd : Hd} {d a b : Reg} {f : Word → Word → Word → Word} (h : s.Canon) : (s.alu3 hd d a b f).Canon :=
  h.laneOp
theorem State.Canon.short2 {m : Bool} {d b : BitVec 5} {f : Word → Word → Word} (h : s.Canon) : (s.short2 m d b f).Canon :=
  h.laneOp
theorem State.Canon.aluImm {hd : Hd} {d a : Reg} {imm : BitVec 8} {f : Word → Word → Word} (h : s.Canon) :
    (s.aluImm hd d a imm f).Canon :=
  h.alu1
theorem State.Canon.execSets {hd : Hd} {r : BitVec 9} {a : Reg} (h : s.Canon) : (execSets hd r a s).Canon := by
  unfold Machine.execSets
  split
  · exact h.runIssue fun _ _ hs => .fold hs.deliverAll fun _ _ hs => hs.onThread
  · exact h.laneOp

/-! ### Floating-point lane operations -/
theorem State.Canon.fp {f : Form} {rnd : BitVec 3} {d : Reg} {e : Bool → Mode → Thread → Res} (h : s.Canon) : (s.fp f rnd d e).Canon :=
  h.laneOp
theorem State.Canon.dp {f : Form} {rnd : BitVec 3} {d : Reg} {e : Bool → Mode → Thread → Res} (h : s.Canon) : (s.dp f rnd d e).Canon :=
  h.laneOp
theorem State.Canon.sfu {hd : Hd} {d a : Reg} {fn : Nat} (h : s.Canon) : (s.sfu hd d a fn).Canon :=
  h.fp
theorem State.Canon.packed {f : Form} {d a b : Reg} {e : Bool → Mode → Nat → Nat → Nat → Res} (h : s.Canon) :
    (s.packed f d a b e).Canon :=
  h.fp
theorem State.Canon.hcmp {hd : Hd} {bf : Bool} {cond : Nat} {d a b : Reg} (h : s.Canon) : (s.hcmp hd bf cond d a b).Canon :=
  h.packed
theorem State.Canon.quant {hd : Hd} {q : QFmt} {n : Nat} {d a b : Reg} (h : s.Canon) : (s.quant hd q n d a b).Canon :=
  h.fp
theorem State.Canon.dequant {hd : Hd} {q : QFmt} {n : Nat} {d a b : Reg} (h : s.Canon) : (s.dequant hd q n d a b).Canon :=
  h.laneOp
theorem State.Canon.common {f : Form} {q : QFmt} {n : Nat} {d a : Reg} {scales : Thread → Nat} (h : s.Canon) :
    (s.common f q n d a scales).Canon :=
  h.laneOp
theorem State.Canon.fdp {hd : Hd} {f : Fmt} {k : Nat} {sel : BitVec 2} {d a b : Reg} (h : s.Canon) : (s.fdp hd f k sel d a b).Canon :=
  h.fp
theorem State.Canon.fpShort {m : Bool} {d b : BitVec 5} {e : Bool → Mode → Nat → Nat → Res} (h : s.Canon) : (s.fpShort m d b e).Canon :=
  h.fp

/-! ### Loads, stores, hints and fences -/
theorem State.Canon.sampleNow {l : Thread} (h : s.Canon) : (s.sampleNow l).Canon := by
  unfold State.sampleNow
  split
  · exact h.sample
  · exact h
theorem State.Canon.loadAct {l : Thread} {rs : List Thread} {q : Req} {c : Checked} {d : Reg} {sx acq : Bool} {scope : Nat}
    (h : s.Canon) : (s.loadAct l rs q c d sx acq scope).Canon := by
  unfold State.loadAct
  split
  · exact .sampleNow (.fold h.bodyLoad fun _ _ hs => hs.writeRegs)
  · exact h.pushOp
theorem State.Canon.loadHold {l : Thread} {rs : List Thread} {q : Req} {c : Checked} (h : s.Canon) :
    ∀ r ∈ s.loadHold l rs q c, r.Canon := by
  unfold State.loadHold
  split
  · rintro r ⟨⟩; exact h.fold fun _ _ hs => hs.waitAt
  · nofun
theorem State.Canon.storeHold {word : Word} {l : Thread} {rs : List Thread} {q : Req} {c : Checked} {bs : List Byte} (h : s.Canon) :
    ∀ r ∈ s.storeHold word l rs q c bs, r.Canon := by
  unfold State.storeHold
  split
  · split
    · rintro r ⟨⟩; exact h.raiseAll
    · split
      · nofun
      · rintro r ⟨⟩; exact h.fold fun _ _ hs => hs.bodyOverflow
  · nofun
theorem State.Canon.putStore {l : Thread} {o : MemOp} (h : s.Canon) : (s.putStore l o).Canon := by
  unfold State.putStore
  split
  · split
    · exact h.onPart
    · exact h.claimOp.perform
    · exact h
  · exact h.outAdd.pushOp
theorem State.Canon.storeAct {l : Thread} {q : Req} {c : Checked} {bs : List Byte} {rel : Bool} (h : s.Canon) :
    (s.storeAct l q c bs rel).Canon := by
  unfold State.storeAct
  split
  · exact h.bodyStore
  · exact h.putStore
theorem State.Canon.execLd {hd : Hd} {field : BitVec 6} {size : BitVec 3} {mode : BitVec 2} {base t : Reg} (h : s.Canon) :
    (execLd hd field size mode base t s).Canon :=
  h.runIssue fun _ _ hs => hs.access (fun _ _ _ _ _ hs => hs.loadAct) fun _ _ _ _ _ hs => hs.loadHold
theorem State.Canon.execLdt {hd : Hd} {off : BitVec 14} {t : Reg} (h : s.Canon) : (execLdt hd off t s).Canon :=
  h.runIssue fun _ _ hs => hs.access (fun _ _ _ _ _ hs => hs.loadAct) fun _ _ _ _ _ hs => hs.loadHold
theorem State.Canon.execSt {hd : Hd} {field : BitVec 6} {size : BitVec 3} {mode : BitVec 2} {base t : Reg} (h : s.Canon) :
    (execSt hd field size mode base t s).Canon :=
  h.runIssue fun _ _ hs => hs.access (fun _ _ _ _ _ hs => hs.storeAct) fun _ _ _ _ _ hs => hs.storeHold
theorem State.Canon.execLdacq {hd : Hd} {scope : BitVec 3} {size : BitVec 2} {base t : Reg} (h : s.Canon) :
    (execLdacq hd scope size base t s).Canon :=
  h.runIssue fun _ _ hs => hs.access fun _ _ _ _ _ hs => hs.loadAct
theorem State.Canon.execStrel {hd : Hd} {scope : BitVec 3} {size : BitVec 2} {base t : Reg} (h : s.Canon) :
    (execStrel hd scope size base t s).Canon :=
  h.runIssue fun _ _ hs => hs.access fun _ _ _ _ _ hs => hs.storeAct
theorem State.Canon.readOr {l : Thread} {rs : List Thread} {vas : List DWord} {c : Checked} {go : State → State} {i : Nat} (h : s.Canon)
    (hg : ∀ s, s.Canon → (go s).Canon) : (s.readOr l rs vas c go i).Canon := by
  unfold State.readOr
  split
  · exact h.fold fun _ _ hs => hs.waitAt
  · split
    · exact h.raiseAll
    · exact hg _ h
theorem State.Canon.planeFlags {rs : List Thread} {fpcsr : Word} {fl : Flags} (h : s.Canon) : (s.planeFlags rs fpcsr fl).1.Canon := by
  have raised : (rs.foldl (fun s t => s.updThread t.cid t.tid fun u => u.raiseFlags fl) s).Canon := h.fold fun _ _ hs => hs.onThread
  unfold State.planeFlags
  dsimp only
  split
  · exact raised.raiseAll
  · exact raised
theorem State.Canon.of_planeFlags {rs : List Thread} {fpcsr : Word} {fl : Flags} {r : State × Bool} (h : s.Canon)
    (e : s.planeFlags rs fpcsr fl = r) : r.1.Canon := e ▸ h.planeFlags
theorem State.Canon.ldpNow {l : Thread} {rs : List Thread} {upd : List (RegId × DWord)} {vas : List DWord} {c : Checked} {k : Nat}
    {rn : Bool} {d : Reg} (h : s.Canon) : (s.ldpNow l rs upd vas c k rn d).Canon := by
  refine h.readOr fun s hs => ?_
  have filled : (vas.foldl (fun s' a => s'.fillTlb (s.whoIs l).part (s.whoIs l).asid a.toNat) s).Canon := hs.fold fun _ _ hs => hs.fillTlb
  dsimp only
  generalize (vas.foldl _ s) = s1 at filled ⊢
  split
  · next he =>
    refine State.Canon.of_planeFlags (.sampleNow ?_) he
    split
    · exact filled.bodyLoad
    · exact filled
  · next he =>
    refine .watch (.updateAll (State.Canon.of_planeFlags (.sampleNow ?_) he))
    split
    · exact filled.bodyLoad
    · exact filled
theorem State.Canon.ldp1 {field : BitVec 6} {k : Nat} {mode : BitVec 2} {b d : Reg} {l : Thread} {rs : List Thread} (h : s.Canon) :
    (s.ldp1 field k mode b d l rs).Canon := by
  unfold State.ldp1
  dsimp only
  split
  · exact h.raiseAll
  · split
    · exact h.stallAll
    · split
      · exact h.ldpNow
      · split
        · exact h.raiseAll
        · exact .watch (.pushOp (.updateAll (.fold h fun _ _ hs => hs.fillTlb)))
theorem State.Canon.execLdp {hd : Hd} {field : BitVec 6} {k : BitVec 2} {mode : BitVec 2} {base t : Reg} (h : s.Canon) :
    (execLdp hd field k mode base t s).Canon :=
  h.runIssue fun _ _ hs => hs.each fun _ _ _ hs => hs.ldp1
theorem State.Canon.stpWrite {l : Thread} {rs : List Thread} {upd : List (RegId × DWord)} {vas : List DWord} {c : Checked}
    {ws : List (Nat × Byte)} {fl : Flags} (h : s.Canon) : (s.stpWrite l rs upd vas c ws fl).Canon := by
  unfold State.stpWrite
  extract_lets w x full
  split
  · exact h.fold fun _ _ hs => hs.bodyOverflow
  · split
    · exact h.of_planeFlags ‹_›
    · next s1 he =>
      have updated : ((vas.foldl (fun s a => s.fillTlb w.part w.asid a.toNat) s1).updateAll rs upd).Canon :=
        .updateAll (.fold (h.of_planeFlags he) fun _ _ hs => hs.fillTlb)
      refine .watchFor ?_
      split
      · split
        · exact updated
        · exact updated.bodyStore
      · exact updated.fold fun _ _ hs => hs.putStore
theorem State.Canon.stp1 {field : BitVec 6} {k : Nat} {mode : BitVec 2} {b d : Reg} {l : Thread} {rs : List Thread} (h : s.Canon) :
    (s.stp1 field k mode b d l rs).Canon := by
  unfold State.stp1
  dsimp only
  split
  · exact h.raiseAll
  · split
    · exact h.stallAll
    · split
      · exact h.planeFlags
      · refine .readOr h fun s hs => ?_
        split
        · refine .raiseAll ?_
          split
          · exact hs.bodyLoad
          · exact hs
        · refine .stpWrite ?_
          split
          · exact hs.bodyLoad
          · exact hs
theorem State.Canon.execStp {hd : Hd} {field : BitVec 6} {k : BitVec 2} {mode : BitVec 2} {base t : Reg} (h : s.Canon) :
    (execStp hd field k mode base t s).Canon :=
  h.runIssue fun _ _ hs => hs.each fun _ _ _ hs => hs.stp1
theorem State.Canon.hint {f : Form} (h : s.Canon) : (s.hint f).Canon :=
  h.runIssue fun _ _ hs => hs
theorem State.Canon.iinv1 {scope : Nat} {va : DWord} {t : Thread} (h : s.Canon) : (s.iinv1 scope va t).Canon := by
  unfold State.iinv1
  split
  · exact h
  · exact h.frame
theorem State.Canon.execCctlIinv {hd : Hd} {scope : BitVec 3} {base : Reg} (h : s.Canon) : (execCctlIinv hd scope base s).Canon :=
  h.runIssue fun _ _ hs => hs.each fun _ _ _ hs => hs.iinv1
theorem State.Canon.execCctlZero {hd : Hd} {base : Reg} (h : s.Canon) : (execCctlZero hd base s).Canon :=
  h.runIssue fun _ _ hs => hs.access fun _ _ _ _ _ hs => hs.storeAct
theorem State.Canon.fence1 {acq rel uo : Bool} {t : Thread} (h : s.Canon) : (s.fence1 acq rel uo t).Canon :=
  .ite (fun _ => h.pushOp) fun _ => h
theorem State.Canon.fenceAcquire {scope : Nat} {t : Thread} (h : s.Canon) : (s.fenceAcquire scope t).Canon :=
  h.onThread
theorem State.Canon.execFence {m : Bool} {scope : BitVec 3} {acq rel uo : Bool} (h : s.Canon) :
    (execFence m scope acq rel uo s).Canon :=
  h.runIssue fun _ _ hs => .fold hs fun _ _ hs => .ite (fun _ => hs.fence1.fenceAcquire) fun _ => hs.fence1
theorem State.Canon.aliasf1 {scope : Nat} {t : Thread} (h : s.Canon) : (s.aliasf1 scope t).Canon :=
  h.fence1.onThread.frame
theorem State.Canon.execAliasf {m : Bool} {scope : BitVec 3} (h : s.Canon) : (execAliasf m scope s).Canon :=
  h.runIssue fun _ _ hs => .fold hs fun _ _ hs => hs.aliasf1
theorem State.Canon.execEvs {m : Bool} {a : Reg} (h : s.Canon) : (execEvs m a s).Canon :=
  h.runIssue fun _ _ hs => .fold hs fun _ _ hs => .onPart hs fun q => by split <;> exact ⟨rfl, rfl⟩

/-! ### Rejoin masks -/
theorem State.Canon.putMask {cid trp : Nat} {tids : List Nat} {k : Nat} {e : Word} (h : s.Canon) : (s.putMask cid trp tids k e).Canon :=
  h.updThreads.onTroupe.maskTest
theorem State.Canon.setMask {cid trp : Nat} {tids : List Nat} {k : Nat} {e : Word} (h : s.Canon) : (s.setMask cid trp tids k e).Canon :=
  .ite (fun _ => h.updThreads.frame.putMask) fun _ => h.updThreads.frame
theorem State.Canon.execJoin {m : Bool} {k a : Reg} (h : s.Canon) : (execJoin m k a s).Canon := by
  show State.Canon _
  refine .runIssue h fun s ps hs => ?_
  split
  · exact hs
  · exact hs.setMask
theorem State.Canon.execLeave {m : Bool} {k : Reg} (h : s.Canon) : (execLeave m k s).Canon := by
  show State.Canon _
  refine .runIssue h fun s ps hs => ?_
  dsimp only
  split
  · exact .fold hs fun _ _ hs => hs.setMask
  · exact .setMask (.fold hs fun _ _ hs => hs.setMask)
theorem State.Canon.waitkAll {k : Nat} {ps : List Thread} (h : s.Canon) : (s.waitkAll k ps).Canon := by
  unfold State.waitkAll
  split
  · exact h
  · dsimp only
    split
    · exact .onTroupe (.fold h fun _ _ hs => hs.waitAt)
    · split
      · exact .maskRelease (.onTroupe (.fold h fun _ _ hs => hs.waitAt))
      · exact .maskTest (.onTroupe (.fold h fun _ _ hs => hs.waitAt))
theorem State.Canon.execWaitk {m : Bool} {k : Reg} (h : s.Canon) : (execWaitk m k s).Canon :=
  h.runIssue fun _ _ hs => hs.raiseAll.waitkAll
theorem State.Canon.execKsave {m : Bool} {e : BitVec 6} {k a : Reg} (h : s.Canon) : (execKsave m e k a s).Canon :=
  h.runIssue fun _ _ hs => hs.access fun _ _ _ _ _ hs => hs.storeAct
theorem State.Canon.execKload {m : Bool} {e : BitVec 6} {k a : Reg} (h : s.Canon) : (execKload m e k a s).Canon := by
  show State.Canon _
  refine .runIssue h fun s ps hs => ?_
  dsimp only
  split
  · exact hs.access fun _ _ _ _ _ hs => hs.pushOp
  · exact .stallAll (hs.access fun _ _ _ _ _ hs => hs.pushOp)

/-! ### Atomics, sync variables and what accesses return -/
theorem State.Canon.atomic {hd : Hd} {ret : Bool} {op : BitVec 6} {size : BitVec 3} {base t : Reg} (h : s.Canon) :
    (s.atomic hd ret op size base t).Canon := by
  refine State.Canon.runIssue h fun s ps hs => hs.access (fun s l rs q c hs => ?_) fun s l rs q c hs => ?_
  · refine .pushOp ?_
    split
    · exact hs
    · exact hs.outAdd
  · split
    · rintro r ⟨⟩; exact hs.planeFlags
    · nofun
theorem State.Canon.sync1 {minor : Nat} {d a b : Reg} {l : Thread} {rs : List Thread} (h : s.Canon) :
    (s.sync1 minor d a b l rs).Canon := by
  unfold State.sync1
  split
  · exact h.raiseAll
  · exact h.pushOp.watch
theorem State.Canon.syncOp {hd : Hd} {minor : Nat} {src : List RegId} {d a b : Reg} (h : s.Canon) :
    (s.syncOp hd minor src d a b).Canon :=
  h.runIssue fun _ _ hs => hs.each fun _ _ _ hs => hs.sync1
theorem State.Canon.pladd1 {k : Nat} {d a b : Reg} {l : Thread} {rs : List Thread} (h : s.Canon) : (s.pladd1 k d a b l rs).Canon := by
  unfold State.pladd1
  dsimp only
  split
  · exact h.raiseAll
  · split
    · exact h.stallAll
    · split
      · exact h.planeFlags
      · exact .watch (.pushOp (.fold h fun _ _ hs => hs.fillTlb))
theorem State.Canon.execPladd {hd : Hd} {k : BitVec 2} {d a b : Reg} (h : s.Canon) : (execPladd hd k d a b s).Canon :=
  h.runIssue fun _ _ hs => hs.each fun _ _ _ hs => hs.pladd1
theorem State.Canon.loadSample {o : MemOp} (h : s.Canon) : (s.loadSample o).Canon := by
  unfold State.loadSample
  split
  · exact h.sample
  · exact h
theorem State.Canon.obtained {o : MemOp} (h : s.Canon) : (s.obtained o).Canon :=
  .ite (fun _ => .fold h.onThread.updThreads fun _ _ hs => hs.acquired) fun _ => h.onThread.updThreads
theorem State.Canon.loadArrive {o : MemOp} {bs : List Byte} (h : s.Canon) : (s.loadArrive o bs).Canon := by
  unfold State.loadArrive
  split
  · exact h.arrive
  · exact .arrive (.fold h fun _ _ hs => hs.onThread)
  · exact h
theorem State.Canon.execLoadDataArrive {id : Nat} {err : Bool} (h : s.Canon) : (execLoadDataArrive id err s).Canon := by
  show State.Canon _
  split
  · split
    case h_3 => exact h
    all_goals
      split
      · exact .ite (fun _ => h.dataError) fun _ => h
      · split
        · exact h.obtained.keepPart
        · exact h.loadArrive.obtained.loadSample.dropOp
  · exact h
theorem State.Canon.kloadArrive {o : MemOp} {trp k : Nat} (h : s.Canon) : (s.kloadArrive o trp k).Canon := by
  unfold State.kloadArrive
  dsimp only
  split
  · exact .frame (.fold h fun _ _ hs => hs.onThread)
  · split
    · exact .putMask (.frame (.fold h fun _ _ hs => hs.onThread))
    · exact .fold (.frame (.fold h fun _ _ hs => hs.onThread)) fun _ _ hs => hs.onThread
theorem State.Canon.passLead {o : MemOp} (h : s.Canon) : (s.passLead o).Canon := by
  unfold State.passLead
  dsimp only
  split
  · exact h
  · exact h.frame
theorem State.Canon.execKloadDataArrive {id : Nat} {err : Bool} (h : s.Canon) : (execKloadDataArrive id err s).Canon := by
  show State.Canon _
  split
  · split
    · dsimp only
      split
      · split
        · exact .dataError (.ite (fun _ => h.passLead) fun _ => h)
        · exact h
      · split
        · exact h.kloadArrive.obtained.loadSample.dropOp
        · exact .ite (fun _ => h) fun _ => h.obtained.loadSample.dropOp
    · exact h
  · exact h
theorem State.Canon.rmw {o : MemOp} {op n : Nat} {x y : DWord} (h : s.Canon) : (s.rmw o op n x y).Canon := by
  unfold State.rmw
  split
  · exact h.claimOp.perform
  · exact h
theorem State.Canon.rmwHalf {o : MemOp} {op : Nat} {x : BitVec 16} (h : s.Canon) : (s.rmwHalf o op x).Canon :=
  h.claimOp.perform
theorem State.Canon.storeDone {o : MemOp} (h : s.Canon) : (s.storeDone o).Canon := by
  unfold State.storeDone
  split
  · exact h.claimOp.perform.outSub.dropOp
  · exact h
theorem State.Canon.unitDone {o : MemOp} (h : s.Canon) : (s.unitDone o).Canon := by
  unfold State.unitDone
  split
  · exact h.claimOp.perform.dropOp
  · exact h
theorem State.Canon.storePart {o : MemOp} {rest : Option MemOp} (h : s.Canon) : (s.storePart o rest).Canon := by
  unfold State.storePart
  split
  · exact h.claimOp.perform.keepPart
  · dsimp only
    split
    · exact h.storeDone
    · split
      · exact h.fold fun _ _ hs => hs.storeDone
      · exact h
  · exact h.rmw.outSub.dropOp
  · exact h.rmwHalf.keepPart
  · exact h.rmwHalf.outSub.dropOp
  · dsimp only
    split
    · exact h.fold fun _ _ hs => hs.unitDone
    · exact h
  · split
    · split
      · exact (h.unitSlot _ ‹_›).dropOp
      · exact h
    · exact h.claimOp.plainStore.itemDone.dropOp
  · exact h
theorem State.Canon.execStorePerform {id : Nat} (h : s.Canon) : (execStorePerform id s).Canon := by
  show State.Canon _
  split
  · exact h.storePart
  · exact h
theorem State.Canon.atomDone {o : MemOp} {n old : Nat} (h : s.Canon) : (s.atomDone o n old).Canon :=
  h.arrive.obtained.loadSample.dropOp
theorem State.Canon.execAtomResultReturn {id : Nat} {err : Bool} (h : s.Canon) : (execAtomResultReturn id err s).Canon := by
  show State.Canon _
  split
  · dsimp only
    split
    · split
      · exact .ite (fun _ => h.dataError) fun _ => h
      · exact h.rmw.atomDone
    · split
      · exact .ite (fun _ => h.dataError) fun _ => h
      · exact h.rmwHalf.obtained.keepPart
    · exact .ite (fun _ => h) fun _ => h.rmwHalf.atomDone
    · exact h
  · exact h
theorem State.Canon.execRedDataerrDeferred {id : Nat} (h : s.Canon) : (execRedDataerrDeferred id s).Canon := by
  show State.Canon _
  split
  · split
    · exact h.onThread.outSub.dropOp
    · exact h.onThread.outSub.dropOp
    · exact h.onThread.outSub.dropOp
    · exact h
  · exact h
theorem State.Canon.execSyncReply {id : Nat} {err : Bool} (h : s.Canon) : (execSyncReply id err s).Canon := by
  show State.Canon _
  split
  · split
    · split
      · exact .ite (fun _ => h.dataError) fun _ => h
      · dsimp only
        refine .dropOp ?_
        refine .arrive ?_
        split
        · exact h.perform
        · exact h
    · exact h
  · exact h
theorem State.Canon.pladdDone {first : Nat} {os : List MemOp} (h : s.Canon) : (s.pladdDone first os).Canon :=
  .fold h.frame fun _ _ hs => hs.arrive.obtained.dropOp
theorem State.Canon.execPladdResultReturn {id : Nat} {err : Bool} (h : s.Canon) : (execPladdResultReturn id err s).Canon := by
  show State.Canon _
  split
  · split
    · dsimp only
      split
      · exact h
      · split
        · exact .ite (fun _ => h.dataError) fun _ => h
        · exact h.pladdDone
    · exact h
  · exact h
theorem State.Canon.execContributionEnter {id : Nat} (h : s.Canon) : (execContributionEnter id s).Canon := by
  show State.Canon _
  split
  · split
    · exact h.onPart.outSub.dropOp
    · exact h
  · exact h

/-! ### Barriers -/
theorem State.Canon.barGo {t : Thread} {k : BarKey} {form : Option Nat} (h : s.Canon) : (s.barGo t k form).Canon :=
  h.barArrive.barTest
theorem State.Canon.barWaitFor {t : Thread} {c : Company} {k : BarKey} {n : BarNext} {form : Option Nat} (h : s.Canon) :
    (s.barWaitFor t c k n form).Canon :=
  h.waitAt
theorem State.Canon.barAct {op : BarOp} {t : Thread} {c : Company} {k : BarKey} {form : Option Nat} (h : s.Canon) :
    (s.barAct op t c k form).Canon := by
  unfold State.barAct
  split
  · exact h.barWaitFor
  · exact h.onThread.barGo
  · exact h.raise
  · exact h.barWaitFor
  · exact h.onThread
  · exact h.barWaitFor
  · exact h.onThread.barWaitFor.barGo
theorem State.Canon.bar1 {op : BarOp} {word : Word} {counted : Bool} {l : BitVec 3} {a : Reg} {n : BitVec 4} {t : Thread} (h : s.Canon) :
    (s.bar1 op word counted l a n t).Canon := by
  unfold State.bar1
  split
  · exact h
  · split
    · exact h.raise
    · split
      · exact h.raise
      · exact .ite (fun _ => h.raise) fun _ => h.barAct
theorem State.Canon.execBarArrive {m : Bool} {c : Bool} {l : BitVec 3} {a : Reg} {n : BitVec 4} (h : s.Canon) :
    (execBarArrive m c l a n s).Canon :=
  h.runIssue fun _ _ hs => .fold hs fun _ _ hs => hs.bar1
theorem State.Canon.execBarWait {m : Bool} {c : Bool} {l : BitVec 3} {a : Reg} {n : BitVec 4} (h : s.Canon) :
    (execBarWait m c l a n s).Canon :=
  h.runIssue fun _ _ hs => .fold hs fun _ _ hs => hs.bar1
theorem State.Canon.execBarSync {m : Bool} {c : Bool} {l : BitVec 3} {a : Reg} {n : BitVec 4} (h : s.Canon) :
    (execBarSync m c l a n s).Canon :=
  h.runIssue fun _ _ hs => .fold hs fun _ _ hs => hs.bar1
theorem State.Canon.barDump {t : Thread} {c : Company} {k : BarKey} (h : s.Canon) : (s.barDump t c k).Canon := by
  unfold State.barDump
  dsimp only
  split
  · exact h
  · split
    · exact h
    · split
      · exact h.onCore.setBarrier.claim.perform
      · exact h.onCore.setBarrier
theorem State.Canon.advance {core now : Nat} (h : s.Canon) : (s.advance core now).Canon :=
  h.onCore
theorem State.Canon.execBarrierTimeout {cid tid now : Nat} (h : s.Canon) : (execBarrierTimeout cid tid now s).Canon := by
  show State.Canon _
  split
  · split
    · split
      · exact h.advance.barDump.barWithdraw.onThread.barTest
      · exact h
    · exact h
  · exact h

/-! ### Branches -/
theorem State.Canon.jump {t : Thread} {target : DWord} (h : s.Canon) : (s.jump t target).Canon :=
  h.onThread
theorem State.Canon.execBra {m : Bool} {off : BitVec 19} {g : PredOp} (h : s.Canon) : (execBra m off g s).Canon :=
  h.runIssue fun _ _ hs => .fold hs fun _ _ hs => hs.jump
theorem State.Canon.execCall {m : Bool} {off : BitVec 19} {g : PredOp} (h : s.Canon) : (execCall m off g s).Canon :=
  h.runIssue fun _ _ hs => .fold hs fun _ _ hs => hs.writeRegs.onThread.jump
theorem State.Canon.execBtab {m : Bool} {a : Reg} (h : s.Canon) : (execBtab m a s).Canon := by
  show State.Canon _
  refine .runIssue h fun s ps hs => ?_
  refine .fold hs fun s a hs => ?_
  split
  · exact hs.waitAt
  · split
    · exact hs.raise
    · exact hs.jump
theorem State.Canon.execRet {m : Bool} {a : Reg} (h : s.Canon) : (execRet m a s).Canon :=
  h.runIssue fun _ _ hs => .fold hs fun _ _ hs => .ite (fun _ => hs.raise) fun _ => hs.jump
theorem State.Canon.execExit {m : Bool} (h : s.Canon) : (execExit m s).Canon :=
  h.runIssue fun _ _ hs => .fold hs fun _ _ hs => hs.exitThread

/-! ### Cross-lane operations -/
theorem State.Canon.crossOp {m : Bool} {src : List RegId} {e : State → List Thread → Thread → LaneOut} (h : s.Canon) :
    (s.crossOp m src e).Canon := State.Canon.runIssue h fun _ _ hs => hs.fold fun _ _ hs => hs.deliver
theorem State.Canon.execGrd {hd : Hd} {p : PredOp} {n1 : BitVec 3} (h : s.Canon) : (execGrd hd p n1 s).Canon :=
  h.runIssue fun _ _ hs => hs.each fun _ _ _ hs => .fold hs fun _ _ hs => hs.onThread

/-! ### System registers, traps and launches -/
theorem State.Canon.execSysr {hd : Hd} {r : BitVec 8} {d : Reg} (h : s.Canon) : (execSysr hd r d s).Canon := by
  unfold Machine.execSysr
  exact h.runIssue fun _ _ hs => hs.each fun _ _ _ hs => .ite (fun _ => hs.raiseAll) fun _ => .fold hs fun _ _ hs => hs.deliver
theorem State.Canon.storeAt {w : Who} {va : Nat} {bs : List Byte} (h : s.Canon) {r : State} (e : s.storeAt w va bs = .ok r) : r.Canon := by
  unfold State.storeAt at e
  split at e
  · cases e
  · split at e <;> cases e
    · exact h.onPart
    · exact h.claim.perform
theorem State.Canon.writeTovr {pier : Nat} {x : Word} (h : s.Canon) : (s.writeTovr pier x).Canon :=
  .ite (fun _ => h.frame.onDeck) fun _ => h.frame
theorem State.Canon.writeDbgctl {t : Thread} {c : Company} {x : Word} (h : s.Canon) : (s.writeDbgctl t c x).Canon :=
  h.onCore
theorem State.Canon.storesAt {w : Who} {xs : List (Nat × List Byte)} (h : s.Canon) {r : State} (e : s.storesAt w xs = .ok r) :
    r.Canon := by
  induction xs generalizing s with
  | nil => cases e; exact h
  | cons x xs ih =>
    obtain ⟨va, bs⟩ := x
    unfold State.storesAt at e
    split at e
    · cases e
    · exact ih (h.storeAt ‹_›) e
theorem State.Canon.writeProbe {t : Thread} {c : Company} {n : Nat} {x : DWord} (h : s.Canon) {r : State}
    (e : s.writeProbe t c n x = .ok r) : r.Canon := by
  unfold State.writeProbe at e
  dsimp only at e
  generalize (if x.getLsbD 1 then _ else _) = p at e
  split at e
  · cases e
  · next s' he =>
    have hs : s'.Canon := by
      split at he
      · exact h.storesAt he
      · cases he; exact h
    split at e
    · split at e <;> cases e
      exact hs.onCore
    · cases e
      exact hs.onCore
theorem State.Canon.sysWrite {l : Thread} {rs : List Thread} {r : SysReg} {x : DWord} (h : s.Canon) {s' : State}
    (e : s.sysWrite l rs r x = .ok s') : s'.Canon := by
  unfold State.sysWrite at e
  split at e
  · cases e; exact h
  · dsimp only at e
    split at e
    case h_8 => exact h.writeProbe e
    all_goals cases e
    · exact h.onCompany
    · exact h.onCore
    · exact h.onCompany
    · exact h.onCore
    · exact h.onCompany
    · exact h.onCore
    · exact h.writeTovr
    · exact h.writeDbgctl
    · exact h.fold fun _ _ hs => hs.onThread
    all_goals exact h
theorem State.Canon.execSysw {hd : Hd} {r : BitVec 8} {a : Reg} (h : s.Canon) : (execSysw hd r a s).Canon := by
  refine h.runIssue fun s ps hs => hs.each fun s l rs hs => ?_
  split
  · exact hs.raiseAll
  · split
    · exact hs.sysWrite ‹_›
    · exact hs.raiseAll
theorem State.Canon.writeStep {cid tid : Nat} {r : SysReg} {x : DWord} (h : s.Canon) : (s.writeStep cid tid r x).Canon := by
  unfold State.writeStep
  split
  · split
    · exact h
    · split
      · exact h.sysWrite ‹_›
      · exact h.raise
  · exact h
theorem State.Canon.execTsliceWrite {cid tid : Nat} {x : Word} (h : s.Canon) : (execTsliceWrite cid tid x s).Canon :=
  h.writeStep
theorem State.Canon.execTovrWrite {cid tid : Nat} {x : Word} (h : s.Canon) : (execTovrWrite cid tid x s).Canon :=
  h.writeStep
theorem State.Canon.execDbgctlWrite {cid tid : Nat} {x : Word} (h : s.Canon) : (execDbgctlWrite cid tid x s).Canon :=
  h.writeStep
theorem State.Canon.execGrantcapWrite {cid tid : Nat} {x : Word} (h : s.Canon) : (execGrantcapWrite cid tid x s).Canon :=
  h.writeStep
theorem State.Canon.execBartoWrite {cid tid : Nat} {x : Word} (h : s.Canon) : (execBartoWrite cid tid x s).Canon :=
  h.writeStep
theorem State.Canon.execAsidWrite {cid tid : Nat} {x : Word} (h : s.Canon) : (execAsidWrite cid tid x s).Canon :=
  h.writeStep
theorem State.Canon.execProbeEnable {cid tid n : Nat} {x : DWord} (h : s.Canon) : (execProbeEnable cid tid n x s).Canon :=
  State.Canon.ite (fun _ => h.writeStep) fun _ => h
theorem State.Canon.execProbeDump {cid tid n : Nat} {x : DWord} (h : s.Canon) : (execProbeDump cid tid n x s).Canon :=
  State.Canon.ite (fun _ => h.writeStep) fun _ => h
theorem State.Canon.execProbeClear {cid tid n : Nat} {x : DWord} (h : s.Canon) : (execProbeClear cid tid n x s).Canon :=
  State.Canon.ite (fun _ => h.writeStep) fun _ => h
theorem State.Canon.execProbeDisable {cid tid n : Nat} {x : DWord} (h : s.Canon) : (execProbeDisable cid tid n x s).Canon :=
  State.Canon.ite (fun _ => h.writeStep) fun _ => h
theorem State.Canon.execTrap {m : Bool} {code : BitVec 8} (h : s.Canon) : (execTrap m code s).Canon :=
  h.runIssue fun _ _ hs => .fold hs fun _ _ hs => hs.raiseAt
theorem State.Canon.execBrk {m : Bool} {code : BitVec 8} (h : s.Canon) : (execBrk m code s).Canon :=
  h.runIssue fun _ _ hs => hs.raiseAll
theorem State.Canon.execRte {m : Bool} (h : s.Canon) : (execRte m s).Canon :=
  h.runIssue fun _ _ hs => .fold hs fun _ _ hs => .ite (fun _ => hs.raise) fun _ => hs.trapReturn
theorem State.Canon.execYield {m : Bool} (h : s.Canon) : (execYield m s).Canon :=
  h.runIssue fun _ _ hs => .fold hs fun _ _ hs => hs.onThread
theorem State.Canon.yieldsDue {core fuel : Nat} (h : s.Canon) : (s.yieldsDue core fuel).Canon := by
  induction fuel generalizing s with
  | zero => exact h
  | succ fuel ih =>
    unfold State.yieldsDue
    dsimp only
    split
    · exact h
    · exact ih h.release
theorem State.Canon.execYieldExpiry {core : Nat} (h : s.Canon) : (execYieldExpiry core s).Canon :=
  h.yieldsDue
theorem State.Canon.execProg {hd : Hd} {a : Reg} (h : s.Canon) : (execProg hd a s).Canon :=
  h.runIssue fun _ _ hs => hs.each fun _ _ _ hs => hs.onCompany
theorem State.Canon.setQueue {part q off x : Nat} (h : s.Canon) : (s.setQueue part q off x).Canon :=
  h.perform
theorem State.Canon.produce {part q : Nat} {host : Bool} (h : s.Canon) : (s.produce part q host).Canon := by
  unfold State.produce
  dsimp only
  split
  · exact .ite (fun _ => h.setQueue.setQueue.frame) fun _ => h
  · split
    · exact h.onPart.setQueue.setQueue.frame
    · exact h.onPart
theorem State.Canon.submit {part q n : Nat} {record : DWord} (h : s.Canon) {r : State} (e : s.submit part q record = .status n r) :
    r.Canon := by
  unfold State.submit at e
  dsimp only at e
  split at e
  · cases e; exact h
  · split at e
    · cases e; exact h
    · split at e
      · cases e; exact h
      · split at e
        · cases e
        · split at e <;> cases e
          · exact h
          · exact (h.storeAt ‹_›).setQueue.produce.onPart
theorem State.Canon.launch1 {d a : Reg} {l : Thread} {rs : List Thread} (h : s.Canon) : (s.launch1 d a l rs).Canon := by
  unfold State.launch1
  dsimp only
  split
  · exact h.raiseAll
  · split
    · exact h.stallAll
    · exact (h.submit ‹_›).fold fun _ _ hs => hs.deliver
theorem State.Canon.execLaunch {hd : Hd} {d a : Reg} (h : s.Canon) : (execLaunch hd d a s).Canon :=
  h.runIssue fun _ _ hs => hs.each fun _ _ _ hs => hs.launch1
theorem State.Canon.invalidate {r : Removal} (h : s.Canon) : (s.invalidate r).Canon :=
  h.frame
theorem State.Canon.execTlbinv {m : Bool} {d a : Reg} (h : s.Canon) : (execTlbinv m d a s).Canon :=
  h.runIssue fun _ _ hs => .fold hs.raiseAll fun _ _ hs => hs.invalidate

/-! ### Waits and mailboxes -/
theorem State.Canon.waita1 {d a b : Reg} {l : Thread} {rs : List Thread} (h : s.Canon) : (s.waita1 d a b l rs).Canon := by
  unfold State.waita1
  dsimp only
  split
  · exact h.raiseAll
  · split
    · exact .fold h fun _ _ hs => hs.writeRegs
    · refine .readOr h fun s hs => ?_
      split
      · exact .fold hs fun _ _ hs => hs.writeRegs.acquired
      · exact .fold hs fun _ _ hs => hs.waitAt.onThread
theorem State.Canon.execWaita {hd : Hd} {d a b : Reg} (h : s.Canon) : (execWaita hd d a b s).Canon :=
  h.runIssue fun _ _ hs => hs.each fun _ _ _ hs => hs.waita1
theorem State.Canon.waitaEnd {t : Thread} {w : Waita} {index : Bool} {ws : List (RegId × DWord)} (h : s.Canon) :
    (s.waitaEnd t w index ws).Canon :=
  .release (.fold h fun _ _ hs => hs.writeRegs)
theorem State.Canon.execWaitaWake {cid tid : Nat} (h : s.Canon) : (execWaitaWake cid tid s).Canon := by
  show State.Canon _
  split
  · split
    · split
      · exact .ite (fun _ => h.waitaEnd) fun _ => h
      · exact h
    · exact h
  · exact h
theorem State.Canon.execWaitaTimeout {cid tid now : Nat} (h : s.Canon) : (execWaitaTimeout cid tid now s).Canon := by
  show State.Canon _
  split
  · split
    · exact .ite (fun _ => h.advance.waitaEnd) fun _ => h
    · exact h
  · exact h
theorem State.Canon.execMon {hd : Hd} {a : Reg} (h : s.Canon) : (execMon hd a s).Canon :=
  h.runIssue fun _ _ hs => hs.access fun _ _ _ _ _ hs => .fold hs fun _ _ hs => hs.onThread
theorem State.Canon.mwait1 {d b : Reg} {l : Thread} {rs : List Thread} (h : s.Canon) : (s.mwait1 d b l rs).Canon := by
  unfold State.mwait1
  dsimp only
  split
  · exact .fold h fun _ _ hs => hs.writeRegs
  · split
    · exact .fold (.fold h.onThread fun _ _ hs => hs.writeRegs) fun _ _ hs => hs.acquired
    · exact .fold h fun _ _ hs => hs.waitAt.onThread
theorem State.Canon.execMwait {hd : Hd} {d b : Reg} (h : s.Canon) : (execMwait hd d b s).Canon :=
  h.runIssue fun _ _ hs => hs.each fun _ _ _ hs => hs.mwait1
theorem State.Canon.mwaitEnd {cid src grp : Nat} {x : DWord} (h : s.Canon) : (s.mwaitEnd cid src grp x).Canon := by
  unfold State.mwaitEnd
  dsimp only
  refine .release ?_
  refine .fold h fun s a hs => ?_
  split
  · exact hs.writeRegs
  · exact hs
theorem State.Canon.execMwaitWake {cid tid : Nat} (h : s.Canon) : (execMwaitWake cid tid s).Canon := by
  show State.Canon _
  split
  · split
    · exact .ite (fun _ => h.frame.mwaitEnd) fun _ => h
    · exact h
  · exact h
theorem State.Canon.execMwaitTimeout {cid tid now : Nat} (h : s.Canon) : (execMwaitTimeout cid tid now s).Canon := by
  show State.Canon _
  split
  · split
    · exact .ite (fun _ => h.advance.mwaitEnd) fun _ => h
    · exact h
  · exact h
theorem State.Canon.mbArrive {kind : MbKind} {l : Thread} {rs : List Thread} {handle : Word} {msg : DWord} {d : Reg} (h : s.Canon) :
    (s.mbArrive kind l rs handle msg d).Canon := by
  unfold State.mbArrive
  split
  · exact h
  · split
    · exact h.raiseAll
    · refine .readOr h fun s hs => ?_
      split
      · exact hs.raiseAll
      · extract_lets id op s1 s2
        have counted : s2.Canon := .ite (fun _ => hs.frame.outAdd) fun _ => hs.frame
        split
        · exact counted
        · exact counted.fold fun _ _ hs => hs.waitAt
theorem State.Canon.execMbput {hd : Hd} {a b : Reg} (h : s.Canon) : (execMbput hd a b s).Canon :=
  h.runIssue fun _ _ hs => hs.each fun _ _ _ hs => hs.mbArrive
theorem State.Canon.execMbget {hd : Hd} {d a : Reg} (h : s.Canon) : (execMbget hd d a s).Canon :=
  h.runIssue fun _ _ hs => hs.each fun _ _ _ hs => hs.mbArrive
theorem State.Canon.spoilRing {m : MbOp} (h : s.Canon) : (s.spoilRing m).Canon :=
  .ite (fun _ => h.ringWrite.frame) fun _ => h
theorem State.Canon.mbFault {m : MbOp} (h : s.Canon) : (s.mbFault m).Canon :=
  .raiseAll (.fold (.ite (fun _ => h.frame.outSub) fun _ => h.frame) fun _ _ hs => hs.onThread)
theorem State.Canon.mbDone {m : MbOp} {ws : List (RegId × DWord)} (h : s.Canon) : (s.mbDone m ws).Canon := by
  unfold State.mbDone
  dsimp only
  split
  · exact .outSub (.release (.fold h.frame fun _ _ hs => hs.writeRegs))
  · exact .release (.fold h.frame fun _ _ hs => hs.writeRegs)
theorem State.Canon.ringPut {m : MbOp} {r : Ring} (h : s.Canon) : (s.ringPut m r).Canon :=
  h.ringWrite.ringWrite
theorem State.Canon.execMbputServe {id : Nat} (h : s.Canon) : (execMbputServe id s).Canon := by
  show State.Canon _
  split
  · split
    · exact h
    · dsimp only
      split
      · exact h.spoilRing.mbFault
      · split
        · exact h.spoilRing
        · exact h.spoilRing.ringPut.mbDone
  · exact h
theorem State.Canon.execMbgetServe {id : Nat} (h : s.Canon) : (execMbgetServe id s).Canon := by
  show State.Canon _
  split
  · split
    · exact h
    · dsimp only
      split
      · exact h.spoilRing.mbFault
      · split
        · exact h.spoilRing
        · exact h.spoilRing.ringWrite.mbDone
  · exact h

/-! ### The tender -/
theorem State.Canon.queueCmd {c : Cmd} (h : s.Canon) : (s.queueCmd c).1.Canon := h.onTroupe.frame.outAdd
theorem State.Canon.command1 {k : CmdKind} {d a b : Reg} {l : Thread} {rs : List Thread} (h : s.Canon) :
    (s.command1 k d a b l rs).Canon := by
  unfold State.command1
  split
  · exact h
  · dsimp only
    split
    · exact h.raiseAll
    · split
      · exact h.raiseAll
      · split
        · exact h.raiseAll
        · refine .readOr h fun s hs => ?_
          split
          · exact hs.raiseAll
          · split
            · exact hs.raiseAll.frame
            · split
              · exact .fold hs fun _ _ hs => hs.waitAt
              · exact .fold hs.queueCmd fun _ _ hs => hs.writeRegs
theorem State.Canon.command {hd : Hd} {k : CmdKind} {d a b : Reg} (h : s.Canon) : (s.command hd k d a b).Canon :=
  h.runIssue fun _ _ hs => hs.each fun _ _ _ hs => hs.command1
theorem State.Canon.clearStatus {us : List (Nat × Nat)} (h : s.Canon) : (s.clearStatus us).Canon :=
  h.frame
theorem State.Canon.execTwait {hd : Hd} {d a : Reg} (h : s.Canon) : (execTwait hd d a s).Canon := by
  refine h.runIssue fun s ps hs => .clearStatus (hs.each fun s l rs hs => ?_)
  split
  · exact hs.fold fun _ _ hs => hs.waitAt
  · exact hs.fold fun _ _ hs => hs.writeRegs
theorem State.Canon.wakeTwait (h : s.Canon) : (s.wakeTwait).Canon := by
  unfold State.wakeTwait
  dsimp only
  split
  · exact .fold h fun _ _ hs => hs.writeRegs
  · exact .clearStatus (.release (.fold h fun _ _ hs => hs.writeRegs))
theorem State.Canon.cmdStore {c : Cmd} {va : Nat} {bs : List Byte} {fuel : Nat} (h : s.Canon) : (s.cmdStore c va bs fuel).Canon := by
  induction fuel generalizing s va bs with
  | zero => exact h
  | succ fuel ih =>
    unfold State.cmdStore
    dsimp only
    split
    · exact h
    · refine ih ?_
      split
      · exact h
      · split
        · refine h.onPart fun q => ?_
          exact List.foldlRecOn (motive := fun p : Part => p.sync = q.sync ∧ p.zeroed = q.zeroed) _ _ ⟨rfl, rfl⟩ fun _ hp _ _ => hp
        · refine .perform ?_
          split
          · exact h.claimPhys
          · exact h.claim
theorem State.Canon.cmdStop {c : Cmd} {tr : Trap} (h : s.Canon) : (s.cmdStop c tr).Canon := by
  unfold State.cmdStop
  dsimp only
  split
  · exact .updCmd (.ite (fun _ => h) fun _ => h.perform)
  · split
    · exact .ite (fun _ => h.updCmd) fun _ => h.updCmd.engineTrap
    · split
      · exact h.perform.updCmd
      · exact h.perform.updCmd.engineTrap
theorem State.Canon.cmdUnit {c : Cmd} {u : TUnit} {err : Bool} (h : s.Canon) : (s.cmdUnit c u err).Canon := by
  unfold State.cmdUnit
  dsimp only
  split
  · exact h.cmdStop
  · exact h.cmdStop
  · split
    · exact h
    · exact .ite (fun _ => h.updCmd) fun _ => h.cmdStore.updCmd
theorem State.Canon.execTenderUnit {id : Nat} {err : Bool} (h : s.Canon) : (execTenderUnit id err s).Canon := by
  show State.Canon _
  split
  · exact h
  · split
    · exact h
    · split
      · exact h
      · split
        · exact h.cmdStop
        · exact .ite (fun _ => h) fun _ => h.cmdUnit
theorem State.Canon.cmdFinish {c : Cmd} (h : s.Canon) : (s.cmdFinish c).Canon := by
  unfold State.cmdFinish
  dsimp only
  refine .wakeTwait ?_
  split
  · exact .wakeTender (.outSub (.frame (.onTroupe (.ite (fun _ => h.perform) fun _ => h))))
  · exact .outSub (.frame (.onTroupe (.ite (fun _ => h.perform) fun _ => h)))
theorem State.Canon.execTenderComplete {id : Nat} (h : s.Canon) : (execTenderComplete id s).Canon := by
  show State.Canon _
  split
  · exact h
  · exact .ite (fun _ => h.cmdFinish) fun _ => h
theorem State.Canon.collDo {c : Cmd} {agree : Bool} (h : s.Canon) : (s.collDo c agree).Canon := by
  unfold State.collDo
  dsimp only
  split
  · exact h.cmdStop
  · exact h.cmdStop
  · split
    · split
      · split
        · split
          · exact h
          · split <;> exact h.frame.cmdStore.cmdFinish
        · split
          · exact h
          · split <;> exact h.frame.cmdStore.cmdFinish
      · split
        · split
          · exact h
          · split <;> exact h.frame.cmdStore.cmdFinish
        · split
          · exact h
          · split <;> exact h.frame.cmdStore.cmdFinish
    · split
      · split
        · split
          · exact h
          · split <;> exact h.frame.cmdStore.cmdFinish
        · split
          · exact h
          · split <;> exact h.frame.cmdStore.cmdFinish
      · split
        · exact h
        · split <;> exact h.frame.cmdStore.cmdFinish
theorem State.Canon.execTcollComplete {id : Nat} {agree : Bool} (h : s.Canon) : (execTcollComplete id agree s).Canon := by
  show State.Canon _
  split
  · split
    · exact h.collDo
    · exact h
  · split
    · exact .ite (fun _ => h.cmdFinish) fun _ => h
    · exact h
theorem State.Canon.landRegion {part : Nat} {g : Group} {r : RedRegion} (h : s.Canon) : (s.landRegion part g r).Canon :=
  .fold h fun _ _ hs => .fold hs fun _ _ hs => hs.claimPhys.perform
theorem State.Canon.rflushDo {c : Cmd} {agree : Bool} (h : s.Canon) : (s.rflushDo c agree).Canon := by
  unfold State.rflushDo
  dsimp only
  split
  · exact h
  · split
    · exact h.cmdStop
    · split
      · exact h
      · split
        · exact h.cmdStop
        · split
          · exact h.landRegion.frame.onPart.cmdFinish
          · exact h.onPart.cmdFinish
theorem State.Canon.execRflushEpochComplete {id : Nat} {agree : Bool} (h : s.Canon) : (execRflushEpochComplete id agree s).Canon := by
  show State.Canon _
  split
  · split
    · exact h.rflushDo
    · exact h
  · split
    · exact .ite (fun _ => h.cmdFinish) fun _ => h
    · exact h

/-! ### The matrix engine -/
theorem State.Canon.updTile {cid trp n : Nat} {f : Tile → Tile} (h : s.Canon) : (s.updTile cid trp n f).Canon :=
  h.onTroupe
theorem State.Canon.tileWritten {cid trp n : Nat} {p : Nat → Bool} (h : s.Canon) : (s.tileWritten cid trp n p).Canon :=
  h.updThreads
theorem State.Canon.queueWork {cid trp : Nat} {w : MWork} (h : s.Canon) : (s.queueWork cid trp w).Canon :=
  h.onTroupe
theorem State.Canon.wakeTile {cid : Nat} (h : s.Canon) : (s.wakeTile cid).Canon :=
  h.frame
theorem State.Canon.doneWork {cid trp : Nat} (h : s.Canon) : (s.doneWork cid trp).Canon :=
  h.onTroupe.wakeTile
theorem State.Canon.siblingTraps {ps : List Thread} {own : Thread → Option Trap} (h : s.Canon) : (s.siblingTraps ps own).Canon :=
  .frame (.fold h fun _ _ hs => hs.fall)
theorem State.Canon.matrixBody {ps : List Thread} {act : State → Thread → List Thread → State} (h : s.Canon)
    (ha : ∀ s l ps, s.Canon → (act s l ps).Canon) : (s.matrixBody ps act).Canon := by
  unfold State.matrixBody
  split
  · dsimp only
    split
    · exact h.siblingTraps
    · exact ha _ _ _ h
  · exact h.raiseAll
theorem State.Canon.matrixOp {m : Bool} {src : List RegId} {busy : List Thread → List Nat} {act : State → Thread → List Thread → State}
    (h : s.Canon) (ha : ∀ s l ps, s.Canon → (act s l ps).Canon) : (s.matrixOp m src busy act).Canon :=
  State.Canon.runIssue h fun _ _ hs => hs.matrixBody ha
theorem State.Canon.withBlock {ms : List Thread} {off : BitVec 12} {n : Nat} {word : Word} {act : List Word → State} (h : s.Canon)
    (ha : ∀ w, (act w).Canon) : (s.withBlock ms off n word act).Canon := by
  unfold State.withBlock
  split
  · exact h
  · split
    · exact h.stallAll
    · split
      · exact h.frame.raiseAll
      · exact ha _
theorem State.Canon.tileFails {ps : List Thread} (h : s.Canon) : (s.tileFails ps).Canon :=
  h.siblingTraps
theorem State.Canon.raiseIn {ts : List Thread} {fl : Thread → Flags} (h : s.Canon) : (s.raiseIn ts fl).Canon :=
  .fold h fun _ _ hs => hs.onThread
theorem State.Canon.matrixFlags {ps : List Thread} {fl : Flags} {r : State × Bool} (h : s.Canon) (e : s.matrixFlags ps fl = r) :
    r.1.Canon := by
  subst e
  unfold State.matrixFlags
  dsimp only
  split
  · exact h.raiseIn.siblingTraps
  · exact h.raiseIn
theorem State.Canon.queueStep {edge ow : Bool} {ty : BitVec 4} {b a : Reg} {n : BitVec 4} {l : Thread} {ps : List Thread} (h : s.Canon) :
    (s.queueStep edge ow ty b a n l ps).Canon :=
  .ite (fun _ => h.raiseAll) fun _ => h.queueWork
theorem State.Canon.execMma {m ow : Bool} {ty : BitVec 4} {b a : Reg} {n : BitVec 4} (h : s.Canon) : (execMma m ow ty b a n s).Canon :=
  h.matrixOp fun _ _ _ hs => hs.queueStep
theorem State.Canon.execMmae {m ow : Bool} {ty : BitVec 4} {b a : Reg} {n : BitVec 4} (h : s.Canon) :
    (execMmae m ow ty b a n s).Canon :=
  h.matrixOp fun _ _ _ hs => hs.queueStep
theorem State.Canon.execMzero {m : Bool} {n : BitVec 4} (h : s.Canon) : (execMzero m n s).Canon :=
  h.matrixOp fun _ _ _ hs => .ite (fun _ => hs.raiseAll) fun _ => hs.queueWork
theorem State.Canon.rowDone {t : Thread} {k : Acc} {va : DWord} {n : Nat} (h : s.Canon) : (s.rowDone t k va n).Canon :=
  .ite (fun _ => h) fun _ => h.fillFor.watch
theorem State.Canon.loadRow {fmt : Nat} {a : Reg} {t : Thread} {cs : List (Nat × Checked)} (h : s.Canon) :
    (s.loadRow fmt a t cs).Canon :=
  .rowDone (.fold h fun _ _ hs => .ite (fun _ => hs) fun _ => hs.pushOp)
theorem State.Canon.loadRows {n fmt rows : Nat} {a : Reg} {l : Thread} {ps : List Thread} (h : s.Canon) :
    (s.loadRows n fmt rows a l ps).Canon := by
  unfold State.loadRows
  dsimp only
  split
  · exact h.siblingTraps
  · split
    · exact h.stallAll
    · refine .fold h.queueWork fun s a hs => ?_
      split
      · exact .ite (fun _ => hs) fun _ => hs.loadRow
      · exact hs
theorem State.Canon.execMload {m : Bool} {b a : Reg} {n : BitVec 4} (h : s.Canon) : (execMload m b a n s).Canon := by
  refine h.matrixOp fun s l ps hs => ?_
  extract_lets c tc
  split
  · exact hs.raiseAll
  · split
    · exact hs.raiseAll
    · split
      · exact hs.raiseAll
      · exact hs.loadRows
theorem State.Canon.setOp {id : Nat} {k : Option OpKind} (h : s.Canon) : (s.setOp id k).Canon := by
  unfold State.setOp
  split
  · exact h.frame
  · exact h.dropOp
theorem State.Canon.loadPart {err : Bool} {o : MemOp} (h : s.Canon) : (s.loadPart err o).Canon := by
  unfold State.loadPart
  split
  · split
    · exact .ite (fun _ => h.onTroupe.dropOp) fun _ => h.onTroupe.frame
  · exact h
theorem State.Canon.loadLand {cid trp : Nat} (h : s.Canon) : (s.loadLand cid trp).Canon := by
  unfold State.loadLand
  split
  · split
    · exact h
    · exact .doneWork (.tileWritten (.tileWritten (.ite (fun _ => h.updTile.updTile) fun _ => h.updTile)))
  · exact h
theorem State.Canon.execMloadDataArrive {cid trp : Nat} {err : Bool} (h : s.Canon) : (execMloadDataArrive cid trp err s).Canon :=
  State.Canon.frame (.loadLand (.fold h fun _ _ hs => hs.loadPart))
theorem State.Canon.execMstat {m : Bool} {n : BitVec 4} {d : Reg} (h : s.Canon) : (execMstat m n d s).Canon := by
  refine h.matrixOp fun s l ps hs => ?_
  split
  · exact hs.raiseAll
  · split
    · exact hs.tileFails
    · dsimp only
      split
      · exact hs.matrixFlags ‹_›
      · exact .fold (hs.matrixFlags ‹_›).updTile fun _ _ hs => hs.writeRegs
theorem State.Canon.drainStores {d : Drain} {a : Reg} {t : Thread} {cs : List (Nat × Checked)} {row : List Res} (h : s.Canon) :
    (s.drainStores d a t cs row).Canon :=
  .rowDone (.fold h fun _ _ hs => .ite (fun _ => hs) fun _ => hs.outAdd.pushOp)
theorem State.Canon.drainMerge {l : Thread} {va : DWord} {c : Checked} {keys : List Word} (h : s.Canon) :
    (s.drainMerge l va c keys).Canon :=
  .ite (fun _ => h) fun _ => h.outAdd.pushOp.fillFor.watch
theorem State.Canon.drainGo {d : Drain} {n : Nat} {a b : Reg} {l : Thread} {ps : List Thread}
    {chk : Thread → Except Trap (List (Nat × Checked) × Option Checked)} (h : s.Canon) : (s.drainGo d n a b l ps chk).Canon := by
  unfold State.drainGo
  dsimp only
  split
  · exact h.tileFails
  · split
    · split
      · exact h.matrixFlags ‹_›
      · refine .fold (.queueWork (.fold (h.matrixFlags ‹_›) fun _ _ hs => hs.updTile.tileWritten)) fun s t hs => ?_
        split
        · split
          · refine .drainMerge ?_
            split
            · exact hs.drainStores
            · exact hs
          · split
            · exact hs.drainStores
            · exact hs
        · exact hs
    · exact h
theorem State.Canon.endDrains {cid trp : Nat} (h : s.Canon) : (s.endDrains cid trp).Canon :=
  h.onTroupe.wakeTile
theorem State.Canon.drain1 {d : Drain} {n : Nat} {a b : Reg} {l : Thread} {ps : List Thread} (h : s.Canon) :
    (s.drain1 d n a b l ps).Canon := by
  unfold State.drain1
  dsimp only
  split
  · exact h.siblingTraps
  · split
    · exact h.stallAll
    · exact h.drainGo.endDrains
theorem State.Canon.execMdrain {m : Bool} {b a : Reg} {n : BitVec 4} (h : s.Canon) : (execMdrain m b a n s).Canon := by
  refine h.matrixOp fun s l ps hs => ?_
  extract_lets c d tc
  split
  · exact hs.raiseAll
  · split
    · exact hs.raiseAll
    · split
      · exact hs.raiseAll
      · exact hs.drain1
theorem State.Canon.drainPart {fresh : Nat} {o : MemOp} (h : s.Canon) : (s.drainPart fresh o).Canon := by
  unfold State.drainPart
  split
  · dsimp only
    split
    · refine .dropOp ?_
      refine .outSub ?_
      refine .fold (.fold h fun _ _ hs => hs.claimAt) fun s a hs => ?_
      split
      · exact hs.onPart
      · exact hs.perform
    · refine .setOp ?_
      refine .fold (.fold h fun _ _ hs => hs.claimAt) fun s a hs => ?_
      split
      · exact hs.onPart
      · exact hs.perform
  · dsimp only
    split
    · exact h.claimOp.perform.outSub.dropOp
    · exact h.claimOp.perform.setOp
  · exact h
theorem State.Canon.execDrainStoresPerform {cid trp : Nat} (h : s.Canon) : (execDrainStoresPerform cid trp s).Canon :=
  State.Canon.frame (.endDrains (.fold h fun _ _ hs => hs.drainPart))
theorem State.Canon.startLoop {n : Nat} {w : List Word} {l : Thread} {ps : List Thread} (h : s.Canon) : (s.startLoop n w l ps).Canon := by
  unfold State.startLoop
  split
  · exact h.raiseAll
  · split
    · exact h.raiseAll
    · exact h.queueWork.frame
theorem State.Canon.execMloop {m : Bool} {off : BitVec 12} {n : BitVec 4} (h : s.Canon) : (execMloop m off n s).Canon :=
  h.runIssue fun _ _ hs => hs.withBlock fun _ => hs.matrixBody fun _ _ _ hs => hs.startLoop
theorem State.Canon.stage {cid trp : Nat} {r : Nat × Nat × Nat × Nat} (h : s.Canon) : (s.stage cid trp r).Canon :=
  h.onThread
theorem State.Canon.loopWord {cid : Nat} {l : MLoop} (h : s.Canon) : (s.loopWord cid l).Canon := by
  unfold State.loopWord
  split
  · exact h.perform
  · exact h
theorem State.Canon.loopStop {cid trp : Nat} {l : MLoop} {tr : Trap} (h : s.Canon) : (s.loopStop cid trp l tr).Canon :=
  h.loopWord.updThreads.doneWork
theorem State.Canon.loopGo {cid trp : Nat} {l : MLoop} {err : Bool} (h : s.Canon) : (s.loopGo cid trp l err).Canon :=
  .onTroupe (.tileWritten (.updTile (.fold h fun _ _ hs => hs.stage)))
theorem State.Canon.execMloopStep {cid trp : Nat} {err : Bool} (h : s.Canon) : (execMloopStep cid trp err s).Canon := by
  show State.Canon _
  split
  · split
    · exact h
    · dsimp only
      split
      · exact h.loopStop
      · exact .ite (fun _ => h.frame.loopGo) fun _ => h
  · exact h
theorem State.Canon.execMloopComplete {cid trp : Nat} (h : s.Canon) : (execMloopComplete cid trp s).Canon := by
  show State.Canon _
  split
  · exact .ite (fun _ => h.loopWord.doneWork) fun _ => h
  · exact h
theorem State.Canon.demuOp {m : Bool} {src : List RegId} {e : Thread → LaneOut} (h : s.Canon) : (s.demuOp m src e).Canon :=
  h.matrixOp fun _ _ _ hs => .ite (fun _ => hs.raiseIn.siblingTraps) fun _ => .fold hs fun _ _ hs => hs.deliver
theorem State.Canon.merge {cid trp n x : Nat} {e f : List Word} {m : Nat} {init : Bool} {lo hi p : Tile} (h : s.Canon) :
    (s.merge cid trp n x e f m init lo hi p).Canon :=
  h.updTile.updTile.tileWritten.tileWritten
theorem State.Canon.execDmerge {m : Bool} {b : Reg} {x n : BitVec 4} (h : s.Canon) : (execDmerge m b x n s).Canon := by
  unfold Machine.execDmerge
  refine .matrixOp h fun _ _ _ hs => .ite (fun _ => hs.raiseAll) fun _ => .ite (fun _ => hs.tileFails) fun _ => hs.queueWork
theorem State.Canon.strike {cid trp : Nat} (h : s.Canon) : (s.strike cid trp).Canon :=
  h.updTile.frame
theorem State.Canon.matrixStep {cid trp : Nat} (h : s.Canon) : (s.matrixStep cid trp).Canon := by
  unfold State.matrixStep
  split
  · exact h.updTile.tileWritten.doneWork
  · exact h.updTile.tileWritten.doneWork
  · split
    · exact h.merge.doneWork
    · exact h.doneWork
  · exact h
theorem State.Canon.execMatrixStep {cid trp : Nat} {err : Bool} (h : s.Canon) : (execMatrixStep cid trp err s).Canon :=
  State.Canon.ite (fun _ => h.frame.matrixStep.strike) fun _ => h.frame.matrixStep

/-! ### Fetch -/
theorem State.Canon.fetch {g : Issue} (h : s.Canon) {r : State} (e : s.fetch g = .error r) : r.Canon := by
  unfold State.fetch at e
  dsimp only at e
  split at e
  · cases e; exact h.frame
  · split at e
    · cases e; exact h.frame.raiseAll
    · split at e
      · cases e; exact .fold h.frame fun _ _ hs => hs.waitAt
      · split at e <;> cases e
        exact h.frame.raiseAll
/-- Whether an instruction executes now or its group is held, the state it meets is canonical. -/
theorem State.Canon.ready {g : Issue} {i : Instr} (h : s.Canon) {r : State} (e : s.ready g i = .ok r ∨ s.ready g i = .error r) :
    r.Canon := by
  unfold State.ready at e
  split at e <;> rcases e with e | e <;> cases e
  · exact .fold h.frame fun _ _ hs => hs.waitAt
  · exact h.frame
theorem State.Canon.trapGroup {tr : Trap} (h : s.Canon) : (s.trapGroup tr).Canon := by
  unfold State.trapGroup
  split
  · exact h
  · exact h.frame.raiseAll
theorem State.Canon.execIllegalInstructionWord {sub : BitVec 8} {word : Word} (h : s.Canon) :
    (execIllegalInstructionWord sub word s).Canon :=
  h.trapGroup
theorem State.Canon.execPoolGuard {len : BitVec 17} (h : s.Canon) : (execPoolGuard len s).Canon :=
  h.trapGroup

/-! ### Relaxation regions -/
theorem State.Canon.rxArrive {d : Reg} {w : List Word} {t : Thread} (h : s.Canon) : (s.rxArrive d w t).Canon := by
  unfold State.rxArrive
  split
  · exact h
  · split
    · exact h.raise
    · refine .waitAt (h.updCompany _ fun c hc => ?_)
      split
      · split <;> exact hc
      · exact hc
theorem State.Canon.execRxbegin {m : Bool} {off : BitVec 12} {d : Reg} (h : s.Canon) : (execRxbegin m off d s).Canon :=
  h.runIssue fun _ _ hs => hs.withBlock fun _ => .fold hs fun _ _ hs => hs.rxArrive
theorem State.Canon.updRegion {cid : Nat} {f : Region → Region} (h : s.Canon) : (s.updRegion cid f).Canon :=
  h.onCompany
theorem State.Canon.rxTake {cid : Nat} {r : Region} (h : s.Canon) : (s.rxTake cid r).Canon :=
  h.updRegion.frame
theorem State.Canon.rxGuess {cid : Nat} {r : Region} {tid : Nat} (h : s.Canon) : (s.rxGuess cid r tid).Canon := by
  unfold State.rxGuess
  split
  · dsimp only
    split
    · exact h.raise
    · split
      · exact h
      · exact .ite (fun _ => h.raise) fun _ => h.updRegion.rowDone
  · exact h
theorem State.Canon.execRxRegionStart {cid : Nat} (h : s.Canon) : (execRxRegionStart cid s).Canon := by
  show State.Canon _
  split
  · exact h
  · next c _ =>
    split
    · exact h
    · next r _ =>
      have guessed {r' : Region} : ((List.range r'.steps).foldl (fun s t => s.rxGuess cid r' t)
          (if r.g.isEmpty then s.rxTake cid r else s)).Canon := .fold (.ite (fun _ => h.rxTake) fun _ => h) fun _ _ hs => hs.rxGuess
      split
      · exact h
      · split
        · exact h.onCompany.raiseAll
        · split
          · exact h
          · extract_lets s1 r1 s2
            split
            · split
              · exact guessed.onCompany.release
              · exact guessed
            · exact guessed
theorem State.Canon.rxOp {f : Form} {act : State → Thread → Region → State} (h : s.Canon) (ha : ∀ s t r, s.Canon → (act s t r).Canon) :
    (s.rxOp f act).Canon := by
  refine State.Canon.runIssue h fun s ps hs => .fold hs fun s t hs => ?_
  split
  · exact ha _ _ _ hs
  · exact hs.raise
theorem State.Canon.writeRegsSeen {cid tid : Nat} {ws : List (RegId × DWord)} (h : s.Canon) : (s.writeRegsSeen cid tid ws).Canon :=
  h.writeRegs.onThread
theorem State.Canon.execRxprev {m : Bool} {d : Reg} (h : s.Canon) : (execRxprev m d s).Canon :=
  h.rxOp fun _ _ _ hs => .ite (fun _ => hs.raise) fun _ => hs.updRegion.writeRegsSeen
theorem State.Canon.execRxput {m : Bool} {a b : Reg} (h : s.Canon) : (execRxput m a b s).Canon :=
  h.rxOp fun _ _ _ hs => .ite (fun _ => hs.raise) fun _ => hs.updRegion
theorem State.Canon.execRxend {m : Bool} (h : s.Canon) : (execRxend m s).Canon := by
  unfold Machine.execRxend
  refine .rxOp h fun s t r hs => ?_
  split
  · exact hs.waitAt
  · exact hs.raise
theorem State.Canon.execRxstat {m : Bool} {d : Reg} (h : s.Canon) : (execRxstat m d s).Canon := by
  show State.Canon _
  refine .runIssue h fun s ps hs => ?_
  refine .fold hs fun s a hs => ?_
  split
  · exact hs.writeRegs
  · exact hs
theorem State.Canon.commit {cid : Nat} {b : RxStore} (h : s.Canon) : (s.commit cid b).Canon :=
  .perform (.fold h fun _ _ hs => hs.claim)
theorem State.Canon.regionEnd {cid : Nat} {r : Region} {code settled : Nat} (h : s.Canon) : (s.regionEnd cid r code settled).Canon := by
  unfold State.regionEnd
  dsimp only
  split
  · split
    · exact .takeTrap (.rewake (.release (.onCompany (.frame (.fold h fun _ _ hs => hs.commit)))))
    · exact .rewake (.release (.onCompany (.frame (.fold h fun _ _ hs => hs.commit))))
  · exact .rewake (.release (.onCompany (.frame (.fold h fun _ _ hs => hs.commit))))
theorem State.Canon.nextPass {cid : Nat} {r : Region} {g : List (List Word)} (h : s.Canon) : (s.nextPass cid r g).Canon :=
  h.onCompany.release.rewake
theorem State.Canon.execRxPassEnd {cid : Nat} (h : s.Canon) : (execRxPassEnd cid s).Canon := by
  show State.Canon _
  split
  · split
    · split
      · split
        · exact .ite (fun _ => h) fun _ => h.regionEnd
        · exact h.nextPass
      · exact h
    · exact h
  · exact h

/-! ### Ladders -/
theorem State.Canon.deckAdvance {deck now : Nat} (h : s.Canon) : (s.deckAdvance deck now).Canon :=
  h.onDeck
theorem State.Canon.arriveAt {l : Ladder} {rung item : Nat} {arg : Word} (h : s.Canon) : (s.arriveAt l rung item arg).Canon :=
  h.frame.deckAdvance.updLadder
theorem State.Canon.execLadderStarveExpire {lid rung now : Nat} (h : s.Canon) : (execLadderStarveExpire lid rung now s).Canon := by
  show State.Canon _
  split
  · exact h
  · split
    · exact .ite (fun _ => h.deckAdvance.updLadder) fun _ => h
    · exact h
theorem State.Canon.postGive {rs : List Thread} {d : Reg} {ok : Bool} {x : Word} (h : s.Canon) : (s.postGive rs d ok x).Canon :=
  .fold h fun _ _ hs => hs.writeRegs
theorem State.Canon.postItem {l : Ladder} {arg : Word} {rs : List Thread} {d : Reg} (h : s.Canon) : (s.postItem l arg rs d).Canon :=
  .ite (fun _ => h.postGive) fun _ => h.updLadder.arriveAt.postGive
theorem State.Canon.post1 {va : DWord} {d : Reg} {l : Thread} {rs : List Thread} (h : s.Canon) : (s.post1 va d l rs).Canon := by
  unfold State.post1
  split
  · exact h
  · split
    · exact .ite (fun _ => h.postGive) fun _ => h.postItem
    · split
      · exact h.raiseAll
      · split
        · exact h.stallAll
        · refine .readOr h fun s hs => ?_
          dsimp only
          split
          · exact hs.fillFor.watch.raiseAll
          · exact hs.fillFor.watch.postGive
          · exact hs.fillFor.watch.frame.postItem
theorem State.Canon.laneOrder {uni : Bool} {ps : List Thread} {f : State → Thread → List Thread → State} (h : s.Canon)
    (hf : ∀ s l rs, s.Canon → (f s l rs).Canon) : (s.laneOrder uni ps f).Canon := by
  unfold State.laneOrder
  dsimp only
  split
  · exact h.each hf
  · refine List.foldlRecOn (motive := fun x : State × Option Wait => x.1.Canon) _ _ h fun x hx t _ => ?_
    split
    · exact hx.waitAt
    · exact hf _ _ _ hx
theorem State.Canon.execLpost {hd : Hd} {off : BitVec 12} {d : Reg} (h : s.Canon) : (execLpost hd off d s).Canon := by
  refine h.runIssue fun s ps hs => hs.withBlock fun w => ?_
  extract_lets va
  split
  · exact hs.raiseAll
  · split
    · exact hs.raiseAll
    · exact hs.laneOrder fun _ _ _ hs => hs.post1
theorem State.Canon.esc1 {a : Reg} {t : Thread} (h : s.Canon) : (s.esc1 a t).Canon := by
  unfold State.esc1
  split
  · dsimp only
    split
    · exact h.raise
    · split
      · exact h.raise
      · split
        · exact h.raise
        · split
          · exact h.raise
          · exact h.raise
          · split
            · exact h.waitAt
            · exact .ite (fun _ => h.waitAt) fun _ => h.onThread.queueCmd
  · exact h.raise
theorem State.Canon.execEsc {m : Bool} {a : Reg} (h : s.Canon) : (execEsc m a s).Canon :=
  h.runIssue fun _ _ hs => .fold hs fun _ _ hs => hs.esc1
theorem State.Canon.escEnd {c : Cmd} {lad item rung : Nat} {bad : Bool} (h : s.Canon) : (s.escEnd c lad item rung bad).Canon := by
  unfold State.escEnd
  dsimp only
  split
  · exact h.cmdFinish
  · split
    · exact h.cmdFinish.retireItem.frame
    · exact h.cmdFinish.arriveAt
theorem State.Canon.execEscCopyComplete {id : Nat} {err : Bool} (h : s.Canon) : (execEscCopyComplete id err s).Canon := by
  show State.Canon _
  split
  · exact h
  · split
    · dsimp only
      split
      · exact .ite (fun _ => h.escEnd) fun _ => h
      · split
        · exact h
        · split
          · exact h.cmdStop
          · exact h.cmdStop
          · split
            · exact h
            · exact .ite (fun _ => h.escEnd) fun _ => h.cmdStore.escEnd
    · exact h
theorem State.Canon.lres1 {a : Reg} {t : Thread} (h : s.Canon) : (s.lres1 a t).Canon := by
  unfold State.lres1
  split
  · exact h.raise
  · split
    · exact h.raise
    · exact h.access1 fun _ _ hs => hs.onThread.pushOp
theorem State.Canon.execLres {m : Bool} {a : Reg} (h : s.Canon) : (execLres m a s).Canon :=
  h.runIssue fun _ _ hs => .fold hs fun _ _ hs => hs.lres1
theorem State.Canon.ladderRelease {l : Ladder} (h : s.Canon) : (s.ladderRelease l).Canon := by
  unfold State.ladderRelease
  dsimp only
  refine .frame ?_
  split
  · exact h.claim.perform
  · exact h
theorem State.Canon.execRetireAdvance {lid : Nat} (h : s.Canon) : (execRetireAdvance lid s).Canon := by
  show State.Canon _
  split
  · exact h
  · dsimp only
    split
    · exact h
    · split
      · exact .ladderRelease (.ite (fun _ => h.updLadder.perform) fun _ => h.updLadder)
      · exact .ite (fun _ => h.updLadder.perform) fun _ => h.updLadder
theorem State.Canon.lstat1 {d a : Reg} {l : Thread} {rs : List Thread} (h : s.Canon) : (s.lstat1 d a l rs).Canon := by
  unfold State.lstat1
  dsimp only
  split
  · exact h.raiseAll
  · split
    · exact h.raiseAll
    · split
      · exact h.stallAll
      · exact h.readOr fun _ hs => .fold hs.fillFor.watch fun _ _ hs => hs.writeRegs
theorem State.Canon.execLstat {hd : Hd} {d a : Reg} (h : s.Canon) : (execLstat hd d a s).Canon :=
  h.runIssue fun _ _ hs => hs.each fun _ _ _ hs => hs.lstat1

/-! ### Automata, snapshots and active calls -/
theorem State.Canon.gmRead {l : Thread} {rs : List Thread} {va : DWord} {n i : Nat} {go : State → List Byte → State} {born : Option Nat}
    (h : s.Canon) (hg : ∀ s b, s.Canon → (go s b).Canon) : (s.gmRead l rs va n i go born).Canon := by
  unfold State.gmRead
  split
  · exact h.raiseAll
  · split
    · exact h.stallAll
    · exact h.readOr fun _ hs => hg _ _ hs.fillFor.watch
theorem State.Canon.gmContext {l : Thread} {rs : List Thread} {a : Word} {ls : List Loc} {store : Bool} {go : State → List Byte → State}
    (h : s.Canon) (hg : ∀ s b, s.Canon → (go s b).Canon) : (s.gmContext l rs a ls store go).Canon := by
  unfold State.gmContext
  dsimp only
  split
  · exact h.fold fun _ _ hs => hs.waitAt
  · exact h.readOr fun _ hs => hg _ _ hs.watch
theorem State.Canon.gmWrite {rs : List Thread} {a : Word} {ls : List Loc} {off : Nat} {bs : List Byte} (h : s.Canon) :
    (s.gmWrite rs a ls off bs).Canon :=
  h.perform.watch
theorem State.Canon.gmGive {rs : List Thread} {ws : List (RegId × DWord)} (h : s.Canon) : (s.gmGive rs ws).Canon :=
  .fold h fun _ _ hs => hs.writeRegs
theorem State.Canon.gmReset {l : Thread} {rs : List Thread} {d : Reg} {g : Automaton} {ls : List Loc} (h : s.Canon) :
    (s.gmReset l rs d g ls).Canon :=
  h.gmContext fun _ _ hs => hs.onCompany.gmWrite.gmGive
theorem State.Canon.gmload1 {d a : Reg} {l : Thread} {rs : List Thread} (h : s.Canon) : (s.gmload1 d a l rs).Canon := by
  unfold State.gmload1
  split
  · exact h
  · next c _ =>
    have reset (g : Automaton) {s : State} (hs : s.Canon) : (match scrRange c (l.getV d) 80 16 with
        | .error e => s.raiseAll rs e
        | .ok ls => s.gmReset l rs d g ls).Canon := by
      split
      · exact hs.raiseAll
      · exact hs.gmReset
    have install : (if (l.getPair a).toNat % 64 != 0 then s.raiseAll rs (faultAt cAlign 1 (l.getPair a).toNat)
        else s.gmRead l rs (l.getPair a) 64 1 fun s b => match (imageChecks b).find? fun x => !x.2 with
          | some x => s.raiseAll rs (badCmd (BitVec.ofNat 32 x.1))
          | none => match scrRange c (l.getV d) 80 16 with
            | .error e => s.raiseAll rs e
            | .ok ls => s.gmReset l rs d (automatonOf (l.getPair a) b s.fresh) ls).Canon := by
      split
      · exact h.raiseAll
      · refine h.gmRead fun s b hs => ?_
        split
        · exact hs.raiseAll
        · exact reset _ hs
    dsimp only
    split
    · split
      · exact reset _ h
      · exact install
    · exact install
theorem State.Canon.execGmload {hd : Hd} {d a : Reg} (h : s.Canon) : (execGmload hd d a s).Canon :=
  h.runIssue fun _ _ hs => hs.laneOrder fun _ _ _ hs => hs.gmload1
theorem State.Canon.gmWith {l : Thread} {rs : List Thread} {a : Word} {store : Bool} {more : Company → Except Trap (List Loc)}
    {go : State → Context → List Loc → State} (h : s.Canon) (hg : ∀ s x ds, s.Canon → (go s x ds).Canon) :
    (s.gmWith l rs a store more go).Canon := by
  unfold State.gmWith
  split
  · exact h
  · split
    · exact h.raiseAll
    · split
      · exact h.raiseAll
      · exact h.raiseAll
      · refine h.gmContext fun s b hs => ?_
        dsimp only
        split
        · exact hs.raiseAll
        · exact hg _ _ _ hs
theorem State.Canon.gmAccept {rs : List Thread} {d : Reg} {a : Word} {x : Context} {m : Move} (h : s.Canon) :
    (s.gmAccept rs d a x m).Canon := by
  unfold State.gmAccept
  dsimp only
  refine .gmGive ?_
  refine .gmWrite ?_
  split
  · exact h.gmWrite
  · exact h
theorem State.Canon.gmstep1 {d a : Reg} {l : Thread} {rs : List Thread} (h : s.Canon) : (s.gmstep1 d a l rs).Canon := by
  refine h.gmWith fun s x _ hs => ?_
  split
  · exact hs.gmGive
  · refine hs.gmRead fun s k hs => ?_
    split
    · exact hs.raiseAll
    · refine hs.gmRead fun s e hs => ?_
      split
      · exact hs.raiseAll
      · exact hs.gmGive
      · exact hs.gmAccept
theorem State.Canon.execGmstep {hd : Hd} {d a : Reg} (h : s.Canon) : (execGmstep hd d a s).Canon :=
  h.runIssue fun _ _ hs => hs.laneOrder fun _ _ _ hs => hs.gmstep1
theorem State.Canon.gmSlice {l : Thread} {rs : List Thread} {b : Word} {ds : List Loc} {slice : List Byte} (h : s.Canon) :
    (s.gmSlice l rs b ds slice).Canon :=
  .watch (.fold h fun _ _ hs => hs.outAdd.pushOp)
theorem State.Canon.gmmask1 {d a b : Reg} {l : Thread} {rs : List Thread} (h : s.Canon) : (s.gmmask1 d a b l rs).Canon := by
  refine h.gmWith fun s x ds hs => ?_
  dsimp only
  split
  · exact hs.gmGive
  · exact hs.gmRead fun _ _ hs => hs.gmSlice.gmGive
theorem State.Canon.execGmmask {hd : Hd} {d a b : Reg} (h : s.Canon) : (execGmmask hd d a b s).Canon :=
  h.runIssue fun _ _ hs => hs.laneOrder fun _ _ _ hs => hs.gmmask1
theorem State.Canon.gmforce1 {d a : Reg} {l : Thread} {rs : List Thread} (h : s.Canon) : (s.gmforce1 d a l rs).Canon :=
  h.gmWith fun _ _ _ hs => hs.gmRead fun _ _ hs => hs.gmGive
theorem State.Canon.execGmforce {hd : Hd} {d a : Reg} (h : s.Canon) : (execGmforce hd d a s).Canon :=
  h.runIssue fun _ _ hs => hs.laneOrder fun _ _ _ hs => hs.gmforce1
theorem State.Canon.poolPut {p : Pool} (h : s.Canon) : (s.poolPut p).Canon :=
  h.frame.sweepPools
theorem State.Canon.snapWait {o : SnapOp} {rs : List Thread} (h : s.Canon) : (s.snapWait o rs).Canon :=
  .fold h.frame fun _ _ hs => hs.waitAt
theorem State.Canon.snap1 {kind : SnapKind} {d a : Reg} {l : Thread} {rs : List Thread} (h : s.Canon) : (s.snap1 kind d a l rs).Canon := by
  unfold State.snap1
  dsimp only
  split
  · exact h.raiseAll
  · split
    · exact h.snapWait
    · split
      · exact h.raiseAll
      · exact h.stallAll
      · exact .fold h fun _ _ hs => hs.waitAt
      · exact h.gmGive
      · exact h.poolPut.gmGive
      · exact h.frame.snapWait
theorem State.Canon.execSnap {hd : Hd} {d a : Reg} (h : s.Canon) : (execSnap hd d a s).Canon :=
  h.runIssue fun _ _ hs => hs.laneOrder fun _ _ _ hs => hs.snap1
theorem State.Canon.execSnapsel {hd : Hd} {d a : Reg} (h : s.Canon) : (execSnapsel hd d a s).Canon :=
  h.runIssue fun _ _ hs => hs.laneOrder fun _ _ _ hs => hs.snap1
theorem State.Canon.execSnapfree {hd : Hd} {d a : Reg} (h : s.Canon) : (execSnapfree hd d a s).Canon :=
  h.runIssue fun _ _ hs => hs.laneOrder fun _ _ _ hs => hs.snap1
theorem State.Canon.snapDone {o : SnapOp} {st : Nat} (h : s.Canon) : (s.snapDone o st).Canon :=
  .release (.fold h.frame fun _ _ hs => hs.writeRegs)
theorem State.Canon.snapPerform {o : SnapOp} {p : Pool} {size : Nat} {src dst : Checked} {err : Bool} (h : s.Canon) :
    (s.snapPerform o p size src dst err).Canon :=
  h.frame.claim.perform.snapDone.poolPut
theorem State.Canon.execSnapCopyComplete {id : Nat} {err : Bool} (h : s.Canon) : (execSnapCopyComplete id err s).Canon := by
  show State.Canon _
  split
  · exact h
  · extract_lets first drop
    split
    · exact h
    · split
      · exact h
      · split
        · exact .sweepPools (.raiseAll (.fold h.frame fun _ _ hs => hs.onThread))
        · exact h
        · exact h
        · exact h.snapDone.sweepPools
        · exact h.snapDone.poolPut
        · exact h.snapPerform
theorem State.Canon.execAcall {hd : Hd} {d a b : Reg} (h : s.Canon) : (execAcall hd d a b s).Canon :=
  h.runIssue fun _ _ hs => hs.laneOrder fun _ _ _ hs => hs.mbArrive
theorem State.Canon.callDone {m : MbOp} {st : Nat} (h : s.Canon) : (s.callDone m st).Canon := by
  unfold State.callDone
  dsimp only
  refine .rewake ?_
  split
  · exact .outSub (.fold h.frame fun _ _ hs => hs.onThread)
  · exact .fold h.frame fun _ _ hs => hs.onThread
theorem State.Canon.execAcallReply {id : Nat} (h : s.Canon) : (execAcallReply id s).Canon := by
  show State.Canon _
  split
  · exact h
  · split
    · exact h
    · split
      · exact h.callDone
      · extract_lets s1 r first
        split
        case h_5 | h_6 | h_7 => exact h.callDone
        all_goals
          split
          · exact h.spoilRing.callDone.frame
          · split
            · exact h.spoilRing.callDone
            · split
              · exact h.spoilRing.ringPut.callDone
              · exact h.spoilRing

/-! ### Placement and pre-emption -/
/-- Free storage that a company takes leaves what is left canonical. -/
theorem Core.wf_taken {k : Core} (hk : Memory.wf k.spare (inRanges k.known) = true) (x n : Nat) :
    Memory.wf (k.taken x n).spare (inRanges (k.taken x n).known) = true :=
  Memory.wfFrom_zero (Memory.wfFrom_filter hk _) fun _ _ hz => inRanges_cutRange hz
theorem Core.wf_give {k : Core} (hk : Memory.wf k.spare (inRanges k.known) = true) (r : Room) (c : Company) :
    Memory.wf (k.give r c).spare (inRanges (k.give r c).known) = true :=
  Core.wf_taken (Core.wf_taken (List.foldlRecOn (motive := fun k : Core => Memory.wf k.spare (inRanges k.known) = true) _ _ hk
    fun _ hk i _ => Core.wf_taken hk (i * 8192) 8192) _ _) _ _
/-- A mailbox control word that a company may take is no part of the free storage. -/
theorem Core.storage_of_exports (k : Core) (free : Option Nat) (e : Nat → Nat × Nat × Nat) :
    let k' : Core := match free with
      | some i => { k with exports := k.exports ++ [e i] }
      | none => k
    k'.spare = k.spare ∧ k'.known = k.known := by
  cases free <;> exact ⟨rfl, rfl⟩
theorem State.Canon.install {cid core : Nat} {r : Room} {first : Bool} (h : s.Canon) : (s.install cid core r first).Canon := by
  unfold State.install
  dsimp only
  split
  · next c _ =>
    split
    · next num _ =>
      exact .onCore (.updCore h.onCompany.frame _ fun hk => Core.wf_give hk r c) fun k =>
        k.storage_of_exports _ fun i => (i, num, r.scrP + c.exportHdr)
    · exact .updCore h.onCompany.frame _ fun hk => Core.wf_give hk r c
  · exact h.onCompany.frame
/-- Companies put in the place of others, with scratchpads in canonical form. -/
theorem State.Canon.onCompanies {th tr cs ba op mb cm la ld po sn de tv rg tl wi st dg mk li is rv bd ag fr ni} (h : s.Canon)
    (hc : ∀ c ∈ cs, Memory.wf c.scratch = true) :
    (State.mk th tr cs ba op mb cm la ld po sn s.cores de tv rg s.parts tl wi st dg s.mem mk li is rv bd ag fr ni).Canon :=
  ⟨h.1, hc, h.2.2⟩
theorem State.Canon.placeStart {b : Start} {core : Nat} (h : s.Canon) : ∀ r ∈ s.placeStart b core, r.Canon := by
  unfold State.placeStart
  split
  · nofun
  · rintro r ⟨⟩
    refine .install (h.onCompanies fun c hc => ?_)
    rcases List.mem_append.mp hc with hc | hc
    · exact h.2.1 c hc
    · rw [List.mem_singleton.mp hc]; rfl
theorem State.Canon.dropExport {c : Company} (h : s.Canon) : (s.dropExport c).Canon := by
  unfold State.dropExport
  split
  · exact h.onCore
  · exact h
theorem State.Canon.deactivate {cid : Nat} (h : s.Canon) : (s.deactivate cid).Canon :=
  h.frame
theorem State.Canon.flush {c : Company} (h : s.Canon) : (s.flush c).Canon :=
  .updCompany (.updThreads (.deactivate (.dropExport (.frame (.fold (.fold h fun _ _ hs => hs.outSub) fun _ _ hs => hs.outSub))))) _
    fun _ _ => rfl
theorem State.Canon.preempt {c : Company} (h : s.Canon) : (s.preempt c).Canon := by
  unfold State.preempt
  split
  · exact h.onCompany
  · dsimp only
    split
    · exact h.cancelEngines.flush
    · exact h.cancelEngines.onCompany
  · exact h.onCompany
theorem State.Canon.save {c : Company} (h : s.Canon) : (s.save c).Canon :=
  h.frame.dropExport.deactivate.onCompany.wakeTender

/-! ### Launch queues and residency -/
theorem State.Canon.takeAsync {t : Thread} {a : Async} (h : s.Canon) : (s.takeAsync t a).Canon := by
  unfold State.takeAsync
  dsimp only
  split
  · split
    · exact h.onThread.deferTrap.cmdReturn
    · exact h.onThread.deferTrap
  · exact h.onThread.takeTrap
theorem State.Canon.execAsyncTrapTake {cid tid : Nat} (h : s.Canon) : (execAsyncTrapTake cid tid s).Canon := by
  show State.Canon _
  split
  · split
    · exact .ite (fun _ => h.takeAsync) fun _ => h
    · exact h
  · exact h
theorem State.Canon.execCompanyRelease {cid : Nat} (h : s.Canon) : (execCompanyRelease cid s).Canon := by
  show State.Canon _
  split
  · exact h
  · split
    · exact .updCompany h.dropExport.onLaunch.frame _ fun _ _ => rfl
    · exact h
theorem State.Canon.execDoorbell {part q : Nat} (h : s.Canon) : (execDoorbell part q s).Canon :=
  State.Canon.ite (fun _ => h.onPart.produce) fun _ => h
theorem State.Canon.finish {l : Launch} {status : Nat} (h : s.Canon) : (s.finish l status).Canon := by
  unfold State.finish
  dsimp only
  split
  · split
    · exact h.claim.perform.perform
    · exact h.claim.perform
  · exact .ite (fun _ => h.perform) fun _ => h
theorem State.Canon.takeRecord {part q : Nat} {d : Queue} {va : DWord} {b : List Byte} (h : s.Canon) :
    (s.takeRecord part q d va b).Canon := by
  unfold State.takeRecord
  dsimp only
  split
  · exact h.setQueue.finish
  · exact h.frame
theorem State.Canon.skipRecord {part q : Nat} {d : Queue} (h : s.Canon) : (s.skipRecord part q d).Canon :=
  h.setQueue.setQueue
theorem State.Canon.execQueueServe {part q : Nat} (h : s.Canon) : (execQueueServe part q s).Canon := by
  show State.Canon _
  split
  · exact h
  · split
    · exact h
    · split
      · exact h.onPart
      · split
        · exact h.skipRecord
        · dsimp only
          split
          · exact h
          · split
            · exact h.skipRecord
            · split
              · exact h.skipRecord
              · exact .ite (fun _ => h) fun _ => h.takeRecord
/-- A step of a placement keeps storage canonical. -/
theorem times_canon {f : State × Nat → Option (State × Nat)} (hf : ∀ x, x.1.Canon → ∀ r ∈ f x, r.1.Canon) {n : Nat} {x : State × Nat}
    (hx : x.1.Canon) : ∀ r ∈ times n f x, r.1.Canon := by
  induction n generalizing x with
  | zero => rintro r ⟨⟩; exact hx
  | succ n ih =>
    unfold times
    split
    · exact ih (hf x hx _ ‹_›)
    · nofun
theorem placeTree_canon {mk : Nat → Start} {vs : List Level} {cores : List Nat} {x : State × Nat} (hx : x.1.Canon) :
    ∀ r ∈ placeTree mk vs cores x, r.1.Canon := by
  induction vs generalizing cores x with
  | nil =>
    intro r hr
    obtain ⟨c, -, hc⟩ := List.exists_of_findSome?_eq_some hr
    obtain ⟨s', hs', rfl⟩ := Option.map_eq_some_iff.mp hc
    exact hx.placeStart s' hs'
  | cons v vs ih =>
    intro r hr
    obtain ⟨d, -, hd⟩ := List.exists_of_findSome?_eq_some hr
    exact times_canon (fun y hy => ih hy) hx r hd
theorem State.Canon.unitPlaced {l : Launch} (h : s.Canon) : (s.unitPlaced l).Canon :=
  .ite (fun _ => h.onLaunch.setQueue) fun _ => h.onLaunch
theorem State.Canon.queueTurn {part q prio : Nat} (h : s.Canon) {r : State} (e : s.queueTurn part q prio = .placed r) : r.Canon := by
  unfold State.queueTurn at e
  split at e
  · cases e
  · dsimp only at e
    split at e
    · cases e
      exact State.Canon.unitPlaced (placeTree_canon h _ ‹_›)
    · cases e
theorem State.Canon.packTurn {part prio : Nat} (h : s.Canon) {r : State} (e : s.packTurn part prio = .placed r) : r.Canon := by
  unfold State.packTurn at e
  split at e
  · cases e
  · split at e
    · dsimp only at e
      split at e
      · next hf =>
        cases e
        obtain ⟨c, -, hc⟩ := List.exists_of_findSome?_eq_some hf
        exact (h.placeStart _ hc).updLadder
      · cases e
    · cases e
theorem State.Canon.turn {part prio q : Nat} (h : s.Canon) {r : State} (e : s.turn part prio q = .placed r) : r.Canon := by
  unfold State.turn at e
  split at e
  · exact h.queueTurn e
  · exact h.packTurn e
theorem State.Canon.makeRoom {prio : Nat} {cores : List Nat} (h : s.Canon) : ∀ r ∈ s.makeRoom prio cores, r.Canon := by
  unfold State.makeRoom
  dsimp only
  split
  · nofun
  · split
    · rintro r ⟨⟩; exact h
    · intro r hr
      obtain ⟨c, -, rfl⟩ := Option.map_eq_some_iff.mp hr
      exact h.preempt
theorem State.Canon.serveQueues {part prio : Nat} {qs : List Nat} (h : s.Canon) : ∀ r ∈ s.serveQueues part prio qs, r.Canon := by
  induction qs with
  | nil => nofun
  | cons q qs ih =>
    unfold State.serveQueues
    split
    · exact ih
    · rintro r ⟨⟩; exact (h.turn ‹_›).onPart
    · split
      · rintro r ⟨⟩; exact h.makeRoom _ ‹_›
      · exact ih
theorem State.Canon.serve {part : Nat} {ps : List Nat} (h : s.Canon) : (s.serve part ps).Canon := by
  induction ps with
  | nil => exact h
  | cons p ps ih =>
    unfold State.serve
    split
    · exact h.serveQueues _ ‹_›
    · exact ih
theorem State.Canon.execPlaceUnit {part : Nat} (h : s.Canon) : (execPlaceUnit part s).Canon :=
  State.Canon.ite (fun _ => h.serve) fun _ => h
theorem State.Canon.execLaunchComplete {lid : Nat} (h : s.Canon) : (execLaunchComplete lid s).Canon := by
  show State.Canon _
  split
  · exact h
  · split
    · have hf := h.finish (l := ‹Launch›) (status := ‹Launch›.status)
      exact hf.onCompanies fun c hc => hf.2.1 c (List.mem_filter.mp hc).1
    · exact h
theorem State.Canon.execTimeSliceExpire {cid now : Nat} (h : s.Canon) : (execTimeSliceExpire cid now s).Canon := by
  show State.Canon _
  split
  · exact h
  · exact .ite (fun _ => h.advance.preempt) fun _ => h
theorem State.Canon.execDrainTimeout {cid now : Nat} (h : s.Canon) : (execDrainTimeout cid now s).Canon := by
  show State.Canon _
  split
  · exact h
  · split
    · exact .ite (fun _ => h.advance.onCompany) fun _ => h
    · exact h
theorem State.Canon.execSaveComplete {cid cycles : Nat} (h : s.Canon) : (execSaveComplete cid cycles s).Canon := by
  show State.Canon _
  split
  · exact h
  · split
    · exact .ite (fun _ => h.save.onCore) fun _ => h
    · exact .ite (fun _ => h.flush) fun _ => h
    · exact h
theorem State.Canon.putRecords {t : Thread} (h : s.Canon) : (s.putRecords t).Canon := by
  unfold State.putRecords
  dsimp only
  refine .fold h fun s a hs => ?_
  split
  · exact hs
  · split
    · exact hs.claim.perform
    · exact hs.terminate
theorem State.Canon.moveCounts {c : Company} {core : Nat} (h : s.Canon) : (s.moveCounts c core).Canon :=
  h.onCore.onCore
theorem State.Canon.resume {c : Company} {core : Nat} {r : Room} (h : s.Canon) : (s.resume c core r).Canon := by
  unfold State.resume
  dsimp only
  split
  · exact h.moveCounts.install.frame
  · exact .fold (.fold h.moveCounts.install.frame fun _ _ hs => hs.putRecords) fun _ _ hs => hs.maskTests
theorem State.Canon.restart {c : Company} {core : Nat} {r : Room} (h : s.Canon) : (s.restart c core r).Canon := by
  unfold State.restart
  split
  · exact h
  · dsimp only
    split
    · exact h.updThreads
    · refine .install (State.Canon.onCompanies h.moveCounts fun d hd => ?_)
      obtain ⟨e, he, rfl⟩ := List.mem_map.mp hd
      split
      · rfl
      · exact h.2.1 e he
theorem State.Canon.execCompanyResume {cid cycles : Nat} (h : s.Canon) : (execCompanyResume cid cycles s).Canon := by
  show State.Canon _
  split
  · exact h
  · split
    · split
      · exact h
      · dsimp only
        split
        · exact h.restart
        · exact .ite (fun _ => h) fun _ => h.resume.onCore
    · exact h

/-! ### Issue opportunities -/
theorem State.Canon.moveTroupe {u : Troupe} {active : Bool} {opps : Nat} (h : s.Canon) : (s.moveTroupe u active opps).Canon :=
  h.onTroupe
theorem State.Canon.moveActive {core : Nat} (h : s.Canon) : (s.moveActive core).Canon := by
  unfold State.moveActive
  dsimp only
  split
  · exact h
  · split
    · exact h.moveTroupe
    · split
      · exact h.moveTroupe.moveTroupe
      · split
        · exact .ite (fun _ => h.moveTroupe.moveTroupe) fun _ => h
        · exact h
theorem State.Canon.park {c : Cohort} {w : Option Wait} (h : s.Canon) : (s.park c w).Canon := by
  unfold State.park
  split
  · exact h.updThreads
  · exact h
theorem State.Canon.parkHeld {core : Nat} (h : s.Canon) : (s.parkHeld core).Canon :=
  .fold (.fold h fun _ _ hs => hs.park) fun _ _ hs => hs.park
theorem State.Canon.tick {core : Nat} (h : s.Canon) : (s.tick core).Canon :=
  .onCore (.ite (fun _ => h) fun _ => h.sample)
theorem State.Canon.ticks {core n : Nat} (h : s.Canon) : (s.ticks core n).Canon := by
  induction n generalizing s with
  | zero => exact h
  | succ n ih => exact ih h.tick
theorem State.Canon.wakeMig (h : s.Canon) : (s.wakeMig).Canon :=
  .ite (fun _ => h.release) fun _ => h
theorem State.Canon.settlePaths {core : Nat} (h : s.Canon) : (s.settlePaths core).Canon :=
  h.onCore
theorem State.Canon.issueGroup {core pipe : Nat} {x : Spot} {ts : List Thread} (h : s.Canon) : (s.issueGroup core pipe x ts).Canon := by
  refine .frame (.updCore h.updThreads _ fun hk => ?_)
  split <;> exact hk
theorem State.Canon.endCycle {core pipe : Nat} (h : s.Canon) : (s.endCycle core pipe).Canon :=
  .ite (fun _ => h) fun _ => h.onCore
theorem State.Canon.execIssueOpportunity {core pipe cycles : Nat} (h : s.Canon) : (execIssueOpportunity core pipe cycles s).Canon := by
  have settled : ((if pipe == 0 then s.ticks core (max 1 cycles) else s).settlePaths core).Canon :=
    .settlePaths (.ite (fun _ => h.ticks) fun _ => h)
  show State.Canon _
  split
  · exact h
  · extract_lets s1 k s2 m cs
    split
    · exact settled
    · split
      · exact settled
      · split
        · exact settled
        · split
          · exact settled.wakeMig.parkHeld.moveActive.endCycle
          · exact settled.wakeMig.parkHeld.moveActive.endCycle.issueGroup

/-! ### The host -/
theorem State.Canon.endCommand {status : Nat} (h : s.Canon) : (s.endCommand status).Canon :=
  h.frame
theorem State.Canon.openWindow {op part : Nat} {arg : DWord} {n : Nat} (h : s.Canon) : (s.openWindow op part arg n).Canon :=
  h.frame
theorem State.Canon.hostCommand {op n part : Nat} {arg : DWord} {go : Bool → State → State} (h : s.Canon)
    (hg : ∀ b s, s.Canon → (go b s).Canon) : (s.hostCommand op n part arg go).Canon := by
  unfold State.hostCommand
  dsimp only
  split
  · split
    · exact hg _ _ h
    · exact h
  · split
    · exact h.openWindow.endCommand
    · split
      · exact h.openWindow.endCommand
      · exact hg _ _ h.openWindow
theorem State.Canon.setPte {a e : Nat} (h : s.Canon) : (s.setPte a e).Canon :=
  h.perform
theorem State.Canon.setTable {a : Nat} {es : List Nat} (h : s.Canon) : (s.setTable a es).Canon :=
  .fold h fun _ _ hs => hs.setPte
theorem State.Canon.split2m {at_ e k : Nat} (h : s.Canon) : (s.split2m at_ e k).Canon :=
  h.setTable.setPte
theorem State.Canon.splitPage {l : Leaf} (h : s.Canon) : (s.splitPage l).Canon := by
  unfold State.splitPage
  dsimp only
  split
  · exact h.frame.setTable
  · split
    · exact h.frame.split2m
    · split
      · exact .fold h.frame.setTable.setPte fun _ _ hs => hs.split2m
      · exact h.frame
theorem State.Canon.splitFor {part f : Nat} (h : s.Canon) : (s.splitFor part f).Canon :=
  .fold h fun _ _ hs => hs.splitPage
theorem State.Canon.setLeaves {part f : Nat} {g : Nat → Nat} (h : s.Canon) : (s.setLeaves part f g).Canon :=
  .fold h fun _ _ hs => hs.setPte.invalidate
theorem State.Canon.markFrame {part f to_ : Nat} {spill : Bool} (h : s.Canon) : (s.markFrame part f to_ spill).Canon := by
  unfold State.markFrame
  exact h.splitFor.setLeaves.onPart
theorem State.Canon.forget {p : Nat → Bool} (h : s.Canon) : (s.forget p).Canon :=
  h.frame
theorem State.Canon.copyMarks {from_ to_ : Nat} (h : s.Canon) : (s.copyMarks from_ to_).Canon :=
  h.forget.frame
theorem State.Canon.movePools {from_ to_ : Nat} (h : s.Canon) : (s.movePools from_ to_).Canon :=
  h.frame
theorem State.Canon.moveFrame {part : Nat} {m : Nat × Nat × Bool} (h : s.Canon) : (s.moveFrame part m).Canon := by
  unfold State.moveFrame
  exact h.copyMarks.movePools.perform.setLeaves.onPart.wakeMig
theorem State.Canon.moveFrames {part : Nat} (h : s.Canon) : (s.moveFrames part).Canon :=
  .fold h fun _ _ hs => hs.moveFrame
theorem State.Canon.markFrames {part : Nat} {place : State → Option (Nat × Bool)} {fs : List Nat} (h : s.Canon) :
    (s.markFrames part place fs).Canon := by
  induction fs generalizing s with
  | nil => exact h
  | cons f fs ih =>
    unfold State.markFrames
    split
    · exact ih h.markFrame
    · exact ih h.splitFor.setLeaves
theorem State.Canon.execPageMigrate {part asid : Nat} {va : DWord} (h : s.Canon) : (execPageMigrate part asid va s).Canon := by
  show State.Canon _
  split
  · exact h
  · extract_lets s1 p
    split
    · exact h.moveFrames
    · extract_lets f hot
      split
      · split
        · exact h.moveFrames.markFrame
        · exact h.moveFrames
      · exact h.moveFrames
theorem State.Canon.moveGo {part : Nat} {first : Bool} (h : s.Canon) : (State.moveGo part first s).Canon := by
  unfold State.moveGo
  dsimp only
  split
  · split
    · exact h.endCommand
    · split
      · exact h.endCommand
      · split
        · exact h.markFrames.endCommand
        · exact h.markFrames
  · split
    · exact h.moveFrames.endCommand
    · exact h.moveFrames
theorem State.Canon.execMove {part : Nat} {arg : DWord} (h : s.Canon) : (execMove part arg s).Canon :=
  h.hostCommand fun _ _ hs => hs.moveGo
/-- Cores changed one by one, each with its free storage kept canonical. -/
theorem State.Canon.onCores {th tr ba op mb cm la ld po sn de tv rg tl wi st dg mk li is rv bd ag fr ni} {f : Nat → Core → Core}
    (h : s.Canon) (hf : ∀ i k, Memory.wf k.spare (inRanges k.known) = true → Memory.wf (f i k).spare (inRanges (f i k).known) = true) :
    (State.mk th tr s.companies ba op mb cm la ld po sn (vmapIdx f s.cores) de tv rg s.parts tl wi st dg s.mem mk li is rv bd ag fr
      ni).Canon := by
  refine ⟨h.1, h.2.1, h.2.2.1, fun k hk => ?_⟩
  obtain ⟨i, hi, rfl⟩ := List.mem_mapIdx.mp hk
  exact hf _ _ (h.2.2.2 _ (List.getElem_mem hi))
theorem State.Canon.veil {decks : List Nat} (h : s.Canon) : (s.veil decks).Canon := h.onMem (Memory.wfFrom_filter h.1 _)
theorem State.Canon.washDecks {decks : List Nat} (h : s.Canon) : (s.washDecks decks).Canon := by
  refine h.veil.onCores fun i k hk => ?_
  split
  · rfl
  · exact hk
theorem State.Canon.quiesce (h : s.Canon) : (s.quiesce).Canon :=
  .fold h fun _ _ hs => hs.preempt
theorem State.Canon.stamp (h : s.Canon) : (s.stamp).Canon := by
  unfold State.stamp
  split
  · exact h.frame
  · exact h
theorem inRanges_append (rs rs' : List (Nat × Nat)) (a : Nat) : inRanges (rs ++ rs') a = (inRanges rs a || inRanges rs' a) :=
  List.any_append
theorem inRanges_of_keepRanges {ws rs : List (Nat × Nat)} {a : Nat} (h : inRanges (keepRanges ws rs) a = true) : inRanges rs a = true := by
  simp only [inRanges, List.any_eq_true, Bool.and_eq_true, decide_eq_true_eq, keepRanges, List.mem_flatMap, List.mem_filterMap] at h ⊢
  obtain ⟨x, ⟨w, -, r, hr, hx⟩, h1, h2⟩ := h
  refine ⟨r, hr, ?_⟩
  split at hx <;> simp only [Option.some.injEq, reduceCtorEq] at hx
  subst hx
  simp only at h1 h2
  omega
/-- A new block keeps the sync variables canonical: what it washes it also drops from the list. -/
theorem Part.wf_define {p : Part} (hp : Memory.wf p.sync (inRanges p.zeroed) = true) (b : List Byte) :
    Memory.wf (p.define b).sync (inRanges (p.define b).zeroed) = true := by
  refine Memory.wfFrom_zero (Memory.wfFrom_filter hp _) fun c hc hz => ?_
  have hkept := (List.mem_filter.mp hc).2
  simp only [Bool.and_eq_true, Bool.not_eq_true'] at hkept
  rcases Bool.or_eq_true_iff.mp ((inRanges_append _ _ _).symm.trans hz) with hz | hz
  · exact inRanges_of_keepRanges hz
  · exact absurd hz (by rw [hkept.2]; exact Bool.false_ne_true)
theorem State.Canon.installPart {part : Nat} {b : List Byte} (h : s.Canon) : (s.installPart part b).Canon :=
  .endCommand (.invalidate (.washDecks (h.updPart _ fun hp => Part.wf_define hp b)))
theorem State.Canon.partitionGo {part : Nat} {first : Bool} (h : s.Canon) : (State.partitionGo part first s).Canon := by
  unfold State.partitionGo
  dsimp only
  split
  · exact h.endCommand
  · split
    · exact h.endCommand
    · split
      · split
        · exact h.stamp.quiesce
        · split
          · exact h.stamp.quiesce.endCommand
          · split
            · exact h.stamp.quiesce.frame.markFrames
            · split
              · split
                · split
                  · exact h.stamp.quiesce
                  · exact h.stamp.quiesce.installPart
                · split
                  · exact h.stamp.quiesce.moveFrames
                  · exact h.stamp.quiesce.moveFrames.installPart
              · split
                · split
                  · exact h.stamp.quiesce
                  · exact h.stamp.quiesce.installPart
                · split
                  · exact h.stamp.quiesce.moveFrames
                  · exact h.stamp.quiesce.moveFrames.installPart
      · split
        · exact h.quiesce
        · split
          · exact h.quiesce.endCommand
          · split
            · exact h.quiesce.frame.markFrames
            · split
              · split
                · exact .ite (fun _ => h.quiesce) fun _ => h.quiesce.installPart
                · split
                  · exact h.quiesce.moveFrames
                  · exact h.quiesce.moveFrames.installPart
              · split
                · exact .ite (fun _ => h.quiesce) fun _ => h.quiesce.installPart
                · split
                  · exact h.quiesce.moveFrames
                  · exact h.quiesce.moveFrames.installPart
theorem State.Canon.execPartition {part : Nat} {arg : DWord} (h : s.Canon) : (execPartition part arg s).Canon :=
  h.hostCommand fun _ _ hs => hs.partitionGo
theorem State.Canon.roleGo {part : Nat} {first : Bool} (h : s.Canon) : (State.roleGo part first s).Canon := by
  unfold State.roleGo
  dsimp only
  split
  · exact h.endCommand
  · split
    · exact h.endCommand
    · split
      · split
        · exact h.stamp.quiesce
        · exact h.stamp.quiesce.onPart.invalidate.endCommand
      · split
        · exact h.quiesce
        · exact h.quiesce.onPart.invalidate.endCommand
theorem State.Canon.execRole {part : Nat} {arg : DWord} (h : s.Canon) : (execRole part arg s).Canon :=
  h.hostCommand fun _ _ hs => hs.roleGo
theorem State.Canon.execRoleChangeTimeout {now : Nat} (h : s.Canon) : (execRoleChangeTimeout now s).Canon := by
  show State.Canon _
  split
  · exact h
  · exact .ite (fun _ => h.onDeck.endCommand) fun _ => h
theorem State.Canon.schedGo {part : Nat} (h : s.Canon) : (State.schedGo part s).Canon := by
  unfold State.schedGo
  split
  · exact h.onPart.endCommand
  · exact h.endCommand
theorem State.Canon.execSched {part : Nat} {arg : DWord} (h : s.Canon) : (execSched part arg s).Canon :=
  h.hostCommand fun _ _ hs => hs.schedGo
theorem State.Canon.fabricGo {part : Nat} (h : s.Canon) : (State.fabricGo part s).Canon :=
  .ite (fun _ => h.endCommand) fun _ => h.onPart.endCommand
theorem State.Canon.execFabric {part : Nat} {arg : DWord} (h : s.Canon) : (execFabric part arg s).Canon :=
  h.hostCommand fun _ _ hs => hs.fabricGo
theorem State.Canon.keyGo {part : Nat} (h : s.Canon) : (State.keyGo part s).Canon :=
  .ite (fun _ => h.onPart.endCommand) fun _ => h.endCommand
theorem State.Canon.execKey {part : Nat} {arg : DWord} (h : s.Canon) : (execKey part arg s).Canon :=
  h.hostCommand fun _ _ hs => hs.keyGo
theorem State.Canon.execUnknownCommand {op : Word} {part : Nat} {arg : DWord} (h : s.Canon) :
    (execUnknownCommand op part arg s).Canon :=
  State.Canon.ite (fun _ => h) fun _ => h.hostCommand fun _ _ hs => hs.endCommand
theorem State.Canon.bookPause (h : s.Canon) : (s.bookPause).Canon :=
  h.frame
theorem State.Canon.unhalt {t : Thread} (h : s.Canon) : (s.unhalt t).Canon := by
  unfold State.unhalt
  split
  · exact h.trapReturn
  · exact h.onThread
theorem State.Canon.lateArrival {t : Thread} (h : s.Canon) : (s.lateArrival t).Canon := by
  unfold State.lateArrival
  split
  · exact h
  · split
    · exact .ite (fun _ => h.barEnter.barArrive.barTest) fun _ => h
    · exact .ite (fun _ => h.barEnter.barArrive.barTest) fun _ => h
    · exact h
theorem State.Canon.resumeHalted {core : Nat} (h : s.Canon) : (s.resumeHalted core).Canon := by
  unfold State.resumeHalted
  dsimp only
  refine .fold (.fold (.release (.fold h.bookPause fun _ _ hs => hs.unhalt)) fun _ _ hs => hs.lateArrival) fun _ _ hs => hs.holdTest
theorem State.Canon.resumeGo {part : Nat} (h : s.Canon) : (State.resumeGo part s).Canon := by
  unfold State.resumeGo
  dsimp only
  split
  · exact .ite (fun _ => h) fun _ => h.resumeHalted.endCommand
  · exact h.endCommand
theorem State.Canon.execResume {part : Nat} {arg : DWord} (h : s.Canon) : (execResume part arg s).Canon :=
  h.hostCommand fun _ _ hs => hs.resumeGo
theorem State.Canon.attestGo {part : Nat} (h : s.Canon) : (State.attestGo part s).Canon :=
  .ite (fun _ => h.endCommand) fun _ => h.perform.endCommand
theorem State.Canon.execAttest {part : Nat} {arg : DWord} (h : s.Canon) : (execAttest part arg s).Canon :=
  h.hostCommand fun _ _ hs => hs.attestGo
theorem State.Canon.setAllow {pier : Nat} (h : s.Canon) : (s.setAllow pier).Canon := by
  refine h.onCores fun i k hk => ?_
  split <;> exact hk
theorem State.Canon.execThermalSample {deck : Nat} {reading : Nat} (h : s.Canon) : (execThermalSample deck reading s).Canon :=
  State.Canon.ite (fun _ => h) fun _ => .fold h.onDeck.setAllow fun _ _ hs => hs.sample
theorem Core.limit_storage (k : Core) (current limit : Nat) :
    (k.limit current limit).spare = k.spare ∧ (k.limit current limit).known = k.known := by
  unfold Core.limit
  split
  · exact ⟨rfl, rfl⟩
  · split
    · exact ⟨rfl, rfl⟩
    · split <;> exact ⟨rfl, rfl⟩
theorem State.Canon.execRegulatorSample {reg current limit : Nat} (h : s.Canon) : (execRegulatorSample reg current limit s).Canon := by
  refine State.Canon.ite (fun _ => h) fun _ => .fold (h.onCores fun i k hk => ?_) fun _ _ hs => hs.sample
  split
  · obtain ⟨hs, hz⟩ := k.limit_storage current limit
    rw [hs, hz]
    exact hk
  · exact hk
theorem State.Canon.execPowerOn {fenced gddr : Nat} {ports : Nat} {cause : Nat} (h : s.Canon) :
    (execPowerOn fenced gddr ports cause s).Canon :=
  State.Canon.ite (fun _ => h) fun _ => h.frame
theorem State.Canon.execDiagnosticMailboxRequest {_word : Word} (h : s.Canon) : (execDiagnosticMailboxRequest _word s).Canon :=
  h.frame
theorem State.Canon.goCommand (h : s.Canon) : (s.goCommand).Canon := by
  unfold State.goCommand
  dsimp only
  split
  · exact h.execPartition
  · exact h.execRole
  · exact h.execSched
  · exact h.execFabric
  · exact h.execKey
  · exact h.execResume
  · exact h.execAttest
  · exact h.execMove
  · exact h.execUnknownCommand
theorem State.Canon.bar0Write {off : Nat} {bs : List Byte} (h : s.Canon) : (s.bar0Write off bs).Canon := by
  unfold State.bar0Write
  split
  · exact h.execDiagnosticMailboxRequest
  · split
    · exact h.frame
    · split
      · exact h.goCommand
      · split
        · exact h.execDoorbell
        · exact h
theorem State.Canon.execHostAccess {addr : Nat} {store : List Byte} (h : s.Canon) : (execHostAccess addr store s).Canon := by
  unfold Machine.execHostAccess
  split
  · split
    · exact h
    · generalize addr - Config.bar0Base = off
      exact h.bar0Write
  · show State.Canon _
    split
    · exact h.perform
    · exact h
theorem State.Canon.execPortFailure {port : Nat} (h : s.Canon) : (execPortFailure port s).Canon := by
  show State.Canon _
  split
  · exact h
  · dsimp only
    refine .fold h.frame fun s a hs => ?_
    split
    · exact .ite (fun _ => hs.collDo) fun _ => hs.rflushDo
    · exact hs

/-! ### Every instruction -/
/-- Every instruction and event keeps storage canonical. -/
theorem State.Canon.exec (h : s.Canon) (i : Instr) : Out.Canon (exec i s) := by
  cases i with
  | iadd | isub | imin | imax | umin | umax | and | or | xor | andn | orn | shl | shr | sar | rol | ror | lea | imul | imulh | umulh
    | bfe | ubfe | iaddc | isubb | icmp | isel | movi | lui | fcmp | dabs | dneg | dcmp | cvt | gen | plop | pmovToReg | pmovToPred
    | gets | nop | mov16 | movi16 | isel16 | ineg | iabs | not | mov | popc | clz | ctz | brev | fabs | fneg | fclass | rndf | iaddImm
    | andImm | orImm | xorImm | shlImm | shrImm | sarImm | rolImm | imad | bfi | bmix | dp4 | dp8 | fadd | fsub | fmul | fdiv | fmin
    | fmax | ffma | fsqrt | fscale | scx | hdp2F16 | hdp2Bf16 | gumbel | dfma | dsqrt | dadd | dsub | dmul | ddiv | dmin | dmax | frcp
    | frsq | fex2 | flg2 | fsin | fcos | ftanh | hadd2 | hsub2 | hmul2 | hfma2 | hmin2 | hmax2 | hcmp2Eq | hcmp2Lt | hcmp2Le | hcmp2Un
    | q8 | q4 | dq8 | dq4 | q8Cs | q4Cs | fdp4E4m3 | fdp4E5m2 | fdp8 | iadd16 | isub16 | and16 | or16 | xor16 | shl16 | shr16 | imul16
    | fadd16 | fmul16 | ffma16 | fmin16 | fmax16 =>
    show State.Canon _
    exact h.laneOp
  | bfx | lget | pollCnt | pollRank | pollMask | pollSame | redx | scanx => exact h.crossOp
  | grd => exact h.execGrd
  | sets => exact h.execSets
  | ld => exact h.execLd
  | ldt => exact h.execLdt
  | st => exact h.execSt
  | ldp => exact h.execLdp
  | stp => exact h.execStp
  | ldacq => exact h.execLdacq
  | strel => exact h.execStrel
  | cctlWb | cctlWbinv | cctlPf1 | cctlPf2 => exact h.hint
  | cctlZero => exact h.execCctlZero
  | cctlIinv => exact h.execCctlIinv
  | fence => exact h.execFence
  | aliasf => exact h.execAliasf
  | evs => exact h.execEvs
  | atom | red => exact h.atomic
  | sadd | sbadd | sincw | scas | sexch | smin | smax => exact h.syncOp
  | waita => exact h.execWaita
  | mon => exact h.execMon
  | mwait => exact h.execMwait
  | mbput => exact h.execMbput
  | mbget => exact h.execMbget
  | pladd => exact h.execPladd
  | mma => exact h.execMma
  | mmae => exact h.execMmae
  | mloop => exact h.execMloop
  | mzero => exact h.execMzero
  | mload => exact h.execMload
  | mdrain => exact h.execMdrain
  | mstat => exact h.execMstat
  | dexp | dsplit => exact h.demuOp
  | dmerge => exact h.execDmerge
  | tcopy | tcopy2 | tgath | tscat | tfill | tnote | tcoll | rflush => exact h.command
  | twait => exact h.execTwait
  | bra => exact h.execBra
  | call => exact h.execCall
  | btab => exact h.execBtab
  | ret => exact h.execRet
  | exit => exact h.execExit
  | join => exact h.execJoin
  | leave => exact h.execLeave
  | waitk => exact h.execWaitk
  | ksave => exact h.execKsave
  | kload => exact h.execKload
  | barArrive => exact h.execBarArrive
  | barWait => exact h.execBarWait
  | barSync => exact h.execBarSync
  | sysr => exact h.execSysr
  | sysw => exact h.execSysw
  | trap => exact h.execTrap
  | brk => exact h.execBrk
  | rte => exact h.execRte
  | yield => exact h.execYield
  | prog => exact h.execProg
  | launch => exact h.execLaunch
  | tlbinv => exact h.execTlbinv
  | rxbegin => exact h.execRxbegin
  | rxprev => exact h.execRxprev
  | rxput => exact h.execRxput
  | rxend => exact h.execRxend
  | rxstat => exact h.execRxstat
  | lpost => exact h.execLpost
  | esc => exact h.execEsc
  | lres => exact h.execLres
  | lstat => exact h.execLstat
  | gmload => exact h.execGmload
  | gmstep => exact h.execGmstep
  | gmmask => exact h.execGmmask
  | gmforce => exact h.execGmforce
  | snap => exact h.execSnap
  | snapsel => exact h.execSnapsel
  | snapfree => exact h.execSnapfree
  | acall => exact h.execAcall
  | poolGuard => exact h.execPoolGuard
  | issueOpportunity => exact h.execIssueOpportunity
  | hostAccess => exact h.execHostAccess
  | doorbell => exact h.execDoorbell
  | powerOn => exact h.execPowerOn
  | partition => exact h.execPartition
  | role => exact h.execRole
  | sched => exact h.execSched
  | fabric => exact h.execFabric
  | key => exact h.execKey
  | resume => exact h.execResume
  | attest => exact h.execAttest
  | move => exact h.execMove
  | unknownCommand => exact h.execUnknownCommand
  | diagnosticMailboxRequest => exact h.frame
  | portFailure => exact h.execPortFailure
  | thermalSample => exact h.execThermalSample
  | regulatorSample => exact h.execRegulatorSample
  | pageMigrate => exact h.execPageMigrate
  | yieldExpiry => exact h.execYieldExpiry
  | loadDataArrive => exact h.execLoadDataArrive
  | kloadDataArrive => exact h.execKloadDataArrive
  | storePerform => exact h.execStorePerform
  | atomResultReturn => exact h.execAtomResultReturn
  | redDataerrDeferred => exact h.execRedDataerrDeferred
  | syncReply => exact h.execSyncReply
  | acallReply => exact h.execAcallReply
  | contributionEnter => exact h.execContributionEnter
  | waitaWake => exact h.execWaitaWake
  | waitaTimeout => exact h.execWaitaTimeout
  | mwaitWake => exact h.execMwaitWake
  | mwaitTimeout => exact h.execMwaitTimeout
  | mbputServe => exact h.execMbputServe
  | mbgetServe => exact h.execMbgetServe
  | tenderUnit => exact h.execTenderUnit
  | tenderComplete => exact h.execTenderComplete
  | tcollComplete => exact h.execTcollComplete
  | rflushEpochComplete => exact h.execRflushEpochComplete
  | matrixStep => exact h.execMatrixStep
  | mloadDataArrive => exact h.execMloadDataArrive
  | drainStoresPerform => exact h.execDrainStoresPerform
  | mloopStep => exact h.execMloopStep
  | mloopComplete => exact h.execMloopComplete
  | rxRegionStart => exact h.execRxRegionStart
  | rxPassEnd => exact h.execRxPassEnd
  | ladderStarveExpire => exact h.execLadderStarveExpire
  | escCopyComplete => exact h.execEscCopyComplete
  | retireAdvance => exact h.execRetireAdvance
  | snapCopyComplete => exact h.execSnapCopyComplete
  | asyncTrapTake => exact h.execAsyncTrapTake
  | barrierTimeout => exact h.execBarrierTimeout
  | companyRelease => exact h.execCompanyRelease
  | queueServe => exact h.execQueueServe
  | placeUnit => exact h.execPlaceUnit
  | launchComplete => exact h.execLaunchComplete
  | timeSliceExpire => exact h.execTimeSliceExpire
  | drainTimeout => exact h.execDrainTimeout
  | saveComplete => exact h.execSaveComplete
  | companyResume => exact h.execCompanyResume
  | tsliceWrite => exact h.execTsliceWrite
  | tovrWrite => exact h.execTovrWrite
  | dbgctlWrite => exact h.execDbgctlWrite
  | grantcapWrite => exact h.execGrantcapWrite
  | bartoWrite => exact h.execBartoWrite
  | asidWrite => exact h.execAsidWrite
  | probeEnable => exact h.execProbeEnable
  | probeDump => exact h.execProbeDump
  | probeClear => exact h.execProbeClear
  | probeDisable => exact h.execProbeDisable
  | roleChangeTimeout => exact h.execRoleChangeTimeout
  | pladdResultReturn => exact h.execPladdResultReturn
  | illegalInstructionWord => exact h.execIllegalInstructionWord

/-! ### The filler -/
theorem State.Canon.performOp {o : MemOp} (h : s.Canon) : (s.performOp o).Canon := by
  unfold State.performOp
  split
  · exact h.execLoadDataArrive
  · exact h.execLoadDataArrive
  · exact h.execKloadDataArrive
  · exact h.execStorePerform
  · exact h.execStorePerform
  · exact h.execStorePerform
  · exact h.execStorePerform
  · exact h.execStorePerform
  · exact h.execAtomResultReturn
  · exact h.execAtomResultReturn
  · exact h.execSyncReply
  · exact h.execPladdResultReturn
  · exact h.execContributionEnter
  · exact h.execMloadDataArrive
  · exact h.execDrainStoresPerform
  · exact h.execDrainStoresPerform
  · exact h
theorem State.Canon.outState {o : Out} (h : s.Canon) (ho : o.Canon) : (outState s o).Canon := by
  unfold Sys2Proof.Machine.outState
  split
  · exact ho
  · exact h
theorem State.Canon.firstMove {os : List Out} (h : s.Canon) (ho : ∀ o ∈ os, o.Canon) : ∀ r ∈ firstMove s os, r.Canon := by
  induction os with
  | nil => nofun
  | cons o os ih =>
    unfold Sys2Proof.Machine.firstMove
    split
    · exact ih fun x hx => ho x (List.mem_cons_of_mem _ hx)
    · rintro r ⟨⟩; exact h.outState (ho o List.mem_cons_self)
theorem State.Canon.threadMoves {t : Thread} (h : s.Canon) : ∀ o ∈ s.threadMoves t, o.Canon := by
  unfold State.threadMoves
  dsimp only
  split
  · nofun
  · exact List.forall_mem_cons.2 ⟨h.execAsyncTrapTake, List.forall_mem_cons.2 ⟨h.execWaitaWake,
      List.forall_mem_singleton.2 h.execWaitaTimeout⟩⟩
  · exact List.forall_mem_cons.2 ⟨h.execAsyncTrapTake, List.forall_mem_cons.2 ⟨h.execMwaitWake,
      List.forall_mem_singleton.2 h.execMwaitTimeout⟩⟩
  · exact List.forall_mem_cons.2 ⟨h.execAsyncTrapTake, List.forall_mem_singleton.2 h.execBarrierTimeout⟩
  · exact List.forall_mem_singleton.2 h.execAsyncTrapTake
theorem State.Canon.cmdMoves {c : Cmd} (h : s.Canon) : ∀ o ∈ s.cmdMoves c, o.Canon := by
  unfold State.cmdMoves
  split
  · exact List.forall_mem_singleton.2 h.execTcollComplete
  · exact List.forall_mem_singleton.2 h.execRflushEpochComplete
  · exact List.forall_mem_singleton.2 h.execEscCopyComplete
  · exact List.forall_mem_cons.2 ⟨h.execTenderUnit, List.forall_mem_singleton.2 h.execTenderComplete⟩
theorem State.Canon.mboxMoves {m : MbOp} (h : s.Canon) : ∀ o ∈ s.mboxMoves m, o.Canon := by
  unfold State.mboxMoves
  split
  · exact List.forall_mem_singleton.2 h.execMbputServe
  · exact List.forall_mem_singleton.2 h.execMbgetServe
  · exact List.forall_mem_singleton.2 h.execAcallReply
theorem State.Canon.matrixMoves {u : Troupe} (h : s.Canon) : ∀ o ∈ s.matrixMoves u, o.Canon := by
  unfold State.matrixMoves
  split
  · nofun
  · exact List.forall_mem_cons.2 ⟨h.execMatrixStep, List.forall_mem_cons.2 ⟨h.execMloadDataArrive, List.forall_mem_cons.2
      ⟨h.execDrainStoresPerform, List.forall_mem_cons.2 ⟨h.execMloopStep, List.forall_mem_singleton.2 h.execMloopComplete⟩⟩⟩⟩
theorem State.Canon.companyMoves {c : Company} (h : s.Canon) : ∀ o ∈ s.companyMoves c, o.Canon :=
  List.forall_mem_cons.2 ⟨h.execRxRegionStart, List.forall_mem_cons.2 ⟨h.execRxPassEnd, List.forall_mem_cons.2 ⟨h.execCompanyRelease,
    List.forall_mem_cons.2 ⟨h.execSaveComplete, List.forall_mem_cons.2 ⟨h.execDrainTimeout, List.forall_mem_singleton.2
      h.execTimeSliceExpire⟩⟩⟩⟩⟩
theorem State.Canon.launchMoves (h : s.Canon) : ∀ o ∈ s.launchMoves, o.Canon := by
  simp only [State.launchMoves, List.forall_mem_append, List.forall_mem_flatMap, List.forall_mem_map]
  exact ⟨⟨⟨⟨fun _ _ _ _ => h.execQueueServe, fun _ _ => h.execPlaceUnit⟩, fun _ _ => h.execCompanyResume⟩,
    fun _ _ => h.execLaunchComplete⟩, fun _ _ => h.execRetireAdvance⟩
theorem State.Canon.coreMoves (h : s.Canon) : ∀ o ∈ s.coreMoves, o.Canon := by
  simp only [State.coreMoves, List.forall_mem_append, List.forall_mem_map]
  refine ⟨⟨fun _ _ => h.execYieldExpiry, fun _ _ => h.execIssueOpportunity⟩, ?_⟩
  split
  · exact List.forall_mem_singleton.2 h.execIssueOpportunity
  · nofun
theorem State.Canon.filler (h : s.Canon) : s.filler.Canon := by
  unfold State.filler
  extract_lets moves
  have kept : ∀ o ∈ moves, o.Canon := by
    simp only [moves, State.memMoves, List.forall_mem_append, List.forall_mem_flatMap, List.forall_mem_map]
    exact ⟨⟨⟨⟨⟨⟨⟨⟨fun _ _ => h.performOp, fun _ _ => h.threadMoves⟩, fun _ _ => h.cmdMoves⟩, fun _ _ => h.mboxMoves⟩,
      fun _ _ => h.matrixMoves⟩, fun _ _ => h.companyMoves⟩, fun _ _ => h.execSnapCopyComplete⟩, h.launchMoves⟩, h.coreMoves⟩
  split
  · exact h.firstMove kept _ ‹_›
  · exact h

/-! ### One step -/
theorem State.Canon.step (h : s.Canon) : Out.Canon (step s) := by
  unfold Machine.step
  split
  · split
    · exact h.fetch ‹_›
    · split
      · split
        · exact State.Canon.exec (h.ready (.inl ‹_›)) _
        · exact h.ready (.inr ‹_›)
      · exact State.Canon.execIllegalInstructionWord h.frame
  · split
    · split
      · exact State.Canon.exec h.frame _
      · exact h.frame
    · exact h.filler
end

/-- Settles O58: every step keeps storage in canonical form, by one lemma per function of the model. -/
theorem stepsKeepStorageCanonical : Obligations.StepsKeepStorageCanonical := by
  intro s s' h e
  have hs := State.Canon.step h
  rw [e] at hs
  exact hs

end Sys2Proof.Machine

/-!
Cache hints, fences and event schedules (R180 to R183).
-/
namespace Sys2Proof.Machine

/-- A group that its instruction holds back waits, and nothing else happens. -/
theorem State.runIssue_held {s s1 : State} {f : Form} {ps : List Thread} (h : s.Issues f ps s1)
    (body : State → List Thread → State) (stall : State → List Thread → Option Wait) {w : Wait}
    (hw : stall { s with issue := none } ps = some w) :
    ∃ g, s.issue = some g ∧ s.runIssue f body stall = (s.members g).foldl (fun s t => s.waitAt t w) { s with issue := none } := by
  obtain ⟨⟨g, hg, -, hmark, hquiet, rfl, -⟩, -, -, -⟩ := h
  refine ⟨g, hg, ?_⟩
  have unmarked : (f.mark && (({ s with issue := none } : State).members g).any fun t =>
      ({ s with issue := none } : State).resultsOut t.cid t.tid) = false := by
    rw [Bool.and_eq_false_imp, List.any_eq_false]
    exact fun hf t ht => Bool.not_eq_true _ ▸ hmark hf t ht
  have unreleased : (f.quiet && (({ s with issue := none } : State).members g).any fun t =>
      ({ s with issue := none } : State).releaseOut t.cid t.tid) = false := by
    rw [Bool.and_eq_false_imp, List.any_eq_false]
    exact fun hf t ht => Bool.not_eq_true _ ▸ hquiet hf t ht
  have stalled : stall { s with issue := none } (((({ s with issue := none } : State).members g).filter Thread.passes).map
      (Thread.reads f ({ s with issue := none } : State).fresh)) = some w := hw
  simp only [State.runIssue, hg, unmarked, unreleased, stalled, Bool.false_eq_true, if_false]
  rfl

/-- A single thread is every instruction's actor, uniform or not. -/
theorem State.each_singleton (s : State) (uni : Bool) (t : Thread) (f : State → Thread → List Thread → State) :
    s.each uni [t] f = f s t [t] := by cases uni <;> rfl

section
variable {s s' : State}
/-- What a byte of an address reads depends on memory and on the on-chip windows. -/
theorem State.getLoc_phys_congr {a : Nat} (hm : s'.memByte a = s.memByte a) (hc : ∀ c o, s'.chipGet c o = s.chipGet c o) :
    s'.getLoc (.phys a) = s.getLoc (.phys a) := by
  simp only [State.getLoc, hm, hc]
theorem State.physNat_congr (h : ∀ a, s'.getLoc (.phys a) = s.getLoc (.phys a)) (a n : Nat) : s'.physNat a n = s.physNat a n := by
  simp only [State.physNat, State.physBytes, h]
/-- A walk depends on the tables in memory. -/
theorem State.walk_congr (h : ∀ a, s'.getLoc (.phys a) = s.getLoc (.phys a)) (p : Part) (asid va : Nat) :
    s'.walk p asid va = s.walk p asid va := by
  simp only [State.walk, State.physNat_congr h]
theorem State.translate_congr (h : ∀ a, s'.getLoc (.phys a) = s.getLoc (.phys a)) (ht : s'.tlb = s.tlb) (hf : s'.fresh = s.fresh)
    (hp : s'.parts = s.parts) (p asid va : Nat) : s'.translate p asid va = s.translate p asid va := by
  simp only [State.translate, State.part, State.walk_congr h, ht, hf, hp]
  rfl
end
/-- The pending group has no part in whether a line is busy. -/
theorem State.lineBusy_issue (s : State) (g : Option Issue) (t : Thread) (va : DWord) :
    ({ s with issue := g } : State).lineBusy t va = s.lineBusy t va := by
  have hb (a : Nat) : ({ s with issue := g } : State).getLoc (.phys a) = s.getLoc (.phys a) := State.getLoc_phys_congr rfl fun _ _ => rfl
  have ht := State.translate_congr hb rfl rfl rfl
  have hw : ({ s with issue := g } : State).whoIs t = s.whoIs t := rfl
  simp only [State.lineBusy, State.lineAt, ht, hw]

/-- `cctl.iinv` by a thread changes only what `iinv`s cover. -/
theorem State.iinv1_rest (s : State) (scope : Nat) (va : DWord) (t : Thread) :
    { s.iinv1 scope va t with lines := [], fresh := 0 } = { s with lines := [], fresh := 0 } := by
  unfold State.iinv1
  split <;> rfl
theorem State.each_iinv1_rest (s : State) (uni : Bool) (ps : List Thread) (scope : Nat) (base : Reg) :
    { s.each uni ps fun s l _ => s.iinv1 scope (l.base base) l with lines := [], fresh := 0 } = { s with lines := [], fresh := 0 } := by
  unfold State.each
  split
  · split
    · rfl
    · exact s.iinv1_rest _ _ _
  · exact List.foldlRecOn (motive := fun r : State => { r with lines := [], fresh := 0 } = { s with lines := [], fresh := 0 }) _ _ rfl
      fun r hr t _ => (r.iinv1_rest _ _ t).trans hr
/-- It covers the line of device memory its address translates to. -/
theorem State.iinv1_lines (s : State) (scope : Nat) {va : DWord} {t : Thread} {l : Leaf}
    (hl : s.translate (s.whoIs t).part t.asid.toNat va.toNat = .ok l) (hva : 0x60000 ≤ va.toNat) :
    (s.iinv1 scope va t).lines = s.lines.map fun m => if m.line = l.phys va.toNat / 64 then
      { m with iinvs := (s.fresh, scope, s.coreOf t.cid) :: m.iinvs } else m := by
  have hline : s.lineAt t va = some (l.phys va.toNat / 64) := by
    rw [State.lineAt, if_neg (show ¬va.toNat < Config.scratchEnd from Nat.not_lt.mpr hva), hl]
  simp [State.iinv1, hline]

/-- A fence with nothing before it leaves the machine; with accesses in flight it stands behind them. -/
theorem State.fence1_of_quiet {s : State} {acq rel uo : Bool} {t : Thread} (h : s.accessesOut t.cid t.tid = false) :
    s.fence1 acq rel uo t = s := by simp [State.fence1, h]
theorem State.fence1_of_accesses {s : State} {acq rel uo : Bool} {t : Thread} (h : s.accessesOut t.cid t.tid = true) :
    s.fence1 acq rel uo t = s.pushOp (s.planeOp t [] [] [] [] [] (.fence acq rel uo) 0 0) := by simp [State.fence1, h]

/-- An operation put in flight that raises no flag and writes no register. -/
theorem OpsDone.pushOp (s : State) (t : Thread) (o : MemOp) :
    OpsDone s (s.pushOp o) [t] 0 [] [{ o with id := s.nextId, grp := s.fresh }] where
  result _ _ u hu := ⟨u, hu, rfl, fun r => by simp [Thread.raised, RegId.after]⟩
  others _ _ _ := rfl
  ops := rfl
  rest := rfl
  memory := State.getLoc_of_storage rfl rfl rfl

/-- What an acquiring fence lets a thread obtain (R155, R180), where the fence acquires. -/
def State.gainedBy (s : State) (acq : Bool) (scope : Nat) (t : Thread) : State := if acq then s.fenceAcquire scope t else s
theorem State.gainedBy_pushOp (s : State) (acq : Bool) (scope : Nat) (t : Thread) (o : MemOp) :
    (s.pushOp o).gainedBy acq scope t = (s.gainedBy acq scope t).pushOp o := by cases acq <;> rfl

/-- A thread's writes so far end a chain, and later accesses of its begin one (R170). -/
def State.chainedBy (s : State) (scope : Nat) (t : Thread) : State :=
  let mine (n : ByteName) : ByteName :=
    if n.cid = t.cid ∧ n.tid = some t.tid ∧ (∀ x ∈ n.fenced, x.2 ≠ scope) then { n with fenced := (s.fresh, scope) :: n.fenced } else n
  { s.updThread t.cid t.tid (fun u => { u with chain := (s.fresh, scope) :: u.chain.filter (fun x => x.2 ≠ scope) }) with
    marks := s.marks.map fun m => { m with writes := m.writes.map fun w => { w with name := w.name.map mine } } }
theorem State.aliasf1_eq (s : State) (scope : Nat) (t : Thread) :
    s.aliasf1 scope t = { s.chainedBy scope t with
      ops := (s.fence1 true true true t).ops, nextId := (s.fence1 true true true t).nextId } := by
  have own (n : ByteName) : ((n.cid == t.cid && n.tid == some t.tid && !(n.fenced.any fun x => x.2 == scope)) = true) =
      (n.cid = t.cid ∧ n.tid = some t.tid ∧ ∀ x ∈ n.fenced, x.2 ≠ scope) := by simp [and_assoc]
  have other : (fun x : Nat × Nat => x.2 != scope) = fun x => decide (x.2 ≠ scope) := by
    simp only [ne_eq, decide_not]; rfl
  unfold State.aliasf1 State.chainedBy
  simp only [own, other]
  cases h : s.accessesOut t.cid t.tid with
  | false => rw [State.fence1_of_quiet h]; rfl
  | true => rw [State.fence1_of_accesses h]; rfl

section
variable {h : Hd} {sc : BitVec 3} {base : Reg} {s s1 : State} {ps : List Thread}

/-- A hint moves its threads on. -/
theorem State.hint_done (hi : s.Issues (hdForm h (baseRegs base)).barred ps s1) :
    s.hint (hdForm h (baseRegs base)).barred = .next s1 :=
  congrArg Host.Outcome.next (State.runIssue_eq hi (fun s _ => s) (fun _ _ => none) rfl)

/-- `cctl.iinv` waits for a thread's stores to its line (R180). -/
theorem State.iinv_held (hi : s.Issues (hdForm h (baseRegs base)).barred ps s1) (hb : ∃ t ∈ ps, s.lineBusy t (t.base base) = true) :
    ∃ g, s.issue = some g ∧ exec (.cctlIinv h sc base) s =
      .next ((s.members g).foldl (fun s u => s.waitAt u .quiet) ({ s with issue := none } : State)) := by
  have busy : (ps.any fun t => ({ s with issue := none } : State).lineBusy t (t.base base)) = true := by
    simp only [State.lineBusy_issue]
    exact List.any_eq_true.mpr hb
  obtain ⟨g, hg, hr⟩ := State.runIssue_held hi (fun s ps => s.each h.uni ps fun s l _ => s.iinv1 sc.toNat (l.base base) l)
    (fun s ps => if ps.any fun t => s.lineBusy t (t.base base) then some .quiet else none) (if_pos busy)
  exact ⟨g, hg, congrArg Host.Outcome.next hr⟩

/-- Without such stores it acts. -/
theorem State.iinv_acts (hi : s.Issues (hdForm h (baseRegs base)).barred ps s1) (hb : ∀ t ∈ ps, s.lineBusy t (t.base base) = false) :
    exec (.cctlIinv h sc base) s = .next (s1.each h.uni ps fun s l _ => s.iinv1 sc.toNat (l.base base) l) := by
  have free : (ps.any fun t => ({ s with issue := none } : State).lineBusy t (t.base base)) = false := by
    simp only [State.lineBusy_issue]
    exact List.any_eq_false.mpr fun t ht => Bool.not_eq_true _ ▸ hb t ht
  exact congrArg Host.Outcome.next (State.runIssue_eq hi (fun s ps => s.each h.uni ps fun s l _ => s.iinv1 sc.toNat (l.base base) l)
    (fun s ps => if ps.any fun t => s.lineBusy t (t.base base) then some .quiet else none) (if_neg (by rw [free]; exact Bool.false_ne_true)))

end

/-- The phase of an installed schedule rises to the value, and never falls (R183). -/
theorem Part.phase_raised (p : Part) (n : Nat) :
    (if p.sched.isSome && p.phase < n then { p with phase := n } else p).phase = if p.sched ≠ none then max p.phase n else p.phase := by
  cases hs : p.sched with
  | none => simp
  | some x =>
    by_cases hn : p.phase < n
    · simp [hn, Nat.max_eq_right (Nat.le_of_lt hn)]
    · simp [hn, Nat.max_eq_left (Nat.not_lt.mp hn)]

/-- Settles O25: the hints leave everything, an `iinv` waits or covers a line, fences and chains stand behind accesses, phases rise. -/
theorem hintsFencesSchedules : Obligations.HintsFencesSchedules := by
  intro h m sc acq rel uo base s s1 ps
  refine ⟨fun hi => ?_, ?_, ?_⟩
  · refine ⟨State.hint_done hi, State.hint_done hi, State.hint_done hi, State.hint_done hi, State.iinv_held hi, fun hb => ?_⟩
    refine ⟨_, State.iinv_acts hi hb, ?_, ?_⟩
    · exact congrArg (fun r : State => { r with lines := s1.lines, fresh := s1.fresh }) (s1.each_iinv1_rest h.uni ps sc.toNat base)
    · rintro t l rfl hl hva
      rw [State.each_singleton]
      exact s1.iinv1_lines _ hl hva
  · rintro t rfl hi
    have fence : exec (.fence m sc acq rel uo) s = .next ((s1.fence1 acq rel uo t).gainedBy acq sc.toNat t) :=
      congrArg Host.Outcome.next (State.runIssue_eq hi (fun s ps => ps.foldl (fun s t =>
        let s := s.fence1 acq rel uo t
        if acq then s.fenceAcquire sc.toNat t else s) s) (fun _ _ => none) rfl)
    have chain : exec (.aliasf m sc) s = .next (s1.aliasf1 sc.toNat t) :=
      congrArg Host.Outcome.next (State.runIssue_eq hi (fun s ps => ps.foldl (fun s t => s.aliasf1 sc.toNat t) s) (fun _ _ => none) rfl)
    refine ⟨fun hq => ⟨?_, ?_⟩, fun ha => ⟨?_, ?_⟩⟩
    · rw [fence, State.fence1_of_quiet hq]; rfl
    · rw [chain, State.aliasf1_eq, State.fence1_of_quiet hq]; rfl
    · rw [State.fence1_of_accesses ha, State.gainedBy_pushOp] at fence
      exact ⟨_, _, fence, OpsDone.pushOp _ t _, rfl, rfl, rfl, rfl⟩
    · rw [State.aliasf1_eq, State.fence1_of_accesses ha] at chain
      exact ⟨_, _, chain, OpsDone.pushOp _ t _, rfl, rfl, rfl, rfl⟩
  · rintro t rfl hi hp
    refine ⟨_, congrArg Host.Outcome.next (State.runIssue_eq hi _ _ rfl), rfl, ?_, fun q hq => State.part_updPart_ne _ hq _⟩
    change ((s1.updPart (s1.partOf t.cid) _).part (s1.partOf t.cid)).phase = _
    rw [State.part_updPart_same _ hp]
    exact Part.phase_raised _ _

end Sys2Proof.Machine

/-!
What a write that performs leaves as it is: registers, and everything but the bytes themselves.
-/
namespace Sys2Proof.Machine

/-! ### Registers -/

theorem SameRegs.trans {s s' s'' : State} (h : SameRegs s s') (h' : SameRegs s' s'') : SameRegs s s'' := fun c i u hu => by
  obtain ⟨v, hv, hpc, hreg⟩ := h c i u hu
  obtain ⟨w, hw, hpc', hreg'⟩ := h' c i v hv
  exact ⟨w, hw, hpc'.trans hpc, fun r => (hreg' r).trans (hreg r)⟩
/-- An update of every thread that leaves names, counters and registers. -/
theorem SameRegs.of_map {s s' : State} {f : Thread → Thread} (h : s'.threads = s.threads.map f) (hf : KeepsName f)
    (hpc : ∀ t, (f t).pc = t.pc) (hreg : ∀ t r, (f t).reg r = t.reg r) : SameRegs s s' := fun c i u hu => by
  have hfind := find_map_name f hf c i (fun _ => true) s.threads
  simp only [if_true] at hfind
  exact ⟨f u, by rw [State.thread?, h, hfind, ← State.thread?, hu]; rfl, hpc u, hreg u⟩

/-! ### Who is told of a write -/

@[simp] theorem Thread.note_reg (ls : List Loc) (t : Thread) (r : RegId) : (t.note ls).reg r = t.reg r := by cases r <;> rfl
/-- Telling of a write changes what threads watch for, and the conditions of launches. -/
theorem State.notify_eq (s : State) (ls : List Loc) :
    ∃ seen told, s.notify ls = { s with threads := s.threads.map (Thread.note seen), launches := told } := by
  unfold State.notify
  dsimp only
  split
  · exact ⟨_, s.launches, rfl⟩
  · exact ⟨_, _, rfl⟩
/-- A write that performs changes its bytes, and tells whoever waits for them. -/
theorem State.perform_eq (s : State) (ls : List Loc) (bs : List Byte) :
    ∃ seen told rings, s.perform ls bs =
      { s.setLocs ls bs with threads := (s.setLocs ls bs).threads.map (Thread.note seen), launches := told, mbox := rings } := by
  obtain ⟨seen, told, h⟩ := (s.setLocs ls bs).notify_eq ls
  refine ⟨seen, told, ((s.setLocs ls bs).notify ls).mbox.map (MbOp.note (ls.map ((s.setLocs ls bs).notify ls).canon)), ?_⟩
  conv_lhs => unfold State.perform
  rw [h]
theorem State.perform_getLoc (s : State) (ls : List Loc) (bs : List Byte) {l : Loc} (hl : l.offChip = true) :
    (s.perform ls bs).getLoc l = (s.setLocs ls bs).getLoc l := by
  obtain ⟨seen, told, rings, h⟩ := s.perform_eq ls bs
  exact State.getLoc_of_storage (by rw [h]) (by rw [h]) (by rw [h]) l hl
/-- A write to plain storage performs: its bytes hold what is written, and every other byte is as before. -/
theorem State.wrote_perform {s : State} {ls : List Loc} {bs : List Byte} (h : s.Plain ls) (hlen : ls.length = bs.length) :
    Wrote s (s.perform ls bs) ls bs := by
  obtain ⟨hbytes, hrest⟩ := State.wrote_setLocs h hlen
  have hreads : (s.perform ls bs).getLocs ls = (s.setLocs ls bs).getLocs ls :=
    List.map_congr_left fun l hl => s.perform_getLoc ls bs (h.2.1 l hl).offChip
  exact ⟨hreads.trans hbytes, fun l hl hn => (s.perform_getLoc ls bs hl).trans (hrest l hl hn)⟩
theorem State.sameRegs_perform_of_threads {s : State} {ls : List Loc} {bs : List Byte} (h : (s.setLocs ls bs).threads = s.threads) :
    SameRegs s (s.perform ls bs) := by
  obtain ⟨seen, told, rings, hp⟩ := s.perform_eq ls bs
  refine SameRegs.of_map (f := Thread.note seen) ?_ (fun _ => ⟨rfl, rfl⟩) (fun _ => rfl) (Thread.note_reg seen)
  rw [hp, ← h]
theorem State.sameRegs_perform {s : State} {ls : List Loc} (h : s.Plain ls) (bs : List Byte) : SameRegs s (s.perform ls bs) :=
  State.sameRegs_perform_of_threads (State.setLocs_threads_of_plain bs h)

/-! ### The device's own records -/

/-- What the host sees of the device beside memory: its status words and its command window. -/
def State.outside (s : State) : Vector Word 4 × Window := (s.status, s.window)

/-- A fold of steps that keep a value keeps it. -/
theorem foldl_keeps {α σ β : Type} (v : σ → β) {f : σ → α → σ} (h : ∀ s a, v (f s a) = v s) (l : List α) (s : σ) :
    v (l.foldl f s) = v s := by
  induction l generalizing s with
  | nil => rfl
  | cons a l ih => exact (ih (f s a)).trans (h s a)

@[simp] theorem State.chipSet_outside (s : State) (c o : Nat) (b : Byte) : (s.chipSet c o b).outside = s.outside := by
  unfold State.chipSet
  split
  case h_3 =>
    dsimp only
    split
    · rfl
    · split <;> rfl
  all_goals rfl
@[simp] theorem State.chipSet_parts (s : State) (c o : Nat) (b : Byte) : (s.chipSet c o b).parts = s.parts := by
  unfold State.chipSet
  split
  case h_3 =>
    dsimp only
    split
    · rfl
    · split <;> rfl
  all_goals rfl
@[simp] theorem State.setLoc_outside (s : State) (l : Loc) (b : Byte) : (s.setLoc l b).outside = s.outside := by
  unfold State.setLoc
  split
  · split
    · exact s.chipSet_outside _ _ _
    · rfl
  all_goals rfl
@[simp] theorem State.setLocs_outside (ls : List Loc) : ∀ (s : State) (bs : List Byte), (s.setLocs ls bs).outside = s.outside := by
  induction ls with
  | nil => intro s bs; cases bs <;> rfl
  | cons l ls ih =>
    intro s bs
    cases bs with
    | nil => rfl
    | cons b bs => exact (ih _ _).trans (s.setLoc_outside l b)
@[simp] theorem State.perform_outside (s : State) (ls : List Loc) (bs : List Byte) : (s.perform ls bs).outside = s.outside := by
  obtain ⟨seen, told, rings, h⟩ := s.perform_eq ls bs
  rw [h]
  exact State.setLocs_outside ls s bs

end Sys2Proof.Machine

/-!
The engines leave the status words and the command window as they are.
-/
namespace Sys2Proof.Machine

/-! ### Lines that a store takes -/

@[simp] theorem State.markWrite_outside (s : State) (a : Nat) (n : Option ByteName) : (s.markWrite a n).outside = s.outside := rfl
theorem State.markWrites_outside (name : Nat → Option ByteName) (at_ : Nat → Nat) (l : List Nat) (s : State) :
    (l.foldl (fun s i => s.markWrite (at_ i) (name i)) s).outside = s.outside :=
  foldl_keeps State.outside (fun s i => s.markWrite_outside (at_ i) (name i)) l s
theorem State.outside_of_lines (s : State) (m : List Host.Cell) (ls : List LineMark) (os : List MemOp) :
    ({ s with mem := m, lines := ls, ops := os } : State).outside = s.outside := rfl
@[simp] theorem State.claimLine_outside (s : State) (key : ByteKey) (line : Nat) : (s.claimLine key line).outside = s.outside := by
  unfold State.claimLine
  split
  · rfl
  · split
    · rfl
    · split
      · rfl
      · have marked := State.markWrites_outside (fun _ => none) id ((List.range 64).map fun i => line * 64 + i) s
        exact (State.outside_of_lines _ _ _ _).trans marked
@[simp] theorem State.claimPhys_outside (s : State) (part a n : Nat) : (s.claimPhys part a n).outside = s.outside := by
  unfold State.claimPhys
  split
  · rfl
  · refine (State.markWrites_outside (fun _ => none) (fun i => a + i) _ _).trans ((foldl_keeps State.outside (fun s l => ?_) _ _).trans rfl)
    split <;> rfl
@[simp] theorem State.claimPart_outside (s : State) (w : Who) (va n : Nat) (fenced : List (Nat × Nat)) :
    (s.claimPart w va n fenced).outside = s.outside := by
  unfold State.claimPart
  split
  · rfl
  · split
    · rfl
    · dsimp only
      split
      · rfl
      · rename_i l _ _
        exact (State.markWrites_outside (fun i => some { asid := w.asid, va := va + i, cid := w.cid, tid := w.tid, fenced := fenced })
          (fun i => l.phys va + i) _ _).trans (foldl_keeps State.outside (fun s i => s.claimLine_outside _ _) _ _)
@[simp] theorem State.claim_outside (w : Who) (fenced : List (Nat × Nat)) (fuel : Nat) : ∀ (s : State) (va n : Nat),
    (s.claim w va n fenced fuel).outside = s.outside := by
  induction fuel with
  | zero => intro s va n; rfl
  | succ fuel ih =>
    intro s va n
    unfold State.claim
    split
    · rfl
    · exact (ih _ _ _).trans (s.claimPart_outside w va _ fenced)

/-! ### Commands of the engines -/

@[simp] theorem State.updPart_outside (s : State) (p : Nat) (f : Part → Part) : (s.updPart p f).outside = s.outside := rfl
@[simp] theorem State.updCmd_outside (s : State) (i : Nat) (f : Cmd → Cmd) : (s.updCmd i f).outside = s.outside := rfl
@[simp] theorem State.cmdStore_outside (c : Cmd) (fuel : Nat) : ∀ (s : State) (va : Nat) (bs : List Byte),
    (s.cmdStore c va bs fuel).outside = s.outside := by
  induction fuel with
  | zero => intro s va bs; rfl
  | succ fuel ih =>
    intro s va bs
    unfold State.cmdStore
    split
    · rfl
    · refine (ih _ _ _).trans ?_
      split
      · rfl
      · split
        · rfl
        · split <;> simp
@[simp] theorem State.engineTrap_outside (s : State) (id : Nat) (a : Async) : (s.engineTrap id a).outside = s.outside := by
  unfold State.engineTrap
  split
  · rfl
  · split <;> rfl
@[simp] theorem State.cmdStop_outside (s : State) (c : Cmd) (tr : Trap) : (s.cmdStop c tr).outside = s.outside := by
  unfold State.cmdStop
  dsimp only
  split
  · split <;> simp
  · split <;> split <;> simp
@[simp] theorem State.outSub_outside (s : State) (cid : Nat) : (s.outSub cid).outside = s.outside := by
  unfold State.outSub
  split <;> rfl
@[simp] theorem State.release_outside (s : State) (p : Thread → Bool) (f : Thread → Thread) : (s.release p f).outside = s.outside := rfl
@[simp] theorem State.writeRegs_outside (s : State) (cid tid : Nat) (ws : List (RegId × DWord)) : (s.writeRegs cid tid ws).outside = s.outside := rfl
@[simp] theorem State.clearStatus_outside (s : State) (us : List (Nat × Nat)) : (s.clearStatus us).outside = s.outside := rfl
@[simp] theorem State.wakeTwait_outside (s : State) : s.wakeTwait.outside = s.outside := by
  unfold State.wakeTwait
  dsimp only
  split
  · exact foldl_keeps State.outside (fun r _ => r.writeRegs_outside _ _ _) _ s
  · exact (State.clearStatus_outside _ _).trans ((State.release_outside _ _ _).trans (foldl_keeps State.outside (fun r _ => r.writeRegs_outside _ _ _) _ s))
@[simp] theorem State.cmdFinish_outside (s : State) (c : Cmd) : (s.cmdFinish c).outside = s.outside := by
  unfold State.cmdFinish
  dsimp only
  have word (b : Prop) [Decidable b] (ls : List Loc) (bs : List Byte) :
      (if b then s.perform ls bs else s).outside = s.outside := by split <;> simp
  have woken (r : State) (b : Prop) [Decidable b] : (if b then r.wakeTender c.core else r).outside = r.outside := by split <;> rfl
  exact (State.wakeTwait_outside _).trans ((woken _ _).trans ((State.outSub_outside _ _).trans (word _ _ _)))
@[simp] theorem State.landRegion_outside (s : State) (part : Nat) (g : Group) (r : RedRegion) : (s.landRegion part g r).outside = s.outside :=
  foldl_keeps State.outside (fun s _ => foldl_keeps State.outside (fun s _ => (State.perform_outside _ _ _).trans (s.claimPhys_outside _ _ _)) _ s) _ s
theorem State.outside_ite {s a b : State} {p : Prop} [Decidable p] (ha : a.outside = s.outside) (hb : b.outside = s.outside) :
    (if p then a else b).outside = s.outside := by split <;> assumption
/-- A fabric command's data stored and the command finished. -/
theorem State.cmdStore_cmdFinish_outside (s : State) (c d : Cmd) (va : Nat) (bs : List Byte) (fuel : Nat) :
    ((({ s with fresh := s.fresh + 1 } : State).cmdStore c va bs fuel).cmdFinish d).outside = s.outside :=
  (State.cmdFinish_outside _ d).trans (State.cmdStore_outside c fuel _ va bs)
@[simp] theorem State.collDo_outside (s : State) (c : Cmd) (agree : Bool) : (s.collDo c agree).outside = s.outside := by
  unfold State.collDo
  dsimp only
  split
  · exact s.cmdStop_outside c _
  · exact s.cmdStop_outside c _
  · refine State.outside_ite rfl ?_
    generalize s.groupOf c c.coll.group = group
    split <;> exact s.cmdStore_cmdFinish_outside c _ _ _ _
@[simp] theorem State.rflushDo_outside (s : State) (c : Cmd) (agree : Bool) : (s.rflushDo c agree).outside = s.outside := by
  unfold State.rflushDo
  dsimp only
  refine State.outside_ite rfl ?_
  split
  · exact s.cmdStop_outside c _
  · refine State.outside_ite rfl ?_
    split
    · exact s.cmdStop_outside c _
    · split
      · exact (State.cmdFinish_outside _ _).trans (s.landRegion_outside _ _ _)
      · exact State.cmdFinish_outside _ _

end Sys2Proof.Machine

/-!
The host's accesses and BAR0 (R373, R388, R390), a failed port (R389), and the samples of heat and current (R379 to R382).
-/
namespace Sys2Proof.Machine

/-! ### Bytes of numbers -/

theorem natOf_bytesOf (n x : Nat) : natOf (bytesOf n x) = x % 256 ^ n := by
  induction n generalizing x with
  | zero => simp [bytesOf, natOf, Nat.mod_one]
  | succ n ih => simp [bytesOf, natOf, ih, pow_succ', Nat.mod_mul]
theorem bytesOf_four_getD (x : Nat) {k : Nat} (hk : k < 4) : ((bytesOf 4 x).getD k 0).toNat = x / 2 ^ (8 * k) % 256 := by
  interval_cases k <;> simp [bytesOf, Nat.div_div_eq_div_mul]

/-! ### BAR0 (R373) -/

theorem State.bar0Byte_status (s : State) {off : Nat} (h : off < 0x10) :
    (s.bar0Byte off).toNat = (s.status.getD (off / 4) 0).toNat / 2 ^ (8 * (off % 4)) % 256 := by
  rw [State.bar0Byte, if_pos h, bytesOf_four_getD _ (Nat.mod_lt _ (by decide))]
theorem State.bar0Byte_window (s : State) {off : Nat} (h : 0x1000 ≤ off) (h' : off < 0x1040) :
    s.bar0Byte off = s.window.bytes.getD (off - 0x1000) 0 := by
  rw [State.bar0Byte, if_neg (by omega), if_neg (by simp only [Bool.and_eq_true, decide_eq_true_eq]; omega),
    if_pos (by simp only [Bool.and_eq_true, decide_eq_true_eq]; omega)]
theorem State.bar0Byte_elsewhere (s : State) {off : Nat} (h : (0x10 ≤ off ∧ off < 0x100) ∨ (0x200 ≤ off ∧ off < 0x1000) ∨ 0x1040 ≤ off) :
    s.bar0Byte off = 0 := by
  rw [State.bar0Byte, if_neg (by omega), if_neg (by simp only [Bool.and_eq_true, decide_eq_true_eq]; omega),
    if_neg (by simp only [Bool.and_eq_true, decide_eq_true_eq]; omega)]

/-- A store of the host to BAR0. -/
theorem exec_hostAccess_bar0 (s : State) (off : Nat) {bs : List Byte} (h : bs ≠ []) :
    exec (.hostAccess (Config.bar0Base + off) bs) s = s.bar0Write off bs := by
  show execHostAccess _ _ _ = _
  rw [execHostAccess, if_pos (Nat.le_add_right _ _), if_neg (by simpa using h), Nat.add_sub_cancel_left]
/-- A store of the host to memory. -/
theorem exec_hostAccess_memory (s : State) {addr : Nat} (bs : List Byte) (h : addr < Config.bar0Base) :
    exec (.hostAccess addr bs) s =
      .next (if s.hostReaches addr bs.length then s.perform ((List.range bs.length).map fun i => .phys (addr + i)) bs else s) := by
  show execHostAccess _ _ _ = _
  rw [execHostAccess, if_neg (Nat.not_le.mpr h)]

/-- The offset of the window's word. -/
theorem State.bar0Write_window (s : State) {off : Nat} (bs : List Byte) (h : 0x1000 ≤ off) (h' : off < 0x1040) :
    s.bar0Write off bs = .next { s with window := s.window.put (off - 0x1000) bs } := by
  rw [State.bar0Write, if_neg (by simp only [beq_iff_eq]; omega), if_pos (by simp only [Bool.and_eq_true, decide_eq_true_eq]; omega)]
theorem State.bar0Write_doorbell (s : State) {p q : Nat} (bs : List Byte) (hp : p < 4) (hq : q < 64) :
    s.bar0Write (0x2000 + p * 0x200 + q * 8) bs = execDoorbell p q s := by
  have hpart : (0x2000 + p * 0x200 + q * 8 - 0x2000) / 0x200 = p := by omega
  have hqueue : (0x2000 + p * 0x200 + q * 8 - 0x2000) % 0x200 / 8 = q := by omega
  rw [State.bar0Write, if_neg (by simp only [beq_iff_eq]; omega), if_neg (by simp only [Bool.and_eq_true, decide_eq_true_eq]; omega),
    if_neg (by simp only [Bool.and_eq_true, beq_iff_eq]; omega), if_pos (by simp only [Bool.and_eq_true, decide_eq_true_eq]; omega),
    hpart, hqueue]
theorem State.bar0Write_elsewhere (s : State) {off : Nat} (bs : List Byte)
    (h : off < 0x100 ∨ (0x100 < off ∧ off < 0x1000) ∨ (0x1040 < off ∧ off < 0x2000) ∨ 0x2800 ≤ off) : s.bar0Write off bs = .next s := by
  rw [State.bar0Write, if_neg (by simp only [beq_iff_eq]; omega), if_neg (by simp only [Bool.and_eq_true, decide_eq_true_eq]; omega),
    if_neg (by simp only [Bool.and_eq_true, beq_iff_eq]; omega), if_neg (by simp only [Bool.and_eq_true, decide_eq_true_eq]; omega)]

/-- The command that a window holds (R374). -/
def Window.command (w : Window) : Instr :=
  match w.op.toNat with
  | 1 => .partition w.part.toNat w.arg | 2 => .role w.part.toNat w.arg | 3 => .sched w.part.toNat w.arg | 4 => .fabric w.part.toNat w.arg
  | 5 => .key w.part.toNat w.arg | 6 => .resume w.part.toNat w.arg | 7 => .attest w.part.toNat w.arg | 8 => .move w.part.toNat w.arg
  | _ => .unknownCommand w.op w.part.toNat w.arg
theorem State.goCommand_eq (s : State) : s.goCommand = exec s.window.command s := by
  unfold State.goCommand Window.command
  generalize s.window.op.toNat = n
  match n with
  | 0 | 1 | 2 | 3 | 4 | 5 | 6 | 7 | 8 | _ + 9 => rfl
theorem State.bar0Write_go (s : State) : s.bar0Write 0x1040 [1] = exec s.window.command s := s.goCommand_eq

theorem ofNat_natOf_bytesOf_four (x : Word) : BitVec.ofNat 32 (natOf (bytesOf 4 x.toNat)) = x := by
  rw [natOf_bytesOf]
  exact BitVec.eq_of_toNat_eq (by simpa using x.isLt)
theorem ofNat_natOf_bytesOf_eight (x : DWord) : BitVec.ofNat 64 (natOf (bytesOf 8 x.toNat)) = x := by
  rw [natOf_bytesOf]
  exact BitVec.eq_of_toNat_eq (by simpa using x.isLt)
/-- Bytes written over those of a list. -/
theorem mapIdx_overwrite {α : Type} (a b c bs : List α) (h : bs.length = b.length) :
    ((a ++ (b ++ c)).mapIdx fun i x => if a.length ≤ i then bs.getD (i - a.length) x else x) = a ++ (bs ++ c) := by
  refine List.ext_getElem (by simp [h]) fun i hi hi' => ?_
  simp only [List.getElem_mapIdx]
  by_cases ha : i < a.length
  · rw [if_neg (Nat.not_le.mpr ha)]
    simp [ha]
  · rw [if_pos (Nat.not_lt.mp ha)]
    by_cases hb : i - a.length < b.length
    · have hbs : i - a.length < bs.length := h ▸ hb
      simp [List.getElem_append, ha, hbs]
    · simp [List.getElem_append, ha, hb, h]
/-- The registers of a window by its bytes. -/
theorem Window.fields (w : Window) (op part : Word) (arg : DWord) (rest : List Byte) {b : List Byte}
    (hb : b = bytesOf 4 op.toNat ++ (bytesOf 4 part.toNat ++ (bytesOf 8 arg.toNat ++ rest))) :
    { w with op := BitVec.ofNat 32 (natOf (b.take 4)), part := BitVec.ofNat 32 (natOf ((b.drop 4).take 4)),
             arg := BitVec.ofNat 64 (natOf ((b.drop 8).take 8)) } = { w with op := op, part := part, arg := arg } := by
  have h4 (x : Nat) : (bytesOf 4 x).length = 4 := rfl
  have h8 (x : Nat) : (bytesOf 8 x).length = 8 := rfl
  have hop : b.take 4 = bytesOf 4 op.toNat := by rw [hb, List.take_left' (h4 _)]
  have hpart : (b.drop 4).take 4 = bytesOf 4 part.toNat := by rw [hb, List.drop_left' (h4 _), List.take_left' (h4 _)]
  have harg : (b.drop 8).take 8 = bytesOf 8 arg.toNat := by
    rw [hb, show (8 : Nat) = 4 + 4 from rfl, ← List.drop_drop, List.drop_left' (h4 _), List.drop_left' (h4 _), List.take_left' (h8 _)]
  rw [hop, hpart, harg, ofNat_natOf_bytesOf_four, ofNat_natOf_bytesOf_four, ofNat_natOf_bytesOf_eight]
/-- A register of the window takes what is written, and the others stay. -/
theorem Window.put_op {w : Window} (h : w.status ≠ 0) (x : Word) : w.put 0 (bytesOf 4 x.toNat) = { w with op := x } := by
  rw [Window.put, if_neg (by simpa using h)]
  refine w.fields x w.part w.arg (bytesOf 4 w.status ++ List.replicate 44 0) ?_
  rw [Window.bytes]
  simp only [List.append_assoc]
  exact mapIdx_overwrite [] (bytesOf 4 w.op.toNat) _ (bytesOf 4 x.toNat) rfl
theorem Window.put_part {w : Window} (h : w.status ≠ 0) (x : Word) : w.put 4 (bytesOf 4 x.toNat) = { w with part := x } := by
  rw [Window.put, if_neg (by simpa using h)]
  refine w.fields w.op x w.arg (bytesOf 4 w.status ++ List.replicate 44 0) ?_
  rw [Window.bytes]
  simp only [List.append_assoc]
  exact mapIdx_overwrite (bytesOf 4 w.op.toNat) (bytesOf 4 w.part.toNat) _ (bytesOf 4 x.toNat) rfl
theorem Window.put_arg {w : Window} (h : w.status ≠ 0) (x : DWord) : w.put 8 (bytesOf 8 x.toNat) = { w with arg := x } := by
  rw [Window.put, if_neg (by simpa using h)]
  refine w.fields w.op w.part x (bytesOf 4 w.status ++ List.replicate 44 0) ?_
  rw [Window.bytes, List.append_assoc, List.append_assoc]
  exact (mapIdx_overwrite (bytesOf 4 w.op.toNat ++ bytesOf 4 w.part.toNat) (bytesOf 8 w.arg.toNat) _ (bytesOf 8 x.toNat) rfl).trans
    (List.append_assoc ..)

/-! ### Bring-up and the ports (R389, R390) -/

theorem vmapIdx_getD {α β : Type} {n : Nat} (f : Nat → α → β) (v : Vector α n) {i : Nat} (hi : i < n) (d : α) (e : β) :
    (vmapIdx f v).getD i e = f i (v.getD i d) := by
  simp [vmapIdx, Vector.getD, hi]

/-- Self-test ends: the status words and the fenced decks. -/
theorem execPowerOn_spec {s : State} (h : s.status.getD 0 0 = 0) (fenced gddr ports cause : Nat) :
    let why := if cause = 0 then (if gddr % 2 ^ 32 = 0 then 0 else 2) else min cause 5
    ∃ s', execPowerOn fenced gddr ports cause s = .next s' ∧
      s'.status.toList = [if why = 0 then 1 else 2, BitVec.ofNat 32 (fenced % 2 ^ 24), BitVec.ofNat 32 gddr,
        BitVec.ofNat 32 (ports % 256 + why * 2 ^ 24)] ∧
      (∀ d, d < 24 → (s'.deck d).fenced = fenced.testBit d) ∧ s'.threads = s.threads ∧ s'.mem = s.mem := by
  have hwhy : (if cause == 0 && gddr % 2 ^ 32 != 0 then 2 else min cause 5) =
      if cause = 0 then (if gddr % 2 ^ 32 = 0 then 0 else 2) else min cause 5 := by
    by_cases hc : cause = 0 <;> simp [hc]
  dsimp only
  rw [execPowerOn, if_neg (by rw [h]; decide), ← hwhy]
  refine ⟨_, rfl, ?_, fun d hd => congrArg Deck.fenced (vmapIdx_getD _ s.decks hd Deck.reset Deck.reset), rfl, rfl⟩
  simp

/-- A port that has failed is down; the others are as they were. -/
theorem portStatus (w : Word) (port : Nat) :
    (w &&& ~~~(1#32 <<< port)).getLsbD port = false ∧ ∀ i, i ≠ port → (w &&& ~~~(1#32 <<< port)).getLsbD i = w.getLsbD i := by
  refine ⟨by simp, fun i hi => ?_⟩
  by_cases hi32 : i < 32
  · by_cases hlt : i < port
    · simp [hi32, hlt]
    · simp [hi32, hlt, show i - port ≠ 0 by omega]
  · simp [BitVec.getLsbD_of_ge _ _ (Nat.not_lt.mp hi32)]
/-- A command that needs a failed port ends, when it can. -/
def State.failFabric (s : State) (c : Cmd) : State :=
  match s.fabricReady c.id with
  | some x => if x.kind == .coll then s.collDo x false else s.rflushDo x false
  | none => s
theorem State.failFabric_outside (s : State) (c : Cmd) : (s.failFabric c).outside = s.outside := by
  unfold State.failFabric
  split
  · split
    · exact s.collDo_outside _ _
    · exact s.rflushDo_outside _ _
  · rfl
/-- The state with a port down. -/
def State.portDown (s : State) (port : Nat) : State :=
  { s with status := s.status.setIfInBounds 3 (s.status.getD 3 0 &&& ~~~(1#32 <<< port)) }
theorem execPortFailure_eq (s : State) {port : Nat} (h : port < 8) : execPortFailure port s =
    .next ((s.cmds.filter fun c => (c.kind == .coll || c.kind == .rflush) && Config.usesPort c.id port).foldl State.failFabric (s.portDown port)) := by
  rw [execPortFailure, if_neg (by omega)]
  rfl
theorem execPortFailure_spec (s : State) {port : Nat} (h : port < 8) :
    ∃ s', execPortFailure port s = .next s' ∧ (s'.status.getD 3 0).getLsbD port = false ∧
      (∀ i, i ≠ port → (s'.status.getD 3 0).getLsbD i = (s.status.getD 3 0).getLsbD i) ∧
      ((∀ c ∈ s.cmds, c.kind ≠ .coll ∧ c.kind ≠ .rflush) → s'.cmds = s.cmds ∧ s'.threads = s.threads ∧ s'.mem = s.mem) := by
  refine ⟨_, execPortFailure_eq s h, ?_⟩
  have hstatus (cs : List Cmd) : (cs.foldl State.failFabric (s.portDown port)).status.getD 3 0 = s.status.getD 3 0 &&& ~~~(1#32 <<< port) := by
    have hkept : (cs.foldl State.failFabric (s.portDown port)).status = (s.portDown port).status :=
      congrArg Prod.fst (foldl_keeps State.outside State.failFabric_outside cs (s.portDown port))
    rw [hkept]
    simp [State.portDown, Vector.getD]
  rw [hstatus]
  refine ⟨(portStatus _ port).1, (portStatus _ port).2, fun hkinds => ?_⟩
  have hnone : (s.cmds.filter fun c => (c.kind == .coll || c.kind == .rflush) && Config.usesPort c.id port) = [] :=
    List.filter_eq_nil_iff.mpr fun c hc => by simp [hkinds c hc]
  rw [hnone]
  exact ⟨rfl, rfl, rfl⟩

/-! ### Samples of heat and current (R379 to R382) -/

/-- A sample goes to probes alone. -/
theorem State.sample_core (s : State) (core src v c : Nat) :
    ((s.sample core src v).core c).allow = (s.core c).allow ∧ ((s.sample core src v).core c).eff = (s.core c).eff := by
  unfold State.sample
  by_cases hc : c = core
  · subst hc
    by_cases h : c < 384
    · rw [State.core_updCore_same _ h]; exact ⟨rfl, rfl⟩
    · simp [State.core, State.updCore, Vector.getD, h]
  · rw [State.core_updCore_ne _ hc]; exact ⟨rfl, rfl⟩
/-- What samples leave: allowances and budgets, decks, threads and memory. -/
def State.unsampled (s : State) : (Nat → Nat × Nat) × Vector Deck 24 × List Thread × List Host.Cell :=
  (fun c => ((s.core c).allow, (s.core c).eff), s.decks, s.threads, s.mem)
theorem State.sample_unsampled (s : State) (core src v : Nat) : (s.sample core src v).unsampled = s.unsampled := by
  have hcore : (fun c => (((s.sample core src v).core c).allow, ((s.sample core src v).core c).eff)) = fun c => ((s.core c).allow, (s.core c).eff) :=
    funext fun c => Prod.ext (s.sample_core core src v c).1 (s.sample_core core src v c).2
  exact Prod.ext hcore rfl

/-- Of the decks of a pier those from a site up count. -/
theorem foldl_max_drop (f : Nat → Nat) {d : Nat} (hd : d < 6) :
    ((List.range 6).drop d).foldl (fun m e => max m (f e)) 0 = ((List.range 6).map fun e => if d ≤ e then f e else 0).foldl max 0 := by
  interval_cases d <;> simp [List.range_succ]


theorem State.setAllow_core (s : State) (pier : Nat) {c : Nat} (hc : c < 384) :
    ((s.setAllow pier).core c).allow = if pierOf c = pier then s.allowOf pier (deckOf c % 6) else (s.core c).allow := by
  have h := vmapIdx_getD (fun i k => if pierOf i == pier then { k with allow := s.allowOf pier (deckOf i % 6) } else k) s.cores hc
    Core.reset Core.reset
  refine (congrArg Core.allow h).trans ?_
  by_cases hp : pierOf c = pier
  · simp [hp]
  · simp [hp]; rfl
/-- The state in which the samples of a deck are taken. -/
def State.heated (s : State) (deck reading : Nat) : State := (s.updDeck deck fun k => k.sampled (min reading 255)).setAllow (deck / 6)
theorem State.heated_deck (s : State) (deck reading : Nat) (h : deck < 24) (e : Nat) :
    (s.heated deck reading).deck e = if e = deck then (s.deck deck).sampled (min reading 255) else s.deck e := by
  show (s.updDeck deck fun k => k.sampled (min reading 255)).deck e = if e = deck then _ else _
  split
  next he => rw [he, State.deck_updDeck_same _ h]
  next he => exact State.deck_updDeck_ne s he _
theorem execThermalSample_eq (s : State) {deck : Nat} (h : deck < 24) (reading : Nat) : execThermalSample deck reading s =
    .next ((List.range 16).foldl (fun s i => s.sample (16 * deck + i) 3 (s.deck deck).temp) (s.heated deck reading)) := by
  rw [execThermalSample, if_neg (by omega)]
  rfl
/-- ALLOW of the cores of a deck site (R381), by the temperatures of the decks from it up. -/
theorem State.allowOf_eq (s : State) (pier : Nat) {d : Nat} (hd : d < 6) : s.allowOf pier d =
    max 16 (256 - ((List.range 6).map fun e => if d ≤ e then 32 * ((s.deck (6 * pier + e)).temp - 80) / 2 ^ (e - d) else 0).foldl max 0) := by
  rw [State.allowOf, ← foldl_max_drop _ hd]
  simp only [penalty, Nat.shiftRight_eq_div_pow]
theorem execThermalSample_spec (s : State) (deck reading : Nat) (h : deck < 24) :
    let d := s.deck deck
    let T := match d.ovr with | some x => x | none => min reading 255
    let temp (e : Nat) : Nat := if e = deck then T else (s.deck e).temp
    ∃ s', execThermalSample deck reading s = .next s' ∧ (s'.deck deck).temp = T ∧ (s'.deck deck).clk = (d.clk / 65536 + 1) * 65536 ∧
      (s'.deck deck).double = (if T ≤ 82 then false else d.double || decide (85 < d.temp)) ∧ s'.threads = s.threads ∧ s'.mem = s.mem ∧
      ∀ c, c < 384 → (s'.core c).allow = if c / 96 = deck / 6 then
          let worst := ((List.range 6).map fun e => if c / 16 % 6 ≤ e then 32 * (temp (6 * (deck / 6) + e) - 80) / 2 ^ (e - c / 16 % 6) else 0).foldl max 0
          max 16 (256 - worst)
        else (s.core c).allow := by
  intro d T temp
  refine ⟨_, execThermalSample_eq s h reading, ?_⟩
  generalize hs : (List.range 16).foldl (fun s i => s.sample (16 * deck + i) 3 (s.deck deck).temp) (s.heated deck reading) = s'
  have kept : s'.unsampled = (s.heated deck reading).unsampled :=
    hs ▸ foldl_keeps State.unsampled (fun s i => s.sample_unsampled _ _ _) (List.range 16) (s.heated deck reading)
  simp only [State.unsampled, Prod.mk.injEq] at kept
  obtain ⟨hcores, hdecks, hthreads, hmem⟩ := kept
  have hT : T = d.ovr.getD (min reading 255) := by
    show (match d.ovr with | some x => x | none => min reading 255) = _
    cases d.ovr <;> rfl
  have hdeck : s'.deck deck = d.sampled (min reading 255) := by
    rw [State.deck, hdecks, ← State.deck, State.heated_deck s deck reading h, if_pos rfl]
  rw [hdeck]
  refine ⟨hT.symm, rfl, ?_, hthreads, hmem, fun c hc => ?_⟩
  · rw [Deck.sampled, ← hT]
    by_cases hcool : T ≤ 82
    · simp [hcool]
    · simp [hcool, Bool.or_comm]
  · have hallow : (s'.core c).allow = ((s.heated deck reading).core c).allow := congrArg Prod.fst (congrFun hcores c)
    rw [hallow, State.heated, State.setAllow_core _ _ hc]
    show (if c / 96 = deck / 6 then _ else _) = _
    split
    · have htemp (e : Nat) : ((s.updDeck deck fun k => k.sampled (min reading 255)).deck e).temp = temp e := by
        rw [show (s.updDeck deck fun k => k.sampled (min reading 255)).deck e = _ from State.heated_deck s deck reading h e]
        show _ = if e = deck then T else (s.deck e).temp
        split
        · exact hT.symm
        · rfl
      rw [State.allowOf_eq _ _ (Nat.mod_lt _ (by decide))]
      simp only [htemp]
      rfl
    · rfl

/-- A core that a regulator feeds. -/
def State.fedBy (s : State) (reg d : Nat) : Prop := ∃ p ∈ s.parts.toList, p.defined = true ∧ d ∈ p.feeds reg
theorem State.mem_fedDecks (s : State) (reg d : Nat) :
    d ∈ (s.parts.toList.flatMap fun p => if p.defined then p.feeds reg else []) ↔ s.fedBy reg d := by
  simp only [List.mem_flatMap, State.fedBy]
  refine exists_congr fun p => and_congr_right fun _ => ?_
  cases p.defined <;> simp
theorem Core.limit_eff (k : Core) (current limit : Nat) (h : k.auto = true) : (k.limit current limit).eff =
    if limit < current then max (k.eff - 1) 4 else if current * 10 < limit * 9 then min (k.eff + 1) k.cap else k.eff := by
  rw [Core.limit, if_neg (by simp [h])]
  split
  · rfl
  · split <;> rfl
theorem execRegulatorSample_spec (s : State) (reg current limit : Nat) (h : reg < 4) :
    ∃ s', execRegulatorSample reg current limit s = .next s' ∧ s'.threads = s.threads ∧ s'.mem = s.mem ∧ ∀ c, c < 384 →
      let k := s.core c
      (s.fedBy reg (c / 16) → k.auto = true → (s'.core c).eff = if limit < current then max (k.eff - 1) 4
        else if current * 10 < limit * 9 then min (k.eff + 1) k.cap else k.eff) ∧
      (¬s.fedBy reg (c / 16) ∨ k.auto = false → (s'.core c).eff = k.eff) := by
  rw [execRegulatorSample, if_neg (by omega)]
  refine ⟨_, rfl, ?_⟩
  dsimp only
  have hfed (c : Nat) : (s.parts.toList.flatMap fun p => if p.defined then p.feeds reg else []).contains (deckOf c) = true ↔ s.fedBy reg (c / 16) := by
    rw [List.contains_iff_mem]; exact s.mem_fedDecks reg (c / 16)
  generalize (s.parts.toList.flatMap fun p => if p.defined then p.feeds reg else []) = decks at hfed ⊢
  generalize hs : List.foldl (fun s c => State.sample s c 4 current) _ _ = s'
  have kept := hs ▸ foldl_keeps State.unsampled (fun s c => s.sample_unsampled c 4 current) _ _
  simp only [State.unsampled, Prod.mk.injEq] at kept
  obtain ⟨hcores, -, hthreads, hmem⟩ := kept
  refine ⟨hthreads, hmem, fun c hc => ?_⟩
  have heff : (s'.core c).eff = (if decks.contains (deckOf c) then (s.core c).limit current limit else s.core c).eff :=
    (congrArg Prod.snd (congrFun hcores c)).trans (congrArg Core.eff (vmapIdx_getD _ s.cores hc Core.reset Core.reset))
  rw [heff]
  refine ⟨fun hf ha => ?_, fun hn => ?_⟩
  · rw [if_pos ((hfed c).mpr hf), Core.limit_eff _ _ _ ha]
  · split
    next hd =>
      obtain hn | ha := hn
      · exact absurd ((hfed c).mp hd) hn
      · rw [Core.limit, if_pos (by simp [ha])]
    next => rfl

/-! ### The obligation -/

/-- A store of the host to plain memory that it reaches (R172, R388). -/
theorem execHostAccess_store {s : State} {addr : Nat} {bs : List Byte}
    (hreach : (s.status.getD 0 0 = 1 ∧ addr + bs.length ≤ 224 * 2 ^ 30) ∨
      (Config.hostBase ≤ addr ∧ addr + bs.length ≤ Config.hostBase + Config.hostSize))
    (h : s.Plain ((List.range bs.length).map fun i => .phys (addr + i))) :
    ∃ s', exec (.hostAccess addr bs) s = .next s' ∧ Wrote s s' ((List.range bs.length).map fun i => .phys (addr + i)) bs ∧ SameRegs s s' := by
  have hmem : addr < Config.bar0Base := by
    simp only [Config.hostBase, Config.hostSize, Config.bar0Base] at hreach ⊢
    omega
  have hr : s.hostReaches addr bs.length = true := by
    simpa only [State.hostReaches, State.running, Bool.or_eq_true, Bool.and_eq_true, beq_iff_eq, decide_eq_true_eq] using hreach
  refine ⟨_, (exec_hostAccess_memory s bs hmem).trans (congrArg _ (if_pos hr)), State.wrote_perform h (by simp), State.sameRegs_perform h bs⟩
/-- Beyond what it reaches, the host's store does nothing. -/
theorem execHostAccess_beyond {s : State} {addr : Nat} {bs : List Byte}
    (hdevice : s.status.getD 0 0 ≠ 1 ∨ 224 * 2 ^ 30 < addr + bs.length)
    (hhost : addr < Config.hostBase ∨ Config.hostBase + Config.hostSize < addr + bs.length) (hmem : addr < Config.bar0Base) :
    exec (.hostAccess addr bs) s = .next s := by
  have hr : ¬s.hostReaches addr bs.length = true := by
    simp only [State.hostReaches, State.running, Bool.or_eq_true, Bool.and_eq_true, beq_iff_eq, decide_eq_true_eq]
    rintro (⟨hrun, hle⟩ | ⟨hlo, hhi⟩)
    · exact hdevice.elim (· hrun) (Nat.not_lt.mpr hle)
    · exact hhost.elim (Nat.not_lt.mpr hlo) (Nat.not_lt.mpr hhi)
  exact (exec_hostAccess_memory s bs hmem).trans (congrArg _ (if_neg hr))

/-- Settles O49: BAR0 by its ranges of offsets, memory by what a performing write leaves, a failed port by what the engines leave, and
the samples by the fields they change. -/
theorem hostBringUpAndSamples : Obligations.HostBringUpAndSamples := by
  unfold Obligations.HostBringUpAndSamples
  refine ⟨⟨fun s addr bs => ⟨execHostAccess_store, execHostAccess_beyond⟩, fun s off bs hbs => ?bar0,
    fun s fenced gddr ports cause => ⟨fun h => execPowerOn_spec h fenced gddr ports cause, fun h => congrArg _ (if_pos (by simpa using h))⟩,
    fun s w => rfl, fun s port => ⟨fun h => congrArg _ (if_pos h), execPortFailure_spec s⟩⟩,
    fun s deck reading h => execThermalSample_spec s deck reading h,
    fun s reg current limit h => execRegulatorSample_spec s reg current limit h⟩
  case bar0 =>
    have hwrite := exec_hostAccess_bar0 s off hbs
    refine ⟨s.bar0Byte_status, s.bar0Byte_window, s.bar0Byte_elsewhere, ?go, ?doorbell, ?mailbox, ?arg, ?word, fun h => ?elsewhere⟩
    case go =>
      rintro rfl rfl
      exact hwrite.trans s.bar0Write_go
    case doorbell =>
      rintro p q hp hq rfl
      exact hwrite.trans (s.bar0Write_doorbell bs hp hq)
    case mailbox =>
      rintro rfl
      exact hwrite
    case arg =>
      rintro x hfree rfl rfl
      exact hwrite.trans ((s.bar0Write_window _ (by decide) (by decide)).trans
        (congrArg (fun w => Host.Outcome.next { s with window := w }) (Window.put_arg hfree x)))
    case word =>
      rintro x hfree rfl
      constructor
      · rintro rfl
        exact hwrite.trans ((s.bar0Write_window _ (by decide) (by decide)).trans
          (congrArg (fun w => Host.Outcome.next { s with window := w }) (Window.put_op hfree x)))
      · rintro rfl
        exact hwrite.trans ((s.bar0Write_window _ (by decide) (by decide)).trans
          (congrArg (fun w => Host.Outcome.next { s with window := w }) (Window.put_part hfree x)))
    case elsewhere => exact hwrite.trans (s.bar0Write_elsewhere bs h)

end Sys2Proof.Machine

/-!
The command window (R373, R374): how a command begins, and that what it reads does not depend on the window.
-/
namespace Sys2Proof.Machine

/-! ### What is read through memory -/

theorem State.part_congr {s s' : State} (h : s'.parts = s.parts) : s'.part = s.part := by
  funext p; rw [State.part, h]; rfl
theorem State.deck_congr {s s' : State} (h : s'.decks = s.decks) : s'.deck = s.deck := by
  funext d; rw [State.deck, h]; rfl

section
variable {s s' : State} (hb : ∀ a, s'.getLoc (.phys a) = s.getLoc (.phys a)) (hp : s'.parts = s.parts)
include hb
theorem State.physBytes_congr (a n : Nat) : s'.physBytes a n = s.physBytes a n := by simp only [State.physBytes, hb]
theorem State.byteAt_congr : s'.byteAt = s.byteAt := funext hb
theorem State.leaves0_congr (asid : Nat) : s'.leaves0 asid = s.leaves0 asid := by
  funext va base
  simp only [State.leaves0, State.physNat_congr hb]
theorem State.leavesOf_congr (count size : Nat) (root : Bool) (next : Nat → Nat → List PageLeaf) (asid : Nat) :
    s'.leavesOf count size root next asid = s.leavesOf count size root next asid := by
  funext va base
  simp only [State.leavesOf, State.physNat_congr hb]
theorem State.freeFrames_congr (p : Part) (l : DWord) : s'.freeFrames p l = s.freeFrames p l := by
  simp only [State.freeFrames, State.byteAt_congr hb]
theorem State.spillFrames_congr (p : Part) : s'.spillFrames p = s.spillFrames p := by
  simp only [State.spillFrames, State.freeFrames_congr hb]
theorem State.poolFrames_congr (p : Part) (avoid : List Nat) : s'.poolFrames p avoid = s.poolFrames p avoid := by
  simp only [State.poolFrames, State.freeFrames_congr hb]
include hp
theorem State.leaves_congr (part : Nat) : s'.leaves part = s.leaves part := by
  simp only [State.leaves, State.part_congr hp, State.physNat_congr hb, State.leavesOf_congr hb, State.leaves0_congr hb]
theorem State.framesLeft_congr (part : Nat) (b : List Byte) : s'.framesLeft part b = s.framesLeft part b := by
  simp only [State.framesLeft, State.framesIn, State.leaves_congr hb hp, State.part_congr hp]
theorem State.frameRoom_congr (part : Nat) (b : List Byte) : s'.frameRoom part b = s.frameRoom part b := by
  simp only [State.frameRoom, State.poolFrames_congr hb, State.spillFrames_congr hb, State.part_congr hp]
end

section
variable {s s' : State}
theorem State.coolest_congr (hd : s'.decks = s.decks) (l : List Nat) : s'.coolest l = s.coolest l := by
  induction l with
  | nil => rfl
  | cons d r ih => simp only [State.coolest, ih, State.deck_congr hd]
theorem State.coolFrames_congr (hb : ∀ a, s'.getLoc (.phys a) = s.getLoc (.phys a)) (hd : s'.decks = s.decks) (p : Part) (avoid : List Nat) :
    s'.coolFrames p avoid = s.coolFrames p avoid := by
  simp only [State.coolFrames, State.coolest_congr hd, State.freeFrames_congr hb]
theorem State.rolesOk_congr (hp : s'.parts = s.parts) (part decks roles : Nat) : s'.rolesOk part decks roles = s.rolesOk part decks roles := by
  simp only [State.rolesOk, State.part_congr hp]
theorem State.partitionRefused_congr (hp : s'.parts = s.parts) (hd : s'.decks = s.decks) (part : Nat) (b : List Byte) :
    s'.partitionRefused part b = s.partitionRefused part b := by
  simp only [State.partitionRefused, State.rolesOk_congr hp, State.part_congr hp, State.deck_congr hd]
end

/-! ### The window -/

section
variable (s : State) (w : Window)
/-- Nothing of memory or of the on-chip windows shows the command window. -/
theorem State.getLoc_phys_window (a : Nat) : ({ s with window := w } : State).getLoc (.phys a) = s.getLoc (.phys a) :=
  State.getLoc_phys_congr rfl fun _ _ => rfl
theorem State.sameMem_window : SameMem s { s with window := w } := State.getLoc_of_storage rfl rfl rfl
theorem State.physBytes_window (a n : Nat) : ({ s with window := w } : State).physBytes a n = s.physBytes a n :=
  State.physBytes_congr (s.getLoc_phys_window w) a n
theorem State.byteAt_window : ({ s with window := w } : State).byteAt = s.byteAt := State.byteAt_congr (s.getLoc_phys_window w)
theorem State.walk_window (p : Part) (asid va : Nat) : ({ s with window := w } : State).walk p asid va = s.walk p asid va :=
  State.walk_congr (s.getLoc_phys_window w) p asid va
theorem State.framesLeft_window (part : Nat) (b : List Byte) : ({ s with window := w } : State).framesLeft part b = s.framesLeft part b :=
  State.framesLeft_congr (s.getLoc_phys_window w) rfl part b
theorem State.frameRoom_window (part : Nat) (b : List Byte) : ({ s with window := w } : State).frameRoom part b = s.frameRoom part b :=
  State.frameRoom_congr (s.getLoc_phys_window w) rfl part b
theorem State.coolFrames_window (p : Part) (avoid : List Nat) : ({ s with window := w } : State).coolFrames p avoid = s.coolFrames p avoid :=
  State.coolFrames_congr (s.getLoc_phys_window w) rfl p avoid
theorem State.rolesOk_window (part decks roles : Nat) : ({ s with window := w } : State).rolesOk part decks roles = s.rolesOk part decks roles :=
  State.rolesOk_congr rfl part decks roles
theorem State.partitionRefused_window (part : Nat) (b : List Byte) :
    ({ s with window := w } : State).partitionRefused part b = s.partitionRefused part b := State.partitionRefused_congr rfl rfl part b
end

/-! ### The beginning of a command -/

section
variable {s : State} {part : Nat} {arg : DWord} (hfree : s.window.status ≠ 0) (op n : Nat) (go : Bool → State → State)
include hfree
/-- A module that does not run ends every command with BERTHED. -/
theorem State.hostCommand_berthed (hrun : s.status.getD 0 0 ≠ 1) :
    s.hostCommand op n part arg go = (s.openWindow op part arg n).endCommand 4 := by
  have hstopped : (!(s.openWindow op part arg n).running) = true := by
    show (!(s.status.getD 0 0 == 1)) = true
    simpa using hrun
  rw [State.hostCommand]
  simp only [beq_iff_eq, hfree, if_false, hstopped, if_true]
/-- GO starts the command. -/
theorem State.hostCommand_starts (hrun : s.status.getD 0 0 = 1) (hfits : part < 4 ∧ arg.toNat + n ≤ Config.hostSize) :
    s.hostCommand op n part arg go = go true (s.openWindow op part arg n) := by
  have hruns : ¬(!(s.openWindow op part arg n).running) = true := by
    show ¬(!(s.status.getD 0 0 == 1)) = true
    rw [hrun]; decide
  have hin : ¬(decide (4 ≤ part) || decide (Config.hostSize < arg.toNat + n)) = true := by
    simp only [Bool.or_eq_true, decide_eq_true_eq]
    omega
  rw [State.hostCommand]
  simp only [beq_iff_eq, hfree, if_false]
  rw [if_neg hruns, if_neg hin]
end
/-- A command that waits tries again. -/
theorem State.hostCommand_waits {s : State} {op part : Nat} {arg : DWord} (hbusy : s.window.status = 0) (hop : s.window.op.toNat = op)
    (hpart : s.window.part.toNat = part) (harg : s.window.arg = arg) (n : Nat) (go : Bool → State → State) :
    s.hostCommand op n part arg go = go false s := by
  rw [State.hostCommand]
  simp only [hbusy, hop, hpart, harg, beq_self_eq_true, Bool.and_self, if_true]

end Sys2Proof.Machine

/-!
Page migration (R374, R383): the marking and the move of a frame.
-/
namespace Sys2Proof.Machine

/-! ### What a write of table entries leaves -/

/-- The partitions, and what the host sees beside memory. -/
def State.settings (s : State) : Vector Part 4 × Vector Word 4 × Window := (s.parts, s.outside)

/-- Bytes of device-physical addresses. -/
def PhysOnly (ls : List Loc) : Prop := ∀ l ∈ ls, ∃ a, l = .phys a
theorem physOnly_range (a n : Nat) : PhysOnly ((List.range n).map fun i => .phys (a + i)) := fun l hl => by
  obtain ⟨i, -, rfl⟩ := List.mem_map.mp hl
  exact ⟨a + i, rfl⟩
theorem State.setLocs_parts {ls : List Loc} (h : PhysOnly ls) : ∀ (s : State) (bs : List Byte), (s.setLocs ls bs).parts = s.parts := by
  induction ls with
  | nil => intro s bs; cases bs <;> rfl
  | cons l ls ih =>
    intro s bs
    cases bs with
    | nil => rfl
    | cons b bs =>
      obtain ⟨a, rfl⟩ := h l List.mem_cons_self
      refine (ih (fun x hx => h x (List.mem_cons_of_mem _ hx)) _ _).trans ?_
      unfold State.setLoc
      dsimp only
      split
      · exact s.chipSet_parts _ _ _
      · rfl
theorem State.perform_settings {ls : List Loc} (h : PhysOnly ls) (s : State) (bs : List Byte) : (s.perform ls bs).settings = s.settings := by
  obtain ⟨seen, told, rings, hp⟩ := s.perform_eq ls bs
  have hparts : (s.perform ls bs).parts = s.parts := by rw [hp]; exact State.setLocs_parts h s bs
  exact Prod.ext hparts (s.perform_outside ls bs)

theorem State.setPte_settings (s : State) (a e : Nat) : (s.setPte a e).settings = s.settings := State.perform_settings (physOnly_range a 8) s _
theorem State.setTable_settings (s : State) (a : Nat) (es : List Nat) : (s.setTable a es).settings = s.settings :=
  foldl_keeps State.settings (fun s _ => s.setPte_settings _ _) _ s
theorem State.split2m_settings (s : State) (a e k : Nat) : (s.split2m a e k).settings = s.settings :=
  (State.setPte_settings _ _ _).trans (s.setTable_settings _ _)
theorem State.splitPage_settings (s : State) (l : Leaf) : (s.splitPage l).settings = s.settings := by
  unfold State.splitPage
  dsimp only
  split
  · exact State.setTable_settings _ _ _
  · split
    · exact State.split2m_settings _ _ _ _
    · split
      · exact (foldl_keeps State.settings (fun s _ => s.split2m_settings _ _ _) _ _).trans
          ((State.setPte_settings _ _ _).trans (State.setTable_settings _ _ _))
      · rfl
theorem State.splitFor_settings (s : State) (part f : Nat) : (s.splitFor part f).settings = s.settings := by
  rw [State.splitFor]
  exact foldl_keeps State.settings (fun s (l : PageLeaf) => s.splitPage_settings l.leaf) _ s
theorem State.invalidate_settings (s : State) (r : Removal) : (s.invalidate r).settings = s.settings := rfl
theorem State.setLeaves_settings (s : State) (part f : Nat) (g : Nat → Nat) : (s.setLeaves part f g).settings = s.settings :=
  foldl_keeps State.settings (fun s _ => (State.invalidate_settings _ _).trans (s.setPte_settings _ _)) _ s
theorem State.window_of_settings {s s' : State} (h : s'.settings = s.settings) : s'.window = s.window := congrArg (fun x => x.2.2) h
theorem State.part_of_settings {s s' : State} (h : s'.settings = s.settings) : s'.part = s.part := State.part_congr (congrArg Prod.fst h)

/-! ### Marking (R383) -/

section
variable {part : Nat} (hp : part < 4)
include hp
theorem State.markFrame_part (s : State) (f x : Nat) (spill : Bool) : ((s.markFrame part f x spill).part part) =
    { s.part part with moving := (s.part part).moving ++ [(f, x, spill)], taken := x :: (s.part part).taken } := by
  have hkept : ((s.splitFor part f).setLeaves part f pteSetMig).part part = s.part part :=
    congrFun (State.part_of_settings ((State.setLeaves_settings _ _ _ _).trans (s.splitFor_settings part f))) part
  rw [State.markFrame, State.part_updPart_same _ hp, hkept]
omit hp in
theorem State.markFrame_window (s : State) (f x : Nat) (spill : Bool) : (s.markFrame part f x spill).window = s.window := by
  rw [State.markFrame, State.updPart_window]
  exact State.window_of_settings ((State.setLeaves_settings _ part f pteSetMig).trans (s.splitFor_settings part f))
/-- Frames are marked in order, each at most once, and the window stays. -/
theorem State.markFrames_moving {place : State → Option (Nat × Bool)} (hplace : ∀ s x, place s = some x → x.2 = false) (l : List Nat) :
    ∀ s : State, (s.markFrames part place l).window = s.window ∧
      ∃ more, ((s.markFrames part place l).part part).moving = (s.part part).moving ++ more ∧ (∀ m ∈ more, m.1 ∈ l ∧ m.2.2 = false) ∧
        more.length ≤ l.length := by
  induction l with
  | nil => exact fun s => ⟨rfl, [], (List.append_nil _).symm, by simp, by simp⟩
  | cons f r ih =>
    intro s
    rw [State.markFrames]
    split
    next x hx =>
      obtain ⟨hw, more, hmoving, hmem, hlen⟩ := ih (s.markFrame part f x.1 x.2)
      refine ⟨hw.trans (s.markFrame_window f _ _), (f, x.1, x.2) :: more, ?_, ?_, by simpa using hlen⟩
      · rw [hmoving, State.markFrame_part hp]
        simp
      · intro m hm
        obtain rfl | hm := List.mem_cons.mp hm
        · exact ⟨List.mem_cons_self, hplace s x hx⟩
        · exact ⟨List.mem_cons_of_mem _ (hmem m hm).1, (hmem m hm).2⟩
    next =>
      have hkept := (State.setLeaves_settings _ part f pteClearV).trans (s.splitFor_settings part f)
      obtain ⟨hw, more, hmoving, hmem, hlen⟩ := ih ((s.splitFor part f).setLeaves part f pteClearV)
      rw [State.part_of_settings hkept] at hmoving
      exact ⟨hw.trans (State.window_of_settings hkept), more, hmoving, fun m hm => ⟨List.mem_cons_of_mem _ (hmem m hm).1, (hmem m hm).2⟩,
        by simp only [List.length_cons]; omega⟩
end
theorem State.coolFrame_eq (s : State) (part : Nat) : s.coolFrame part = (s.coolFrames (s.part part) []).head?.map fun f => (f, false) := rfl
theorem State.coolFrame_stays {s : State} {part : Nat} {x : Nat × Bool} (h : s.coolFrame part = some x) : x.2 = false := by
  obtain ⟨f, -, rfl⟩ := Option.map_eq_some_iff.mp h
  rfl

/-! ### The coolest deck (R383) -/

theorem State.coolest_spec (s : State) (l : List Nat) : ∀ d, s.coolest l = some d → d ∈ l ∧ ∀ e ∈ l, (s.deck d).temp ≤ (s.deck e).temp := by
  induction l with
  | nil => intro d h; cases h
  | cons a r ih =>
    intro d h
    rw [State.coolest] at h
    cases hr : s.coolest r with
    | none =>
      rw [hr] at h
      cases h
      cases r with
      | nil => simp
      | cons b r =>
        rw [State.coolest] at hr
        split at hr
        · split at hr <;> cases hr
        · cases hr
    | some e =>
      obtain ⟨hmem, hmin⟩ := ih e hr
      rw [hr] at h
      dsimp only at h
      split at h
      next hlt =>
        cases h
        exact ⟨List.mem_cons_of_mem _ hmem, fun x hx => (List.mem_cons.mp hx).elim (fun h => h ▸ Nat.le_of_lt hlt) (hmin x)⟩
      next hle =>
        cases h
        exact ⟨List.mem_cons_self, fun x hx => (List.mem_cons.mp hx).elim (fun h => h ▸ Nat.le_refl _)
          fun h => Nat.le_trans (Nat.not_lt.mp hle) (hmin x h)⟩
/-- The frames for a page that firmware moves are free frames of MIGPOOL on a deck of the partition that is the coolest. -/
theorem State.mem_coolFrames {s : State} {p : Part} {x : Nat} (h : x ∈ s.coolFrames p []) :
    x ∈ s.freeFrames p p.migpool ∧ ∃ d ∈ p.deckList, frameSite x = some d ∧ ∀ e ∈ p.deckList, (s.deck d).temp ≤ (s.deck e).temp := by
  have hall : (p.deckList.filter fun d => !([] : List Nat).contains d) = p.deckList := by simp
  rw [State.coolFrames, hall] at h
  split at h
  next d hd =>
    obtain ⟨hfree, hsite⟩ := List.mem_filter.mp h
    obtain ⟨hmem, hmin⟩ := s.coolest_spec p.deckList d hd
    exact ⟨hfree, d, hmem, beq_iff_eq.mp hsite, hmin⟩
  next => cases h

/-! ### Registers -/

theorem SameRegs.refl (s : State) : SameRegs s s := SameRegs.of_threads rfl
/-- What a removal of translations leaves of a thread's monitors (R235). -/
def State.losing (s : State) (r : Removal) (t : Thread) : Thread :=
  let lose (m : Monitor) : Monitor := if s.removes r m.asid.toNat m.va.toNat then { m with lost := true } else m
  if s.partOf t.cid == r.part then { t with mon := t.mon.map lose, watched := t.watched.map lose } else t
theorem State.invalidate_threads (s : State) (r : Removal) : (s.invalidate r).threads = s.threads.map (s.losing r) := rfl
theorem State.losing_keeps (s : State) (r : Removal) (t : Thread) : (s.losing r t).cid = t.cid ∧ (s.losing r t).tid = t.tid ∧
    (s.losing r t).pc = t.pc ∧ (∀ q, (s.losing r t).reg q = t.reg q) ∧ (s.losing r t).halt = t.halt := by
  unfold State.losing
  dsimp only
  split
  · exact ⟨rfl, rfl, rfl, fun q => by cases q <;> rfl, rfl⟩
  · exact ⟨rfl, rfl, rfl, fun _ => rfl, rfl⟩
/-- What is removed from the caches shows in no register. -/
theorem State.sameRegs_invalidate (s : State) (r : Removal) : SameRegs s (s.invalidate r) :=
  SameRegs.of_map (s.invalidate_threads r) (fun t => ⟨(s.losing_keeps r t).1, (s.losing_keeps r t).2.1⟩) (fun t => (s.losing_keeps r t).2.2.1)
    fun t => (s.losing_keeps r t).2.2.2.1
/-- A write to plain storage leaves the threads as they are. -/
theorem State.setLocs_threads_of_holds {ls : List Loc} : ∀ {s : State} (bs : List Byte), (∀ l ∈ ls, s.holds l) →
    (s.setLocs ls bs).threads = s.threads := by
  induction ls with
  | nil => intro s bs _; cases bs <;> rfl
  | cons l ls ih =>
    intro s bs h
    cases bs with
    | nil => rfl
    | cons b bs =>
      have hl := h l List.mem_cons_self
      exact (ih bs fun x hx => (State.holds_setLoc hl b x).mpr (h x (List.mem_cons_of_mem _ hx))).trans (State.setLoc_threads_of_holds hl b)
/-- Entries of tables in device memory show in no register. -/
theorem State.sameRegs_setPte (s : State) {a : Nat} (h : ∀ i, i < 8 → chipCore (a + i) = none) (e : Nat) : SameRegs s (s.setPte a e) := by
  refine State.sameRegs_perform_of_threads (State.setLocs_threads_of_holds _ fun l hl => ?_)
  obtain ⟨i, hi, rfl⟩ := List.mem_map.mp hl
  exact h i (List.mem_range.mp hi)
theorem State.sameRegs_setLeaves (s : State) {part f : Nat} (g : Nat → Nat)
    (h : ∀ y ∈ s.leaves part, y.has f = true → ∀ i, i < 8 → chipCore (y.leaf.at_ + i) = none) : SameRegs s (s.setLeaves part f g) := by
  refine List.foldlRecOn (motive := fun r => SameRegs s r) _ _ (SameRegs.refl s) fun r hr l hl => ?_
  obtain ⟨hmem, hhas⟩ := List.mem_filter.mp hl
  exact hr.trans ((r.sameRegs_setPte (h l hmem hhas) _).trans (State.sameRegs_invalidate _ _))
/-- A page of 4 KiB is not split. -/
theorem State.splitFor_of_small {s : State} {part f : Nat} (h : ∀ y ∈ s.leaves part, y.has f = true → y.leaf.size = 4096) :
    s.splitFor part f = s := by
  have hnone : ((s.leaves part).filter fun l => l.has f && l.leaf.size != 4096) = [] :=
    List.filter_eq_nil_iff.mpr fun y hy => by
      intro hbig
      simp only [Bool.and_eq_true, bne_iff_ne] at hbig
      exact hbig.2 (h y hy hbig.1)
  rw [State.splitFor, hnone]
  rfl
theorem State.sameRegs_markFrame (s : State) {part f : Nat} (x : Nat) (spill : Bool)
    (h : ∀ y ∈ s.leaves part, y.has f = true → y.leaf.size = 4096 ∧ ∀ i, i < 8 → chipCore (y.leaf.at_ + i) = none) :
    SameRegs s (s.markFrame part f x spill) := by
  rw [State.markFrame, State.splitFor_of_small fun y hy hf => (h y hy hf).1]
  exact (s.sameRegs_setLeaves pteSetMig fun y hy hf => (h y hy hf).2).trans (SameRegs.of_threads (State.updPart_threads _ _ _))

end Sys2Proof.Machine

/-!
The end of a migration (R374, R383): a marked frame that nobody uses is copied, and its bytes stand in the new frame.
-/
namespace Sys2Proof.Machine

/-! ### Bytes of device memory -/

/-- Device memory with bytes stored at some addresses. -/
def Memory.storeAt : List Host.Cell → List Nat → List Byte → List Host.Cell
  | m, a :: as, b :: bs => Memory.storeAt (cellPut m a b) as bs
  | m, _, _ => m
theorem State.setLocs_phys {as : List Nat} (h : ∀ a ∈ as, chipCore a = none) : ∀ (s : State) (bs : List Byte),
    s.setLocs (as.map .phys) bs = { s with mem := Memory.storeAt s.mem as bs } := by
  induction as with
  | nil => intro s bs; cases bs <;> rfl
  | cons a as ih =>
    intro s bs
    cases bs with
    | nil => rfl
    | cons b bs =>
      have ha : s.setLoc (.phys a) b = { s with mem := cellPut s.mem a b } := by
        simp only [State.setLoc, h a List.mem_cons_self]
      rw [List.map_cons, State.setLocs, ha, ih fun x hx => h x (List.mem_cons_of_mem _ hx)]
      rfl
/-- Bytes of device memory are seen by whoever watches those bytes. -/
theorem State.map_canon_phys (s : State) {as : List Nat} (h : ∀ a ∈ as, chipCore a = none) : (as.map Loc.phys).map s.canon = as.map .phys := by
  rw [List.map_map]
  refine List.map_congr_left fun a ha => ?_
  simp only [Function.comp, State.canon, Loc.plain, h a ha]
theorem syncParts_phys (as : List Nat) : syncParts (as.map .phys) = [] := by
  simp [syncParts]
theorem State.perform_phys (s : State) {as : List Nat} (h : ∀ a ∈ as, chipCore a = none) (bs : List Byte) :
    s.perform (as.map .phys) bs = { s with
      mem := Memory.storeAt s.mem as bs, threads := s.threads.map (Thread.note (as.map .phys)), mbox := s.mbox.map (MbOp.note (as.map .phys)) } := by
  simp only [State.perform, State.setLocs_phys h, State.notify, State.map_canon_phys _ h, syncParts_phys]

@[simp] theorem State.chipSet_mem (s : State) (c o : Nat) (b : Byte) : (s.chipSet c o b).mem = s.mem := by
  unfold State.chipSet
  split
  case h_3 =>
    dsimp only
    split
    · rfl
    · split <;> rfl
  all_goals rfl
/-- A byte of device memory that a write does not name stays. -/
theorem State.memByte_setLocs {ls : List Loc} (hls : PhysOnly ls) {a : Nat} : ∀ {s : State} (bs : List Byte), s.Canon → .phys a ∉ ls →
    (s.setLocs ls bs).memByte a = s.memByte a := by
  induction ls with
  | nil => intro s bs _ _; cases bs <;> rfl
  | cons l ls ih =>
    intro s bs hc hn
    cases bs with
    | nil => rfl
    | cons b bs =>
      obtain ⟨x, rfl⟩ := hls l List.mem_cons_self
      rw [List.mem_cons, not_or] at hn
      refine (ih (fun y hy => hls y (List.mem_cons_of_mem _ hy)) bs (hc.setLoc _ b) hn.2).trans ?_
      unfold State.setLoc
      dsimp only
      split
      · rw [State.memByte, State.chipSet_mem]; rfl
      · rw [State.memByte_cellPut hc.1, if_neg fun he => hn.1 (congrArg Loc.phys he)]
theorem State.memByte_setPte {s : State} (hc : s.Canon) {a x : Nat} (h : ∀ i, i < 8 → x ≠ a + i) (e : Nat) :
    (s.setPte a e).memByte x = s.memByte x := by
  obtain ⟨seen, told, rings, hp⟩ := s.perform_eq ((List.range 8).map fun i => .phys (a + i)) (bytesOf 8 e)
  have hn : Loc.phys x ∉ (List.range 8).map fun i => Loc.phys (a + i) := fun hm => by
    obtain ⟨i, hi, he⟩ := List.mem_map.mp hm
    exact h i (List.mem_range.mp hi) (Loc.phys.inj he).symm
  have hbyte := State.memByte_setLocs (physOnly_range a 8) (bytesOf 8 e) hc hn
  rw [State.setPte, hp]
  exact hbyte
/-- Table entries that do not lie at an address leave its byte. -/
theorem State.memByte_setLeaves {s : State} (hc : s.Canon) {part f x : Nat} (g : Nat → Nat)
    (h : ∀ y ∈ s.leaves part, ∀ i, i < 8 → x ≠ y.leaf.at_ + i) : (s.setLeaves part f g).memByte x = s.memByte x := by
  refine (List.foldlRecOn (motive := fun r : State => r.Canon ∧ r.memByte x = s.memByte x) _ _ ⟨hc, rfl⟩ fun r hr l hl => ?_).2
  exact ⟨hr.1.setPte.invalidate, (State.memByte_setPte hr.1 (h l (List.mem_filter.mp hl).1) _).trans hr.2⟩

/-! ### A frame moves -/

theorem State.wakeMig_settings (s : State) : s.wakeMig.settings = s.settings := by
  unfold State.wakeMig
  dsimp only
  split <;> rfl
theorem State.wakeMig_mem (s : State) : s.wakeMig.mem = s.mem := by
  unfold State.wakeMig
  dsimp only
  split <;> rfl
/-- The frame's bytes stand in its new place; its leaves still name the old one. -/
def State.carried (s : State) (f x : Nat) : State :=
  ((s.copyMarks f x).movePools f x).perform ((List.range 4096).map fun i => .phys (x + i)) (s.physBytes f 4096)
/-- The leaf of a frame that has moved, or been spilled. -/
def movedLeaf (m : Nat × Nat × Bool) : Nat → Nat := fun e => if m.2.2 then pteClearV (pteClearMig e) else pteWithPa (pteClearMig e) m.2.1
theorem State.moveFrame_eq (s : State) (part : Nat) (m : Nat × Nat × Bool) : s.moveFrame part m =
    (((s.carried m.1 m.2.1).setLeaves part m.1 (movedLeaf m)).updPart part fun p => { p with moving := p.moving.filter (· != m) }).wakeMig := by
  unfold State.moveFrame State.carried movedLeaf
  rfl
theorem State.carried_settings (s : State) (f x : Nat) : (s.carried f x).settings = s.settings := by
  rw [State.carried, State.perform_settings (physOnly_range _ _), State.settings, State.settings]
  rfl
section
variable {part : Nat} (hp : part < 4)
include hp
theorem State.moveFrame_moving (s : State) (m : Nat × Nat × Bool) : (s.moveFrame part m).window = s.window ∧
    ((s.moveFrame part m).part part).moving = (s.part part).moving.filter (· != m) := by
  have hkept : ((s.carried m.1 m.2.1).setLeaves part m.1 (movedLeaf m)).settings = s.settings :=
    (State.setLeaves_settings _ _ _ _).trans (s.carried_settings _ _)
  rw [State.moveFrame_eq]
  refine ⟨by rw [State.window_of_settings (State.wakeMig_settings _), State.updPart_window, State.window_of_settings hkept], ?_⟩
  rw [State.part_of_settings (State.wakeMig_settings _), State.part_updPart_same _ hp, State.part_of_settings hkept]
/-- After some frames have moved they are no longer marked. -/
theorem State.foldl_moveFrame (l : List (Nat × Nat × Bool)) : ∀ s : State, (l.foldl (fun s m => s.moveFrame part m) s).window = s.window ∧
    ((l.foldl (fun s m => s.moveFrame part m) s).part part).moving = (s.part part).moving.filter fun m => !l.contains m := by
  induction l with
  | nil => exact fun s => ⟨rfl, by simp⟩
  | cons a l ih =>
    intro s
    obtain ⟨hw, hm⟩ := ih (s.moveFrame part a)
    obtain ⟨hw', hm'⟩ := s.moveFrame_moving hp a
    rw [List.foldl_cons]
    refine ⟨hw.trans hw', ?_⟩
    rw [hm, hm', List.filter_filter]
    refine List.filter_congr fun m _ => ?_
    by_cases he : m = a <;> simp [he]
/-- Where nobody uses a marked frame every one of them moves. -/
theorem State.moveFrames_all {s : State} (h : ∀ m ∈ (s.part part).moving, s.frameBusy m.1 = false) :
    (s.moveFrames part).window = s.window ∧ ((s.moveFrames part).part part).moving = [] := by
  obtain ⟨hw, hm⟩ := State.foldl_moveFrame hp ((s.part part).moving.filter fun m => !s.frameBusy m.1) s
  refine ⟨hw, hm.trans (List.filter_eq_nil_iff.mpr fun m hmem => ?_)⟩
  simp [hmem, h m hmem]
end
/-- Where somebody uses every marked frame none moves. -/
theorem State.moveFrames_none {s : State} {part : Nat} (h : ∀ m ∈ (s.part part).moving, s.frameBusy m.1 = true) : s.moveFrames part = s := by
  have hnone : ((s.part part).moving.filter fun m => !s.frameBusy m.1) = [] := List.filter_eq_nil_iff.mpr fun m hm => by simp [h m hm]
  rw [State.moveFrames, hnone]
  rfl

/-! ### Its bytes -/

section
variable {s : State} {f x : Nat}
theorem State.Plain.copied {ls : List Loc} (h : s.Plain ls) (f x : Nat) : ((s.copyMarks f x).movePools f x).Plain ls :=
  ⟨h.1, h.2.1, h.2.2.copyMarks.movePools⟩
/-- An on-chip byte depends on threads, troupes, companies, cores and the free choices. -/
theorem State.chipGet_congr {s s' : State} (ht : s'.threads = s.threads) (htr : s'.troupes = s.troupes) (hc : s'.companies = s.companies)
    (hk : s'.cores = s.cores) (hf : s'.fresh = s.fresh) (c o : Nat) : s'.chipGet c o = s.chipGet c o := by
  cases s
  cases s'
  dsimp only at ht htr hc hk hf
  subst ht htr hc hk hf
  rfl
/-- The parts of a state on which tables in memory depend. -/
structure SameTables (s s' : State) : Prop where
  mem : s'.mem = s.mem
  threads : s'.threads = s.threads
  troupes : s'.troupes = s.troupes
  companies : s'.companies = s.companies
  cores : s'.cores = s.cores
  parts : s'.parts = s.parts
  fresh : s'.fresh = s.fresh
theorem SameTables.leaves {s s' : State} (h : SameTables s s') (part : Nat) : s'.leaves part = s.leaves part :=
  State.leaves_congr (fun a => State.getLoc_phys_congr (by rw [State.memByte, h.mem]; rfl)
    (State.chipGet_congr h.threads h.troupes h.companies h.cores h.fresh)) h.parts part
theorem SameTables.perform {s s' : State} (h : SameTables s s') {as : List Nat} (ha : ∀ a ∈ as, chipCore a = none) (bs : List Byte) :
    SameTables (s.perform (as.map .phys) bs) (s'.perform (as.map .phys) bs) := by
  rw [State.perform_phys _ ha, State.perform_phys _ ha]
  exact ⟨by simp only [h.mem], by simp only [h.threads], h.troupes, h.companies, h.cores, h.parts, h.fresh⟩
/-- Where pools stand shows in no table. -/
theorem State.sameTables_movePools (s : State) (f x : Nat) : SameTables s (s.movePools f x) := ⟨rfl, rfl, rfl, rfl, rfl, rfl, rfl⟩
theorem State.carried_leaves {as : List Nat} (h : ∀ a ∈ as, chipCore a = none) (u : State) (f x : Nat) (bs : List Byte) (part : Nat) :
    ((u.movePools f x).perform (as.map .phys) bs).leaves part = (u.perform (as.map .phys) bs).leaves part :=
  ((u.sameTables_movePools f x).perform h bs).leaves part
end
theorem State.getLocs_of_memByte {s s' : State} {as : List Nat} (h : ∀ a ∈ as, chipCore a = none) (hm : ∀ a ∈ as, s'.memByte a = s.memByte a) :
    s'.getLocs (as.map .phys) = s.getLocs (as.map .phys) :=
  List.map_congr_left fun l hl => by
    obtain ⟨a, ha, rfl⟩ := List.mem_map.mp hl
    simp only [State.getLoc, h a ha, hm a ha]
/-- The addresses of a frame. -/
def frameAddrs (x n : Nat) : List Nat := (List.range n).map fun i => x + i
theorem map_phys_frameAddrs (x n : Nat) : (frameAddrs x n).map Loc.phys = (List.range n).map fun i => Loc.phys (x + i) := by
  rw [frameAddrs, List.map_map]; rfl
/-- A frame's bytes stand in the new frame once it has moved, where no table entry of the partition lies in that. -/
theorem State.getLocs_moveFrame {s : State} {part f x n : Nat} (hn : n = 4096) (h : s.Plain ((frameAddrs x n).map .phys))
    (htables : ∀ y ∈ ((s.copyMarks f x).perform ((frameAddrs x n).map .phys) (s.physBytes f n)).leaves part, ∀ i, i < 8 →
      .phys (y.leaf.at_ + i) ∉ (frameAddrs x n).map Loc.phys) (spill : Bool) :
    (s.moveFrame part (f, x, spill)).getLocs ((frameAddrs x n).map .phys) = s.physBytes f n := by
  have hchip (a : Nat) (ha : a ∈ frameAddrs x n) : chipCore a = none := h.2.1 _ (List.mem_map_of_mem ha)
  have hcarried : s.carried f x = ((s.copyMarks f x).movePools f x).perform ((frameAddrs x n).map .phys) (s.physBytes f n) := by
    rw [State.carried, hn, map_phys_frameAddrs]
  have hcanon : (s.carried f x).Canon := by rw [hcarried]; exact (h.copied f x).2.2.perform
  have hbytes : (s.carried f x).getLocs ((frameAddrs x n).map .phys) = s.physBytes f n := by
    rw [hcarried]
    exact (State.wrote_perform (h.copied f x) (by simp [frameAddrs, State.physBytes])).1
  rw [← hbytes]
  refine State.getLocs_of_memByte hchip fun a ha => ?_
  have hleaves : ((s.carried f x).setLeaves part f (movedLeaf (f, x, spill))).memByte a = (s.carried f x).memByte a :=
    State.memByte_setLeaves hcanon _ fun y hy i hi he => by
      rw [hcarried, State.carried_leaves hchip] at hy
      exact htables y hy i hi (List.mem_map.mpr ⟨a, ha, congrArg Loc.phys he⟩)
  rw [State.moveFrame_eq, State.memByte, State.wakeMig_mem, State.updPart_mem, ← State.memByte]
  exact hleaves

/-! ### The commands -/

section
variable {s : State} {part : Nat} {arg : DWord}
/-- MOVE ends once every marked page has moved. -/
theorem execMove_completes (hp : part < 4) (hbusy : s.window.status = 0) (hop : s.window.op.toNat = 8) (hpart : s.window.part.toNat = part)
    (harg : s.window.arg = arg) (h : ∀ m ∈ (s.part part).moving, s.frameBusy m.1 = false) :
    execMove part arg s = .next ((s.moveFrames part).endCommand 1) ∧ ((s.moveFrames part).part part).moving = [] := by
  have hnone := (State.moveFrames_all hp h).2
  refine ⟨?_, hnone⟩
  rw [execMove, State.hostCommand_waits hbusy hop hpart harg]
  simp only [State.moveGo, Bool.false_eq_true, if_false, hnone, List.isEmpty_nil, if_true]
theorem execMove_waits (hbusy : s.window.status = 0) (hop : s.window.op.toNat = 8) (hpart : s.window.part.toNat = part)
    (harg : s.window.arg = arg) {m : Nat × Nat × Bool} (hm : (s.part part).moving = [m]) (h : s.frameBusy m.1 = true) :
    execMove part arg s = .next s := by
  have hstays : s.moveFrames part = s := State.moveFrames_none fun x hx => by
    rw [hm, List.mem_singleton] at hx
    exact hx ▸ h
  rw [execMove, State.hostCommand_waits hbusy hop hpart harg]
  simp only [State.moveGo, Bool.false_eq_true, if_false, hstays, hm, List.isEmpty_cons]
end
theorem State.moveFrames_one {s : State} {part : Nat} {m : Nat × Nat × Bool} (hm : (s.part part).moving = [m]) (h : s.frameBusy m.1 = false) :
    s.moveFrames part = s.moveFrame part m := by
  have hone : ((s.part part).moving.filter fun m => !s.frameBusy m.1) = [m] := by rw [hm]; simp [h]
  rw [State.moveFrames, hone, List.foldl_cons, List.foldl_nil]

/-- The deck of a frame is hot (R383). -/
def State.hotFrame (s : State) (f : Nat) : Bool :=
  match frameSite f with
  | some d => 85 < (s.deck d).temp
  | none => false
theorem State.hotFrame_iff (s : State) (f : Nat) : s.hotFrame f = true ↔ ∃ d, frameSite f = some d ∧ 85 < (s.deck d).temp := by
  unfold State.hotFrame
  cases frameSite f <;> simp
/-- PAGE_MIGRATE where nothing is marked (R383). -/
theorem execPageMigrate_eq {s : State} {part asid : Nat} {va : DWord} {l : Leaf} (hdef : (s.part part).defined = true)
    (hm : (s.part part).moving = []) (hl : s.walk (s.part part) asid va.toNat = .ok l) :
    execPageMigrate part asid va s = .next (
      if (s.part part).migok && s.hotFrame (l.phys va.toNat / 4096 * 4096) && l.entry / 2 ^ 48 % 4 != 1 then
        match s.coolFrame part with
        | some x => s.markFrame part (l.phys va.toNat / 4096 * 4096) x.1 x.2
        | none => s
      else s) := by
  have hstays : s.moveFrames part = s := State.moveFrames_none fun x hx => by rw [hm] at hx; cases hx
  rw [execPageMigrate]
  simp only [hdef, Bool.not_true, Bool.false_eq_true, if_false, hstays, hl, hm, List.any_nil, Bool.not_false, Bool.and_true] <;> rfl

end Sys2Proof.Machine

/-!
RESUME (R319, R374): halted threads go on, with their registers as they were.
-/
namespace Sys2Proof.Machine

/-! ### Halts and registers -/

/-- An update of a thread that keeps its name, its halt and its registers. -/
structure Thread.Alike (t u : Thread) : Prop where
  cid : u.cid = t.cid
  tid : u.tid = t.tid
  halt : u.halt = t.halt
  reg : ∀ q, u.reg q = t.reg q
theorem Thread.Alike.refl (t : Thread) : t.Alike t := ⟨rfl, rfl, rfl, fun _ => rfl⟩
theorem Thread.Alike.trans {t u v : Thread} (h : t.Alike u) (h' : u.Alike v) : t.Alike v :=
  ⟨h'.cid.trans h.cid, h'.tid.trans h.tid, h'.halt.trans h.halt, fun q => (h'.reg q).trans (h.reg q)⟩
theorem Thread.Alike.ite {t u v : Thread} {p : Prop} [Decidable p] (h : t.Alike u) (h' : t.Alike v) : t.Alike (if p then u else v) := by
  split <;> assumption
/-- Every thread keeps its halt and its registers. -/
def KeepsHalts (s s' : State) : Prop := ∀ c i u, s.thread? c i = some u → ∃ u', s'.thread? c i = some u' ∧ u.Alike u'
theorem KeepsHalts.refl (s : State) : KeepsHalts s s := fun _ _ u h => ⟨u, h, .refl u⟩
theorem KeepsHalts.trans {s s' s'' : State} (h : KeepsHalts s s') (h' : KeepsHalts s' s'') : KeepsHalts s s'' := fun c i u hu => by
  obtain ⟨v, hv, huv⟩ := h c i u hu
  obtain ⟨w, hw, hvw⟩ := h' c i v hv
  exact ⟨w, hw, huv.trans hvw⟩
theorem KeepsHalts.of_map {s s' : State} {f : Thread → Thread} (h : s'.threads = s.threads.map f) (hf : ∀ t : Thread, t.Alike (f t)) :
    KeepsHalts s s' := fun c i u hu => by
  have hfind := find_map_name f (fun t => ⟨(hf t).cid, (hf t).tid⟩) c i (fun _ => true) s.threads
  simp only [if_true] at hfind
  exact ⟨f u, by rw [State.thread?, h, hfind, ← State.thread?, hu]; rfl, hf u⟩
theorem KeepsHalts.of_threads {s s' : State} (h : s'.threads = s.threads) : KeepsHalts s s' := fun c i u hu =>
  ⟨u, by rw [State.thread?, h]; exact hu, .refl u⟩
theorem KeepsHalts.foldl {α : Type} {f : State → α → State} (h : ∀ s a, KeepsHalts s (f s a)) (l : List α) (s : State) :
    KeepsHalts s (l.foldl f s) :=
  List.foldlRecOn (motive := KeepsHalts s) l f (.refl s) fun r hr a _ => hr.trans (h r a)
theorem KeepsHalts.updThreads (s : State) (p : Thread → Bool) {f : Thread → Thread} (hf : ∀ t : Thread, t.Alike (f t)) :
    KeepsHalts s (s.updThreads p f) := by
  refine .of_map rfl fun t => ?_
  split
  · exact hf t
  · exact .refl t
theorem KeepsHalts.release (s : State) (p : Thread → Bool) {f : Thread → Thread} (hf : ∀ t : Thread, t.Alike (f t)) :
    KeepsHalts s (s.release p f) := by
  refine .of_map rfl fun t => ?_
  split
  · exact ⟨(hf t).cid, (hf t).tid, (hf t).halt, fun q => Eq.trans (by cases q <;> rfl) ((hf t).reg q)⟩
  · exact .refl t

/-! ### Barriers -/

theorem Thread.alike_past (t : Thread) (n : Nat) : t.Alike (t.past n) := ⟨rfl, rfl, rfl, fun q => by cases q <;> rfl⟩
theorem Thread.alike_setBar (t : Thread) (k : BarKey) (b : Option Bool) : t.Alike (t.setBar k b) := ⟨rfl, rfl, rfl, fun q => by cases q <;> rfl⟩
theorem Thread.alike_acquire (t : Thread) : t.Alike t.acquire := ⟨rfl, rfl, rfl, fun q => by cases q <;> rfl⟩
theorem Thread.alike_synced (t : Thread) (k : BarKey) : t.Alike (t.synced k) := by
  unfold Thread.synced
  split
  · exact ⟨rfl, rfl, rfl, fun q => by cases q <;> rfl⟩
  · exact .refl t
theorem State.alike_barLeave (s : State) (k : BarKey) (t : Thread) : t.Alike (s.barLeave k t) := by
  unfold State.barLeave
  exact .ite ((t.alike_setBar k none).trans (Thread.alike_acquire _)) (t.alike_setBar k none)
theorem KeepsHalts.barEnter (s : State) (k : BarKey) (d : List Thread) : KeepsHalts s (s.barEnter k d) :=
  (KeepsHalts.release s _ fun t => (t.alike_setBar k (some false)).trans (Thread.alike_past _ 4)).trans
    (KeepsHalts.updThreads _ _ fun t => t.alike_synced k)
theorem KeepsHalts.barSample (s : State) (b : Barrier) (t : Thread) : KeepsHalts s (s.barSample b t) := by
  unfold State.barSample
  split
  · exact .of_threads rfl
  · exact .refl s
theorem KeepsHalts.barArrive (s : State) (k : BarKey) (cid tid : Nat) (c : Option Nat) : KeepsHalts s (s.barArrive k cid tid c) :=
  .of_threads rfl
theorem KeepsHalts.barTest (k : BarKey) (fuel : Nat) : ∀ s : State, KeepsHalts s (s.barTest k fuel) := by
  induction fuel with
  | zero => exact fun s => .refl s
  | succ fuel ih =>
    intro s
    unfold State.barTest
    dsimp only
    split
    · exact .refl s
    · split
      · refine KeepsHalts.trans ?_ (KeepsHalts.foldl (fun r (t : Thread) => (KeepsHalts.barArrive r k t.cid t.tid t.wait.barCount).trans (ih _)) _ _)
        refine KeepsHalts.trans ?_ (KeepsHalts.barEnter _ k _)
        refine KeepsHalts.trans ?_ (.of_threads (State.setBarrier_threads _ _))
        refine KeepsHalts.trans ?_ (KeepsHalts.release _ _ fun t => (State.alike_barLeave _ k t).trans (Thread.alike_past _ 4))
        refine KeepsHalts.trans ?_ (KeepsHalts.updThreads _ _ fun t => t.alike_setBar k (some true))
        exact KeepsHalts.foldl (fun r t => KeepsHalts.barSample r _ t) _ s
      · exact .refl s
theorem KeepsHalts.lateArrival (s : State) (t : Thread) : KeepsHalts s (s.lateArrival t) := by
  have arrives (k : BarKey) (u : Thread) (c : Option Nat) :
      KeepsHalts s (((s.barEnter k [u]).barArrive k u.cid u.tid c).barTest k (s.threads.length + 1)) :=
    (KeepsHalts.barEnter s k [u]).trans ((KeepsHalts.barArrive _ k _ _ c).trans (KeepsHalts.barTest k _ _))
  unfold State.lateArrival
  split
  · exact .refl s
  · split
    · split
      · exact arrives _ _ _
      · exact .refl s
    · split
      · exact arrives _ _ _
      · exact .refl s
    · exact .refl s
theorem KeepsHalts.holdTest (s : State) (cid trp : Nat) : KeepsHalts s (s.holdTest cid trp) := by
  unfold State.holdTest
  split
  · exact .refl s
  · split
    · exact KeepsHalts.release s _ fun t => .refl t
    · exact .refl s

/-! ### Halted threads go on -/

/-- Only the cycle of a halt is booked. -/
theorem State.thread?_bookPause {s : State} {c i : Nat} {u : Thread} (h : s.thread? c i = some u) :
    ∃ u' clk, s.bookPause.thread? c i = some u' ∧ u'.halt = u.halt.map (fun x => (x.1, clk)) ∧ ∀ q, u'.reg q = u.reg q := by
  have hfind (f : Thread → Thread) (hf : KeepsName f) : (s.threads.map f).find? (fun t => t.cid == c && t.tid == i) = some (f u) := by
    have hall := find_map_name f hf c i (fun _ => true) s.threads
    simp only [if_true] at hall
    rw [hall, ← State.thread?, h]
    rfl
  exact ⟨_, s.clkOf u.cid, hfind _ fun _ => ⟨rfl, rfl⟩, rfl, fun q => by cases q <;> rfl⟩
theorem State.bookPause_frozen {s : State} (h : ∀ v ∈ s.threads, v.halt ≠ none → ∃ y, v.halt = some (.frozen, y)) :
    ∀ v ∈ s.bookPause.threads, v.halt ≠ none → ∃ y, v.halt = some (.frozen, y) := by
  intro v hv hne
  obtain ⟨t, ht, hvt⟩ := List.mem_map.mp hv
  have hbooked : v.halt = t.halt.map fun x => (x.1, s.clkOf t.cid) := hvt ▸ rfl
  have hhalted : t.halt ≠ none := fun hnone => hne (by rw [hbooked, hnone]; rfl)
  obtain ⟨y, hy⟩ := h t ht hhalted
  exact ⟨s.clkOf t.cid, by rw [hbooked, hy]; rfl⟩
/-- Frozen threads go on where they stood. -/
theorem State.foldl_unhalt {c i : Nat} {l : List Thread} (hl : ∀ t ∈ l, ∃ y, t.halt = some (.frozen, y)) : ∀ {s : State} {u : Thread},
    s.thread? c i = some u → ∃ u', (l.foldl State.unhalt s).thread? c i = some u' ∧ (∀ q, u'.reg q = u.reg q) ∧
      ((u.halt = none ∨ ∃ t ∈ l, t.cid = c ∧ t.tid = i) → u'.halt = none) := by
  induction l with
  | nil => exact fun {s u} h => ⟨u, h, fun _ => rfl, by simp⟩
  | cons t l ih =>
    intro s u h
    obtain ⟨y, hy⟩ := hl t List.mem_cons_self
    have hstep : s.unhalt t = s.updThread t.cid t.tid fun v => { v with halt := none } := by
      rw [State.unhalt, hy]
    have hfound : (s.unhalt t).thread? c i = some (if c = t.cid ∧ i = t.tid then { u with halt := none } else u) := by
      rw [hstep, State.thread?_updThread _ _ _ _ _ (fun v => { v with halt := none }) fun v => ⟨rfl, rfl⟩, h]
      rfl
    obtain ⟨u', hu', hreg, hhalt⟩ := ih (fun v hv => hl v (List.mem_cons_of_mem _ hv)) hfound
    refine ⟨u', hu', fun q => (hreg q).trans ?_, fun hdue => hhalt ?_⟩
    · split
      · cases q <;> rfl
      · rfl
    · obtain hnone | ⟨v, hv, hcv, hiv⟩ := hdue
      · left
        split
        · rfl
        · exact hnone
      · obtain rfl | hv := List.mem_cons.mp hv
        · left
          rw [if_pos ⟨hcv.symm, hiv.symm⟩]
        · exact .inr ⟨v, hv, hcv, hiv⟩
/-- RESUME releases the halted threads of a core, where all halts are frozen ones. -/
theorem State.resumeHalted_thread {s : State} {core c i : Nat} {x : Company} {u : Thread} (hx : s.company? c = some x) (hcore : x.core = core)
    (hon : x.onCore = true) (hu : s.thread? c i = some u) (hhalt : u.halt ≠ none)
    (hfrozen : ∀ v ∈ s.threads, v.halt ≠ none → ∃ y, v.halt = some (.frozen, y)) :
    ∃ u', (s.resumeHalted core).thread? c i = some u' ∧ u'.halt = none ∧ ∀ q, u'.reg q = u.reg q := by
  obtain ⟨v, clk, hv, hvhalt, hvreg⟩ := State.thread?_bookPause hu
  have hfrozen' := State.bookPause_frozen hfrozen
  unfold State.resumeHalted
  dsimp only
  generalize hts : (s.bookPause.threads.filter fun t => t.halt.isSome && s.bookPause.companies.any fun y => y.cid == t.cid && y.core == core && y.onCore) = ts
  have hall (t : Thread) (ht : t ∈ ts) : ∃ y, t.halt = some (.frozen, y) := by
    rw [← hts] at ht
    obtain ⟨hmem, hcond⟩ := List.mem_filter.mp ht
    rw [Bool.and_eq_true] at hcond
    exact hfrozen' t hmem (Option.isSome_iff_ne_none.mp hcond.1)
  obtain ⟨hcv, hiv⟩ := State.thread?_name hv
  have hmem : v ∈ ts := by
    rw [← hts]
    refine List.mem_filter.mpr ⟨List.mem_of_find?_eq_some hv, ?_⟩
    have hsome : v.halt.isSome = true := by
      rw [hvhalt, Option.isSome_map, Option.isSome_iff_ne_none]
      exact hhalt
    have hplace : (s.bookPause.companies.any fun y => y.cid == v.cid && y.core == core && y.onCore) = true :=
      List.any_eq_true.mpr ⟨x, List.mem_of_find?_eq_some hx, by simp [State.company?_cid hx, hcv, hcore, hon]⟩
    rw [hsome, hplace]
    rfl
  obtain ⟨w, hw, hwreg, hwhalt⟩ := State.foldl_unhalt hall hv
  have hrest (r : State) (back : Thread → Bool) (l : List (Nat × Nat)) :
      KeepsHalts r (l.foldl (fun s y => s.holdTest y.1 y.2) (ts.foldl State.lateArrival (r.release back id))) :=
    ((KeepsHalts.release r back fun t => .refl t).trans (KeepsHalts.foldl KeepsHalts.lateArrival ts _)).trans
      (KeepsHalts.foldl (fun s y => KeepsHalts.holdTest s y.1 y.2) l _)
  obtain ⟨u', hu', halike⟩ := hrest _ _ _ c i w hw
  exact ⟨u', hu', halike.halt.trans (hwhalt (.inr ⟨v, hmem, hcv, hiv⟩)), fun q => (halike.reg q).trans ((hwreg q).trans (hvreg q))⟩

end Sys2Proof.Machine

/-!
The commands of the host (R374 to R376, R389, R392, R393): PARTITION, ROLE and the rest.
-/
namespace Sys2Proof.Machine

/-! ### Checks of accesses do not depend on the command window -/

section
variable (s : State) (w : Window)
theorem State.translate_window (p asid va : Nat) : ({ s with window := w } : State).translate p asid va = s.translate p asid va :=
  State.translate_congr (s.getLoc_phys_window w) rfl rfl rfl p asid va
theorem State.seenAt_window : ({ s with window := w } : State).seenAt = s.seenAt := rfl
theorem State.chipFault_window : ({ s with window := w } : State).chipFault = s.chipFault := rfl
theorem State.part_window : ({ s with window := w } : State).part = s.part := rfl
theorem State.checkPart_window (a : Who) (k : Acc) (va n : Nat) (al : Bool) :
    ({ s with window := w } : State).checkPart a k va n al = s.checkPart a k va n al := by
  unfold State.checkPart
  rw [State.translate_window, State.seenAt_window, State.chipFault_window, State.part_window]
theorem State.check_window (a : Who) (k : Acc) (va : DWord) (n : Nat) (natural : Bool) :
    ({ s with window := w } : State).check a k va n natural = s.check a k va n natural := by
  have hred (va : Nat) : ({ s with window := w } : State).redPage a va = s.redPage a va := by
    rw [State.redPage, State.translate_window]; rfl
  unfold State.check
  simp only [State.checkPart_window, hred]
theorem State.haltStalls_window (core : Nat) : ({ s with window := w } : State).haltStalls core = s.haltStalls core := by
  have hstalls (a : Who) (va : Nat) : ({ s with window := w } : State).accessStalls a .load va 32 = s.accessStalls a .load va 32 := by
    rw [State.accessStalls, State.check_window]; rfl
  unfold State.haltStalls
  simp only [hstalls]
  rfl
end

/-! ### What a command leaves -/

theorem State.sameRegs_endCommand (s : State) (n : Nat) : SameRegs s (s.endCommand n) := .of_threads rfl
theorem SameMem.refl (s : State) : SameMem s s := fun _ _ => rfl
theorem SameMem.trans {s s' s'' : State} (h : SameMem s s') (h' : SameMem s' s'') : SameMem s s'' := fun l hl => (h' l hl).trans (h l hl)
/-- A change of a partition that keeps its sync variables. -/
theorem State.sameMem_updPart (s : State) (part : Nat) {f : Part → Part} (hf : ∀ p, (f p).sync = p.sync ∧ (f p).zeroed = p.zeroed) :
    SameMem s (s.updPart part f) := by
  intro l hl
  cases l with
  | phys a =>
    have ha : chipCore a = none := by simpa [Loc.offChip] using hl
    simp only [State.getLoc, ha]
    rfl
  | foreign a | view a k c => cases hl
  | scratch c b => rfl
  | sync p o =>
    simp only [State.getLoc, Part.syncGet]
    by_cases hp : p = part
    · subst hp
      by_cases hlt : p < 4
      · rw [State.part_updPart_same _ hlt, (hf _).1, (hf _).2]
      · simp [State.part, State.updPart, Vector.getD, hlt]
    · rw [State.part_updPart_ne _ hp]

theorem State.physBytes_length (s : State) (a n : Nat) : (s.physBytes a n).length = n := by simp [State.physBytes]
theorem fieldOf_whole (s : State) (a n : Nat) : fieldOf (s.physBytes a n) 0 n = natOf (s.physBytes a n) := by
  rw [fieldOf, List.drop_zero, List.take_of_length_le (Nat.le_of_eq (s.physBytes_length a n))]

/-! ### Quiescing decks (R376) -/

theorem State.stamp_eq (s : State) : ∃ n, s.stamp = { s with window := { s.window with since := n } } := by
  unfold State.stamp
  split
  · exact ⟨_, rfl⟩
  · exact ⟨s.window.since, rfl⟩
theorem State.onDecks_of_quiet {s : State} {decks : List Nat} (h : s.quiet decks = true) : ∀ c ∈ s.companies, c.onDecks decks = false := by
  simp only [State.quiet, Bool.and_eq_true, Bool.not_eq_true', List.any_eq_false, Bool.not_eq_true] at h
  exact h.1.1
theorem State.quiesce_of_quiet {s : State} (h : s.quiet s.quiescing = true) : s.quiesce = s := by
  have hnone : (s.companies.filter fun c => c.onDecks s.quiescing && c.state == .resident &&
      !(s.threads.any fun t => t.cid == c.cid && t.halt.isSome)) = [] :=
    List.filter_eq_nil_iff.mpr fun c hc => by simp [State.onDecks_of_quiet h c hc]
  rw [State.quiesce, hnone]
  rfl
/-- A command that begins with its decks quiet waits for nothing. -/
theorem State.stamp_quiesce {s : State} (h : s.quiet s.quiescing = true) :
    ∃ n, s.stamp.quiesce = { s with window := { s.window with since := n } } ∧ s.stamp.quiesce.quiet s.stamp.quiesce.quiescing = true := by
  obtain ⟨n, hn⟩ := s.stamp_eq
  have hquiet : s.stamp.quiet s.stamp.quiescing = true := by rw [hn]; exact h
  rw [State.quiesce_of_quiet hquiet]
  exact ⟨n, hn, hquiet⟩
theorem State.quiet_nil (s : State) : s.quiet [] = true := by
  simp [State.quiet, Company.onDecks]

/-- A change of a partition ends: its cached translations are gone, and the command is DONE. -/
def State.cleared (s : State) (part : Nat) : State :=
  (s.invalidate { part := part, global := true, all := true, asid := 0, va := 0 }).endCommand 1
section
variable (s : State) (part : Nat)
theorem State.cleared_status : (s.cleared part).window.status = 1 := rfl
theorem State.cleared_parts : (s.cleared part).parts = s.parts := rfl
theorem State.sameRegs_cleared : SameRegs s (s.cleared part) := (State.sameRegs_invalidate _ _).trans (State.sameRegs_endCommand _ 1)
theorem State.sameMem_cleared : SameMem s (s.cleared part) := State.getLoc_of_storage rfl rfl rfl
end

/-! ### ROLE -/

theorem State.roleGo_undefined {s : State} {part : Nat} (h : (s.part part).defined = false) : s.roleGo part true = s.endCommand 3 := by
  rw [State.roleGo]
  simp only [h, Bool.not_false, Bool.and_self, if_true]
theorem State.roleGo_refused {s : State} {part : Nat} (h : (s.part part).defined = true)
    (hok : s.rolesOk part (s.part part).decks ((s.part part).newRoles (fieldOf s.window.block 0 4)) = false) :
    s.roleGo part true = s.endCommand 2 := by
  rw [State.roleGo]
  simp only [h, hok, Bool.not_true, Bool.not_false, Bool.and_false, Bool.and_self, Bool.false_eq_true, if_false, if_true]
theorem State.roleGo_done {s : State} {part : Nat} (hp : part < 4) (h : (s.part part).defined = true)
    (hok : s.rolesOk part (s.part part).decks ((s.part part).newRoles (fieldOf s.window.block 0 4)) = true)
    (hquiet : s.quiet s.quiescing = true) :
    (s.roleGo part true).window.status = 1 ∧ ((s.roleGo part true).part part).roles = (s.part part).newRoles (fieldOf s.window.block 0 4) ∧
      SameRegs s (s.roleGo part true) ∧ SameMem s (s.roleGo part true) := by
  obtain ⟨n, hn, hstill⟩ := State.stamp_quiesce hquiet
  have hgo : s.roleGo part true =
      (s.stamp.quiesce.updPart part fun p => { p with roles := (s.part part).newRoles (fieldOf s.window.block 0 4) }).cleared part := by
    rw [State.roleGo]
    simp only [h, hok, Bool.not_true, Bool.and_false, Bool.false_eq_true, if_false, if_true, hstill]
    rfl
  have hmem : SameMem s s.stamp.quiesce := by rw [hn]; exact s.sameMem_window _
  have hregs : SameRegs s s.stamp.quiesce := by rw [hn]; exact .of_threads rfl
  rw [hgo]
  generalize s.stamp.quiesce = u at hmem hregs
  refine ⟨State.cleared_status _ part, ?_, ?_, ?_⟩
  · rw [State.part_congr (State.cleared_parts _ part), State.part_updPart_same _ hp]
  · exact hregs.trans (SameRegs.trans (.of_threads (State.updPart_threads _ _ _)) (State.sameRegs_cleared _ part))
  · refine (hmem.trans (State.sameMem_updPart u part ?_)).trans (State.sameMem_cleared _ part)
    exact fun _ => ⟨rfl, rfl⟩

/-! ### PARTITION -/

section
variable {s : State} {part : Nat}
theorem State.partitionGo_refused (h : s.partitionRefused part s.window.block = true) : s.partitionGo part true = s.endCommand 2 := by
  rw [State.partitionGo]
  simp only [h, Bool.and_self, if_true]
theorem State.partitionGo_noRoom (h : s.partitionRefused part s.window.block = false)
    (hroom : s.frameRoom part s.window.block < (s.framesLeft part s.window.block).length) : s.partitionGo part true = s.endCommand 3 := by
  rw [State.partitionGo]
  simp only [h, hroom, Bool.and_false, Bool.false_eq_true, if_false, Bool.true_and, decide_true, if_true]
/-- Where no page has to leave and the decks that change are quiet the block takes effect at once. -/
theorem State.partitionGo_installs (h : s.partitionRefused part s.window.block = false)
    (hgone : (if (s.part part).defined then (s.part part).leaving s.window.block else []) = []) (hquiet : s.quiet s.quiescing = true) :
    ∃ n, s.partitionGo part true = ({ s with window := { s.window with since := n } } : State).installPart part s.window.block := by
  obtain ⟨n, hn, hstill⟩ := State.stamp_quiesce hquiet
  have hleft : s.framesLeft part s.window.block = [] := by
    rw [State.framesLeft]
    simp only [hgone, List.isEmpty_nil, if_true]
  refine ⟨n, ?_⟩
  rw [← hn, State.partitionGo]
  simp only [h, hleft, hgone, hstill, Bool.and_false, Bool.false_eq_true, if_false, List.length_nil, Nat.not_lt_zero, decide_false, if_true,
    Bool.not_true, List.isEmpty_nil, Bool.false_and]
theorem State.installPart_eq (s : State) (part : Nat) (b : List Byte) :
    s.installPart part b = ((s.updPart part fun p => p.define b).washDecks ((s.part part).leaving b)).cleared part := rfl
theorem State.washDecks_parts (s : State) (decks : List Nat) : (s.washDecks decks).parts = s.parts := rfl
theorem State.washDecks_threads (s : State) (decks : List Nat) : (s.washDecks decks).threads = s.threads := rfl
theorem State.installPart_part (hp : part < 4) (b : List Byte) : (s.installPart part b).part part = (s.part part).define b := by
  rw [State.installPart_eq, State.part_congr (State.cleared_parts _ part), State.part_congr (State.washDecks_parts _ _), State.part_updPart_same _ hp]
theorem State.installPart_part_ne {x : Nat} (hx : x ≠ part) (b : List Byte) : (s.installPart part b).part x = s.part x := by
  rw [State.installPart_eq, State.part_congr (State.cleared_parts _ part), State.part_congr (State.washDecks_parts _ _), State.part_updPart_ne _ hx]
theorem State.sameRegs_installPart (b : List Byte) : SameRegs s (s.installPart part b) := by
  rw [State.installPart_eq]
  exact SameRegs.trans (.of_threads ((State.washDecks_threads _ _).trans (State.updPart_threads _ _ _))) (State.sameRegs_cleared _ part)

/-- The decks of a new partition are those that quiesce for it. -/
theorem State.quiescing_new (hp : s.window.part.toNat = part) (hop : s.window.op = 1) (hdef : (s.part part).defined = false) :
    ∀ d ∈ s.quiescing, (fieldOf s.window.block 0 4).testBit d = true := by
  intro d hd
  rw [State.quiescing] at hd
  simp only [hp, hop, beq_self_eq_true, if_true, hdef, Bool.false_and] at hd
  split at hd
  · cases hd
  · have hcond := (List.mem_filter.mp hd).2
    cases ht : (fieldOf s.window.block 0 4).testBit d with
    | true => rfl
    | false => simp [ht] at hcond
/-- A partition whose decks stay has none to quiesce. -/
theorem State.quiescing_same (hp : s.window.part.toNat = part) (hop : s.window.op = 1) (hdef : (s.part part).defined = true)
    (hdecks : fieldOf s.window.block 0 4 = (s.part part).decks) : s.quiescing = [] := by
  have hroles : (s.part part).rolesAfter s.window.block = (s.part part).roles := by
    rw [Part.rolesAfter, hdef, hdecks]; simp
  rw [State.quiescing]
  simp only [hp, hop, beq_self_eq_true, if_true, hdef, Bool.true_and, hdecks, hroles, bne_self_eq_false, Bool.and_false, Bool.or_self]
  split
  · rfl
  · exact List.filter_eq_nil_iff.mpr fun _ _ => Bool.false_ne_true
theorem State.quiet_of_free {decks : List Nat}
    (h : ∀ d ∈ decks, (s.ladders.all (fun l => l.deck != d) && s.pools.all (fun p => p.deck != d) &&
      s.companies.all fun c => !c.onCore || c.core / 16 != d) = true) : s.quiet decks = true := by
  have hfree (d : Nat) (hd : d ∈ decks) : (∀ l ∈ s.ladders, l.deck ≠ d) ∧ (∀ p ∈ s.pools, p.deck ≠ d) ∧
      ∀ c ∈ s.companies, c.onCore = true → c.core / 16 ≠ d := by
    have hd' := h d hd
    simp only [Bool.and_eq_true, List.all_eq_true, bne_iff_ne, Bool.or_eq_true, Bool.not_eq_true'] at hd'
    exact ⟨hd'.1.1, hd'.1.2, fun c hc hon => (hd'.2 c hc).resolve_left (by simp [hon])⟩
  have hcompanies : (s.companies.any fun c => c.onDecks decks) = false := List.any_eq_false.mpr fun c hc hon => by
    simp only [Company.onDecks, Bool.and_eq_true, List.contains_iff_mem] at hon
    exact (hfree _ hon.2).2.2 c hc hon.1 rfl
  have hladders : (s.ladders.any fun l => decks.contains l.deck) = false := List.any_eq_false.mpr fun l hl hin =>
    (hfree _ (List.contains_iff_mem.mp hin)).1 l hl rfl
  have hpools : (s.pools.any fun p => decks.contains p.deck) = false := List.any_eq_false.mpr fun p hp hin =>
    (hfree _ (List.contains_iff_mem.mp hin)).2.1 p hp rfl
  rw [State.quiet, hcompanies, hladders, hpools]
  rfl
theorem Part.leaving_same {p : Part} {b : List Byte} (h : fieldOf b 0 4 = p.decks) : p.leaving b = [] := by
  rw [Part.leaving, h]
  refine List.filter_eq_nil_iff.mpr fun d hd => ?_
  simp [(List.mem_filter.mp hd).2]
end

/-! ### Reports (R392) -/

theorem slice_append {α : Type} {l a b c : List α} (h : l = a ++ (b ++ c)) {i n : Nat} (hi : a.length = i) (hn : b.length = n) :
    (l.drop i).take n = b := by
  rw [h, List.drop_left' hi, List.take_left' hn]
theorem sha256_length (m : List Byte) : (sha256 m).length = 32 := by
  unfold sha256
  dsimp only
  generalize shaBlocks _ _ _ = r
  simp [bytesOf]

end Sys2Proof.Machine

/-!
The commands of the host, each from a window at rest (R374), and the obligation about them.
-/
namespace Sys2Proof.Machine

/-! ### ATTEST (R392) -/

theorem State.report_length (s : State) (part : Nat) {nonce : List Byte} (h : nonce.length = 32) : (s.report part nonce).length = 260 := by
  simp [State.report, h, sha256_length, bytesOf]
/-- The parts of a report: nonce, identity, measurement, roles, the root's own, and the signature. -/
theorem State.report_parts (s : State) (part : Nat) {nonce : List Byte} (h : nonce.length = 32) :
    (s.report part nonce).take 32 = nonce ∧
    ((s.report part nonce).drop 32).take 64 = (List.range 64).map (fun k => Config.attestByte (32 + k)) ∧
    ((s.report part nonce).drop 132).take 64 = (List.range 64).map (fun k => Config.attestByte (132 + k)) ∧
    (s.report part nonce).drop 196 = (List.range 64).map (Config.signByte ((s.report part nonce).take 196)) ∧
    ((s.report part nonce).drop 96).take 32 = sha256 (s.part part).block ∧
    ((s.report part nonce).drop 128).take 4 = bytesOf 4 s.roleMask := by
  have hid : ((List.range 64).map fun k => Config.attestByte (32 + k)).length = 64 := by rw [List.length_map, List.length_range]
  have hroot : ((List.range 64).map fun k => Config.attestByte (132 + k)).length = 64 := by rw [List.length_map, List.length_range]
  have hmask : (bytesOf 4 s.roleMask).length = 4 := rfl
  have hsha := sha256_length (s.part part).block
  generalize hsign : (List.range 64).map (Config.signByte (nonce ++ ((List.range 64).map fun k => Config.attestByte (32 + k)) ++
    sha256 (s.part part).block ++ bytesOf 4 s.roleMask ++ (List.range 64).map fun k => Config.attestByte (132 + k))) = sign
  have hreport : s.report part nonce = nonce ++ ((List.range 64).map fun k => Config.attestByte (32 + k)) ++
    sha256 (s.part part).block ++ bytesOf 4 s.roleMask ++ ((List.range 64).map fun k => Config.attestByte (132 + k)) ++ sign := hsign ▸ rfl
  rw [hreport]
  generalize (List.range 64).map (fun k => Config.attestByte (32 + k)) = id at *
  generalize (List.range 64).map (fun k => Config.attestByte (132 + k)) = root at *
  generalize sha256 (s.part part).block = sha at *
  generalize bytesOf 4 s.roleMask = mask at *
  have hbody : (nonce ++ id ++ sha ++ mask ++ root).length = 196 := by simp only [List.length_append, h, hid, hsha, hmask, hroot]
  refine ⟨?_, ?_, ?_, ?_, ?_, ?_⟩
  · simp only [List.append_assoc]
    exact List.take_left' h
  · exact slice_append (a := nonce) (c := sha ++ mask ++ root ++ sign) (by simp only [List.append_assoc]) h hid
  · exact slice_append (a := nonce ++ id ++ sha ++ mask) (c := sign) (by simp only [List.append_assoc])
      (by simp only [List.length_append, h, hid, hsha, hmask]) hroot
  · rw [List.drop_left' hbody, List.take_left' hbody, hsign]
  · exact slice_append (a := nonce ++ id) (c := mask ++ root ++ sign) (by simp only [List.append_assoc])
      (by simp only [List.length_append, h, hid]) hsha
  · exact slice_append (a := nonce ++ id ++ sha) (c := root ++ sign) (by simp only [List.append_assoc])
      (by simp only [List.length_append, h, hid, hsha]) hmask
theorem State.getLocs_take (s : State) (ls : List Loc) (n : Nat) : s.getLocs (ls.take n) = (s.getLocs ls).take n := List.map_take
theorem State.getLocs_drop (s : State) (ls : List Loc) (n : Nat) : s.getLocs (ls.drop n) = (s.getLocs ls).drop n := List.map_drop
/-- ATTEST stores the report of the partition over the nonce. -/
theorem State.attestGo_spec {s : State} {part : Nat} {ls : List Loc}
    (hls : ls = (List.range 260).map fun i => .phys (Config.hostBase + fieldOf s.window.block 32 8 + i))
    (hfits : fieldOf s.window.block 32 8 + 260 ≤ Config.hostSize) (hblock : 32 ≤ s.window.block.length) (hplain : s.Plain ls) :
    let s' := s.attestGo part
    s'.window.status = 1 ∧ SameRegs s s' ∧
      s'.getLocs (ls.take 32) = s.window.block.take 32 ∧ s'.getLocs ((ls.drop 32).take 64) = (List.range 64).map (fun k => Config.attestByte (32 + k)) ∧
      s'.getLocs ((ls.drop 132).take 64) = (List.range 64).map (fun k => Config.attestByte (132 + k)) ∧
      s'.getLocs (ls.drop 196) = (List.range 64).map (Config.signByte (s'.getLocs (ls.take 196))) ∧
      s'.getLocs ((ls.drop 96).take 32) = sha256 (s.part part).block ∧
      s'.getLocs ((ls.drop 128).take 4) = bytesOf 4 s.roleMask ∧ ∀ z, z.offChip = true → z ∉ ls → s'.getLoc z = s.getLoc z := by
  intro s'
  have hnonce : (s.window.block.take 32).length = 32 := List.length_take_of_le hblock
  have hgo : s' = (s.perform ls (s.report part (s.window.block.take 32))).endCommand 1 := by
    show s.attestGo part = _
    rw [State.attestGo, if_neg (Nat.not_lt.mpr hfits), hls]
  have hlen : ls.length = (s.report part (s.window.block.take 32)).length := by
    rw [State.report_length _ _ hnonce, hls, List.length_map, List.length_range]
  obtain ⟨hbytes, hrest⟩ := State.wrote_perform hplain hlen
  have hended (u : State) (z : Loc) (hz : z.offChip = true) : (u.endCommand 1).getLoc z = u.getLoc z := u.sameMem_window _ z hz
  have hreads : s'.getLocs ls = s.report part (s.window.block.take 32) := by
    rw [hgo]
    exact (List.map_congr_left fun z hz => hended _ z (hplain.2.1 z hz).offChip).trans hbytes
  obtain ⟨h1, h2, h3, h4, h5, h6⟩ := s.report_parts part hnonce
  simp only [State.getLocs_take, State.getLocs_drop, hreads]
  refine ⟨by rw [hgo]; rfl, ?_, h1, h2, h3, h4, h5, h6, fun z hz hn => ?_⟩
  · rw [hgo]
    exact (State.sameRegs_perform hplain _).trans (State.sameRegs_endCommand _ 1)
  · rw [hgo, hended _ z hz]
    exact hrest z hz hn

/-! ### MOVE (R374, R383) -/

/-- The frames of listed pages that may move. -/
def State.pageFrames (s : State) (part : Nat) (pages : List (Nat × Nat)) : List Nat :=
  (pages.filterMap fun x => match s.walk (s.part part) x.1 x.2 with
    | .ok l => if l.entry / 2 ^ 48 % 4 = 1 then none else some (l.phys x.2 / 4096 * 4096)
    | .error _ => none).eraseDups
section
variable {s : State} {part : Nat} {pages : List (Nat × Nat)} (hpages : Config.pageList s.byteAt (Config.hostBase + s.window.arg.toNat) = pages)
include hpages
theorem State.moveGo_unmapped (h : ∃ x ∈ pages, ∃ e, s.walk (s.part part) x.1 x.2 = .error e) : s.moveGo part true = s.endCommand 2 := by
  obtain ⟨x, hx, e, he⟩ := h
  have hany : ((pages.map fun x => (x, s.walk (s.part part) x.1 x.2)).any fun x => match x.2 with | .error _ => true | .ok _ => false) = true :=
    List.any_eq_true.mpr ⟨(x, s.walk (s.part part) x.1 x.2), List.mem_map.mpr ⟨x, hx, rfl⟩, by rw [he]⟩
  rw [State.moveGo]
  simp only [hpages, if_true]
  exact if_pos hany
theorem State.moveGo_mapped (h : ∀ x ∈ pages, ∃ y, s.walk (s.part part) x.1 x.2 = .ok y) : s.moveGo part true =
    let fs := (s.pageFrames part pages).filter fun f => !((s.part part).moving.any fun m => m.1 == f)
    if !(s.part part).defined || !(s.part part).migok || (s.coolFrames (s.part part) []).length < fs.length then s.endCommand 3
    else if ((s.markFrames part (·.coolFrame part) fs).part part).moving.isEmpty then (s.markFrames part (·.coolFrame part) fs).endCommand 1
    else s.markFrames part (·.coolFrame part) fs := by
  have hnone : ¬((pages.map fun x => (x, s.walk (s.part part) x.1 x.2)).any fun x => match x.2 with | .error _ => true | .ok _ => false) = true := by
    intro hany
    obtain ⟨y, hy, herr⟩ := List.any_eq_true.mp hany
    obtain ⟨x, hx, rfl⟩ := List.mem_map.mp hy
    obtain ⟨l, hl⟩ := h x hx
    rw [hl] at herr
    cases herr
  rw [State.moveGo]
  simp only [hpages, if_true]
  refine (if_neg hnone).trans ?_
  simp only [State.pageFrames, List.filterMap_map, beq_iff_eq] <;> rfl
end
theorem State.moveGo_starts {s : State} {part : Nat} (hp : part < 4) {pages : List (Nat × Nat)} {f x : Nat} {r xs : List Nat}
    (hpages : Config.pageList s.byteAt (Config.hostBase + s.window.arg.toNat) = pages)
    (h : ∀ x ∈ pages, ∃ y, s.walk (s.part part) x.1 x.2 = .ok y) (hdef : (s.part part).defined = true) (hmig : (s.part part).migok = true)
    (hmoving : (s.part part).moving = []) (hfs : s.pageFrames part pages = f :: r) (hcool : s.coolFrames (s.part part) [] = x :: xs)
    (hlen : r.length ≤ xs.length) :
    (s.moveGo part true).window = s.window ∧ ∃ more, ((s.moveGo part true).part part).moving = (f, x, false) :: more ∧
      (∀ m ∈ more, m.1 ∈ r ∧ m.2.2 = false) ∧ more.length ≤ r.length := by
  have hroom : ¬(x :: xs).length < (f :: r).length := by simp only [List.length_cons]; omega
  have hplace : s.coolFrame part = some (x, false) := by rw [State.coolFrame_eq, hcool]; rfl
  obtain ⟨hw, more, hm, hmem, hmore⟩ :=
    State.markFrames_moving hp (place := (·.coolFrame part)) (fun _ _ => State.coolFrame_stays) r (s.markFrame part f x false)
  rw [State.markFrame_part hp, hmoving] at hm
  have hmarks : s.markFrames part (·.coolFrame part) (f :: r) = (s.markFrame part f x false).markFrames part (·.coolFrame part) r := by
    rw [State.markFrames, hplace]
  have hgo : s.moveGo part true = (s.markFrame part f x false).markFrames part (·.coolFrame part) r := by
    rw [State.moveGo_mapped hpages h]
    simp only [hfs, hmoving, List.any_nil, Bool.not_false, List.filter_true, hdef, hmig, hcool, hroom, decide_false, Bool.not_true, Bool.or_self,
      Bool.false_eq_true, if_false, hmarks, hm, List.nil_append, List.cons_append, List.isEmpty_cons]
  rw [hgo]
  exact ⟨hw.trans (s.markFrame_window f x false), more, hm, hmem, hmore⟩

/-! ### Schedules, fabric tables, keys (R158, R389, R393) -/

theorem State.part_endCommand (s : State) (n : Nat) : (s.endCommand n).part = s.part := rfl
theorem State.status_endCommand (s : State) (n : Nat) : (s.endCommand n).window.status = n := rfl
section
variable {s : State} {part : Nat}
theorem State.schedGo_installs (hp : part < 4) {x : Nat × List EvRange}
    (h : evImage (fun o n => s.physBytes (Config.hostBase + s.window.arg.toNat + o) n) = some x) :
    (s.schedGo part).window.status = 1 ∧ ((s.schedGo part).part part).sched = some x ∧ ((s.schedGo part).part part).phase = 0 := by
  have hgo : s.schedGo part = (s.updPart part fun p => { p with sched := some x, phase := 0 }).endCommand 1 := by
    unfold State.schedGo
    rw [h]
  rw [hgo, State.part_endCommand, State.part_updPart_same _ hp]
  exact ⟨State.status_endCommand _ 1, rfl, rfl⟩
theorem State.schedGo_refused (h : evImage (fun o n => s.physBytes (Config.hostBase + s.window.arg.toNat + o) n) = none) :
    s.schedGo part = s.endCommand 2 := by
  unfold State.schedGo
  rw [h]

theorem Part.region_fields (p : Part) (x : Nat × Nat × Nat × Nat) :
    ((p.region x).base, (p.region x).len, (p.region x).group, (p.region x).landing) = x := by
  unfold Part.region
  dsimp only
  split
  next y hy =>
    have heq := List.find?_some hy
    simp only [beq_iff_eq, RedRegion.mk.injEq] at heq
    obtain ⟨hbase, hlen, hgroup, hlanding, -⟩ := heq
    rw [hbase, hlen, hgroup, hlanding]
  next => rfl
theorem State.fabricGo_refused (h : 64 < (Config.groupTable s.byteAt (Config.hostBase + s.window.arg.toNat)).length ∨
    16 < (Config.redTable s.byteAt (Config.hostBase + s.window.arg.toNat)).length) : s.fabricGo part = s.endCommand 2 := by
  rw [State.fabricGo]
  exact if_pos (by simpa only [Bool.or_eq_true, decide_eq_true_eq] using h)
theorem State.fabricGo_installs (hp : part < 4) {gs : List (Nat × Nat)} {rs : List (Nat × Nat × Nat × Nat)}
    (hgs : Config.groupTable s.byteAt (Config.hostBase + s.window.arg.toNat) = gs)
    (hrs : Config.redTable s.byteAt (Config.hostBase + s.window.arg.toNat) = rs) (hg : gs.length ≤ 64) (hr : rs.length ≤ 16) :
    (s.fabricGo part).window.status = 1 ∧ ((s.fabricGo part).part part).groups = gs.map (fun g => ⟨g.1, g.2⟩) ∧
      ((s.fabricGo part).part part).reds.map (fun r => (r.base, r.len, r.group, r.landing)) = rs := by
  have hgo : s.fabricGo part =
      (s.updPart part fun p => { p with groups := gs.map fun g => ⟨g.1, g.2⟩, reds := rs.map p.region }).endCommand 1 := by
    rw [State.fabricGo]
    simp only [hgs, hrs]
    exact if_neg (by simp only [Bool.or_eq_true, decide_eq_true_eq]; omega)
  rw [hgo, State.part_endCommand, State.part_updPart_same _ hp]
  refine ⟨State.status_endCommand _ 1, rfl, ?_⟩
  rw [List.map_map]
  exact (List.map_congr_left fun x _ => (s.part part).region_fields x).trans (List.map_id _)

theorem State.keyGo_refused (h : (s.part part).keys.toNat.testBit (fieldOf s.window.block 0 1) = false) : s.keyGo part = s.endCommand 2 := by
  rw [State.keyGo]
  exact if_neg (by rw [h]; exact Bool.false_ne_true)
theorem State.keyGo_loads (hp : part < 4) (h : (s.part part).keys.toNat.testBit (fieldOf s.window.block 0 1) = true) :
    (s.keyGo part).window.status = 1 ∧
      (fieldOf s.window.block 0 1, (s.window.block.drop 8).take 64) ∈ ((s.keyGo part).part part).loaded ∧
      ∀ k ∈ (s.part part).loaded, k.1 ≠ fieldOf s.window.block 0 1 → k ∈ ((s.keyGo part).part part).loaded := by
  have hgo : s.keyGo part = (s.updPart part fun p => { p with
      loaded := (fieldOf s.window.block 0 1, (s.window.block.drop 8).take 64) :: p.loaded.filter fun k => k.1 != fieldOf s.window.block 0 1 }).endCommand 1 := by
    rw [State.keyGo]
    exact if_pos h
  rw [hgo, State.part_endCommand, State.part_updPart_same _ hp]
  exact ⟨State.status_endCommand _ 1, List.mem_cons_self, fun k hk hne => List.mem_cons_of_mem _ (List.mem_filter.mpr ⟨hk, by simpa using hne⟩)⟩
theorem fieldOf_first (b : List Byte) (h : b ≠ []) : fieldOf b 0 1 = (b.headD 0).toNat := by
  cases b with
  | nil => exact absurd rfl h
  | cons x r => simp [fieldOf, natOf]

/-! ### RESUME (R374) -/

theorem State.resumeGo_refused (h : 384 ≤ fieldOf s.window.block 0 4 ∨ (s.part part).decks.testBit (fieldOf s.window.block 0 4 / 16) = false) :
    s.resumeGo part = s.endCommand 2 := by
  rw [State.resumeGo]
  refine if_neg fun hok => ?_
  simp only [deckOf, Bool.and_eq_true, decide_eq_true_eq] at hok
  obtain hbig | hnone := h
  · exact Nat.not_lt.mpr hbig hok.1
  · rw [hnone] at hok
    exact Bool.false_ne_true hok.2
theorem State.resumeGo_resumes (hcore : fieldOf s.window.block 0 4 < 384) (hdeck : (s.part part).decks.testBit (fieldOf s.window.block 0 4 / 16) = true)
    (hgo : s.haltStalls (fieldOf s.window.block 0 4) = false) :
    s.resumeGo part = (s.resumeHalted (fieldOf s.window.block 0 4)).endCommand 1 := by
  rw [State.resumeGo]
  simp only [hcore, deckOf, hdeck, hgo, decide_true, Bool.and_self, if_true, Bool.false_eq_true, if_false]
end

/-! ### Commands that begin -/

section
variable {s : State} {part : Nat} {arg : DWord} (hfree : s.window.status ≠ 0)
include hfree
/-- A command of a module that does not run. -/
theorem next_hostCommand_berthed (hrun : s.status.getD 0 0 ≠ 1) (op n : Nat) (go : Bool → State → State) :
    Host.Outcome.next (s.hostCommand op n part arg go) = (.next ((s.openWindow op part arg n).endCommand 4) : Out) :=
  congrArg _ (State.hostCommand_berthed hfree op n go hrun)
variable (hrun : s.status.getD 0 0 = 1)
include hrun
/-- A command that starts on a module that runs. -/
theorem next_hostCommand_starts {op n : Nat} {go : Bool → State → State} (hfits : part < 4 ∧ arg.toNat + n ≤ Config.hostSize) :
    Host.Outcome.next (s.hostCommand op n part arg go) = (.next (go true (s.openWindow op part arg n)) : Out) :=
  congrArg _ (State.hostCommand_starts hfree op n go hrun hfits)
theorem next_hostCommand_starts_to {op n : Nat} {go : Bool → State → State} (hfits : part < 4 ∧ arg.toNat + n ≤ Config.hostSize) {s' : State}
    (h : go true (s.openWindow op part arg n) = s') : Host.Outcome.next (s.hostCommand op n part arg go) = (.next s' : Out) :=
  (next_hostCommand_starts hfree hrun hfits).trans (congrArg _ h)
end

/-- The timeout of a change of roles (R376). -/
theorem execRoleChangeTimeout_spec {s : State} {now d : Nat} {ds : List Nat} (hq : s.quiescing = d :: ds) (hclk : (s.deck d).clk ≤ now)
    (hreach : now / 65536 = (s.deck d).clk / 65536) (hquiet : s.quiet s.quiescing = false) :
    (now < s.window.since + 2 ^ 24 ∨ s.window.begun = true → execRoleChangeTimeout now s = .next s) ∧
    (s.window.since + 2 ^ 24 ≤ now → s.window.begun = false →
      execRoleChangeTimeout now s = .next ((s.updDeck d fun k => { k with clk := now }).endCommand 3)) := by
  have hreaches : (s.deck d).reaches now = true := by simp [Deck.reaches, hclk, hreach]
  have hexec : execRoleChangeTimeout now s = .next (if s.window.since + 2 ^ 24 ≤ now && !s.window.begun then
      (s.updDeck d fun k => { k with clk := now }).endCommand 3 else s) := by
    rw [execRoleChangeTimeout, hquiet, hq]
    simp only [hreaches, Bool.and_true, Bool.not_false]
  rw [hexec]
  constructor
  · intro h
    refine congrArg _ (if_neg fun hc => ?_)
    simp only [Bool.and_eq_true, decide_eq_true_eq, Bool.not_eq_true'] at hc
    obtain hlt | hb := h
    · exact Nat.not_le.mpr hlt hc.1
    · exact Bool.false_ne_true (hc.2.symm.trans hb)
  · intro hle hb
    exact congrArg _ (if_pos (by simp only [hle, hb, decide_true, Bool.not_false, Bool.and_self]))

end Sys2Proof.Machine

/-!
O52: each command of the host as the window starts it, role changes, and page migration.
-/
namespace Sys2Proof.Machine

section
variable {s : State} {part : Nat} {arg : DWord} (hfree : s.window.status ≠ 0) (hrun : s.status.getD 0 0 = 1)
include hfree hrun

theorem exec_unknownCommand {op : Word} (hop : op.toNat = 0 ∨ 8 < op.toNat) (hfits : part < 4 ∧ arg.toNat + 0 ≤ Config.hostSize) :
    exec (.unknownCommand op part arg) s = .next ((s.openWindow op.toNat part arg 0).endCommand 2) := by
  have hunknown : ¬(decide (1 ≤ op.toNat) && decide (op.toNat ≤ 8)) = true := by
    simp only [Bool.and_eq_true, decide_eq_true_eq]
    omega
  show execUnknownCommand op part arg s = _
  rw [execUnknownCommand, if_neg hunknown]
  exact next_hostCommand_starts hfree hrun hfits

theorem exec_sched (hfits : part < 4 ∧ arg.toNat + 8 ≤ Config.hostSize) :
    (∀ x, evImage (fun o n => s.physBytes (Config.hostBase + arg.toNat + o) n) = some x →
      ∃ s', exec (.sched part arg) s = .next s' ∧ s'.window.status = 1 ∧ (s'.part part).sched = some x ∧ (s'.part part).phase = 0) ∧
    (evImage (fun o n => s.physBytes (Config.hostBase + arg.toNat + o) n) = none →
      exec (.sched part arg) s = .next ((s.openWindow 3 part arg 8).endCommand 2)) := by
  have himage : (evImage fun o n => (s.openWindow 3 part arg 8).physBytes (Config.hostBase + (s.openWindow 3 part arg 8).window.arg.toNat + o) n) =
      evImage fun o n => s.physBytes (Config.hostBase + arg.toNat + o) n :=
    congrArg evImage (funext fun o => funext fun n => s.physBytes_window _ _ n)
  exact ⟨fun x hx => ⟨_, next_hostCommand_starts hfree hrun hfits, State.schedGo_installs hfits.1 (himage.trans hx)⟩,
    fun hx => next_hostCommand_starts_to hfree hrun hfits (State.schedGo_refused (himage.trans hx))⟩

theorem exec_fabric (hfits : part < 4 ∧ arg.toNat + 0 ≤ Config.hostSize) :
    let gs := Config.groupTable s.byteAt (Config.hostBase + arg.toNat)
    let rs := Config.redTable s.byteAt (Config.hostBase + arg.toNat)
    (64 < gs.length ∨ 16 < rs.length → exec (.fabric part arg) s = .next ((s.openWindow 4 part arg 0).endCommand 2)) ∧
    (gs.length ≤ 64 → rs.length ≤ 16 → ∃ s', exec (.fabric part arg) s = .next s' ∧ s'.window.status = 1 ∧
      (s'.part part).groups = gs.map (fun g => ⟨g.1, g.2⟩) ∧ (s'.part part).reds.map (fun r => (r.base, r.len, r.group, r.landing)) = rs) := by
  intro gs rs
  have hgs : Config.groupTable (s.openWindow 4 part arg 0).byteAt (Config.hostBase + (s.openWindow 4 part arg 0).window.arg.toNat) = gs :=
    congrArg (fun b => Config.groupTable b (Config.hostBase + arg.toNat)) (s.byteAt_window _)
  have hrs : Config.redTable (s.openWindow 4 part arg 0).byteAt (Config.hostBase + (s.openWindow 4 part arg 0).window.arg.toNat) = rs :=
    congrArg (fun b => Config.redTable b (Config.hostBase + arg.toNat)) (s.byteAt_window _)
  refine ⟨fun h => next_hostCommand_starts_to hfree hrun hfits (State.fabricGo_refused ?_), fun hg hr =>
    ⟨_, next_hostCommand_starts hfree hrun hfits, State.fabricGo_installs hfits.1 hgs hrs hg hr⟩⟩
  rw [hgs, hrs]
  exact h

theorem exec_key (hfits : part < 4 ∧ arg.toNat + 72 ≤ Config.hostSize) :
    let blk := s.physBytes (Config.hostBase + arg.toNat) 72
    let id := (blk.headD 0).toNat
    ((s.part part).keys.getLsbD id = false → exec (.key part arg) s = .next ((s.openWindow 5 part arg 72).endCommand 2)) ∧
    ((s.part part).keys.getLsbD id = true → ∃ s', exec (.key part arg) s = .next s' ∧ s'.window.status = 1 ∧
      (id, (blk.drop 8).take 64) ∈ (s'.part part).loaded ∧ ∀ k ∈ (s.part part).loaded, k.1 ≠ id → k ∈ (s'.part part).loaded) := by
  intro blk id
  have hid : fieldOf blk 0 1 = id := fieldOf_first blk (List.ne_nil_of_length_pos (by rw [State.physBytes_length]; decide))
  have hblock : (s.openWindow 5 part arg 72).window.block = blk := rfl
  refine ⟨fun h => next_hostCommand_starts_to hfree hrun hfits (State.keyGo_refused ?_), fun h => ⟨_, next_hostCommand_starts hfree hrun hfits, ?_⟩⟩
  · rw [hblock, hid]
    exact h
  · rw [← hid]
    exact State.keyGo_loads (s := s.openWindow 5 part arg 72) hfits.1 (by rw [hblock, hid]; exact h)

theorem exec_resume (hfits : part < 4 ∧ arg.toNat + 4 ≤ Config.hostSize) :
    let core := natOf (s.physBytes (Config.hostBase + arg.toNat) 4)
    ((384 ≤ core ∨ (s.part part).decks.testBit (core / 16) = false) →
      exec (.resume part arg) s = .next ((s.openWindow 6 part arg 4).endCommand 2)) ∧
    (core < 384 → (s.part part).decks.testBit (core / 16) = true → s.haltStalls core = false →
      ∃ s', exec (.resume part arg) s = .next s' ∧ s'.window.status = 1 ∧
        ∀ c i u x, s.company? c = some x → x.core = core → x.onCore = true → s.thread? c i = some u →
          u.halt ≠ none → (∀ v ∈ s.threads, v.halt ≠ none → ∃ y, v.halt = some (.frozen, y)) → s.Named →
          ∃ u', s'.thread? c i = some u' ∧ u'.halt = none ∧ ∀ q, u'.reg q = u.reg q) := by
  intro core
  have hcore : fieldOf (s.openWindow 6 part arg 4).window.block 0 4 = core := fieldOf_whole s _ 4
  have hstall (h : s.haltStalls core = false) : (s.openWindow 6 part arg 4).haltStalls core = false := (s.haltStalls_window _ core).trans h
  refine ⟨fun h => next_hostCommand_starts_to hfree hrun hfits (State.resumeGo_refused ?_), fun hlt hdeck hgo => ⟨_, next_hostCommand_starts_to hfree hrun hfits
    (State.resumeGo_resumes ?_ ?_ ?_), State.status_endCommand _ 1, ?_⟩⟩
  · rw [hcore]; exact h
  · rw [hcore]; exact hlt
  · rw [hcore]; exact hdeck
  · rw [hcore]; exact hstall hgo
  · intro c i u x hx hxcore hon hu hhalt hfrozen _
    exact State.resumeHalted_thread (s := s.openWindow 6 part arg 4) hx (hxcore.trans hcore.symm) hon hu hhalt hfrozen

theorem exec_attest (hfits : part < 4 ∧ arg.toNat + 40 ≤ Config.hostSize) :
    let blk := s.physBytes (Config.hostBase + arg.toNat) 40
    let to_ := natOf ((blk.drop 32).take 8)
    let ls : List Loc := (List.range 260).map fun i => .phys (Config.hostBase + to_ + i)
    (Config.hostSize < to_ + 260 → exec (.attest part arg) s = .next ((s.openWindow 7 part arg 40).endCommand 2)) ∧
    (to_ + 260 ≤ Config.hostSize → s.Plain ls → ∃ s', exec (.attest part arg) s = .next s' ∧ s'.window.status = 1 ∧ SameRegs s s' ∧
      s'.getLocs (ls.take 32) = blk.take 32 ∧ s'.getLocs ((ls.drop 32).take 64) = (List.range 64).map (fun k => Config.attestByte (32 + k)) ∧
      s'.getLocs ((ls.drop 132).take 64) = (List.range 64).map (fun k => Config.attestByte (132 + k)) ∧
      s'.getLocs (ls.drop 196) = (List.range 64).map (Config.signByte (s'.getLocs (ls.take 196))) ∧ s'.getLocs ((ls.drop 96).take 32) = sha256 (s.part part).block ∧
      s'.getLocs ((ls.drop 128).take 4) = bytesOf 4 s.roleMask ∧ ∀ z, z.offChip = true → z ∉ ls → s'.getLoc z = s.getLoc z) := by
  intro blk to_ ls
  have hto : fieldOf (s.openWindow 7 part arg 40).window.block 32 8 = to_ := rfl
  have hlen : 32 ≤ (s.openWindow 7 part arg 40).window.block.length := by
    show 32 ≤ (s.physBytes (Config.hostBase + arg.toNat) 40).length
    rw [State.physBytes_length]
    decide
  have hsame : SameMem s (s.openWindow 7 part arg 40) := s.sameMem_window _
  refine ⟨fun h => next_hostCommand_starts_to hfree hrun hfits ?_, fun h hplain => ⟨_, next_hostCommand_starts hfree hrun hfits, ?_⟩⟩
  · rw [State.attestGo]
    exact if_pos h
  · obtain ⟨h1, h2, h3, h4, h5, h6, h7, h8, h9⟩ :=
      State.attestGo_spec (s := s.openWindow 7 part arg 40) (part := part) (ls := ls) rfl h hlen ⟨hplain.1, hplain.2.1, hplain.2.2⟩
    exact ⟨h1, SameRegs.trans (.of_threads rfl) h2, h3, h4, h5, h6, h7, h8, fun z hz hn => (h9 z hz hn).trans (hsame z hz)⟩

theorem exec_move (hfits : part < 4 ∧ arg.toNat + 0 ≤ Config.hostSize) :
    let pages := Config.pageList s.byteAt (Config.hostBase + arg.toNat)
    ((∃ x ∈ pages, ∃ e, s.walk (s.part part) x.1 x.2 = .error e) →
      exec (.move part arg) s = .next ((s.openWindow 8 part arg 0).endCommand 2)) ∧
    ((∀ x ∈ pages, ∃ y, s.walk (s.part part) x.1 x.2 = .ok y) → (s.part part).defined = false ∨ (s.part part).migok = false →
      exec (.move part arg) s = .next ((s.openWindow 8 part arg 0).endCommand 3)) ∧
    (pages = [] → (s.part part).defined = true → (s.part part).migok = true → (s.part part).moving = [] →
      exec (.move part arg) s = .next ((s.openWindow 8 part arg 0).endCommand 1)) ∧
    ((∀ x ∈ pages, ∃ y, s.walk (s.part part) x.1 x.2 = .ok y) → (s.part part).defined = true → (s.part part).migok = true → (s.part part).moving = [] →
      ((s.coolFrames (s.part part) []).length < (s.pageFrames part pages).length →
        exec (.move part arg) s = .next ((s.openWindow 8 part arg 0).endCommand 3)) ∧
      ∀ f r x xs, s.pageFrames part pages = f :: r → s.coolFrames (s.part part) [] = x :: xs → r.length ≤ xs.length →
        ∃ s' more, exec (.move part arg) s = .next s' ∧ s'.window.status = 0 ∧ (s'.part part).moving = (f, x, false) :: more ∧
          (∀ m ∈ more, m.1 ∈ r ∧ m.2.2 = false) ∧ more.length ≤ r.length) := by
  intro pages
  generalize ho : s.openWindow 8 part arg 0 = o
  have hexec {s' : State} (h : o.moveGo part true = s') : exec (.move part arg) s = .next s' := next_hostCommand_starts_to hfree hrun hfits (ho ▸ h)
  have hpages : Config.pageList o.byteAt (Config.hostBase + o.window.arg.toNat) = pages := by
    rw [← ho]
    exact congrArg (fun b => Config.pageList b (Config.hostBase + arg.toNat)) (s.byteAt_window _)
  have hpart : o.part part = s.part part := by rw [← ho]; rfl
  have hwalk (asid va : Nat) : o.walk (o.part part) asid va = s.walk (s.part part) asid va := by
    rw [hpart, ← ho]
    exact s.walk_window _ _ asid va
  have hcool : o.coolFrames (o.part part) [] = s.coolFrames (s.part part) [] := by
    rw [hpart, ← ho]
    exact s.coolFrames_window _ _ []
  have hframes : o.pageFrames part pages = s.pageFrames part pages := by
    simp only [State.pageFrames, hwalk]
  have hopen : o.window.status = 0 := by rw [← ho]; rfl
  have hmapped (h : ∀ x ∈ pages, ∃ y, s.walk (s.part part) x.1 x.2 = .ok y) : ∀ x ∈ pages, ∃ y, o.walk (o.part part) x.1 x.2 = .ok y := fun x hx => by
    rw [hwalk]
    exact h x hx
  refine ⟨fun ⟨x, hx, e, he⟩ => hexec (State.moveGo_unmapped hpages ⟨x, hx, e, (hwalk _ _).trans he⟩), fun h hno => hexec ?conflict,
    fun hnil hdef hmig hmoving => hexec ?nothing, fun h hdef hmig hmoving => ⟨fun hlt => hexec ?few, fun f r x xs hfs hxs hlen => ?begun⟩⟩
  case conflict =>
    rw [State.moveGo_mapped hpages (hmapped h), hpart]
    obtain hdef | hmig := hno
    · simp only [hdef, Bool.not_false, Bool.true_or, if_true]
    · simp only [hmig, Bool.not_false, Bool.or_true, Bool.true_or, if_true]
  case nothing =>
    rw [State.moveGo_mapped hpages (fun x hx => by rw [hnil] at hx; cases hx), hpart]
    have hnone : o.pageFrames part pages = [] := by rw [hnil]; rfl
    simp only [hdef, hmig, hnone, List.filter_nil, List.length_nil, Nat.not_lt_zero, decide_false, Bool.not_true, Bool.or_self, Bool.false_eq_true,
      if_false, State.markFrames, hpart, hmoving, List.isEmpty_nil, if_true]
  case few =>
    rw [State.moveGo_mapped hpages (hmapped h)]
    have hcool' : o.coolFrames (s.part part) [] = s.coolFrames (s.part part) [] := hpart ▸ hcool
    simp only [hframes, hcool', hpart, hmoving, List.any_nil, Bool.not_false, List.filter_true, hlt, decide_true, Bool.or_true, if_true]
  case begun =>
    obtain ⟨hw, more, hm, hmem, hmore⟩ := State.moveGo_starts hfits.1 hpages (hmapped h) (by rw [hpart]; exact hdef) (by rw [hpart]; exact hmig)
      (by rw [hpart]; exact hmoving) (hframes.trans hfs) (hcool.trans hxs) hlen
    exact ⟨_, more, hexec rfl, by rw [hw]; exact hopen, hm, hmem, hmore⟩

theorem exec_role (hfits : part < 4 ∧ arg.toNat + 4 ≤ Config.hostSize) :
    let roles := (s.part part).newRoles (natOf (s.physBytes (Config.hostBase + arg.toNat) 4))
    ((s.part part).defined = false → exec (.role part arg) s = .next ((s.openWindow 2 part arg 4).endCommand 3)) ∧
    ((s.part part).defined = true → s.rolesOk part (s.part part).decks roles = false →
      exec (.role part arg) s = .next ((s.openWindow 2 part arg 4).endCommand 2)) ∧
    ((s.part part).defined = true → s.rolesOk part (s.part part).decks roles = true →
      (s.openWindow 2 part arg 4).quiet (s.openWindow 2 part arg 4).quiescing = true →
      ∃ s', exec (.role part arg) s = .next s' ∧ s'.window.status = 1 ∧ (s'.part part).roles = roles ∧ SameRegs s s' ∧ SameMem s s') := by
  intro roles
  generalize ho : s.openWindow 2 part arg 4 = o
  have hexec {s' : State} (h : o.roleGo part true = s') : exec (.role part arg) s = .next s' := next_hostCommand_starts_to hfree hrun hfits (ho ▸ h)
  have hpart : o.part part = s.part part := by rw [← ho]; rfl
  have hroles : (o.part part).newRoles (fieldOf o.window.block 0 4) = roles := by
    rw [hpart, ← ho]
    exact congrArg _ (fieldOf_whole s _ 4)
  have hok (decks r : Nat) : o.rolesOk part decks r = s.rolesOk part decks r := by
    rw [← ho]
    exact s.rolesOk_window _ part decks r
  have hmem : SameMem s o := by rw [← ho]; exact s.sameMem_window _
  have hregs : SameRegs s o := by rw [← ho]; exact .of_threads rfl
  refine ⟨fun hdef => hexec (State.roleGo_undefined (by rw [hpart]; exact hdef)), fun hdef hr => hexec (State.roleGo_refused (by rw [hpart]; exact hdef) ?_),
    fun hdef hr hquiet => ⟨_, hexec rfl, ?_⟩⟩
  · rw [hroles, hok, hpart]
    exact hr
  · obtain ⟨h1, h2, h3, h4⟩ := State.roleGo_done hfits.1 (by rw [hpart]; exact hdef) (by rw [hroles, hok, hpart]; exact hr) hquiet
    exact ⟨h1, h2.trans hroles, hregs.trans h3, hmem.trans h4⟩

theorem exec_partition (hfits : part < 4 ∧ arg.toNat + 80 ≤ Config.hostSize) :
    let blk := s.physBytes (Config.hostBase + arg.toNat) 80
    let f (o n : Nat) : Nat := natOf ((blk.drop o).take n)
    (s.partitionRefused part blk = true → exec (.partition part arg) s = .next ((s.openWindow 1 part arg 80).endCommand 2)) ∧
    (s.partitionRefused part blk = false → s.frameRoom part blk < (s.framesLeft part blk).length →
      exec (.partition part arg) s = .next ((s.openWindow 1 part arg 80).endCommand 3)) ∧
    (s.partitionRefused part blk = false → (s.part part).defined = false →
      (∀ d, (f 0 4).testBit d → (s.ladders.all (fun l => l.deck != d) && s.pools.all (fun p => p.deck != d) &&
        s.companies.all fun c => !c.onCore || c.core / 16 != d) = true) →
      ∃ s', exec (.partition part arg) s = .next s' ∧ s'.window.status = 1 ∧ s'.part part = (s.part part).define blk ∧ SameRegs s s' ∧
        ∀ x, x ≠ part → s'.part x = s.part x) ∧
    (s.partitionRefused part blk = false → (s.part part).defined = true → f 0 4 = (s.part part).decks →
      ∃ s', exec (.partition part arg) s = .next s' ∧ s'.window.status = 1 ∧ s'.part part = (s.part part).define blk) := by
  intro blk f
  generalize ho : s.openWindow 1 part arg 80 = o
  have hexec {s' : State} (h : o.partitionGo part true = s') : exec (.partition part arg) s = .next s' := next_hostCommand_starts_to hfree hrun hfits (ho ▸ h)
  have hblock : o.window.block = blk := by rw [← ho]; rfl
  have hop : o.window.op = 1 := by rw [← ho]; rfl
  have hnum : o.window.part.toNat = part := by
    rw [← ho]
    exact (BitVec.toNat_ofNat part 32).trans (Nat.mod_eq_of_lt (by omega))
  have hparts : o.part = s.part := by rw [← ho]; rfl
  have hrefused : o.partitionRefused part o.window.block = s.partitionRefused part blk := by
    rw [hblock, ← ho]
    exact s.partitionRefused_window _ part blk
  have hroom : o.frameRoom part o.window.block = s.frameRoom part blk := by
    rw [hblock, ← ho]
    exact s.frameRoom_window _ part blk
  have hleft : o.framesLeft part o.window.block = s.framesLeft part blk := by
    rw [hblock, ← ho]
    exact s.framesLeft_window _ part blk
  have hregs : SameRegs s o := by rw [← ho]; exact .of_threads rfl
  have hladders : o.ladders = s.ladders := by rw [← ho]; rfl
  have hpools : o.pools = s.pools := by rw [← ho]; rfl
  have hcompanies : o.companies = s.companies := by rw [← ho]; rfl
  have installed (n : Nat) : (({ o with window := { o.window with since := n } } : State).installPart part blk).part part = (s.part part).define blk :=
    (State.installPart_part hfits.1 blk).trans (congrArg (fun p => Part.define p blk) (congrFun hparts part))
  refine ⟨fun h => hexec (State.partitionGo_refused (hrefused.trans h)), fun h hfew => hexec (State.partitionGo_noRoom (hrefused.trans h) ?few),
    fun h hdef hfree => ?new, fun h hdef hsame => ?same⟩
  case few => rw [hroom, hleft]; exact hfew
  case new =>
    have hquiet : o.quiet o.quiescing = true := State.quiet_of_free fun d hd => by
      have hbit := State.quiescing_new hnum hop (by rw [hparts]; exact hdef) d hd
      rw [hblock] at hbit
      rw [hladders, hpools, hcompanies]
      exact hfree d hbit
    obtain ⟨n, hn⟩ := State.partitionGo_installs (hrefused.trans h) (by rw [hparts, hdef]; rfl) hquiet
    rw [hblock] at hn
    have hset : SameRegs o { o with window := { o.window with since := n } } := .of_threads rfl
    refine ⟨_, hexec hn, rfl, installed n, hregs.trans (hset.trans (State.sameRegs_installPart blk)), fun x hx => ?_⟩
    exact (State.installPart_part_ne hx blk).trans (congrFun hparts x)
  case same =>
    have hnone : o.quiescing = [] := State.quiescing_same hnum hop (by rw [hparts]; exact hdef) (by rw [hblock, hparts]; exact hsame)
    have hgone : (o.part part).leaving o.window.block = [] := Part.leaving_same (by rw [hblock, hparts]; exact hsame)
    obtain ⟨n, hn⟩ := State.partitionGo_installs (hrefused.trans h) (by rw [hgone]; exact ite_self _) (by rw [hnone]; exact o.quiet_nil)
    rw [hblock] at hn
    exact ⟨_, hexec hn, rfl, installed n⟩
end

/-! ### Page migration by firmware (R383) -/

theorem exec_pageMigrate {s : State} {part asid : Nat} {va : DWord} {l : Leaf} (hdef : (s.part part).defined = true)
    (hmoving : (s.part part).moving = []) (hl : s.walk (s.part part) asid va.toNat = .ok l) :
    let f := l.phys va.toNat / 4096 * 4096
    let hot : Prop := ∃ d, frameSite f = some d ∧ 85 < (s.deck d).temp
    (¬hot ∨ (s.part part).migok = false ∨ l.entry / 2 ^ 48 % 4 = 1 → exec (.pageMigrate part asid va) s = .next s) ∧
    (hot → s.coolFrames (s.part part) [] = [] → exec (.pageMigrate part asid va) s = .next s) ∧
    ∀ x xs, hot → (s.part part).migok = true → l.entry / 2 ^ 48 % 4 ≠ 1 → s.coolFrames (s.part part) [] = x :: xs →
      exec (.pageMigrate part asid va) s = .next (s.markFrame part f x false) := by
  intro f hot
  have hexec : exec (.pageMigrate part asid va) s = _ := execPageMigrate_eq hdef hmoving hl
  have hhot := s.hotFrame_iff f
  rw [hexec]
  refine ⟨fun h => congrArg _ (if_neg fun hc => ?_), fun _ hcool => congrArg _ ?_, fun x xs hyes hmig hcls hcool => congrArg _ ?_⟩
  · simp only [Bool.and_eq_true, bne_iff_ne] at hc
    obtain ⟨⟨hmig, hb⟩, hcls⟩ := hc
    obtain hcold | hnomig | hkeep := h
    · exact hcold (hhot.mp hb)
    · exact Bool.false_ne_true (hnomig.symm.trans hmig)
    · exact hcls hkeep
  · have hnone : s.coolFrame part = none := by rw [State.coolFrame_eq, hcool]; rfl
    rw [hnone]
    exact ite_self s
  · have hplace : s.coolFrame part = some (x, false) := by rw [State.coolFrame_eq, hcool]; rfl
    rw [hplace]
    exact if_pos (by rw [hmig, hhot.mpr hyes, Bool.true_and, Bool.true_and, bne_iff_ne]; exact hcls)

theorem State.getLocs_endCommand (s : State) (n : Nat) (as : List Nat) : (s.endCommand n).getLocs (as.map .phys) = s.getLocs (as.map .phys) :=
  List.map_congr_left fun l hl => by
    obtain ⟨a, -, rfl⟩ := List.mem_map.mp hl
    exact s.getLoc_phys_window _ a

/-- The bytes of a frame that a command has moved. -/
theorem State.getLocs_moved {s : State} {part f x : Nat} {to_ : List Loc} (hto : to_ = (frameAddrs x 4096).map .phys) (h : s.Plain to_)
    (htables : ∀ y ∈ ((s.copyMarks f x).perform to_ (s.physBytes f 4096)).leaves part, ∀ i, i < 8 → .phys (y.leaf.at_ + i) ∉ to_) :
    ((s.moveFrame part (f, x, false)).endCommand 1).getLocs to_ = s.physBytes f 4096 := by
  rw [hto] at h htables ⊢
  rw [State.getLocs_endCommand]
  exact State.getLocs_moveFrame rfl h htables false

/-- Settles O52: every command by what it does to the state that the window opens, RESUME by the threads that each later step keeps,
page migration by what table entries leave. -/
theorem hostCommandsAndMigration : Obligations.HostCommandsAndMigration := by
  unfold Obligations.HostCommandsAndMigration
  refine ⟨fun s part arg op hfree => ?commands, ⟨fun s now d ds hq hd hclk hreach hquiet => ?timeout,
    fun s part asid va l hdef hp hmoving hl => ?migrate⟩, fun s part arg hbusy hop hpart harg hp => ⟨fun h => ?all, fun f x hm => ⟨?waits, ?one⟩⟩⟩
  case commands =>
    intro start ends blk f fits does
    refine ⟨fun hrun => ⟨next_hostCommand_berthed hfree hrun 1 80 _, next_hostCommand_berthed hfree hrun 2 4 _, next_hostCommand_berthed hfree hrun 3 8 _, next_hostCommand_berthed hfree hrun 4 0 _,
      next_hostCommand_berthed hfree hrun 5 72 _, next_hostCommand_berthed hfree hrun 6 4 _, next_hostCommand_berthed hfree hrun 7 40 _, next_hostCommand_berthed hfree hrun 8 0 _⟩,
      fun hrun => ⟨exec_unknownCommand hfree hrun, fun x hfits => (exec_sched hfree hrun hfits).1 x, fun hfits => (exec_sched hfree hrun hfits).2,
        exec_fabric hfree hrun, exec_key hfree hrun, exec_resume hfree hrun, exec_attest hfree hrun, exec_move hfree hrun, fun hfits => ?partition,
        exec_role hfree hrun⟩⟩
    case partition =>
      obtain ⟨hrefused, hroom, hnew, hsame⟩ := exec_partition hfree hrun hfits
      refine ⟨hrefused, hroom, fun h hdef hquiet => ?_, fun h hdef hdecks => ?_⟩
      · obtain ⟨s', hexec, hdone, hpart, hregs, hothers⟩ := hnew h hdef hquiet
        have hroles : (s.part part).rolesAfter (blk 80) = f 4 4 &&& f 0 4 := by
          rw [Part.rolesAfter, hdef]
          exact if_neg Bool.false_ne_true
        refine ⟨s', hexec, hdone, ?_⟩
        dsimp only
        rw [hpart]
        exact ⟨rfl, rfl, hroles, rfl, rfl, rfl, rfl, rfl, rfl, rfl, rfl, rfl, rfl, rfl, hregs, hothers⟩
      · obtain ⟨s', hexec, hdone, hpart⟩ := hsame h hdef hdecks
        have hroles : (s.part part).rolesAfter (blk 80) = (s.part part).roles := by
          rw [Part.rolesAfter, hdef]
          exact if_pos (by rw [Bool.true_and, beq_iff_eq]; exact hdecks.symm)
        refine ⟨s', hexec, hdone, ?_⟩
        dsimp only
        rw [hpart]
        exact ⟨hroles, hdecks, rfl, rfl⟩
  case timeout =>
    obtain ⟨hstays, hends⟩ := execRoleChangeTimeout_spec hq hclk hreach hquiet
    exact ⟨hstays, fun hle hb => ⟨_, hends hle hb, rfl, .of_threads rfl, State.getLoc_of_storage rfl rfl rfl, fun p => ⟨rfl, rfl⟩⟩⟩
  case migrate =>
    obtain ⟨hstays, hfull, hmarks⟩ := exec_pageMigrate hdef hmoving hl
    refine ⟨hstays, fun x hx => State.mem_coolFrames hx, hfull, fun x xs hhot hmig hcls hcool => ⟨_, hmarks x xs hhot hmig hcls hcool, ?_, ?_, ?_⟩⟩
    · rw [State.markFrame_part hp, hmoving]
      rfl
    · rw [State.markFrame_part hp]
      exact List.mem_cons_self
    · exact s.sameRegs_markFrame x false
  case all =>
    obtain ⟨hexec, hnone⟩ := execMove_completes hp hbusy (congrArg BitVec.toNat hop) hpart harg h
    exact ⟨_, hexec, rfl, hnone⟩
  case waits => exact execMove_waits hbusy (congrArg BitVec.toNat hop) hpart harg hm
  case one =>
    intro to_ s1 hfreed hplain htables
    have hnotBusy : ∀ m ∈ (s.part part).moving, s.frameBusy m.1 = false := fun m hmem => by
      rw [hm, List.mem_singleton] at hmem
      rw [hmem]
      exact hfreed
    obtain ⟨hexec, -⟩ := execMove_completes hp hbusy (congrArg BitVec.toNat hop) hpart harg hnotBusy
    refine ⟨_, hexec, State.status_endCommand _ 1, ?_⟩
    rw [State.moveFrames_one hm hfreed]
    exact State.getLocs_moved (map_phys_frameAddrs x 4096).symm hplain htables

end Sys2Proof.Machine
